-- ==== Sys2Proof/Word.lean ====
section
/-! DEFINITION. The plain types the whole model is written in: words, bytes, sides, masters and what arrives from outside. -/

namespace Sys2Proof

/-- A register or table word (R334, R338). -/
abbrev Word := BitVec 32

/-- A byte of memory or of a frame (R6). -/
abbrev Byte := BitVec 8

/-- One of the two sides of the package (R3). -/
inductive Side where
  | A
  | B
  deriving DecidableEq, Repr

/-- The other side. -/
def Side.peer : Side → Side
  | .A => .B
  | .B => .A

/-- The masters of a side's interconnect (R340). -/
inductive Master where
  | stageManager
  | cueChecker
  | host
  | dumpEngine
  | twinCopy
  | networkDma
  | blockingEngine
  deriving DecidableEq, Repr

/-- Master codes (R340). -/
def Master.code : Master → Nat
  | .stageManager => 0
  | .cueChecker => 1
  | .host => 2
  | .dumpEngine => 3
  | .twinCopy => 4
  | .networkDma => 5
  | .blockingEngine => 6

/-- The three alias windows of the register pages (R339). -/
inductive AliasKind where
  | setBits
  | clearBits
  | toggleBits
  deriving DecidableEq, Repr

/-- The write that ends a paired write (R340, R341): the complement alone, or both halves as one 64-bit host write. -/
inductive PairWrite where
  | complement (c : Word)
  | both (v c : Word)
  deriving DecidableEq, Repr

/-- The data of a write (R334): the word written, and the upper one where the write has 64 bits. -/
structure BusData where
  low : Word
  high : Word
  deriving DecidableEq, Repr

/-- A read: where, its width in bytes, and whether it comes through BAR2, whose offset `addr` then is (R338, R345). -/
structure BusRead where
  addr : Nat
  width : Nat
  bar2 : Bool
  deriving DecidableEq, Repr

/-- One housekeeping conversion: the channel, its code or reading, and whether the conversion gave a result (R315, R317). -/
structure HkReading where
  channel : Nat
  value : Int
  present : Bool
  deriving DecidableEq, Repr

/-- A PTP Sync as the servo sees it (R271): the corrected ingress timestamp, the master's time, the correction and the
peer delay, all in ns. -/
structure SyncInfo where
  port : Nat
  ingress : Int
  origin : Int
  correction : Int
  domain : Nat
  deriving DecidableEq, Repr

/-- The data set of an Announce message (R269). -/
structure AnnounceInfo where
  port : Nat
  identity : Nat
  priority1 : Nat
  clockClass : Nat
  accuracy : Nat
  variance : Nat
  priority2 : Nat
  stepsRemoved : Nat
  inaccuracy : Option Nat
  domain : Nat
  deriving DecidableEq, Repr

/-- The peer-delay exchange of one port (R269): request sent, request received, response sent, response received, the sum of the
corrections, in ns, and the PTP domain of the response. -/
structure PdelayInfo where
  port : Nat
  t1 : Int
  t2 : Int
  t3 : Int
  t4 : Int
  correction : Int
  domain : Nat
  deriving DecidableEq, Repr

/-- What one port module answered on the module bus (R385). -/
structure ModuleRead where
  module : Nat
  bytes : List Byte
  failures : Nat
  deriving DecidableEq, Repr

/-- The instructions of the test access port (R419). -/
inductive TapInstr where
  | bypass
  | idcode
  | samplePreload
  | extest
  | clamp
  deriving DecidableEq, Repr

/-- The levels of the balls that the boundary register of a die covers: its LVCMOS, Schmitt and open-drain balls and the package signals
(R405, R406, R419); `true` is high. The balls of the test access port itself are no cells of it. -/
structure BallLevels where
  ppsIn : Bool := false
  ppsOut : Bool := false
  perstN : Bool := false
  resetN : Bool := false
  intN : Bool := false
  pmbScl : Bool := false
  pmbSda : Bool := false
  pmbAlertN : Bool := false
  uartTx : Bool := false
  uartRx : Bool := false
  mbScl : Bool := false
  mbSda : Bool := false
  aliveA : Bool := false
  aliveB : Bool := false
  alive : Bool := false
  curtainN : Bool := false
  rolePref : Bool := false
  compat : Bool := false
  deriving DecidableEq, Repr

/-- A use of the test access port (R419): the instruction loaded, or TRST_N low in its place, the levels that the world gives the balls,
and the levels shifted into the boundary register, none where no data is shifted. -/
structure TapOp where
  instr : TapInstr := .idcode
  trst : Bool := false
  balls : BallLevels := {}
  shift : Option BallLevels := none
  deriving DecidableEq, Repr

/-- How the check at an armed injection point came out (R311). -/
inductive CheckOutcome where
  | passes
  | failsBoth
  | failsPrimaryInversion
  | failsPrimaryOther
  deriving DecidableEq, Repr

/-- How the boot ROM's reading of a slot goes: right, or wrong so that the check of R381 with this number fails (R381, R382). -/
inductive SlotCheck where
  | pass
  | fail (reason : Nat)
  deriving DecidableEq, Repr

/-- What a side sees of its peer in its arbitration window (R394). -/
structure ArbView where
  pulseSeen : Bool
  linkSeen : Bool
  markerLead : Bool
  message : Bool
  peerTime : Nat
  peerBeat : Nat
  /-- The eligibility that the peer's message carries: what its boot ROM found of itself and of its NVM (R393). -/
  peerEligible : Bool
  deriving DecidableEq, Repr

end Sys2Proof
end

