-- ==== Sys2Proof/Syntax.lean ====
section
/-! DEFINITION. The commands of the device: one constructor per row of spec/opcode_table.json, in the table's order. -/

namespace Sys2Proof

/-- The commands. Every command names the side it happens on, but for the shared pins and the test access port. The other
operands are what arrives from outside the side: written values, samples, frames, results of measurements. -/
inductive Instr where
  | beatBoundary (sd : Side)
  | loopWindow (sd : Side) (capacity : Nat)
  | sceneWindow (sd : Side) (heartbeat : Bool)
  | armingCutoff (sd : Side) (selfTestOk : Bool)
  | commitMarker (sd : Side)
  | heartbeatJudge (sd : Side)
  | cueFrame (sd : Side) (off port vid src : Nat) (payload : List Byte)
  | fragmentTimeout (sd : Side) (assembly : Nat)
  | cueCheck (sd : Side)
  | solve (sd : Side)
  | solveDone (sd : Side) (memoryFault : Bool)
  | solveBudget (sd : Side)
  | rehearsalWaitExpiry (sd : Side) (entry : Nat)
  | curtainSolve (sd : Side) (memoryFault : Bool)
  | trace (sd : Side) (entry : Nat)
  | arm (sd : Side) (entry : Nat)
  | curtainArm (sd : Side)
  | blankStart (sd : Side) (out : Nat)
  | blankEnd (sd : Side) (out : Nat)
  | handoverStall (sd : Side) (cell : Nat)
  | scAbort (sd : Side) (m : Master) (v : Word)
  | swCurtainReq (sd : Side) (m : Master) (v : Word)
  | curtainNAssert
  | tDegExpiry (sd : Side)
  | curtainRelease (sd : Side) (m : Master) (w : PairWrite)
  | degradedRelease (sd : Side) (m : Master) (w : PairWrite) (k1Ok k2Ok : Bool)
  | policyCommit (sd : Side) (m : Master) (w : PairWrite)
  | policyInForce (sd : Side)
  | k1Selftest (sd : Side) (ok : Bool)
  | pilotBlockEnd (sd : Side)
  | slotEnd (sd : Side) (conv slot : Nat) (raw : Option Nat) (overload : Bool)
  | bankSwitch (sd : Side)
  | slotMapSelect (sd : Side) (m : Master) (v : Word)
  | slotMapCommit (sd : Side) (m : Master) (v : Word)
  | channelSet (sd : Side) (m : Master) (v : Word)
  | manualWrite (sd : Side) (m : Master) (v : Word)
  | timerArm (sd : Side) (m : Master) (group : Nat) (v : Word)
  | timerFire (sd : Side) (dout : Nat)
  | fifoWrite (sd : Side) (m : Master) (group : Nat) (v : Word)
  | queueTick (sd : Side) (group : Nat)
  | schemeChange (sd : Side) (m : Master) (group : Nat) (v : Word)
  | parkCommit (sd : Side) (m : Master) (w : PairWrite)
  | parkApply (sd : Side)
  | rangeChange (sd : Side) (m : Master) (v : Word)
  | complianceLoss (sd : Side) (dout : Nat)
  | rmeasStart (sd : Side) (m : Master) (v : Word)
  | rmeasDone (sd : Side) (readings : List (Nat × Nat))
  | toneCommit (sd : Side) (m : Master) (v : Word)
  | overrideTake (sd : Side) (m : Master) (v : Word)
  | overrideRelease (sd : Side) (m : Master) (v : Word)
  | autotuneStart (sd : Side) (m : Master) (v : Word)
  | autotuneTimeout (sd : Side) (loop : Nat)
  | handoverRetry (sd : Side) (m : Master) (v : Word)
  | missRelease (sd : Side) (m : Master) (v : Word)
  | calReqTrim (sd : Side) (m : Master) (v : Word)
  | calReqSurvey (sd : Side) (m : Master) (v : Word)
  | calReqProbe (sd : Side) (m : Master) (v : Word)
  | calReqRound (sd : Side) (m : Master) (v : Word)
  | calPeriod (sd : Side)
  | calRunStart (sd : Side)
  | calRunEnd (sd : Side) (dout : Nat)
  | calCommit (sd : Side)
  | calStageExpire (sd : Side)
  | ageingRecord (sd : Side)
  | rigMapCommit (sd : Side) (m : Master) (w : PairWrite)
  | backgroundVerify (sd : Side)
  | tileReadRetry (sd : Side)
  | elementTableWrite (sd : Side) (m : Master) (addr : Nat) (v : Word)
  | entryRewrite (sd : Side) (addr : Nat)
  | copyRecord (sd : Side) (bytes : List Byte)
  | markerReceived (sd : Side) (bytes : List Byte) (crcOk : Bool)
  | peerPulse (sd : Side) (offset : Int) (width : Nat)
  | resignationPulse (sd : Side)
  | takeover (sd : Side)
  | fenceSensed (sd : Side) (t10ns : Nat)
  | fenceTimeout (sd : Side)
  | healthReport (sd : Side) (w0 w1 w2 w3 : Word)
  | bulkCopyStart (sd : Side)
  | bulkCopyVerified (sd : Side)
  | bulkCopyTimeout (sd : Side)
  | fencePeer (sd : Side) (m : Master) (w : PairWrite)
  | unfenceSelf (sd : Side) (m : Master) (w : PairWrite)
  | swapRequest (sd : Side) (m : Master) (w : PairWrite)
  | swapExecute (sd : Side)
  | firmwareUpdate (sd : Side) (m : Master) (w : PairWrite)
  | updateStepDone (sd : Side) (ok : Bool)
  | updateTrialEnd (sd : Side)
  | frameReceived (sd : Side) (off port : Nat) (fcsOk : Bool) (frame : List Byte)
  | egressStart (sd : Side) (off port : Nat)
  | transmitDone (sd : Side) (port : Nat) (eccOk : Bool)
  | linkChange (sd : Side) (port : Nat) (up anDone pcsSync remoteFault : Bool)
  | gateEntry (sd : Side) (port entry : Nat)
  | callSheetData (sd : Side) (m : Master) (write : Option Word)
  | callSheetChange (sd : Side) (m : Master) (v : Word)
  | callSheetSwitch (sd : Side) (port : Nat)
  | shaperConfig (sd : Side) (m : Master) (burst : Bool) (v : Word)
  | policerEnable (sd : Side) (m : Master) (v : Word)
  | addressAge (sd : Side) (index : Nat)
  | nodeForget (sd : Side) (index : Nat)
  | singlePathDetect (sd : Side) (index : Nat)
  | supervisionSend (sd : Side)
  | syncReceived (sd : Side) (info : SyncInfo)
  | announceReceived (sd : Side) (info : AnnounceInfo)
  | announceTimeout (sd : Side)
  | pdelayResponse (sd : Side) (info : PdelayInfo)
  | holdoverEntry (sd : Side)
  | ppsInEdge (sd : Side) (off : Nat)
  | ppsOutEdge (sd : Side)
  | ppsOutEnd (sd : Side)
  | clockStep (sd : Side) (m : Master) (w : PairWrite)
  | timeSnapshot (sd : Side) (m : Master) (v : Word)
  | refclkFail (sd : Side)
  | rateLimitHeld (sd : Side)
  | connConfig (sd : Side) (m : Master) (isId : Bool) (v : Word)
  | expectationExpiry (sd : Side) (conn : Nat)
  | keyLoad (sd : Side) (m : Master) (w : PairWrite)
  | keyErase (sd : Side) (m : Master) (w : PairWrite)
  | keyDataTimeout (sd : Side)
  | mailboxCue (sd : Side) (m : Master) (off : Nat) (v : Word)
  | faultEvent (sd : Side) (source : Nat) (point : Nat) (check : CheckOutcome)
  | faultWindowExpiry (sd : Side) (source : Nat)
  | classMapWrite (sd : Side) (m : Master) (w : PairWrite)
  | majorRelease (sd : Side) (m : Master) (w : PairWrite)
  | injectionArm (sd : Side) (m : Master) (v : Word)
  | injectionTimeout (sd : Side)
  | watchdogExpiry (sd : Side)
  | housekeepingRound (sd : Side) (readings : List HkReading)
  | pendingNvmWrite (sd : Side)
  | analogueTrip (sd : Side)
  | intermissionEnter (sd : Side) (m : Master) (v : Word)
  | intermissionWake (sd : Side) (m : Master) (v : Word) (cause : Nat)
  | wakeStep (sd : Side)
  | registerWrite (sd : Side) (m : Master) (addr width : Nat) (v : BusData)
  | pairTimeout (sd : Side) (page : Nat)
  | aliasWrite (sd : Side) (m : Master) (kind : AliasKind) (addr : Nat) (v : Word)
  | clearingRead (sd : Side) (m : Master) (addr : BusRead)
  | bar2Write (sd : Side) (offset : Nat) (v : Word)
  | busAccessError (sd : Side) (m : Master) (addr width : Nat) (write locked : Bool) (burst : Nat)
  | targetTimeout (sd : Side) (m : Master) (addr : Nat) (write : Bool)
  | remap (sd : Side) (m : Master) (w : PairWrite)
  | counterSnapshot (sd : Side) (m : Master) (v : Word)
  | counterClear (sd : Side) (m : Master) (v : Word)
  | liveCounterRead (sd : Side) (m : Master) (bar2 : Bool)
  | dumpEnable (sd : Side) (m : Master) (v : Word)
  | counterDump (sd : Side)
  | nvmWriteEnable (sd : Side) (m : Master) (w : PairWrite)
  | nvmProgram (sd : Side) (m : Master) (v : Word)
  | nvmProgramAbort (sd : Side) (m : Master) (v : Word)
  | nvmProgramDone (sd : Side) (ok : Bool) (pages : Nat)
  | logProgram (sd : Side)
  | hostNote (sd : Side) (m : Master) (v : Word)
  | moduleRescan (sd : Side) (m : Master) (v : Word) (reads : List ModuleRead)
  | modulePoll (sd : Side) (reads : List ModuleRead)
  | imageFrame (sd : Side) (payload : List Byte)
  | powerUp (sd : Side) (compat rolePref : Bool)
  | powerFail (sd : Side)
  | arbitration (sd : Side) (eligible : Bool) (view : ArbView)
  | arbitrationRetry (sd : Side) (eligible : Bool) (view : ArbView)
  | fenceInterlockTimeout (sd : Side)
  | firmwareStart (sd : Side) (slot0 slot1 : SlotCheck)
  | startOfService (sd : Side) (selfTestOk : Bool)
  | pinReset (sd : Side)
  | pcieReset (sd : Side)
  | curtainNDeassert
  | refclkRestored (sd : Side)
  | selfTestCycle (sd : Side) (item : Nat) (pass : Bool)
  | heaterBackgroundReading (sd : Side) (dout : Nat) (readings : List (Nat × Nat))
  | tileWriteDone (sd : Side) (ok : Bool)
  | recordWriteDone (sd : Side)
  | analogueTripRelease (sd : Side)
  | dumpRecordDone (sd : Side)
  | pdelayRequest (sd : Side)
  | tapInstruction (sd : Side) (op : TapOp)
  deriving DecidableEq, Repr

end Sys2Proof
end

