-- ==== Sys2Proof/Config.lean ====
section
/-! DEFINITION. What the manual leaves to the part or to its makers: values no rule fixes. Each is opaque, so nothing can be
proved about the value itself. -/

namespace Sys2Proof.Config

/-- The bytes of the boot ROM, by offset: they belong to the ROM revision and the manual does not give them (R351). -/
opaque bootRomByte : Nat → Byte

/-- Coordinate x of the vendor's public key `KEY_ID`, held in the boot ROM (R380). -/
opaque vendorKeyX : Nat → Nat

/-- Coordinate y of the vendor's public key `KEY_ID`, held in the boot ROM (R380). -/
opaque vendorKeyY : Nat → Nat

/-- The fuses of a side's controller die that the identity page shows, by word: grade, revisions, unique identity (R347). -/
opaque fuseWord : Side → Nat → Word

/-- The interconnect transfers of a master's engine for so many bytes of its own work, by master code: the network DMA, the cue checker and the blocking
engine, for which the manual states no number (R365). -/
opaque engineTransfers : Nat → Nat → Nat

/-- A value the manual does not state: the `n`-th one a side takes. Nothing constrains it. -/
opaque freeValue : Nat → Word

end Sys2Proof.Config
end

