-- ==== Sys2Proof/Machine/Store.lean ====
section
/-! DEFINITION. Sparse stores in one canonical form, small keyed tables, and byte-order and bit-field helpers (R6). -/

namespace Sys2Proof.Machine

/-- Reads a sparse store; an unlisted key reads as `d` gives it. -/
def Store.read {α : Type} (d : Nat → α) : List (Nat × α) → Nat → α
  | [], k => d k
  | (a, v) :: t, k => if a = k then v else Store.read d t k

/-- Enters a key in a sparse store, keys rising. -/
def Store.insert {α : Type} : List (Nat × α) → Nat → α → List (Nat × α)
  | [], k, v => [(k, v)]
  | (a, w) :: t, k, v => if k < a then (k, v) :: (a, w) :: t else (a, w) :: Store.insert t k v

/-- Writes a sparse store and keeps its canonical form: keys rise, and no entry equals what an unlisted key reads as. -/
def Store.write {α : Type} [DecidableEq α] (d : Nat → α) (l : List (Nat × α)) (k : Nat) (v : α) : List (Nat × α) :=
  let rest := l.filter (fun p => p.1 != k)
  if v = d k then rest else Store.insert rest k v

/-- The canonical form of a sparse store. -/
def Store.wf {α : Type} [DecidableEq α] (d : Nat → α) : List (Nat × α) → Bool
  | [] => true
  | (a, v) :: t => decide (v ≠ d a) && t.all (fun p => decide (a < p.1)) && Store.wf d t

/-- Looks a key up in a small table. -/
def Tab.get? {α : Type} : List (Nat × α) → Nat → Option α
  | [], _ => none
  | (a, v) :: t, k => if a = k then some v else Tab.get? t k

/-- Looks a key up, with a value for an absent key. -/
def Tab.getD {α : Type} (l : List (Nat × α)) (k : Nat) (d : α) : α := (Tab.get? l k).getD d

/-- Is the key in the table? -/
def Tab.has {α : Type} (l : List (Nat × α)) (k : Nat) : Bool := (Tab.get? l k).isSome

/-- Enters a key, keys rising. -/
def Tab.put {α : Type} : List (Nat × α) → Nat → α → List (Nat × α)
  | [], k, v => [(k, v)]
  | (a, w) :: t, k, v =>
    if k < a then (k, v) :: (a, w) :: t
    else if a = k then (k, v) :: t
    else (a, w) :: Tab.put t k v

/-- Removes a key. -/
def Tab.del {α : Type} (l : List (Nat × α)) (k : Nat) : List (Nat × α) := l.filter (fun p => p.1 != k)

/-- Enters a number in a rising list without repeats. -/
def insertNat (k : Nat) : List Nat → List Nat
  | [] => [k]
  | a :: t => if k < a then k :: a :: t else if k = a then a :: t else a :: insertNat k t

/-- Removes a number from a list. -/
def dropNat (k : Nat) (l : List Nat) : List Nat := l.filter (fun x => x != k)

/-- The `w` bits of `n` from bit `lo`. -/
def bits (n lo w : Nat) : Nat := n / 2 ^ lo % 2 ^ w

/-- Bit `i` of `n`. -/
def bitAt (n i : Nat) : Bool := n / 2 ^ i % 2 == 1

/-- `n` with its `w` bits from bit `lo` replaced. -/
def putBits (n lo w v : Nat) : Nat := n % 2 ^ lo + v % 2 ^ w * 2 ^ lo + n / 2 ^ (lo + w) * 2 ^ (lo + w)

/-- A `w`-bit field read as a two's-complement number. -/
def signed (n w : Nat) : Int := if n < 2 ^ (w - 1) then (n : Int) else (n : Int) - (2 ^ w : Nat)

/-- A number as a `w`-bit two's-complement field. -/
def unsignedOf (i : Int) (w : Nat) : Nat := (i % (2 ^ w : Nat)).toNat

/-- `n` bytes, the least significant first (R6: memory, registers and element tables). -/
def leBytes : Nat → Nat → List Byte
  | 0, _ => []
  | n + 1, v => BitVec.ofNat 8 v :: leBytes n (v / 256)

/-- The number that bytes spell, the least significant first. -/
def leNat : List Byte → Nat
  | [] => 0
  | b :: t => b.toNat + 256 * leNat t

/-- The number that bytes spell, the most significant first (R6: network frames). -/
def beNat (l : List Byte) : Nat := l.foldl (fun a b => a * 256 + b.toNat) 0

/-- `n` bytes, the most significant first. -/
def beBytes (n v : Nat) : List Byte := (leBytes n v).reverse

/-- `n` bytes of a list from an offset; bytes past its end read as 0. -/
def slice (l : List Byte) (off n : Nat) : List Byte :=
  (l.drop off).take n ++ List.replicate (n - ((l.drop off).take n).length) 0

/-- `k` records of `n` bytes from the front of a list. -/
def records (n : Nat) : Nat → List Byte → List (List Byte)
  | 0, _ => []
  | k + 1, l => l.take n :: records n k (l.drop n)

/-- A value held within bounds. -/
def clampNat (lo hi v : Nat) : Nat := if v < lo then lo else if hi < v then hi else v

/-- A signed value held within bounds. -/
def clampInt (lo hi v : Int) : Int := if v < lo then lo else if hi < v then hi else v

/-- Division with the result rounded to the nearest integer, halves away from zero. -/
def divNearest (a : Int) (b : Nat) : Int :=
  if b = 0 then 0
  else if 0 ≤ a then (2 * a + b) / (2 * b) else -((2 * (-a) + b) / (2 * b))

/-- Division rounding toward zero (R9: integer division unless the text says otherwise). -/
def divTrunc (a b : Int) : Int := Int.tdiv a b

/-- A list of numbers, rising. -/
def sortNat : List Nat → List Nat
  | [] => []
  | a :: t => ins a (sortNat t)
where
  ins (k : Nat) : List Nat → List Nat
  | [] => [k]
  | a :: t => if k ≤ a then k :: a :: t else a :: ins k t

/-- A list of integers, rising. -/
def sortInt : List Int → List Int
  | [] => []
  | a :: t => ins a (sortInt t)
where
  ins (k : Int) : List Int → List Int
  | [] => [k]
  | a :: t => if k ≤ a then k :: a :: t else a :: ins k t

/-- The median of a list: the middle element, the lower of the two middle ones for an even count, 0 for an empty list. -/
def medianNat (l : List Nat) : Nat := (sortNat l).getD ((l.length - 1) / 2) 0

end Sys2Proof.Machine
end

