-- ==== Sys2Proof/Machine/Fields.lean ====
section
/-! DEFINITION. The register fields of the manual's register tables: where each field lies, its access code and its reset
value (R7, R9). One definition per field, named REGISTER.FIELD as the manual writes it; a numbered family of registers
(MI_SMAP0 to MI_SMAP15) is one name, and the member is selected with `Fld.nth`. The rows of all pages stand in `fieldRows`. -/

namespace Sys2Proof.Machine

/-- A register field: `key` is page × 0x1000 + offset, `lo` its lowest bit, `w` its width (R334, R6). -/
structure Fld where
  key : Nat
  lo : Nat
  w : Nat
  deriving DecidableEq, Repr

/-- Member `i` of a numbered register family: registers 4 bytes apart, within their page. -/
def Fld.nth (f : Fld) (i : Nat) : Fld := { f with key := f.key / 0x1000 * 0x1000 + (f.key % 0x1000 + 4 * i) % 0x1000 }

/-- Access codes (R7). -/
inductive Acc where
  | rw
  | ro
  | rc
  | w1c
  | wo
  | pw
  deriving DecidableEq, Repr

/-- One row of a register table: the field, the number of registers of the family, the access, whether the field is voted
(tv), and the reset value. -/
structure FldRow where
  fld : Fld
  count : Nat
  acc : Acc
  voted : Bool
  reset : Nat
  deriving DecidableEq, Repr

/-! ### The page header (R336), at offsets 0x000 to 0x03C of every page. The keys are offsets. -/

def PAGE_ID.PAGE : Fld := ⟨0x000, 0, 8⟩
def PAGE_ID.TYPE : Fld := ⟨0x000, 8, 8⟩
def PAGE_ID.VERSION : Fld := ⟨0x000, 16, 8⟩
def PAGE_CTRL.USER_OK : Fld := ⟨0x004, 0, 1⟩
def PAGE_STAT.TV_ERR : Fld := ⟨0x008, 0, 1⟩
def PAGE_STAT.ACC_ERR : Fld := ⟨0x008, 1, 1⟩
def EVT_RAW.EVT : Fld := ⟨0x00C, 0, 32⟩
def EVT_EN.EN : Fld := ⟨0x010, 0, 32⟩
def EVT_PEND.PEND : Fld := ⟨0x014, 0, 32⟩
def PAGE_LOCK.STATE : Fld := ⟨0x018, 0, 2⟩
def PAGE_LOCK.OFFSET : Fld := ⟨0x018, 2, 10⟩
def PAGE_LOCK.REASON : Fld := ⟨0x018, 12, 4⟩
def PAGE_LOCK.MASTER : Fld := ⟨0x018, 16, 4⟩
def PAGE_LOCK.LEFT : Fld := ⟨0x018, 20, 5⟩

/-- A header field of a page. -/
def Fld.onPage (f : Fld) (page : Nat) : Fld := { f with key := f.key + page * 0x1000 }

/-- The rows of the page header (R336); reset values of PAGE_ID are computed from the page. -/
def headerRows : List FldRow := [
  ⟨PAGE_ID.PAGE, 1, .ro, false, 0⟩, ⟨PAGE_ID.TYPE, 1, .ro, false, 0⟩, ⟨PAGE_ID.VERSION, 1, .ro, false, 2⟩,
  ⟨PAGE_CTRL.USER_OK, 1, .rw, false, 0⟩, ⟨PAGE_STAT.TV_ERR, 1, .w1c, false, 0⟩, ⟨PAGE_STAT.ACC_ERR, 1, .w1c, false, 0⟩,
  ⟨EVT_RAW.EVT, 1, .w1c, false, 0⟩, ⟨EVT_EN.EN, 1, .rw, false, 0⟩, ⟨EVT_PEND.PEND, 1, .ro, false, 0⟩,
  ⟨PAGE_LOCK.STATE, 1, .ro, false, 0⟩, ⟨PAGE_LOCK.OFFSET, 1, .ro, false, 0⟩, ⟨PAGE_LOCK.REASON, 1, .ro, false, 0⟩,
  ⟨PAGE_LOCK.MASTER, 1, .ro, false, 0⟩, ⟨PAGE_LOCK.LEFT, 1, .ro, false, 0⟩]

/-! ### Page 0x00 (R347) -/

def ID_PART.NUMBER : Fld := ⟨0x00040, 0, 16⟩
def ID_PART.GRADE : Fld := ⟨0x00040, 16, 4⟩
def ID_REV.DIE : Fld := ⟨0x00044, 0, 8⟩
def ID_REV.ROM : Fld := ⟨0x00044, 8, 8⟩
def ID_STRAP.COMPAT : Fld := ⟨0x00048, 0, 1⟩
def ID_STRAP.ROLE_PREF : Fld := ⟨0x00048, 1, 1⟩
def ID_STRAP.SIDE : Fld := ⟨0x00048, 2, 1⟩
def ID_UID_LO.UID : Fld := ⟨0x0004C, 0, 32⟩
def ID_UID_HI.UID : Fld := ⟨0x00050, 0, 32⟩

/-- Rows of page 0x00. -/
def rowsPage00a : List FldRow := [
  ⟨ID_PART.NUMBER, 1, .ro, false, 38162⟩,
  ⟨ID_PART.GRADE, 1, .ro, false, 0⟩,
  ⟨ID_REV.DIE, 1, .ro, false, 0⟩,
  ⟨ID_REV.ROM, 1, .ro, false, 0⟩,
  ⟨ID_STRAP.COMPAT, 1, .ro, false, 0⟩,
  ⟨ID_STRAP.ROLE_PREF, 1, .ro, false, 0⟩,
  ⟨ID_STRAP.SIDE, 1, .ro, false, 0⟩,
  ⟨ID_UID_LO.UID, 1, .ro, false, 0⟩,
  ⟨ID_UID_HI.UID, 1, .ro, false, 0⟩]

/-! ### Page 0x01 (R402) -/

def CK_STAT.PLL_CORE : Fld := ⟨0x01040, 0, 1⟩
def CK_STAT.PLL_SYS : Fld := ⟨0x01040, 1, 1⟩
def CK_STAT.PLL_TIME : Fld := ⟨0x01040, 2, 1⟩
def CK_STAT.RAILS_OK : Fld := ⟨0x01040, 3, 1⟩
def CK_STAT.PD_LINK : Fld := ⟨0x01040, 4, 1⟩
def CK_STAT.STAGE : Fld := ⟨0x01040, 8, 3⟩
def CK_STAT.SERVICE : Fld := ⟨0x01040, 11, 1⟩
def CK_RST_CAUSE.CAUSE : Fld := ⟨0x01044, 0, 3⟩
def CK_RST_CAUSE.COUNT : Fld := ⟨0x01044, 8, 8⟩
def CK_RST_CAUSE.BEAT : Fld := ⟨0x01044, 16, 16⟩
def CK_VIN.VIN : Fld := ⟨0x01048, 0, 16⟩
def CK_VIN.LOW : Fld := ⟨0x01048, 16, 1⟩
def CK_VIN.HIGH : Fld := ⟨0x01048, 17, 1⟩
def CK_ARB.DECISION : Fld := ⟨0x0104C, 0, 2⟩
def CK_ARB.ROW : Fld := ⟨0x0104C, 2, 3⟩
def CK_ARB.PULSE_SEEN : Fld := ⟨0x0104C, 5, 1⟩
def CK_ARB.LINK_SEEN : Fld := ⟨0x0104C, 6, 1⟩
def CK_ARB.PEER_ELIG : Fld := ⟨0x0104C, 7, 1⟩
def CK_ARB.RANK : Fld := ⟨0x0104C, 8, 2⟩
def CK_ARB.PEER_RANK : Fld := ⟨0x0104C, 10, 2⟩
def CK_ARB.PREFERRED : Fld := ⟨0x0104C, 12, 1⟩
def CK_START_T.PARK_US : Fld := ⟨0x01050, 0, 16⟩
def CK_START_T.SERVICE_MS : Fld := ⟨0x01050, 16, 16⟩
def CK_CTRL.SSC_EN : Fld := ⟨0x01054, 0, 1⟩

/-- Rows of page 0x01. -/
def rowsPage01a : List FldRow := [
  ⟨CK_STAT.PLL_CORE, 1, .ro, false, 0⟩,
  ⟨CK_STAT.PLL_SYS, 1, .ro, false, 0⟩,
  ⟨CK_STAT.PLL_TIME, 1, .ro, false, 0⟩,
  ⟨CK_STAT.RAILS_OK, 1, .ro, false, 0⟩,
  ⟨CK_STAT.PD_LINK, 1, .ro, false, 0⟩,
  ⟨CK_STAT.STAGE, 1, .ro, false, 0⟩,
  ⟨CK_STAT.SERVICE, 1, .ro, false, 0⟩,
  ⟨CK_RST_CAUSE.CAUSE, 1, .ro, false, 1⟩,
  ⟨CK_RST_CAUSE.COUNT, 1, .ro, false, 0⟩,
  ⟨CK_RST_CAUSE.BEAT, 1, .ro, false, 0⟩,
  ⟨CK_VIN.VIN, 1, .ro, false, 0⟩,
  ⟨CK_VIN.LOW, 1, .ro, false, 0⟩,
  ⟨CK_VIN.HIGH, 1, .ro, false, 0⟩,
  ⟨CK_ARB.DECISION, 1, .ro, false, 0⟩,
  ⟨CK_ARB.ROW, 1, .ro, false, 0⟩,
  ⟨CK_ARB.PULSE_SEEN, 1, .ro, false, 0⟩,
  ⟨CK_ARB.LINK_SEEN, 1, .ro, false, 0⟩,
  ⟨CK_ARB.PEER_ELIG, 1, .ro, false, 0⟩,
  ⟨CK_ARB.RANK, 1, .ro, false, 0⟩,
  ⟨CK_ARB.PEER_RANK, 1, .ro, false, 0⟩,
  ⟨CK_ARB.PREFERRED, 1, .ro, false, 0⟩,
  ⟨CK_START_T.PARK_US, 1, .ro, false, 0⟩,
  ⟨CK_START_T.SERVICE_MS, 1, .ro, false, 0⟩,
  ⟨CK_CTRL.SSC_EN, 1, .rw, false, 1⟩]

/-! ### Page 0x02 (R370) -/

def BX_REMAP.SRAM : Fld := ⟨0x02040, 0, 1⟩
def BX_REMAP_N.COMPL : Fld := ⟨0x02044, 0, 32⟩
def BX_CTRL.REMAP_LOCK : Fld := ⟨0x02048, 0, 1⟩
def BX_CTRL.AGE_EN : Fld := ⟨0x02048, 1, 1⟩
def BX_CTRL.AGE_N : Fld := ⟨0x02048, 8, 4⟩
def BX_STAT.REMAPPED : Fld := ⟨0x0204C, 0, 1⟩
def BX_ERR_ADDR.ADDR : Fld := ⟨0x02050, 0, 32⟩
def BX_ERR_INFO.MASTER : Fld := ⟨0x02054, 0, 4⟩
def BX_ERR_INFO.TARGET : Fld := ⟨0x02054, 4, 3⟩
def BX_ERR_INFO.KIND : Fld := ⟨0x02054, 7, 3⟩
def BX_ERR_INFO.WRITE : Fld := ⟨0x02054, 10, 1⟩
def BX_PRIO.PRIO : Fld := ⟨0x02060, 0, 28⟩
def BX_PARK.MASTER : Fld := ⟨0x02080, 0, 28⟩
def BX_ECC_SRAM.CORR : Fld := ⟨0x02084, 0, 16⟩
def BX_ECC_SRAM.UNCORR : Fld := ⟨0x02084, 16, 16⟩
def BX_ECC_ET.CORR : Fld := ⟨0x02088, 0, 16⟩
def BX_ECC_ET.UNCORR : Fld := ⟨0x02088, 16, 16⟩

/-- Rows of page 0x02. -/
def rowsPage02a : List FldRow := [
  ⟨BX_REMAP.SRAM, 1, .pw, false, 0⟩,
  ⟨BX_REMAP_N.COMPL, 1, .wo, false, 0⟩,
  ⟨BX_CTRL.REMAP_LOCK, 1, .rw, false, 0⟩,
  ⟨BX_CTRL.AGE_EN, 1, .rw, false, 1⟩,
  ⟨BX_CTRL.AGE_N, 1, .rw, false, 8⟩,
  ⟨BX_STAT.REMAPPED, 1, .ro, false, 0⟩,
  ⟨BX_ERR_ADDR.ADDR, 1, .ro, false, 0⟩,
  ⟨BX_ERR_INFO.MASTER, 1, .ro, false, 0⟩,
  ⟨BX_ERR_INFO.TARGET, 1, .ro, false, 0⟩,
  ⟨BX_ERR_INFO.KIND, 1, .ro, false, 0⟩,
  ⟨BX_ERR_INFO.WRITE, 1, .ro, false, 0⟩,
  ⟨BX_PRIO.PRIO, 7, .rw, false, 0⟩,
  ⟨BX_PARK.MASTER, 1, .rw, false, 72376864⟩,
  ⟨BX_ECC_SRAM.CORR, 1, .rc, false, 0⟩,
  ⟨BX_ECC_SRAM.UNCORR, 1, .rc, false, 0⟩,
  ⟨BX_ECC_ET.CORR, 1, .rc, false, 0⟩,
  ⟨BX_ECC_ET.UNCORR, 1, .rc, false, 0⟩]

/-! ### Page 0x03 (R314) -/

def FC_STAT.MAJOR : Fld := ⟨0x03040, 0, 1⟩
def FC_STAT.SAFE : Fld := ⟨0x03040, 1, 1⟩
def FC_STAT.RESIGN_PEND : Fld := ⟨0x03040, 2, 1⟩
def FC_STAT.INJ_ARMED : Fld := ⟨0x03040, 3, 1⟩
def FC_LAST.SOURCE : Fld := ⟨0x03044, 0, 8⟩
def FC_LAST.CLASS : Fld := ⟨0x03044, 8, 2⟩
def FC_LAST.INJ : Fld := ⟨0x03044, 10, 1⟩
def FC_LAST.SAFE : Fld := ⟨0x03044, 11, 1⟩
def FC_LAST.BEAT : Fld := ⟨0x03044, 16, 16⟩
def FC_MAJ.SOURCE : Fld := ⟨0x03048, 0, 8⟩
def FC_MAJ.COUNT : Fld := ⟨0x03048, 8, 8⟩
def FC_MAJ.BEAT : Fld := ⟨0x03048, 16, 16⟩
def FC_SEL.SOURCE : Fld := ⟨0x03050, 0, 8⟩
def FC_MAP.CLASS : Fld := ⟨0x03054, 0, 2⟩
def FC_MAP.WUNIT : Fld := ⟨0x03054, 2, 1⟩
def FC_MAP.N : Fld := ⟨0x03054, 8, 8⟩
def FC_MAP.W : Fld := ⟨0x03054, 16, 16⟩
def FC_MAP_N.COMPL : Fld := ⟨0x03058, 0, 32⟩
def FC_SCNT.COUNT : Fld := ⟨0x0305C, 0, 8⟩
def FC_SCNT.LEFT : Fld := ⟨0x0305C, 16, 16⟩
def FC_STOTAL.EVENTS : Fld := ⟨0x03060, 0, 32⟩
def FC_MAP_CRC.CRC : Fld := ⟨0x03064, 0, 32⟩
def FC_REL.GO : Fld := ⟨0x03068, 0, 1⟩
def FC_REL_N.COMPL : Fld := ⟨0x0306C, 0, 32⟩
def FC_REL_STAT.RESULT : Fld := ⟨0x03070, 0, 2⟩
def FC_REL_STAT.REASON : Fld := ⟨0x03070, 2, 4⟩
def FC_INT_EN0.PAGE : Fld := ⟨0x03078, 0, 32⟩
def FC_INT_EN1.PAGE : Fld := ⟨0x0307C, 0, 18⟩
def FC_INT_SRC0.PAGE : Fld := ⟨0x03080, 0, 32⟩
def FC_INT_SRC1.PAGE : Fld := ⟨0x03084, 0, 18⟩
def FC_INT_CTRL.PIN_EN : Fld := ⟨0x03088, 0, 1⟩
def FC_INT_CTRL.MSI_EN : Fld := ⟨0x03088, 1, 1⟩
def FC_INJ.POINT : Fld := ⟨0x03090, 0, 8⟩
def FC_INJ.COUNT : Fld := ⟨0x03090, 8, 8⟩
def FC_INJ.REACT : Fld := ⟨0x03090, 16, 1⟩
def FC_INJ.GO : Fld := ⟨0x03090, 31, 1⟩
def FC_INJ_STAT.RESULT : Fld := ⟨0x03094, 0, 2⟩
def FC_INJ_STAT.REASON : Fld := ⟨0x03094, 2, 2⟩
def FC_INJ_STAT.LEFT : Fld := ⟨0x03094, 8, 8⟩
def FC_INJ_STAT.INJ : Fld := ⟨0x03094, 16, 8⟩
def FC_INJ_STAT.REAL : Fld := ⟨0x03094, 24, 8⟩

/-- Rows of page 0x03. -/
def rowsPage03a : List FldRow := [
  ⟨FC_STAT.MAJOR, 1, .ro, true, 0⟩,
  ⟨FC_STAT.SAFE, 1, .ro, true, 0⟩,
  ⟨FC_STAT.RESIGN_PEND, 1, .ro, false, 0⟩,
  ⟨FC_STAT.INJ_ARMED, 1, .ro, false, 0⟩,
  ⟨FC_LAST.SOURCE, 1, .ro, false, 0⟩,
  ⟨FC_LAST.CLASS, 1, .ro, false, 0⟩,
  ⟨FC_LAST.INJ, 1, .ro, false, 0⟩,
  ⟨FC_LAST.SAFE, 1, .ro, false, 0⟩,
  ⟨FC_LAST.BEAT, 1, .ro, false, 0⟩,
  ⟨FC_MAJ.SOURCE, 1, .ro, false, 0⟩,
  ⟨FC_MAJ.COUNT, 1, .ro, false, 0⟩,
  ⟨FC_MAJ.BEAT, 1, .ro, false, 0⟩,
  ⟨FC_SEL.SOURCE, 1, .rw, false, 0⟩,
  ⟨FC_MAP.CLASS, 1, .pw, true, 0⟩,
  ⟨FC_MAP.WUNIT, 1, .pw, true, 0⟩,
  ⟨FC_MAP.N, 1, .pw, true, 0⟩,
  ⟨FC_MAP.W, 1, .pw, true, 0⟩,
  ⟨FC_MAP_N.COMPL, 1, .wo, false, 0⟩,
  ⟨FC_SCNT.COUNT, 1, .ro, false, 0⟩,
  ⟨FC_SCNT.LEFT, 1, .ro, false, 0⟩,
  ⟨FC_STOTAL.EVENTS, 1, .rc, false, 0⟩,
  ⟨FC_MAP_CRC.CRC, 1, .ro, false, 0⟩,
  ⟨FC_REL.GO, 1, .pw, false, 0⟩,
  ⟨FC_REL_N.COMPL, 1, .wo, false, 0⟩,
  ⟨FC_REL_STAT.RESULT, 1, .ro, false, 0⟩,
  ⟨FC_REL_STAT.REASON, 1, .ro, false, 0⟩,
  ⟨FC_INT_EN0.PAGE, 1, .rw, false, 0⟩,
  ⟨FC_INT_EN1.PAGE, 1, .rw, false, 0⟩,
  ⟨FC_INT_SRC0.PAGE, 1, .ro, false, 0⟩,
  ⟨FC_INT_SRC1.PAGE, 1, .ro, false, 0⟩,
  ⟨FC_INT_CTRL.PIN_EN, 1, .rw, false, 0⟩,
  ⟨FC_INT_CTRL.MSI_EN, 1, .rw, false, 0⟩,
  ⟨FC_INJ.POINT, 1, .wo, false, 0⟩,
  ⟨FC_INJ.COUNT, 1, .wo, false, 0⟩,
  ⟨FC_INJ.REACT, 1, .wo, false, 0⟩,
  ⟨FC_INJ.GO, 1, .wo, false, 0⟩,
  ⟨FC_INJ_STAT.RESULT, 1, .ro, false, 0⟩,
  ⟨FC_INJ_STAT.REASON, 1, .ro, false, 0⟩,
  ⟨FC_INJ_STAT.LEFT, 1, .ro, false, 0⟩,
  ⟨FC_INJ_STAT.INJ, 1, .ro, false, 0⟩,
  ⟨FC_INJ_STAT.REAL, 1, .ro, false, 0⟩]

/-! ### Page 0x04 (R333) -/

def TH_LIM.WARN : Fld := ⟨0x04040, 0, 8⟩
def TH_LIM.THROTTLE : Fld := ⟨0x04040, 8, 8⟩
def TH_LIM.SHUT : Fld := ⟨0x04040, 16, 8⟩
def TH_LIM.STEP_DT : Fld := ⟨0x04040, 24, 4⟩
def TH_TILE.WARN : Fld := ⟨0x04044, 0, 8⟩
def TH_TILE.LIM : Fld := ⟨0x04044, 8, 8⟩
def TH_TILE.EN : Fld := ⟨0x04044, 16, 1⟩
def TH_STAT.STEP : Fld := ⟨0x04048, 0, 2⟩
def TH_STAT.WARN : Fld := ⟨0x04048, 2, 1⟩
def TH_STAT.FORCED_T3 : Fld := ⟨0x04048, 3, 1⟩
def TH_STAT.HOLD : Fld := ⟨0x04048, 4, 1⟩
def TH_STAT.TILE_WARN : Fld := ⟨0x04048, 5, 1⟩
def TH_STAT.TILE_LIM : Fld := ⟨0x04048, 6, 1⟩
def TH_STAT.NVM_OK : Fld := ⟨0x04048, 7, 1⟩
def TH_STAT.SHUTDOWN : Fld := ⟨0x04048, 8, 1⟩
def TH_STAT.TMAX : Fld := ⟨0x04048, 16, 16⟩
def TH_HOT.CHANNEL : Fld := ⟨0x0404C, 0, 5⟩
def TH_HOT.SUBST : Fld := ⟨0x0404C, 5, 1⟩
def TH_FAIL0.SENSOR : Fld := ⟨0x04050, 0, 28⟩
def TH_FAIL0.NVM : Fld := ⟨0x04050, 28, 1⟩
def TH_FAIL1.LINE : Fld := ⟨0x04054, 0, 32⟩
def TH_SEL.CHANNEL : Fld := ⟨0x04058, 0, 7⟩
def TH_VAL.VALUE : Fld := ⟨0x0405C, 0, 16⟩
def TH_VAL.VALID : Fld := ⟨0x0405C, 16, 1⟩
def TH_VAL.SUBST : Fld := ⟨0x0405C, 17, 1⟩
def TH_TILE_T.MEAN : Fld := ⟨0x04060, 0, 16⟩
def TH_TILE_T.MAX : Fld := ⟨0x04060, 16, 16⟩
def TH_INT.ENTER : Fld := ⟨0x04070, 0, 1⟩
def TH_INT.WAKE : Fld := ⟨0x04070, 1, 1⟩
def TH_INT.GO : Fld := ⟨0x04070, 31, 1⟩
def TH_INT_STAT.STATE : Fld := ⟨0x04074, 0, 2⟩
def TH_INT_STAT.RESULT : Fld := ⟨0x04074, 2, 2⟩
def TH_INT_STAT.REASON : Fld := ⟨0x04074, 4, 4⟩
def TH_INT_STAT.WAKE_CAUSE : Fld := ⟨0x04074, 8, 2⟩
def TH_INT_STAT.WAKE_BEATS : Fld := ⟨0x04074, 10, 6⟩
def TH_CNT.THR_ROUNDS : Fld := ⟨0x04078, 0, 16⟩
def TH_CNT.FAILS : Fld := ⟨0x04078, 16, 16⟩

/-- Rows of page 0x04. -/
def rowsPage04a : List FldRow := [
  ⟨TH_LIM.WARN, 1, .rw, false, 105⟩,
  ⟨TH_LIM.THROTTLE, 1, .rw, false, 115⟩,
  ⟨TH_LIM.SHUT, 1, .rw, false, 125⟩,
  ⟨TH_LIM.STEP_DT, 1, .rw, false, 3⟩,
  ⟨TH_TILE.WARN, 1, .rw, false, 70⟩,
  ⟨TH_TILE.LIM, 1, .rw, false, 85⟩,
  ⟨TH_TILE.EN, 1, .rw, false, 0⟩,
  ⟨TH_STAT.STEP, 1, .ro, false, 0⟩,
  ⟨TH_STAT.WARN, 1, .ro, false, 0⟩,
  ⟨TH_STAT.FORCED_T3, 1, .ro, false, 0⟩,
  ⟨TH_STAT.HOLD, 1, .ro, false, 0⟩,
  ⟨TH_STAT.TILE_WARN, 1, .ro, false, 0⟩,
  ⟨TH_STAT.TILE_LIM, 1, .ro, false, 0⟩,
  ⟨TH_STAT.NVM_OK, 1, .ro, false, 0⟩,
  ⟨TH_STAT.SHUTDOWN, 1, .ro, false, 0⟩,
  ⟨TH_STAT.TMAX, 1, .ro, false, 0⟩,
  ⟨TH_HOT.CHANNEL, 1, .ro, false, 0⟩,
  ⟨TH_HOT.SUBST, 1, .ro, false, 0⟩,
  ⟨TH_FAIL0.SENSOR, 1, .ro, false, 0⟩,
  ⟨TH_FAIL0.NVM, 1, .ro, false, 0⟩,
  ⟨TH_FAIL1.LINE, 1, .ro, false, 0⟩,
  ⟨TH_SEL.CHANNEL, 1, .rw, false, 0⟩,
  ⟨TH_VAL.VALUE, 1, .ro, false, 0⟩,
  ⟨TH_VAL.VALID, 1, .ro, false, 0⟩,
  ⟨TH_VAL.SUBST, 1, .ro, false, 0⟩,
  ⟨TH_TILE_T.MEAN, 1, .ro, false, 0⟩,
  ⟨TH_TILE_T.MAX, 1, .ro, false, 0⟩,
  ⟨TH_INT.ENTER, 1, .wo, false, 0⟩,
  ⟨TH_INT.WAKE, 1, .wo, false, 0⟩,
  ⟨TH_INT.GO, 1, .wo, false, 0⟩,
  ⟨TH_INT_STAT.STATE, 1, .ro, false, 0⟩,
  ⟨TH_INT_STAT.RESULT, 1, .ro, false, 0⟩,
  ⟨TH_INT_STAT.REASON, 1, .ro, false, 0⟩,
  ⟨TH_INT_STAT.WAKE_CAUSE, 1, .ro, false, 0⟩,
  ⟨TH_INT_STAT.WAKE_BEATS, 1, .ro, false, 0⟩,
  ⟨TH_CNT.THR_ROUNDS, 1, .rc, false, 0⟩,
  ⟨TH_CNT.FAILS, 1, .rc, false, 0⟩]

/-! ### Page 0x05 (R387) -/

def NV_STAT.ACTIVE : Fld := ⟨0x05040, 0, 1⟩
def NV_STAT.TRIAL : Fld := ⟨0x05040, 1, 1⟩
def NV_STAT.FALLBACK : Fld := ⟨0x05040, 2, 1⟩
def NV_STAT.FW_VER : Fld := ⟨0x05040, 16, 16⟩
def NV_WEN.EN : Fld := ⟨0x05048, 0, 1⟩
def NV_WEN_N.COMPL : Fld := ⟨0x0504C, 0, 32⟩
def NV_PROG_SRC.ADDR : Fld := ⟨0x05050, 0, 32⟩
def NV_PROG_DST.OFFSET : Fld := ⟨0x05054, 0, 25⟩
def NV_PROG_LEN.LEN : Fld := ⟨0x05058, 0, 25⟩
def NV_PROG.GO : Fld := ⟨0x0505C, 0, 1⟩
def NV_PROG.ABORT : Fld := ⟨0x0505C, 1, 1⟩
def NV_PROG_STAT.RESULT : Fld := ⟨0x05060, 0, 3⟩
def NV_PROG_STAT.REASON : Fld := ⟨0x05060, 3, 4⟩
def NV_PROG_STAT.DONE : Fld := ⟨0x05060, 7, 25⟩
def NV_LOG_WIDX.WIDX : Fld := ⟨0x05070, 0, 16⟩
def NV_LOG_SEQ.SEQ : Fld := ⟨0x05074, 0, 32⟩
def NV_LOG_STAT.BUF : Fld := ⟨0x05078, 0, 9⟩
def NV_LOG_STAT.LOST : Fld := ⟨0x05078, 16, 16⟩
def NV_IMG_ADDR.ADDR : Fld := ⟨0x05080, 0, 32⟩
def NV_IMG_LEN.LEN : Fld := ⟨0x05084, 0, 24⟩

/-- Rows of page 0x05. -/
def rowsPage05a : List FldRow := [
  ⟨NV_STAT.ACTIVE, 1, .ro, false, 0⟩,
  ⟨NV_STAT.TRIAL, 1, .ro, false, 0⟩,
  ⟨NV_STAT.FALLBACK, 1, .ro, false, 0⟩,
  ⟨NV_STAT.FW_VER, 1, .ro, false, 0⟩,
  ⟨NV_WEN.EN, 1, .pw, false, 0⟩,
  ⟨NV_WEN_N.COMPL, 1, .wo, false, 0⟩,
  ⟨NV_PROG_SRC.ADDR, 1, .rw, false, 0⟩,
  ⟨NV_PROG_DST.OFFSET, 1, .rw, false, 0⟩,
  ⟨NV_PROG_LEN.LEN, 1, .rw, false, 0⟩,
  ⟨NV_PROG.GO, 1, .wo, false, 0⟩,
  ⟨NV_PROG.ABORT, 1, .wo, false, 0⟩,
  ⟨NV_PROG_STAT.RESULT, 1, .ro, false, 0⟩,
  ⟨NV_PROG_STAT.REASON, 1, .ro, false, 0⟩,
  ⟨NV_PROG_STAT.DONE, 1, .ro, false, 0⟩,
  ⟨NV_LOG_WIDX.WIDX, 1, .ro, false, 0⟩,
  ⟨NV_LOG_SEQ.SEQ, 1, .ro, false, 0⟩,
  ⟨NV_LOG_STAT.BUF, 1, .ro, false, 0⟩,
  ⟨NV_LOG_STAT.LOST, 1, .rc, false, 0⟩,
  ⟨NV_IMG_ADDR.ADDR, 1, .rw, false, 0⟩,
  ⟨NV_IMG_LEN.LEN, 1, .rw, false, 0⟩]

/-! ### Page 0x06 (R371) -/

def PC_CTRL.FREEZE : Fld := ⟨0x06040, 0, 1⟩
def PC_CTRL.CLEAR : Fld := ⟨0x06040, 1, 1⟩
def PC_SNAP.GO : Fld := ⟨0x06044, 0, 1⟩
def PC_SEL.COUNTER : Fld := ⟨0x06048, 0, 7⟩
def PC_SEL.DIAG : Fld := ⟨0x06048, 7, 1⟩
def PC_HOLD_LO.VALUE : Fld := ⟨0x0604C, 0, 32⟩
def PC_HOLD_HI.VALUE : Fld := ⟨0x06050, 0, 16⟩
def PC_HOLD_HI.OVF : Fld := ⟨0x06050, 16, 1⟩
def PC_LIVE_LO.VALUE : Fld := ⟨0x06054, 0, 32⟩
def PC_LIVE_HI.VALUE : Fld := ⟨0x06058, 0, 16⟩
def PC_LIVE_HI.OVF : Fld := ⟨0x06058, 16, 1⟩
def PC_OVF.OVF : Fld := ⟨0x06060, 0, 32⟩
def PC_SNAP_BEAT_LO.BEATNO : Fld := ⟨0x06070, 0, 32⟩
def PC_SNAP_BEAT_HI.BEATNO : Fld := ⟨0x06074, 0, 32⟩
def PC_DUMP_CTRL.EN : Fld := ⟨0x06080, 0, 1⟩
def PC_DUMP_PERIOD.PERIOD : Fld := ⟨0x06084, 0, 20⟩
def PC_DUMP_BASE.ADDR : Fld := ⟨0x06088, 6, 26⟩
def PC_DUMP_COUNT.COUNT : Fld := ⟨0x0608C, 0, 11⟩
def PC_DUMP_STAT.WIDX : Fld := ⟨0x06090, 0, 10⟩
def PC_DUMP_STAT.WRAPPED : Fld := ⟨0x06090, 10, 1⟩
def PC_DUMP_STAT.ERR : Fld := ⟨0x06090, 11, 1⟩
def PC_DUMP_SEQ.SEQ : Fld := ⟨0x06094, 0, 32⟩

/-- Rows of page 0x06. -/
def rowsPage06a : List FldRow := [
  ⟨PC_CTRL.FREEZE, 1, .rw, false, 0⟩,
  ⟨PC_CTRL.CLEAR, 1, .wo, false, 0⟩,
  ⟨PC_SNAP.GO, 1, .wo, false, 0⟩,
  ⟨PC_SEL.COUNTER, 1, .rw, false, 0⟩,
  ⟨PC_SEL.DIAG, 1, .rw, false, 0⟩,
  ⟨PC_HOLD_LO.VALUE, 1, .ro, false, 0⟩,
  ⟨PC_HOLD_HI.VALUE, 1, .ro, false, 0⟩,
  ⟨PC_HOLD_HI.OVF, 1, .ro, false, 0⟩,
  ⟨PC_LIVE_LO.VALUE, 1, .ro, false, 0⟩,
  ⟨PC_LIVE_HI.VALUE, 1, .ro, false, 0⟩,
  ⟨PC_LIVE_HI.OVF, 1, .ro, false, 0⟩,
  ⟨PC_OVF.OVF, 4, .w1c, false, 0⟩,
  ⟨PC_SNAP_BEAT_LO.BEATNO, 1, .ro, false, 0⟩,
  ⟨PC_SNAP_BEAT_HI.BEATNO, 1, .ro, false, 0⟩,
  ⟨PC_DUMP_CTRL.EN, 1, .rw, false, 0⟩,
  ⟨PC_DUMP_PERIOD.PERIOD, 1, .rw, false, 100000⟩,
  ⟨PC_DUMP_BASE.ADDR, 1, .rw, false, 0⟩,
  ⟨PC_DUMP_COUNT.COUNT, 1, .rw, false, 16⟩,
  ⟨PC_DUMP_STAT.WIDX, 1, .ro, false, 0⟩,
  ⟨PC_DUMP_STAT.WRAPPED, 1, .ro, false, 0⟩,
  ⟨PC_DUMP_STAT.ERR, 1, .ro, false, 0⟩,
  ⟨PC_DUMP_SEQ.SEQ, 1, .ro, false, 0⟩]

/-! ### Page 0x07 (R388) -/

def HM_STAT.RUN : Fld := ⟨0x07040, 0, 1⟩
def HM_STAT.WDOG_OK : Fld := ⟨0x07040, 1, 1⟩
def HM_CMD.OP : Fld := ⟨0x07044, 0, 8⟩
def HM_CMD.GO : Fld := ⟨0x07044, 31, 1⟩
def HM_ARG.ARG : Fld := ⟨0x07048, 0, 32⟩
def HM_RSP.RESULT : Fld := ⟨0x07054, 0, 2⟩
def HM_NET.EN : Fld := ⟨0x07060, 0, 1⟩
def HM_NET.AUTO : Fld := ⟨0x07060, 1, 1⟩
def HM_NET.ETYPE : Fld := ⟨0x07060, 16, 16⟩
def HM_NET_ADDR.ADDR : Fld := ⟨0x07064, 0, 32⟩
def HM_NET_STAT.BYTES : Fld := ⟨0x07068, 0, 24⟩
def HM_NET_STAT.DONE : Fld := ⟨0x07068, 24, 1⟩
def HM_NET_STAT.ERR : Fld := ⟨0x07068, 25, 1⟩

/-- Rows of page 0x07. -/
def rowsPage07a : List FldRow := [
  ⟨HM_STAT.RUN, 1, .ro, false, 0⟩,
  ⟨HM_STAT.WDOG_OK, 1, .ro, false, 0⟩,
  ⟨HM_CMD.OP, 1, .wo, false, 0⟩,
  ⟨HM_CMD.GO, 1, .wo, false, 0⟩,
  ⟨HM_ARG.ARG, 3, .rw, false, 0⟩,
  ⟨HM_RSP.RESULT, 1, .ro, false, 0⟩,
  ⟨HM_NET.EN, 1, .rw, false, 0⟩,
  ⟨HM_NET.AUTO, 1, .rw, false, 0⟩,
  ⟨HM_NET.ETYPE, 1, .rw, false, 34998⟩,
  ⟨HM_NET_ADDR.ADDR, 1, .rw, false, 0⟩,
  ⟨HM_NET_STAT.BYTES, 1, .ro, false, 0⟩,
  ⟨HM_NET_STAT.DONE, 1, .ro, false, 0⟩,
  ⟨HM_NET_STAT.ERR, 1, .ro, false, 0⟩]

/-! ### Page 0x08 (R247) -/

def TW_ROLE.ROLE : Fld := ⟨0x08040, 0, 2⟩
def TW_ROLE.WARMTH : Fld := ⟨0x08040, 2, 2⟩
def TW_ROLE.FIT : Fld := ⟨0x08040, 4, 1⟩
def TW_ROLE.FENCED : Fld := ⟨0x08040, 5, 1⟩
def TW_ROLE.PEER_FENCED : Fld := ⟨0x08040, 6, 1⟩
def TW_ROLE.PEER_FIT : Fld := ⟨0x08040, 7, 1⟩
def TW_CTRL.AUTO_UNFENCE : Fld := ⟨0x08044, 0, 1⟩
def TW_SWAP.GO : Fld := ⟨0x08048, 0, 1⟩
def TW_SWAP_N.COMPL : Fld := ⟨0x0804C, 0, 32⟩
def TW_SWAP_STAT.RESULT : Fld := ⟨0x08050, 0, 2⟩
def TW_SWAP_STAT.REASON : Fld := ⟨0x08050, 2, 4⟩
def TW_FENCE.FENCE_PEER : Fld := ⟨0x08054, 0, 1⟩
def TW_FENCE.UNFENCE_SELF : Fld := ⟨0x08054, 1, 1⟩
def TW_FENCE_N.COMPL : Fld := ⟨0x08058, 0, 32⟩
def TW_HB_STAT.MARKER_OK : Fld := ⟨0x08060, 0, 1⟩
def TW_HB_STAT.PULSE_OK : Fld := ⟨0x08060, 1, 1⟩
def TW_HB_STAT.SILENT : Fld := ⟨0x08060, 2, 2⟩
def TW_HB_STAT.RESIGN_IN : Fld := ⟨0x08060, 4, 1⟩
def TW_HB_STAT.SKEW : Fld := ⟨0x08060, 16, 16⟩
def TW_COPY_STAT.LAST_COMMIT : Fld := ⟨0x08064, 0, 16⟩
def TW_COPY_STAT.NOCOMMIT : Fld := ⟨0x08064, 16, 5⟩
def TW_COPY_STAT.COPY_VER : Fld := ⟨0x08064, 24, 8⟩
def TW_COPY_BYTES.BYTES : Fld := ⟨0x08068, 0, 17⟩
def TW_BULK.STATE : Fld := ⟨0x0806C, 0, 2⟩
def TW_BULK.REGIONS : Fld := ⟨0x0806C, 8, 11⟩
def TW_BULK.RESENT : Fld := ⟨0x0806C, 24, 7⟩
def TW_HEALTH.REPORT : Fld := ⟨0x08070, 0, 32⟩
def TW_TAKE_STAT.BEAT : Fld := ⟨0x08080, 0, 16⟩
def TW_TAKE_STAT.CAUSE : Fld := ⟨0x08080, 16, 3⟩
def TW_TAKE_STAT.FENCE_T : Fld := ⟨0x08080, 24, 8⟩
def TW_UPD.GO : Fld := ⟨0x08088, 0, 1⟩
def TW_UPD.TRIAL : Fld := ⟨0x08088, 16, 12⟩
def TW_UPD_N.COMPL : Fld := ⟨0x0808C, 0, 32⟩
def TW_UPD_STAT.STEP : Fld := ⟨0x08090, 0, 4⟩
def TW_UPD_STAT.REASON : Fld := ⟨0x08090, 4, 4⟩
def TW_LINK.LANES : Fld := ⟨0x08094, 0, 8⟩
def TW_LINK.CRC_ERR : Fld := ⟨0x08094, 16, 16⟩
def TW_CNT.TAKEOVER : Fld := ⟨0x08098, 0, 16⟩
def TW_CNT.SWAP : Fld := ⟨0x08098, 16, 16⟩

/-- Rows of page 0x08. -/
def rowsPage08a : List FldRow := [
  ⟨TW_ROLE.ROLE, 1, .ro, true, 0⟩,
  ⟨TW_ROLE.WARMTH, 1, .ro, false, 0⟩,
  ⟨TW_ROLE.FIT, 1, .ro, false, 0⟩,
  ⟨TW_ROLE.FENCED, 1, .ro, true, 1⟩,
  ⟨TW_ROLE.PEER_FENCED, 1, .ro, true, 0⟩,
  ⟨TW_ROLE.PEER_FIT, 1, .ro, false, 0⟩,
  ⟨TW_CTRL.AUTO_UNFENCE, 1, .rw, false, 1⟩,
  ⟨TW_SWAP.GO, 1, .pw, false, 0⟩,
  ⟨TW_SWAP_N.COMPL, 1, .wo, false, 0⟩,
  ⟨TW_SWAP_STAT.RESULT, 1, .ro, false, 0⟩,
  ⟨TW_SWAP_STAT.REASON, 1, .ro, false, 0⟩,
  ⟨TW_FENCE.FENCE_PEER, 1, .pw, false, 0⟩,
  ⟨TW_FENCE.UNFENCE_SELF, 1, .pw, false, 0⟩,
  ⟨TW_FENCE_N.COMPL, 1, .wo, false, 0⟩,
  ⟨TW_HB_STAT.MARKER_OK, 1, .ro, false, 0⟩,
  ⟨TW_HB_STAT.PULSE_OK, 1, .ro, false, 0⟩,
  ⟨TW_HB_STAT.SILENT, 1, .ro, false, 0⟩,
  ⟨TW_HB_STAT.RESIGN_IN, 1, .ro, false, 0⟩,
  ⟨TW_HB_STAT.SKEW, 1, .ro, false, 0⟩,
  ⟨TW_COPY_STAT.LAST_COMMIT, 1, .ro, false, 0⟩,
  ⟨TW_COPY_STAT.NOCOMMIT, 1, .ro, false, 0⟩,
  ⟨TW_COPY_STAT.COPY_VER, 1, .ro, false, 0⟩,
  ⟨TW_COPY_BYTES.BYTES, 1, .ro, false, 0⟩,
  ⟨TW_BULK.STATE, 1, .ro, false, 0⟩,
  ⟨TW_BULK.REGIONS, 1, .ro, false, 0⟩,
  ⟨TW_BULK.RESENT, 1, .ro, false, 0⟩,
  ⟨TW_HEALTH.REPORT, 4, .ro, false, 0⟩,
  ⟨TW_TAKE_STAT.BEAT, 1, .ro, false, 0⟩,
  ⟨TW_TAKE_STAT.CAUSE, 1, .ro, false, 0⟩,
  ⟨TW_TAKE_STAT.FENCE_T, 1, .ro, false, 0⟩,
  ⟨TW_UPD.GO, 1, .pw, false, 0⟩,
  ⟨TW_UPD.TRIAL, 1, .pw, false, 60⟩,
  ⟨TW_UPD_N.COMPL, 1, .wo, false, 0⟩,
  ⟨TW_UPD_STAT.STEP, 1, .ro, false, 0⟩,
  ⟨TW_UPD_STAT.REASON, 1, .ro, false, 0⟩,
  ⟨TW_LINK.LANES, 1, .ro, false, 0⟩,
  ⟨TW_LINK.CRC_ERR, 1, .rc, false, 0⟩,
  ⟨TW_CNT.TAKEOVER, 1, .rc, false, 0⟩,
  ⟨TW_CNT.SWAP, 1, .rc, false, 0⟩]

/-! ### Page 0x09 (R225) -/

def SW_CTRL.PILOT_EN : Fld := ⟨0x09040, 0, 1⟩
def SW_CTRL.DARK_EN : Fld := ⟨0x09040, 1, 1⟩
def SW_CTRL.CELL_K : Fld := ⟨0x09040, 8, 4⟩
def SW_STAT.DEGRADED : Fld := ⟨0x09044, 0, 1⟩
def SW_STAT.DEG_CAUSE : Fld := ⟨0x09044, 1, 5⟩
def SW_STAT.CURTAIN_LATCH : Fld := ⟨0x09044, 6, 1⟩
def SW_STAT.CURTAIN_PEND : Fld := ⟨0x09044, 7, 1⟩
def SW_STAT.CURTAIN_N : Fld := ⟨0x09044, 8, 1⟩
def SW_STAT.K2_ST_OK : Fld := ⟨0x09044, 9, 1⟩
def SW_STAT.ALIVE_RUN : Fld := ⟨0x09044, 10, 1⟩
def SW_STAT.CURTAIN_TRACED : Fld := ⟨0x09044, 11, 1⟩
def SW_DEG_T.T_DEG : Fld := ⟨0x09048, 0, 12⟩
def SW_DEG_LEFT.LEFT : Fld := ⟨0x0904C, 0, 12⟩
def SW_DEG_REL.GO : Fld := ⟨0x09050, 0, 1⟩
def SW_DEG_REL_N.COMPL : Fld := ⟨0x09054, 0, 32⟩
def SW_CURTAIN_REQ.LATCH : Fld := ⟨0x09058, 0, 1⟩
def SW_CURTAIN_REQ.GO : Fld := ⟨0x09058, 31, 1⟩
def SW_CURTAIN_REL.GO : Fld := ⟨0x0905C, 0, 1⟩
def SW_CURTAIN_REL_N.COMPL : Fld := ⟨0x09060, 0, 32⟩
def SW_REL_STAT.DEG : Fld := ⟨0x09064, 0, 2⟩
def SW_REL_STAT.CUR : Fld := ⟨0x09064, 2, 2⟩
def SW_TRACE_STAT.ENTRY : Fld := ⟨0x09068, 0, 5⟩
def SW_TRACE_STAT.FAIL : Fld := ⟨0x09068, 5, 1⟩
def SW_TRACE_STAT.REASON : Fld := ⟨0x09068, 6, 4⟩
def SW_TRACE_STAT.INDEX : Fld := ⟨0x09068, 16, 13⟩
def SW_DECL.COUNT : Fld := ⟨0x0906C, 0, 13⟩
def SW_DECL.LAST_CELL : Fld := ⟨0x0906C, 16, 13⟩
def SW_DECL.LAST_VALID : Fld := ⟨0x0906C, 29, 1⟩
def SW_PILOT_CTRL.INV_MAX : Fld := ⟨0x09070, 0, 8⟩
def SW_PILOT_MIN.LEVEL : Fld := ⟨0x09074, 0, 22⟩
def SW_PILOT_DARK.LEVEL : Fld := ⟨0x09078, 0, 22⟩
def SW_PILOT_SUM.PASS : Fld := ⟨0x0907C, 0, 10⟩
def SW_PILOT_SUM.FAIL : Fld := ⟨0x0907C, 10, 10⟩
def SW_PILOT_SUM.OTHER : Fld := ⟨0x0907C, 20, 10⟩
def SW_PILOT_BLK.BLOCK : Fld := ⟨0x09080, 0, 32⟩
def SW_CNT.TRACE_FAIL : Fld := ⟨0x09084, 0, 16⟩
def SW_CNT.DECL : Fld := ⟨0x09084, 16, 16⟩

/-- Rows of page 0x09. -/
def rowsPage09a : List FldRow := [
  ⟨SW_CTRL.PILOT_EN, 1, .rw, false, 1⟩,
  ⟨SW_CTRL.DARK_EN, 1, .rw, false, 1⟩,
  ⟨SW_CTRL.CELL_K, 1, .rw, false, 8⟩,
  ⟨SW_STAT.DEGRADED, 1, .ro, true, 0⟩,
  ⟨SW_STAT.DEG_CAUSE, 1, .ro, false, 0⟩,
  ⟨SW_STAT.CURTAIN_LATCH, 1, .ro, true, 0⟩,
  ⟨SW_STAT.CURTAIN_PEND, 1, .ro, false, 0⟩,
  ⟨SW_STAT.CURTAIN_N, 1, .ro, false, 0⟩,
  ⟨SW_STAT.K2_ST_OK, 1, .ro, false, 0⟩,
  ⟨SW_STAT.ALIVE_RUN, 1, .ro, false, 0⟩,
  ⟨SW_STAT.CURTAIN_TRACED, 1, .ro, false, 0⟩,
  ⟨SW_DEG_T.T_DEG, 1, .rw, false, 60⟩,
  ⟨SW_DEG_LEFT.LEFT, 1, .ro, false, 0⟩,
  ⟨SW_DEG_REL.GO, 1, .pw, false, 0⟩,
  ⟨SW_DEG_REL_N.COMPL, 1, .wo, false, 0⟩,
  ⟨SW_CURTAIN_REQ.LATCH, 1, .wo, false, 0⟩,
  ⟨SW_CURTAIN_REQ.GO, 1, .wo, false, 0⟩,
  ⟨SW_CURTAIN_REL.GO, 1, .pw, false, 0⟩,
  ⟨SW_CURTAIN_REL_N.COMPL, 1, .wo, false, 0⟩,
  ⟨SW_REL_STAT.DEG, 1, .ro, false, 0⟩,
  ⟨SW_REL_STAT.CUR, 1, .ro, false, 0⟩,
  ⟨SW_TRACE_STAT.ENTRY, 1, .ro, false, 0⟩,
  ⟨SW_TRACE_STAT.FAIL, 1, .ro, false, 0⟩,
  ⟨SW_TRACE_STAT.REASON, 1, .ro, false, 0⟩,
  ⟨SW_TRACE_STAT.INDEX, 1, .ro, false, 0⟩,
  ⟨SW_DECL.COUNT, 1, .ro, false, 0⟩,
  ⟨SW_DECL.LAST_CELL, 1, .ro, false, 0⟩,
  ⟨SW_DECL.LAST_VALID, 1, .ro, false, 0⟩,
  ⟨SW_PILOT_CTRL.INV_MAX, 1, .rw, false, 16⟩,
  ⟨SW_PILOT_MIN.LEVEL, 1, .rw, false, 2048⟩,
  ⟨SW_PILOT_DARK.LEVEL, 1, .rw, false, 410⟩,
  ⟨SW_PILOT_SUM.PASS, 1, .ro, false, 0⟩,
  ⟨SW_PILOT_SUM.FAIL, 1, .ro, false, 0⟩,
  ⟨SW_PILOT_SUM.OTHER, 1, .ro, false, 0⟩,
  ⟨SW_PILOT_BLK.BLOCK, 1, .ro, false, 0⟩,
  ⟨SW_CNT.TRACE_FAIL, 1, .rc, false, 0⟩,
  ⟨SW_CNT.DECL, 1, .rc, false, 0⟩]

/-! ### Page 0x0A (R226, R297) -/

def CQ_STAT.RUN : Fld := ⟨0x0A040, 0, 1⟩
def CQ_STAT.ST_OK : Fld := ⟨0x0A040, 1, 1⟩
def CQ_STAT.POLICY_IN : Fld := ⟨0x0A040, 2, 1⟩
def CQ_STAT.HB_OK : Fld := ⟨0x0A040, 3, 1⟩
def CQ_POL_ADDR.ADDR : Fld := ⟨0x0A044, 0, 32⟩
def CQ_POL_LEN.LEN : Fld := ⟨0x0A048, 0, 16⟩
def CQ_POL_COMMIT.GO : Fld := ⟨0x0A04C, 0, 1⟩
def CQ_POL_COMMIT_N.COMPL : Fld := ⟨0x0A050, 0, 32⟩
def CQ_POL_STAT.RESULT : Fld := ⟨0x0A054, 0, 2⟩
def CQ_POL_STAT.REASON : Fld := ⟨0x0A054, 2, 4⟩
def CQ_POL_STAT.PINS : Fld := ⟨0x0A054, 16, 10⟩
def CQ_CNT.ADMIT : Fld := ⟨0x0A058, 0, 16⟩
def CQ_CNT.POLICY : Fld := ⟨0x0A058, 16, 16⟩
def CQ_NODE.NODE_ID : Fld := ⟨0x0A080, 0, 12⟩
def CQ_CONN_SEL.CONN : Fld := ⟨0x0A084, 0, 6⟩
def CQ_CONN_ID.ID : Fld := ⟨0x0A088, 0, 32⟩
def CQ_CONN_CFG.SRC_NODE : Fld := ⟨0x0A08C, 0, 12⟩
def CQ_CONN_CFG.EN : Fld := ⟨0x0A08C, 12, 1⟩
def CQ_CONN_CFG.AUTH : Fld := ⟨0x0A08C, 13, 1⟩
def CQ_CONN_CFG.KEY : Fld := ⟨0x0A08C, 14, 4⟩
def CQ_CONN_CFG.HOST : Fld := ⟨0x0A08C, 18, 1⟩
def CQ_CONN_CFG.NET : Fld := ⟨0x0A08C, 19, 1⟩
def CQ_CONN_CFG.ANY_OWNER : Fld := ⟨0x0A08C, 20, 1⟩
def CQ_CONN_STAT.EXPIRED : Fld := ⟨0x0A090, 0, 1⟩
def CQ_CONN_STAT.HAS_SEQ : Fld := ⟨0x0A090, 1, 1⟩
def CQ_CONN_SEQ.SEQ : Fld := ⟨0x0A094, 0, 32⟩
def CQ_CONN_LEFT.MS : Fld := ⟨0x0A098, 0, 16⟩
def CQ_SAFE_STAT.DETAIL : Fld := ⟨0x0A0A0, 0, 8⟩
def CQ_SAFE_STAT.CONN : Fld := ⟨0x0A0A0, 8, 6⟩
def CQ_SAFE_STAT.FRAME : Fld := ⟨0x0A0A0, 14, 1⟩
def CQ_SAFE_STAT.ENTRY : Fld := ⟨0x0A0A0, 16, 5⟩
def CQ_DISC_CNT.CHECK : Fld := ⟨0x0A0A4, 0, 16⟩
def CQ_DISC_CNT.AUTH : Fld := ⟨0x0A0A4, 16, 16⟩
def CQ_DISC_CNT2.OTHER : Fld := ⟨0x0A0A8, 0, 16⟩
def CQ_DISC_CNT2.FRAG : Fld := ⟨0x0A0A8, 16, 16⟩
def CQ_MBX_ADDR.ADDR : Fld := ⟨0x0A0B0, 0, 32⟩
def CQ_MBX_LEN.LEN : Fld := ⟨0x0A0B4, 0, 11⟩
def CQ_MBX_GO.GO : Fld := ⟨0x0A0B8, 0, 1⟩
def CQ_MBX_STAT.RESULT : Fld := ⟨0x0A0BC, 0, 2⟩
def CQ_MBX_STAT.ENTRY : Fld := ⟨0x0A0BC, 2, 5⟩
def CQ_MBX_STAT.DETAIL : Fld := ⟨0x0A0BC, 8, 8⟩

/-- Rows of page 0x0A. -/
def rowsPage0Aa : List FldRow := [
  ⟨CQ_STAT.RUN, 1, .ro, false, 0⟩,
  ⟨CQ_STAT.ST_OK, 1, .ro, false, 0⟩,
  ⟨CQ_STAT.POLICY_IN, 1, .ro, false, 0⟩,
  ⟨CQ_STAT.HB_OK, 1, .ro, false, 0⟩,
  ⟨CQ_POL_ADDR.ADDR, 1, .rw, false, 0⟩,
  ⟨CQ_POL_LEN.LEN, 1, .rw, false, 0⟩,
  ⟨CQ_POL_COMMIT.GO, 1, .pw, false, 0⟩,
  ⟨CQ_POL_COMMIT_N.COMPL, 1, .wo, false, 0⟩,
  ⟨CQ_POL_STAT.RESULT, 1, .ro, false, 0⟩,
  ⟨CQ_POL_STAT.REASON, 1, .ro, false, 0⟩,
  ⟨CQ_POL_STAT.PINS, 1, .ro, false, 0⟩,
  ⟨CQ_CNT.ADMIT, 1, .rc, false, 0⟩,
  ⟨CQ_CNT.POLICY, 1, .rc, false, 0⟩,
  ⟨CQ_NODE.NODE_ID, 1, .rw, true, 0⟩,
  ⟨CQ_CONN_SEL.CONN, 1, .rw, false, 0⟩,
  ⟨CQ_CONN_ID.ID, 1, .rw, true, 0⟩,
  ⟨CQ_CONN_CFG.SRC_NODE, 1, .rw, true, 0⟩,
  ⟨CQ_CONN_CFG.EN, 1, .rw, false, 0⟩,
  ⟨CQ_CONN_CFG.AUTH, 1, .rw, false, 0⟩,
  ⟨CQ_CONN_CFG.KEY, 1, .rw, false, 0⟩,
  ⟨CQ_CONN_CFG.HOST, 1, .rw, false, 0⟩,
  ⟨CQ_CONN_CFG.NET, 1, .rw, false, 1⟩,
  ⟨CQ_CONN_CFG.ANY_OWNER, 1, .rw, false, 0⟩,
  ⟨CQ_CONN_STAT.EXPIRED, 1, .ro, false, 0⟩,
  ⟨CQ_CONN_STAT.HAS_SEQ, 1, .ro, false, 0⟩,
  ⟨CQ_CONN_SEQ.SEQ, 1, .ro, false, 0⟩,
  ⟨CQ_CONN_LEFT.MS, 1, .ro, false, 65535⟩,
  ⟨CQ_SAFE_STAT.DETAIL, 1, .ro, false, 0⟩,
  ⟨CQ_SAFE_STAT.CONN, 1, .ro, false, 0⟩,
  ⟨CQ_SAFE_STAT.FRAME, 1, .ro, false, 0⟩,
  ⟨CQ_SAFE_STAT.ENTRY, 1, .ro, false, 0⟩,
  ⟨CQ_DISC_CNT.CHECK, 1, .rc, false, 0⟩,
  ⟨CQ_DISC_CNT.AUTH, 1, .rc, false, 0⟩,
  ⟨CQ_DISC_CNT2.OTHER, 1, .rc, false, 0⟩,
  ⟨CQ_DISC_CNT2.FRAG, 1, .rc, false, 0⟩,
  ⟨CQ_MBX_ADDR.ADDR, 1, .rw, false, 0⟩,
  ⟨CQ_MBX_LEN.LEN, 1, .rw, false, 0⟩,
  ⟨CQ_MBX_GO.GO, 1, .wo, false, 0⟩,
  ⟨CQ_MBX_STAT.RESULT, 1, .ro, false, 0⟩,
  ⟨CQ_MBX_STAT.ENTRY, 1, .ro, false, 0⟩,
  ⟨CQ_MBX_STAT.DETAIL, 1, .ro, false, 0⟩]

/-! ### Page 0x0B (R36, R37, R38, R39, R40) -/

def SC_CUE_CTRL.ARM : Fld := ⟨0x0B040, 0, 1⟩
def SC_CUE_CTRL.NET_EN : Fld := ⟨0x0B040, 1, 1⟩
def SC_CUE_CTRL.MBX_EN : Fld := ⟨0x0B040, 2, 1⟩
def SC_PIPE_STAT.INFLIGHT : Fld := ⟨0x0B044, 0, 4⟩
def SC_PIPE_STAT.SETTLING : Fld := ⟨0x0B044, 4, 5⟩
def SC_ACTIVE.SLOT : Fld := ⟨0x0B048, 0, 8⟩
def SC_ACTIVE.CURTAIN : Fld := ⟨0x0B048, 8, 1⟩
def SC_ACTIVE.SCENE_ID : Fld := ⟨0x0B048, 16, 16⟩
def SC_TRK_SEL.ENTRY : Fld := ⟨0x0B050, 0, 5⟩
def SC_TRK_STAT.STATE : Fld := ⟨0x0B054, 0, 4⟩
def SC_TRK_STAT.REASON : Fld := ⟨0x0B054, 4, 4⟩
def SC_TRK_STAT.BK_RESULT : Fld := ⟨0x0B054, 8, 8⟩
def SC_TRK_STAT.SCENE_ID : Fld := ⟨0x0B054, 16, 16⟩
def SC_TRK_BEAT_LO.E_LO : Fld := ⟨0x0B058, 0, 32⟩
def SC_TRK_BEAT_HI.E_HI : Fld := ⟨0x0B05C, 0, 32⟩
def SC_ABORT.ENTRY : Fld := ⟨0x0B060, 0, 5⟩
def SC_ABORT_STAT.RESULT : Fld := ⟨0x0B064, 0, 2⟩
def SC_ABORT_STAT.ENTRY : Fld := ⟨0x0B064, 2, 5⟩
def SC_OVR_CNT.SCENE_WIN : Fld := ⟨0x0B070, 0, 8⟩
def SC_OVR_CNT.PIPE : Fld := ⟨0x0B070, 8, 8⟩
def SC_OVR_CNT.ARM : Fld := ⟨0x0B070, 16, 8⟩
def SC_OVR_CNT.COPY : Fld := ⟨0x0B070, 24, 8⟩

/-- Rows of page 0x0B. -/
def rowsPage0Ba : List FldRow := [
  ⟨SC_CUE_CTRL.ARM, 1, .rw, false, 0⟩,
  ⟨SC_CUE_CTRL.NET_EN, 1, .rw, false, 0⟩,
  ⟨SC_CUE_CTRL.MBX_EN, 1, .rw, false, 0⟩,
  ⟨SC_PIPE_STAT.INFLIGHT, 1, .ro, false, 0⟩,
  ⟨SC_PIPE_STAT.SETTLING, 1, .ro, false, 0⟩,
  ⟨SC_ACTIVE.SLOT, 1, .ro, false, 255⟩,
  ⟨SC_ACTIVE.CURTAIN, 1, .ro, false, 1⟩,
  ⟨SC_ACTIVE.SCENE_ID, 1, .ro, false, 65535⟩,
  ⟨SC_TRK_SEL.ENTRY, 1, .rw, false, 0⟩,
  ⟨SC_TRK_STAT.STATE, 1, .ro, false, 0⟩,
  ⟨SC_TRK_STAT.REASON, 1, .ro, false, 0⟩,
  ⟨SC_TRK_STAT.BK_RESULT, 1, .ro, false, 0⟩,
  ⟨SC_TRK_STAT.SCENE_ID, 1, .ro, false, 0⟩,
  ⟨SC_TRK_BEAT_LO.E_LO, 1, .ro, false, 0⟩,
  ⟨SC_TRK_BEAT_HI.E_HI, 1, .ro, false, 0⟩,
  ⟨SC_ABORT.ENTRY, 1, .wo, false, 0⟩,
  ⟨SC_ABORT_STAT.RESULT, 1, .ro, false, 0⟩,
  ⟨SC_ABORT_STAT.ENTRY, 1, .ro, false, 0⟩,
  ⟨SC_OVR_CNT.SCENE_WIN, 1, .rc, false, 0⟩,
  ⟨SC_OVR_CNT.PIPE, 1, .rc, false, 0⟩,
  ⟨SC_OVR_CNT.ARM, 1, .rc, false, 0⟩,
  ⟨SC_OVR_CNT.COPY, 1, .rc, false, 0⟩]

/-! ### Page 0x0C (R86) -/

def BK_CTRL.INCR_EN : Fld := ⟨0x0C040, 0, 1⟩
def BK_CTRL.INCR_MAX : Fld := ⟨0x0C040, 8, 6⟩
def BK_CTRL.ATTEMPT2_EN : Fld := ⟨0x0C040, 16, 1⟩
def BK_BUDGET.TOTAL : Fld := ⟨0x0C044, 0, 13⟩
def BK_BUDGET.INCR : Fld := ⟨0x0C044, 16, 13⟩
def BK_STAT.BUSY : Fld := ⟨0x0C048, 0, 1⟩
def BK_STAT.STEP : Fld := ⟨0x0C048, 1, 3⟩
def BK_STAT.LEVEL : Fld := ⟨0x0C048, 4, 4⟩
def BK_STAT.ENTRY : Fld := ⟨0x0C048, 8, 5⟩
def BK_STAT.CURTAIN : Fld := ⟨0x0C048, 13, 1⟩
def BK_LAST.RESULT : Fld := ⟨0x0C04C, 0, 8⟩
def BK_LAST.DIST_COUNT : Fld := ⟨0x0C04C, 8, 10⟩
def BK_LAST.ENTRY : Fld := ⟨0x0C04C, 18, 5⟩
def BK_LAST.ATTEMPT2 : Fld := ⟨0x0C04C, 23, 1⟩
def BK_LAST.BY_INCR : Fld := ⟨0x0C04C, 24, 1⟩
def BK_LAST_CYC.CYCLES : Fld := ⟨0x0C050, 0, 13⟩
def BK_LAST_CYC.INCR_CYC : Fld := ⟨0x0C050, 16, 13⟩
def BK_DIST_ADDR.ADDR : Fld := ⟨0x0C054, 12, 20⟩
def BK_CNT.DIST : Fld := ⟨0x0C058, 0, 16⟩
def BK_CNT.UNSOLVED : Fld := ⟨0x0C058, 16, 16⟩

/-- Rows of page 0x0C. -/
def rowsPage0Ca : List FldRow := [
  ⟨BK_CTRL.INCR_EN, 1, .rw, false, 1⟩,
  ⟨BK_CTRL.INCR_MAX, 1, .rw, false, 8⟩,
  ⟨BK_CTRL.ATTEMPT2_EN, 1, .rw, false, 1⟩,
  ⟨BK_BUDGET.TOTAL, 1, .rw, false, 3200⟩,
  ⟨BK_BUDGET.INCR, 1, .rw, false, 600⟩,
  ⟨BK_STAT.BUSY, 1, .ro, false, 0⟩,
  ⟨BK_STAT.STEP, 1, .ro, false, 0⟩,
  ⟨BK_STAT.LEVEL, 1, .ro, false, 0⟩,
  ⟨BK_STAT.ENTRY, 1, .ro, false, 0⟩,
  ⟨BK_STAT.CURTAIN, 1, .ro, false, 0⟩,
  ⟨BK_LAST.RESULT, 1, .ro, false, 0⟩,
  ⟨BK_LAST.DIST_COUNT, 1, .ro, false, 0⟩,
  ⟨BK_LAST.ENTRY, 1, .ro, false, 0⟩,
  ⟨BK_LAST.ATTEMPT2, 1, .ro, false, 0⟩,
  ⟨BK_LAST.BY_INCR, 1, .ro, false, 0⟩,
  ⟨BK_LAST_CYC.CYCLES, 1, .ro, false, 0⟩,
  ⟨BK_LAST_CYC.INCR_CYC, 1, .ro, false, 0⟩,
  ⟨BK_DIST_ADDR.ADDR, 1, .rw, false, 0⟩,
  ⟨BK_CNT.DIST, 1, .rc, false, 0⟩,
  ⟨BK_CNT.UNSOLVED, 1, .rc, false, 0⟩]

/-! ### Page 0x0D (R178) -/

def SH_CTRL.BLANK_ALL : Fld := ⟨0x0D040, 0, 1⟩
def SH_CTRL.HO_EN : Fld := ⟨0x0D040, 1, 1⟩
def SH_CTRL.MISS_DARK : Fld := ⟨0x0D040, 2, 1⟩
def SH_HO_CTRL.LEN : Fld := ⟨0x0D044, 0, 11⟩
def SH_HO_CTRL.DWELL : Fld := ⟨0x0D044, 16, 6⟩
def SH_STAT.HO_ACTIVE : Fld := ⟨0x0D048, 0, 13⟩
def SH_STAT.STALLED : Fld := ⟨0x0D048, 16, 13⟩
def SH_STAT.RETRY_REF : Fld := ⟨0x0D048, 29, 1⟩
def SH_LAST0.CELLS : Fld := ⟨0x0D04C, 0, 13⟩
def SH_LAST0.OUTS : Fld := ⟨0x0D04C, 16, 10⟩
def SH_LAST0.BLANKED : Fld := ⟨0x0D04C, 26, 1⟩
def SH_LAST0.ENTRY : Fld := ⟨0x0D04C, 27, 5⟩
def SH_LAST1.TOGGLES : Fld := ⟨0x0D050, 0, 13⟩
def SH_LAST1.CLAMP : Fld := ⟨0x0D050, 16, 13⟩
def SH_REH_SEL.ENTRY : Fld := ⟨0x0D060, 0, 5⟩
def SH_REH0.CELLS : Fld := ⟨0x0D064, 0, 13⟩
def SH_REH0.TOGGLES : Fld := ⟨0x0D064, 16, 13⟩
def SH_REH1.OUTS : Fld := ⟨0x0D068, 0, 10⟩
def SH_REH1.BLANK : Fld := ⟨0x0D068, 16, 10⟩
def SH_REH2.CLAMP : Fld := ⟨0x0D06C, 0, 13⟩
def SH_REH2.MAXDEV : Fld := ⟨0x0D06C, 16, 14⟩
def SH_REH2.VALID : Fld := ⟨0x0D06C, 30, 1⟩
def SH_HO_RETRY.CELL : Fld := ⟨0x0D070, 0, 13⟩
def SH_HO_RETRY.GO : Fld := ⟨0x0D070, 31, 1⟩
def SH_MISS_STAT.CELL : Fld := ⟨0x0D074, 0, 13⟩
def SH_MISS_STAT.VALID : Fld := ⟨0x0D074, 13, 1⟩
def SH_MISS_STAT.DARKED : Fld := ⟨0x0D074, 16, 10⟩
def SH_MISS_REL.OUT : Fld := ⟨0x0D078, 0, 9⟩
def SH_MISS_REL.GO : Fld := ⟨0x0D078, 31, 1⟩
def SH_CNT.REFIRE : Fld := ⟨0x0D07C, 0, 16⟩
def SH_CNT.MISS : Fld := ⟨0x0D07C, 16, 16⟩
def SH_CNT2.STALL : Fld := ⟨0x0D080, 0, 16⟩
def SH_CNT2.PAUSE : Fld := ⟨0x0D080, 16, 16⟩

/-- Rows of page 0x0D. -/
def rowsPage0Da : List FldRow := [
  ⟨SH_CTRL.BLANK_ALL, 1, .rw, false, 0⟩,
  ⟨SH_CTRL.HO_EN, 1, .rw, false, 1⟩,
  ⟨SH_CTRL.MISS_DARK, 1, .rw, false, 1⟩,
  ⟨SH_HO_CTRL.LEN, 1, .rw, false, 400⟩,
  ⟨SH_HO_CTRL.DWELL, 1, .rw, false, 16⟩,
  ⟨SH_STAT.HO_ACTIVE, 1, .ro, false, 0⟩,
  ⟨SH_STAT.STALLED, 1, .ro, false, 0⟩,
  ⟨SH_STAT.RETRY_REF, 1, .ro, false, 0⟩,
  ⟨SH_LAST0.CELLS, 1, .ro, false, 0⟩,
  ⟨SH_LAST0.OUTS, 1, .ro, false, 0⟩,
  ⟨SH_LAST0.BLANKED, 1, .ro, false, 0⟩,
  ⟨SH_LAST0.ENTRY, 1, .ro, false, 0⟩,
  ⟨SH_LAST1.TOGGLES, 1, .ro, false, 0⟩,
  ⟨SH_LAST1.CLAMP, 1, .ro, false, 0⟩,
  ⟨SH_REH_SEL.ENTRY, 1, .rw, false, 0⟩,
  ⟨SH_REH0.CELLS, 1, .ro, false, 0⟩,
  ⟨SH_REH0.TOGGLES, 1, .ro, false, 0⟩,
  ⟨SH_REH1.OUTS, 1, .ro, false, 0⟩,
  ⟨SH_REH1.BLANK, 1, .ro, false, 0⟩,
  ⟨SH_REH2.CLAMP, 1, .ro, false, 0⟩,
  ⟨SH_REH2.MAXDEV, 1, .ro, false, 0⟩,
  ⟨SH_REH2.VALID, 1, .ro, false, 0⟩,
  ⟨SH_HO_RETRY.CELL, 1, .wo, false, 0⟩,
  ⟨SH_HO_RETRY.GO, 1, .wo, false, 0⟩,
  ⟨SH_MISS_STAT.CELL, 1, .ro, false, 0⟩,
  ⟨SH_MISS_STAT.VALID, 1, .ro, false, 0⟩,
  ⟨SH_MISS_STAT.DARKED, 1, .ro, false, 0⟩,
  ⟨SH_MISS_REL.OUT, 1, .wo, false, 0⟩,
  ⟨SH_MISS_REL.GO, 1, .wo, false, 0⟩,
  ⟨SH_CNT.REFIRE, 1, .rc, false, 0⟩,
  ⟨SH_CNT.MISS, 1, .rc, false, 0⟩,
  ⟨SH_CNT2.STALL, 1, .rc, false, 0⟩,
  ⟨SH_CNT2.PAUSE, 1, .rc, false, 0⟩]

/-! ### Page 0x0E (R201) -/

def CA_CTRL.EN : Fld := ⟨0x0E040, 0, 1⟩
def CA_CTRL.LIVE : Fld := ⟨0x0E040, 1, 1⟩
def CA_CTRL.AUTO_DT : Fld := ⟨0x0E040, 2, 1⟩
def CA_CTRL.AUTO_PERIOD : Fld := ⟨0x0E040, 3, 1⟩
def CA_CTRL.AUTO_OOB : Fld := ⟨0x0E040, 4, 1⟩
def CA_CTRL.PAR : Fld := ⟨0x0E040, 16, 8⟩
def CA_DT.DT : Fld := ⟨0x0E044, 0, 8⟩
def CA_PERIOD.PERIOD : Fld := ⟨0x0E048, 0, 16⟩
def CA_STAT.SURVEY_DONE : Fld := ⟨0x0E04C, 0, 1⟩
def CA_STAT.RUNNING : Fld := ⟨0x0E04C, 1, 1⟩
def CA_STAT.ACTIVE : Fld := ⟨0x0E04C, 2, 8⟩
def CA_STAT.PENDING : Fld := ⟨0x0E04C, 10, 15⟩
def CA_TREF.TCAL : Fld := ⟨0x0E050, 0, 16⟩
def CA_TREF.TAGE : Fld := ⟨0x0E050, 16, 16⟩
def CA_REQ.ELEM : Fld := ⟨0x0E054, 0, 14⟩
def CA_REQ.KIND : Fld := ⟨0x0E054, 14, 2⟩
def CA_REQ.GO : Fld := ⟨0x0E054, 31, 1⟩
def CA_REQ_STAT.RESULT : Fld := ⟨0x0E058, 0, 2⟩
def CA_REQ_STAT.REASON : Fld := ⟨0x0E058, 2, 4⟩
def CA_SWEEP.HALF : Fld := ⟨0x0E060, 0, 4⟩
def CA_SWEEP.SKIP : Fld := ⟨0x0E060, 4, 4⟩
def CA_SWEEP.HOLD : Fld := ⟨0x0E060, 8, 8⟩
def CA_SWEEP.STEP : Fld := ⟨0x0E060, 16, 10⟩
def CA_LIM.EPI : Fld := ⟨0x0E064, 0, 8⟩
def CA_LIM.MARK_DIV : Fld := ⟨0x0E064, 8, 4⟩
def CA_BAND_MIN.MIN : Fld := ⟨0x0E068, 0, 22⟩
def CA_LEVEL_IN.TARGET : Fld := ⟨0x0E06C, 0, 22⟩
def CA_LEVEL_OUT.TARGET : Fld := ⟨0x0E070, 0, 22⟩
def CA_TAP.REPS : Fld := ⟨0x0E074, 0, 8⟩
def CA_TAP.DIV : Fld := ⟨0x0E074, 8, 6⟩
def CA_TAP.XLIM : Fld := ⟨0x0E074, 16, 4⟩
def CA_COMMIT.MAX : Fld := ⟨0x0E078, 0, 8⟩
def CA_AGE.PERIOD : Fld := ⟨0x0E080, 0, 8⟩
def CA_AGE.WARN : Fld := ⟨0x0E080, 16, 16⟩
def CA_AGE2.ALARM : Fld := ⟨0x0E084, 0, 16⟩
def CA_AGE_STAT.AMBER : Fld := ⟨0x0E088, 0, 14⟩
def CA_AGE_STAT.RED : Fld := ⟨0x0E088, 16, 14⟩
def CA_CNT.RUNS : Fld := ⟨0x0E08C, 0, 16⟩
def CA_CNT.ABORT : Fld := ⟨0x0E08C, 16, 16⟩
def CA_CNT2.CLIPPED : Fld := ⟨0x0E090, 0, 16⟩
def CA_CNT2.DISCARD : Fld := ⟨0x0E090, 16, 16⟩

/-- Rows of page 0x0E. -/
def rowsPage0Ea : List FldRow := [
  ⟨CA_CTRL.EN, 1, .rw, false, 0⟩,
  ⟨CA_CTRL.LIVE, 1, .rw, false, 0⟩,
  ⟨CA_CTRL.AUTO_DT, 1, .rw, false, 1⟩,
  ⟨CA_CTRL.AUTO_PERIOD, 1, .rw, false, 1⟩,
  ⟨CA_CTRL.AUTO_OOB, 1, .rw, false, 1⟩,
  ⟨CA_CTRL.PAR, 1, .rw, false, 64⟩,
  ⟨CA_DT.DT, 1, .rw, false, 30⟩,
  ⟨CA_PERIOD.PERIOD, 1, .rw, false, 3600⟩,
  ⟨CA_STAT.SURVEY_DONE, 1, .ro, false, 0⟩,
  ⟨CA_STAT.RUNNING, 1, .ro, false, 0⟩,
  ⟨CA_STAT.ACTIVE, 1, .ro, false, 0⟩,
  ⟨CA_STAT.PENDING, 1, .ro, false, 0⟩,
  ⟨CA_TREF.TCAL, 1, .ro, false, 0⟩,
  ⟨CA_TREF.TAGE, 1, .ro, false, 0⟩,
  ⟨CA_REQ.ELEM, 1, .rw, false, 0⟩,
  ⟨CA_REQ.KIND, 1, .rw, false, 0⟩,
  ⟨CA_REQ.GO, 1, .wo, false, 0⟩,
  ⟨CA_REQ_STAT.RESULT, 1, .ro, false, 0⟩,
  ⟨CA_REQ_STAT.REASON, 1, .ro, false, 0⟩,
  ⟨CA_SWEEP.HALF, 1, .rw, false, 4⟩,
  ⟨CA_SWEEP.SKIP, 1, .rw, false, 6⟩,
  ⟨CA_SWEEP.HOLD, 1, .rw, false, 16⟩,
  ⟨CA_SWEEP.STEP, 1, .rw, false, 8⟩,
  ⟨CA_LIM.EPI, 1, .rw, false, 32⟩,
  ⟨CA_LIM.MARK_DIV, 1, .rw, false, 2⟩,
  ⟨CA_BAND_MIN.MIN, 1, .rw, false, 64⟩,
  ⟨CA_LEVEL_IN.TARGET, 1, .rw, false, 0⟩,
  ⟨CA_LEVEL_OUT.TARGET, 1, .rw, false, 0⟩,
  ⟨CA_TAP.REPS, 1, .rw, false, 64⟩,
  ⟨CA_TAP.DIV, 1, .rw, false, 32⟩,
  ⟨CA_TAP.XLIM, 1, .rw, false, 2⟩,
  ⟨CA_COMMIT.MAX, 1, .rw, false, 128⟩,
  ⟨CA_AGE.PERIOD, 1, .rw, false, 24⟩,
  ⟨CA_AGE.WARN, 1, .rw, false, 8760⟩,
  ⟨CA_AGE2.ALARM, 1, .rw, false, 720⟩,
  ⟨CA_AGE_STAT.AMBER, 1, .ro, false, 0⟩,
  ⟨CA_AGE_STAT.RED, 1, .ro, false, 0⟩,
  ⟨CA_CNT.RUNS, 1, .rc, false, 0⟩,
  ⟨CA_CNT.ABORT, 1, .rc, false, 0⟩,
  ⟨CA_CNT2.CLIPPED, 1, .rc, false, 0⟩,
  ⟨CA_CNT2.DISCARD, 1, .rc, false, 0⟩]

/-! ### Page 0x0F (R66, R390) -/

def RG_STAT.CASE : Fld := ⟨0x0F040, 0, 3⟩
def RG_STAT.IN_FORCE : Fld := ⟨0x0F040, 3, 1⟩
def RG_STAT.CURTAIN_ONLY : Fld := ⟨0x0F040, 4, 1⟩
def RG_STAT.NVM_PENDING : Fld := ⟨0x0F040, 5, 1⟩
def RG_STAT.VERIFIED : Fld := ⟨0x0F040, 6, 1⟩
def RG_STAT.REJECT : Fld := ⟨0x0F040, 8, 4⟩
def RG_TOPO.LOG2N : Fld := ⟨0x0F044, 0, 4⟩
def RG_TOPO.KIND : Fld := ⟨0x0F044, 4, 2⟩
def RG_TOPO.STAGES : Fld := ⟨0x0F044, 6, 6⟩
def RG_COUNT.CELLS : Fld := ⟨0x0F048, 0, 13⟩
def RG_COUNT.PORTS : Fld := ⟨0x0F048, 16, 10⟩
def RG_USED.DO_USED : Fld := ⟨0x0F04C, 0, 14⟩
def RG_USED.MI_USED : Fld := ⟨0x0F04C, 16, 13⟩
def RG_LOOPS.LOOPS : Fld := ⟨0x0F050, 0, 13⟩
def RG_SERIAL.SERIAL : Fld := ⟨0x0F054, 0, 32⟩
def RG_NVSER.SERIAL : Fld := ⟨0x0F064, 0, 32⟩
def RG_IMG_CRC.CRC : Fld := ⟨0x0F074, 0, 32⟩
def RG_IMG_ADDR.ADDR : Fld := ⟨0x0F080, 0, 32⟩
def RG_IMG_LEN.LEN : Fld := ⟨0x0F084, 0, 16⟩
def RG_COMMIT.GO : Fld := ⟨0x0F088, 0, 1⟩
def RG_COMMIT.TILE_WR : Fld := ⟨0x0F088, 1, 1⟩
def RG_COMMIT_N.COMPL : Fld := ⟨0x0F08C, 0, 32⟩
def RG_COMMIT_STAT.RESULT : Fld := ⟨0x0F090, 0, 2⟩
def RG_COMMIT_STAT.TILE_BUSY : Fld := ⟨0x0F090, 2, 1⟩
def RG_MB_CTRL.EN : Fld := ⟨0x0F100, 0, 1⟩
def RG_MB_CTRL.FAST : Fld := ⟨0x0F100, 1, 1⟩
def RG_MB_CTRL.LEN : Fld := ⟨0x0F100, 8, 9⟩
def RG_MB_PRES.PRESENT : Fld := ⟨0x0F104, 0, 16⟩
def RG_MB_CHG.CHG : Fld := ⟨0x0F108, 0, 16⟩
def RG_MB_CHG.FAIL : Fld := ⟨0x0F108, 16, 16⟩
def RG_MB_SEL.MODULE : Fld := ⟨0x0F10C, 0, 4⟩
def RG_MB_SEL.QUARTER : Fld := ⟨0x0F10C, 4, 2⟩
def RG_MB_CRC.CRC : Fld := ⟨0x0F110, 0, 32⟩
def RG_MB_DATA.DATA : Fld := ⟨0x0F140, 0, 32⟩

/-- Rows of page 0x0F. -/
def rowsPage0Fa : List FldRow := [
  ⟨RG_STAT.CASE, 1, .ro, false, 0⟩,
  ⟨RG_STAT.IN_FORCE, 1, .ro, false, 0⟩,
  ⟨RG_STAT.CURTAIN_ONLY, 1, .ro, false, 0⟩,
  ⟨RG_STAT.NVM_PENDING, 1, .ro, false, 0⟩,
  ⟨RG_STAT.VERIFIED, 1, .ro, false, 0⟩,
  ⟨RG_STAT.REJECT, 1, .ro, false, 0⟩,
  ⟨RG_TOPO.LOG2N, 1, .ro, true, 0⟩,
  ⟨RG_TOPO.KIND, 1, .ro, true, 0⟩,
  ⟨RG_TOPO.STAGES, 1, .ro, true, 0⟩,
  ⟨RG_COUNT.CELLS, 1, .ro, true, 0⟩,
  ⟨RG_COUNT.PORTS, 1, .ro, true, 0⟩,
  ⟨RG_USED.DO_USED, 1, .ro, false, 0⟩,
  ⟨RG_USED.MI_USED, 1, .ro, false, 0⟩,
  ⟨RG_LOOPS.LOOPS, 1, .ro, false, 0⟩,
  ⟨RG_SERIAL.SERIAL, 4, .ro, false, 0⟩,
  ⟨RG_NVSER.SERIAL, 4, .ro, false, 0⟩,
  ⟨RG_IMG_CRC.CRC, 1, .ro, true, 0⟩,
  ⟨RG_IMG_ADDR.ADDR, 1, .rw, false, 0⟩,
  ⟨RG_IMG_LEN.LEN, 1, .rw, false, 0⟩,
  ⟨RG_COMMIT.GO, 1, .pw, false, 0⟩,
  ⟨RG_COMMIT.TILE_WR, 1, .pw, false, 0⟩,
  ⟨RG_COMMIT_N.COMPL, 1, .wo, false, 0⟩,
  ⟨RG_COMMIT_STAT.RESULT, 1, .ro, false, 0⟩,
  ⟨RG_COMMIT_STAT.TILE_BUSY, 1, .ro, false, 0⟩,
  ⟨RG_MB_CTRL.EN, 1, .rw, false, 1⟩,
  ⟨RG_MB_CTRL.FAST, 1, .rw, false, 0⟩,
  ⟨RG_MB_CTRL.LEN, 1, .rw, false, 256⟩,
  ⟨RG_MB_PRES.PRESENT, 1, .ro, false, 0⟩,
  ⟨RG_MB_CHG.CHG, 1, .w1c, false, 0⟩,
  ⟨RG_MB_CHG.FAIL, 1, .w1c, false, 0⟩,
  ⟨RG_MB_SEL.MODULE, 1, .rw, false, 0⟩,
  ⟨RG_MB_SEL.QUARTER, 1, .rw, false, 0⟩,
  ⟨RG_MB_CRC.CRC, 1, .ro, false, 0⟩,
  ⟨RG_MB_DATA.DATA, 16, .ro, false, 0⟩]

/-! ### Page 0x10 (R113) -/

def DO_STAT.PARK_APPLIED : Fld := ⟨0x10040, 0, 1⟩
def DO_STAT.T_AVAIL : Fld := ⟨0x10040, 1, 1⟩
def DO_STAT.STAGE_EN : Fld := ⟨0x10040, 2, 1⟩
def DO_STAT.TIMED_LOST : Fld := ⟨0x10040, 3, 1⟩
def DO_ISUM.SUM : Fld := ⟨0x10044, 0, 18⟩
def DO_ISUM_LIM.LIM : Fld := ⟨0x10048, 0, 14⟩
def DO_WR_SEL.DO : Fld := ⟨0x10050, 0, 14⟩
def DO_WR_VAL.VALUE : Fld := ⟨0x10054, 0, 14⟩
def DO_WR_VAL.ALIGNED : Fld := ⟨0x10054, 16, 1⟩

/-- Rows of page 0x10. -/
def rowsPage10a : List FldRow := [
  ⟨DO_STAT.PARK_APPLIED, 1, .ro, false, 0⟩,
  ⟨DO_STAT.T_AVAIL, 1, .ro, false, 0⟩,
  ⟨DO_STAT.STAGE_EN, 1, .ro, false, 0⟩,
  ⟨DO_STAT.TIMED_LOST, 1, .ro, false, 0⟩,
  ⟨DO_ISUM.SUM, 1, .ro, false, 0⟩,
  ⟨DO_ISUM_LIM.LIM, 1, .rw, false, 10000⟩,
  ⟨DO_WR_SEL.DO, 1, .rw, false, 0⟩,
  ⟨DO_WR_VAL.VALUE, 1, .wo, false, 0⟩,
  ⟨DO_WR_VAL.ALIGNED, 1, .wo, false, 0⟩]

/-! ### Page 0x11 (R113) -/

def DO_PARK_COMMIT.GO : Fld := ⟨0x11040, 0, 1⟩
def DO_PARK_COMMIT_N.COMPL : Fld := ⟨0x11044, 0, 32⟩
def DO_PARK_STAT.RESULT : Fld := ⟨0x11048, 0, 2⟩
def DO_PARK_STAT.REASON : Fld := ⟨0x11048, 2, 4⟩
def DO_RANGE_REQ.DO : Fld := ⟨0x11050, 0, 14⟩
def DO_RANGE_REQ.MODE : Fld := ⟨0x11050, 16, 2⟩
def DO_RANGE_REQ.GO : Fld := ⟨0x11050, 31, 1⟩
def DO_RANGE_STAT.RESULT : Fld := ⟨0x11054, 0, 2⟩
def DO_RANGE_STAT.REASON : Fld := ⟨0x11054, 2, 4⟩
def DO_RANGE_STAT.STEP : Fld := ⟨0x11054, 6, 4⟩
def DO_RANGE_STAT.DO : Fld := ⟨0x11054, 16, 14⟩

/-- Rows of page 0x11. -/
def rowsPage11a : List FldRow := [
  ⟨DO_PARK_COMMIT.GO, 1, .pw, false, 0⟩,
  ⟨DO_PARK_COMMIT_N.COMPL, 1, .wo, false, 0⟩,
  ⟨DO_PARK_STAT.RESULT, 1, .ro, false, 0⟩,
  ⟨DO_PARK_STAT.REASON, 1, .ro, false, 0⟩,
  ⟨DO_RANGE_REQ.DO, 1, .rw, false, 0⟩,
  ⟨DO_RANGE_REQ.MODE, 1, .rw, false, 0⟩,
  ⟨DO_RANGE_REQ.GO, 1, .wo, false, 0⟩,
  ⟨DO_RANGE_STAT.RESULT, 1, .ro, false, 0⟩,
  ⟨DO_RANGE_STAT.REASON, 1, .ro, false, 0⟩,
  ⟨DO_RANGE_STAT.STEP, 1, .ro, false, 0⟩,
  ⟨DO_RANGE_STAT.DO, 1, .ro, false, 0⟩]

/-! ### Page 0x12 (R114) -/

def DO_TG_SEL.GEN : Fld := ⟨0x12040, 0, 10⟩
def DO_TG_CTRL.EN : Fld := ⟨0x12044, 0, 1⟩
def DO_TG_CTRL.PILOT : Fld := ⟨0x12044, 1, 1⟩
def DO_TG_CTRL.DO : Fld := ⟨0x12044, 16, 14⟩
def DO_TG_FTW.FTW : Fld := ⟨0x12048, 0, 32⟩
def DO_TG_FRAC.NUM : Fld := ⟨0x1204C, 0, 4⟩
def DO_TG_FRAC.DEN : Fld := ⟨0x1204C, 4, 4⟩
def DO_TG_AMP.AMP : Fld := ⟨0x12050, 0, 12⟩
def DO_TG_AMP.PHASE0 : Fld := ⟨0x12050, 16, 16⟩
def DO_TG_STAT.ACTIVE : Fld := ⟨0x12054, 0, 1⟩
def DO_TG_STAT.ERR : Fld := ⟨0x12054, 1, 1⟩

/-- Rows of page 0x12. -/
def rowsPage12a : List FldRow := [
  ⟨DO_TG_SEL.GEN, 1, .rw, false, 0⟩,
  ⟨DO_TG_CTRL.EN, 1, .rw, false, 0⟩,
  ⟨DO_TG_CTRL.PILOT, 1, .rw, false, 0⟩,
  ⟨DO_TG_CTRL.DO, 1, .rw, false, 0⟩,
  ⟨DO_TG_FTW.FTW, 1, .rw, false, 0⟩,
  ⟨DO_TG_FRAC.NUM, 1, .rw, false, 0⟩,
  ⟨DO_TG_FRAC.DEN, 1, .rw, false, 1⟩,
  ⟨DO_TG_AMP.AMP, 1, .rw, false, 0⟩,
  ⟨DO_TG_AMP.PHASE0, 1, .rw, false, 0⟩,
  ⟨DO_TG_STAT.ACTIVE, 1, .ro, false, 0⟩,
  ⟨DO_TG_STAT.ERR, 1, .ro, false, 0⟩]

/-! ### Page 0x13 (R115) -/

def DO_HR_CTRL.EN : Fld := ⟨0x13040, 0, 4⟩
def DO_HR_CTRL.BAND : Fld := ⟨0x13040, 8, 4⟩
def DO_HR_TARGET.TARGET : Fld := ⟨0x13044, 0, 9⟩
def DO_HR_ADDR.ADDR0 : Fld := ⟨0x13048, 0, 7⟩
def DO_HR_ADDR.ADDR1 : Fld := ⟨0x13048, 8, 7⟩
def DO_HR_ADDR.ADDR2 : Fld := ⟨0x13048, 16, 7⟩
def DO_HR_ADDR.ADDR3 : Fld := ⟨0x13048, 24, 7⟩
def DO_HR_LIM.MAX : Fld := ⟨0x1304C, 0, 13⟩
def DO_HR_LIM.MIN : Fld := ⟨0x1304C, 16, 13⟩
def DO_HR_STAT.VOUT : Fld := ⟨0x13050, 0, 13⟩
def DO_HR_STAT.VMIN : Fld := ⟨0x13050, 16, 10⟩
def DO_HR_STAT.AT_MAX : Fld := ⟨0x13050, 28, 1⟩
def DO_HR_STAT.PMB_ERR : Fld := ⟨0x13050, 29, 1⟩
def DO_RMEAS_SEL.DO : Fld := ⟨0x13070, 0, 14⟩
def DO_RMEAS_SEL.GO : Fld := ⟨0x13070, 31, 1⟩
def DO_RMEAS.R : Fld := ⟨0x13074, 0, 16⟩
def DO_RMEAS.VALID : Fld := ⟨0x13074, 16, 1⟩
def DO_RMEAS.LOWI : Fld := ⟨0x13074, 17, 1⟩
def DO_RMEAS.BUSY : Fld := ⟨0x13074, 18, 1⟩

/-- Rows of page 0x13. -/
def rowsPage13a : List FldRow := [
  ⟨DO_HR_CTRL.EN, 1, .rw, false, 0⟩,
  ⟨DO_HR_CTRL.BAND, 1, .rw, false, 5⟩,
  ⟨DO_HR_TARGET.TARGET, 1, .rw, false, 250⟩,
  ⟨DO_HR_ADDR.ADDR0, 1, .rw, false, 0⟩,
  ⟨DO_HR_ADDR.ADDR1, 1, .rw, false, 0⟩,
  ⟨DO_HR_ADDR.ADDR2, 1, .rw, false, 0⟩,
  ⟨DO_HR_ADDR.ADDR3, 1, .rw, false, 0⟩,
  ⟨DO_HR_LIM.MAX, 1, .rw, false, 5500⟩,
  ⟨DO_HR_LIM.MIN, 1, .rw, false, 1200⟩,
  ⟨DO_HR_STAT.VOUT, 4, .ro, false, 0⟩,
  ⟨DO_HR_STAT.VMIN, 4, .ro, false, 0⟩,
  ⟨DO_HR_STAT.AT_MAX, 4, .ro, false, 0⟩,
  ⟨DO_HR_STAT.PMB_ERR, 4, .ro, false, 0⟩,
  ⟨DO_RMEAS_SEL.DO, 1, .rw, false, 0⟩,
  ⟨DO_RMEAS_SEL.GO, 1, .wo, false, 0⟩,
  ⟨DO_RMEAS.R, 1, .ro, false, 0⟩,
  ⟨DO_RMEAS.VALID, 1, .ro, false, 0⟩,
  ⟨DO_RMEAS.LOWI, 1, .ro, false, 0⟩,
  ⟨DO_RMEAS.BUSY, 1, .ro, false, 0⟩]

/-! ### Page 0x14 (R135) -/

def MI_CTRL.BIAS : Fld := ⟨0x14040, 0, 3⟩
def MI_STAT.FE_CONN : Fld := ⟨0x14044, 0, 1⟩
def MI_STAT.CONV_RUN : Fld := ⟨0x14044, 1, 1⟩
def MI_CH_SEL.MI : Fld := ⟨0x14050, 0, 13⟩
def MI_CH_SET.RANGE : Fld := ⟨0x14054, 0, 2⟩
def MI_CH_SET.BW : Fld := ⟨0x14054, 2, 1⟩
def MI_CH_SET.GO : Fld := ⟨0x14054, 31, 1⟩
def MI_CH_STAT.RANGE : Fld := ⟨0x14058, 0, 2⟩
def MI_CH_STAT.BW : Fld := ⟨0x14058, 2, 1⟩
def MI_CH_STAT.AUTORANGE : Fld := ⟨0x14058, 3, 1⟩
def MI_CH_STAT.SETTLE : Fld := ⟨0x14058, 4, 2⟩
def MI_CH_STAT.SAMPLE : Fld := ⟨0x14058, 16, 16⟩
def MI_AR.DN_CODE : Fld := ⟨0x14060, 0, 9⟩
def MI_AR.DN_COUNT : Fld := ⟨0x14060, 16, 5⟩
def MI_AR.HOLDOFF : Fld := ⟨0x14060, 24, 4⟩
def MI_AR_CNT.OUT : Fld := ⟨0x14064, 0, 16⟩
def MI_AR_CNT.IN : Fld := ⟨0x14064, 16, 16⟩

/-- Rows of page 0x14. -/
def rowsPage14a : List FldRow := [
  ⟨MI_CTRL.BIAS, 1, .rw, false, 4⟩,
  ⟨MI_STAT.FE_CONN, 1, .ro, false, 0⟩,
  ⟨MI_STAT.CONV_RUN, 1, .ro, false, 0⟩,
  ⟨MI_CH_SEL.MI, 1, .rw, false, 0⟩,
  ⟨MI_CH_SET.RANGE, 1, .wo, false, 0⟩,
  ⟨MI_CH_SET.BW, 1, .wo, false, 0⟩,
  ⟨MI_CH_SET.GO, 1, .wo, false, 0⟩,
  ⟨MI_CH_STAT.RANGE, 1, .ro, false, 0⟩,
  ⟨MI_CH_STAT.BW, 1, .ro, false, 0⟩,
  ⟨MI_CH_STAT.AUTORANGE, 1, .ro, false, 0⟩,
  ⟨MI_CH_STAT.SETTLE, 1, .ro, false, 0⟩,
  ⟨MI_CH_STAT.SAMPLE, 1, .ro, false, 0⟩,
  ⟨MI_AR.DN_CODE, 1, .rw, false, 300⟩,
  ⟨MI_AR.DN_COUNT, 1, .rw, false, 16⟩,
  ⟨MI_AR.HOLDOFF, 1, .rw, false, 8⟩,
  ⟨MI_AR_CNT.OUT, 1, .rc, false, 0⟩,
  ⟨MI_AR_CNT.IN, 1, .rc, false, 0⟩]

/-! ### Page 0x15 (R136) -/

def MI_SMAP_SEL.GROUP : Fld := ⟨0x15040, 0, 7⟩
def MI_SMAP.CH0 : Fld := ⟨0x15080, 0, 6⟩
def MI_SMAP.CH1 : Fld := ⟨0x15080, 8, 6⟩
def MI_SMAP.CH2 : Fld := ⟨0x15080, 16, 6⟩
def MI_SMAP.CH3 : Fld := ⟨0x15080, 24, 6⟩
def MI_SMAP_COMMIT.GO : Fld := ⟨0x150C0, 0, 1⟩
def MI_SMAP_STAT.RESULT : Fld := ⟨0x150C4, 0, 2⟩
def MI_SMAP_STAT.GROUP : Fld := ⟨0x150C4, 2, 7⟩
def MI_XCHK_CTRL.EN : Fld := ⟨0x15100, 0, 1⟩
def MI_XCHK_CTRL.TOL : Fld := ⟨0x15100, 8, 8⟩
def MI_XCHK_CTRL.STEADY : Fld := ⟨0x15100, 16, 8⟩
def MI_XCHK_CTRL.SUSPECT_N : Fld := ⟨0x15100, 24, 4⟩
def MI_XCHK_STAT.LAST_MI : Fld := ⟨0x15104, 0, 13⟩
def MI_XCHK_STAT.LAST_VALID : Fld := ⟨0x15104, 13, 1⟩
def MI_XCHK_RUN.RUN : Fld := ⟨0x15108, 0, 32⟩
def MI_XCHK_SKIP.SKIP : Fld := ⟨0x1510C, 0, 32⟩
def MI_XCHK_FAIL.FAIL : Fld := ⟨0x15110, 0, 16⟩

/-- Rows of page 0x15. -/
def rowsPage15a : List FldRow := [
  ⟨MI_SMAP_SEL.GROUP, 1, .rw, false, 0⟩,
  ⟨MI_SMAP.CH0, 16, .rw, false, 0⟩,
  ⟨MI_SMAP.CH1, 16, .rw, false, 0⟩,
  ⟨MI_SMAP.CH2, 16, .rw, false, 0⟩,
  ⟨MI_SMAP.CH3, 16, .rw, false, 0⟩,
  ⟨MI_SMAP_COMMIT.GO, 1, .wo, false, 0⟩,
  ⟨MI_SMAP_STAT.RESULT, 1, .ro, false, 0⟩,
  ⟨MI_SMAP_STAT.GROUP, 1, .ro, false, 0⟩,
  ⟨MI_XCHK_CTRL.EN, 1, .rw, false, 1⟩,
  ⟨MI_XCHK_CTRL.TOL, 1, .rw, false, 48⟩,
  ⟨MI_XCHK_CTRL.STEADY, 1, .rw, false, 48⟩,
  ⟨MI_XCHK_CTRL.SUSPECT_N, 1, .rw, false, 3⟩,
  ⟨MI_XCHK_STAT.LAST_MI, 1, .ro, false, 0⟩,
  ⟨MI_XCHK_STAT.LAST_VALID, 1, .ro, false, 0⟩,
  ⟨MI_XCHK_RUN.RUN, 1, .rc, false, 0⟩,
  ⟨MI_XCHK_SKIP.SKIP, 1, .rc, false, 0⟩,
  ⟨MI_XCHK_FAIL.FAIL, 1, .rc, false, 0⟩]

/-! ### Page 0x16 (R158) -/

def HL_CTRL.EN : Fld := ⟨0x16040, 0, 1⟩
def HL_CTRL.HOLDOFF : Fld := ⟨0x16040, 8, 4⟩
def HL_CTRL.INV_MAX : Fld := ⟨0x16040, 16, 8⟩
def HL_STAT.RUN : Fld := ⟨0x16044, 0, 1⟩
def HL_STAT.THROTTLE : Fld := ⟨0x16044, 1, 2⟩
def HL_STAT.OPEN : Fld := ⟨0x16044, 3, 1⟩
def HL_STAT.LOOPS : Fld := ⟨0x16044, 4, 13⟩
def HL_OOB_MAX.BEATS : Fld := ⟨0x16048, 0, 16⟩
def HL_OWN_SEL.DO : Fld := ⟨0x16050, 0, 14⟩
def HL_OWN_STAT.STATE : Fld := ⟨0x16054, 0, 4⟩
def HL_OWN_STAT.LOOP : Fld := ⟨0x16054, 4, 13⟩
def HL_OWN_STAT.HAS_LOOP : Fld := ⟨0x16054, 17, 1⟩
def HL_OVR.DO : Fld := ⟨0x16058, 0, 14⟩
def HL_OVR.LIVE : Fld := ⟨0x16058, 14, 1⟩
def HL_OVR.ACT : Fld := ⟨0x16058, 16, 2⟩
def HL_OVR.GO : Fld := ⟨0x16058, 31, 1⟩
def HL_OVR_STAT.RESULT : Fld := ⟨0x1605C, 0, 2⟩
def HL_OVR_STAT.REASON : Fld := ⟨0x1605C, 2, 4⟩
def HL_CNT.SAT : Fld := ⟨0x16060, 0, 16⟩
def HL_CNT.BLIND : Fld := ⟨0x16060, 16, 16⟩
def HL_CNT2.PREEMPT : Fld := ⟨0x16064, 0, 16⟩
def HL_CNT2.OOB : Fld := ⟨0x16064, 16, 16⟩

/-- Rows of page 0x16. -/
def rowsPage16a : List FldRow := [
  ⟨HL_CTRL.EN, 1, .rw, false, 0⟩,
  ⟨HL_CTRL.HOLDOFF, 1, .rw, false, 2⟩,
  ⟨HL_CTRL.INV_MAX, 1, .rw, false, 64⟩,
  ⟨HL_STAT.RUN, 1, .ro, false, 0⟩,
  ⟨HL_STAT.THROTTLE, 1, .ro, false, 0⟩,
  ⟨HL_STAT.OPEN, 1, .ro, false, 0⟩,
  ⟨HL_STAT.LOOPS, 1, .ro, false, 0⟩,
  ⟨HL_OOB_MAX.BEATS, 1, .rw, false, 2000⟩,
  ⟨HL_OWN_SEL.DO, 1, .rw, false, 0⟩,
  ⟨HL_OWN_STAT.STATE, 1, .ro, false, 0⟩,
  ⟨HL_OWN_STAT.LOOP, 1, .ro, false, 0⟩,
  ⟨HL_OWN_STAT.HAS_LOOP, 1, .ro, false, 0⟩,
  ⟨HL_OVR.DO, 1, .wo, false, 0⟩,
  ⟨HL_OVR.LIVE, 1, .wo, false, 0⟩,
  ⟨HL_OVR.ACT, 1, .wo, false, 0⟩,
  ⟨HL_OVR.GO, 1, .wo, false, 0⟩,
  ⟨HL_OVR_STAT.RESULT, 1, .ro, false, 0⟩,
  ⟨HL_OVR_STAT.REASON, 1, .ro, false, 0⟩,
  ⟨HL_CNT.SAT, 1, .rc, false, 0⟩,
  ⟨HL_CNT.BLIND, 1, .rc, false, 0⟩,
  ⟨HL_CNT2.PREEMPT, 1, .rc, false, 0⟩,
  ⟨HL_CNT2.OOB, 1, .rc, false, 0⟩]

/-! ### Page 0x17 (R159) -/

def HL_AT_CTRL.LIVE : Fld := ⟨0x17040, 0, 1⟩
def HL_AT_CTRL.CYCLES : Fld := ⟨0x17040, 4, 4⟩
def HL_AT_CTRL.TMAX : Fld := ⟨0x17040, 16, 16⟩
def HL_AT_REQ.LOOP : Fld := ⟨0x17044, 0, 13⟩
def HL_AT_REQ.APPLY : Fld := ⟨0x17044, 13, 1⟩
def HL_AT_REQ.AMP : Fld := ⟨0x17044, 16, 10⟩
def HL_AT_REQ.GO : Fld := ⟨0x17044, 31, 1⟩
def HL_AT_STAT.ACTIVE : Fld := ⟨0x17048, 0, 6⟩
def HL_AT_STAT.LOOP : Fld := ⟨0x17048, 6, 13⟩
def HL_AT_STAT.RESULT : Fld := ⟨0x17048, 19, 3⟩
def HL_AT_STAT.REASON : Fld := ⟨0x17048, 22, 3⟩
def HL_AT_RES0.PERIOD : Fld := ⟨0x1704C, 0, 16⟩
def HL_AT_RES1.SWING : Fld := ⟨0x17050, 0, 22⟩
def HL_AT_RES2.STEP : Fld := ⟨0x17054, 0, 10⟩
def HL_AT_RES2.STEP_FAR : Fld := ⟨0x17054, 10, 10⟩
def HL_AT_RES2.INTERVAL : Fld := ⟨0x17054, 20, 8⟩

/-- Rows of page 0x17. -/
def rowsPage17a : List FldRow := [
  ⟨HL_AT_CTRL.LIVE, 1, .rw, false, 0⟩,
  ⟨HL_AT_CTRL.CYCLES, 1, .rw, false, 4⟩,
  ⟨HL_AT_CTRL.TMAX, 1, .rw, false, 1000⟩,
  ⟨HL_AT_REQ.LOOP, 1, .rw, false, 0⟩,
  ⟨HL_AT_REQ.APPLY, 1, .rw, false, 0⟩,
  ⟨HL_AT_REQ.AMP, 1, .rw, false, 0⟩,
  ⟨HL_AT_REQ.GO, 1, .wo, false, 0⟩,
  ⟨HL_AT_STAT.ACTIVE, 1, .ro, false, 0⟩,
  ⟨HL_AT_STAT.LOOP, 1, .ro, false, 0⟩,
  ⟨HL_AT_STAT.RESULT, 1, .ro, false, 0⟩,
  ⟨HL_AT_STAT.REASON, 1, .ro, false, 0⟩,
  ⟨HL_AT_RES0.PERIOD, 1, .ro, false, 0⟩,
  ⟨HL_AT_RES1.SWING, 1, .ro, false, 0⟩,
  ⟨HL_AT_RES2.STEP, 1, .ro, false, 0⟩,
  ⟨HL_AT_RES2.STEP_FAR, 1, .ro, false, 0⟩,
  ⟨HL_AT_RES2.INTERVAL, 1, .ro, false, 0⟩]

/-! ### Page 0x18 (R262) -/

def NP_CTRL.EN : Fld := ⟨0x18040, 0, 1⟩
def NP_CTRL.SPEED : Fld := ⟨0x18040, 1, 1⟩
def NP_CTRL.AN_EN : Fld := ⟨0x18040, 2, 1⟩
def NP_STAT.LINK : Fld := ⟨0x18044, 0, 1⟩
def NP_STAT.AN_DONE : Fld := ⟨0x18044, 1, 1⟩
def NP_STAT.SPEED : Fld := ⟨0x18044, 2, 1⟩
def NP_STAT.PCS_SYNC : Fld := ⟨0x18044, 3, 1⟩
def NP_STAT.REMOTE_FAULT : Fld := ⟨0x18044, 4, 1⟩
def NP_VLAN.PVID : Fld := ⟨0x18048, 0, 12⟩
def NP_VLAN.PCP : Fld := ⟨0x18048, 12, 3⟩
def NP_VLAN.UNTAG_OK : Fld := ⟨0x18048, 16, 1⟩
def NP_MAXLEN.MAXLEN : Fld := ⟨0x1804C, 0, 11⟩
def NP_ERR.CRC : Fld := ⟨0x18060, 0, 16⟩
def NP_ERR.LEN : Fld := ⟨0x18060, 16, 16⟩
def NP_DROP.POLICE : Fld := ⟨0x18064, 0, 16⟩
def NP_DROP.VLAN : Fld := ⟨0x18064, 16, 16⟩
def NP_DROP2.PAUSE : Fld := ⟨0x18068, 0, 16⟩
def NP_DROP2.DUP : Fld := ⟨0x18068, 16, 16⟩

/-- Rows of page 0x18. -/
def rowsPage18a : List FldRow := [
  ⟨NP_CTRL.EN, 1, .rw, false, 0⟩,
  ⟨NP_CTRL.SPEED, 1, .rw, false, 0⟩,
  ⟨NP_CTRL.AN_EN, 1, .rw, false, 1⟩,
  ⟨NP_STAT.LINK, 1, .ro, false, 0⟩,
  ⟨NP_STAT.AN_DONE, 1, .ro, false, 0⟩,
  ⟨NP_STAT.SPEED, 1, .ro, false, 0⟩,
  ⟨NP_STAT.PCS_SYNC, 1, .ro, false, 0⟩,
  ⟨NP_STAT.REMOTE_FAULT, 1, .ro, false, 0⟩,
  ⟨NP_VLAN.PVID, 1, .rw, false, 1⟩,
  ⟨NP_VLAN.PCP, 1, .rw, false, 0⟩,
  ⟨NP_VLAN.UNTAG_OK, 1, .rw, false, 1⟩,
  ⟨NP_MAXLEN.MAXLEN, 1, .rw, false, 1522⟩,
  ⟨NP_ERR.CRC, 1, .rc, false, 0⟩,
  ⟨NP_ERR.LEN, 1, .rc, false, 0⟩,
  ⟨NP_DROP.POLICE, 1, .rc, false, 0⟩,
  ⟨NP_DROP.VLAN, 1, .rc, false, 0⟩,
  ⟨NP_DROP2.PAUSE, 1, .rc, false, 0⟩,
  ⟨NP_DROP2.DUP, 1, .rc, false, 0⟩]

/-! ### Page 0x1B (R263) -/

def QS_CTRL.REDUN : Fld := ⟨0x1B040, 0, 2⟩
def QS_CTRL.PTP_Q7 : Fld := ⟨0x1B040, 2, 1⟩
def QS_CTRL.REDBOX : Fld := ⟨0x1B040, 3, 1⟩
def QS_CUE.ETYPE : Fld := ⟨0x1B044, 0, 16⟩
def QS_MAC_LO.MAC : Fld := ⟨0x1B048, 0, 32⟩
def QS_MAC_HI.MAC : Fld := ⟨0x1B04C, 0, 16⟩
def QS_PCPMAP.MAP : Fld := ⟨0x1B050, 0, 24⟩
def QS_SEL.QUEUE : Fld := ⟨0x1B060, 0, 3⟩
def QS_SEL.PORT : Fld := ⟨0x1B060, 4, 2⟩
def QS_RATE.RATE : Fld := ⟨0x1B064, 0, 22⟩
def QS_RATE.EN : Fld := ⟨0x1B064, 31, 1⟩
def QS_BURST.BURST : Fld := ⟨0x1B068, 0, 16⟩
def QS_QLIM.LIMIT : Fld := ⟨0x1B06C, 0, 13⟩
def QS_QSTAT.LEVEL : Fld := ⟨0x1B070, 0, 13⟩
def QS_QSTAT.HELD : Fld := ⟨0x1B070, 13, 1⟩
def QS_CREDIT.CREDIT : Fld := ⟨0x1B074, 0, 32⟩
def QS_QCNT.TAIL : Fld := ⟨0x1B078, 0, 16⟩
def QS_QCNT.OVERSIZE : Fld := ⟨0x1B078, 16, 16⟩
def QS_LONGEST.WINDOW : Fld := ⟨0x1B07C, 0, 30⟩
def QS_NODE.COUNT : Fld := ⟨0x1B080, 0, 10⟩
def QS_NODE.FULL : Fld := ⟨0x1B080, 10, 1⟩
def QS_NODE.PATH : Fld := ⟨0x1B080, 16, 10⟩
def QS_CNT.OOW : Fld := ⟨0x1B084, 0, 16⟩
def QS_CNT.CUE_DISC : Fld := ⟨0x1B084, 16, 16⟩
def QS_SUP.LIFE : Fld := ⟨0x1B088, 0, 16⟩
def QS_SUP.FORGET : Fld := ⟨0x1B088, 16, 16⟩
def QS_AGE.AGE : Fld := ⟨0x1B08C, 0, 16⟩
def QS_VLAN_SEL.ENTRY : Fld := ⟨0x1B090, 0, 6⟩
def QS_VLAN.VID : Fld := ⟨0x1B094, 0, 12⟩
def QS_VLAN.MEMBER : Fld := ⟨0x1B094, 12, 4⟩
def QS_VLAN.UNTAG : Fld := ⟨0x1B094, 16, 4⟩
def QS_VLAN.VALID : Fld := ⟨0x1B094, 31, 1⟩

/-- Rows of page 0x1B. -/
def rowsPage1Ba : List FldRow := [
  ⟨QS_CTRL.REDUN, 1, .rw, false, 0⟩,
  ⟨QS_CTRL.PTP_Q7, 1, .rw, false, 1⟩,
  ⟨QS_CTRL.REDBOX, 1, .rw, false, 0⟩,
  ⟨QS_CUE.ETYPE, 1, .rw, false, 34997⟩,
  ⟨QS_MAC_LO.MAC, 1, .rw, false, 0⟩,
  ⟨QS_MAC_HI.MAC, 1, .rw, false, 0⟩,
  ⟨QS_PCPMAP.MAP, 4, .rw, false, 16434824⟩,
  ⟨QS_SEL.QUEUE, 1, .rw, false, 0⟩,
  ⟨QS_SEL.PORT, 1, .rw, false, 0⟩,
  ⟨QS_RATE.RATE, 1, .rw, false, 2500000⟩,
  ⟨QS_RATE.EN, 1, .rw, false, 0⟩,
  ⟨QS_BURST.BURST, 1, .rw, false, 65535⟩,
  ⟨QS_QLIM.LIMIT, 1, .rw, false, 512⟩,
  ⟨QS_QSTAT.LEVEL, 1, .ro, false, 0⟩,
  ⟨QS_QSTAT.HELD, 1, .ro, false, 0⟩,
  ⟨QS_CREDIT.CREDIT, 1, .ro, false, 0⟩,
  ⟨QS_QCNT.TAIL, 1, .rc, false, 0⟩,
  ⟨QS_QCNT.OVERSIZE, 1, .rc, false, 0⟩,
  ⟨QS_LONGEST.WINDOW, 1, .ro, false, 1073741823⟩,
  ⟨QS_NODE.COUNT, 1, .ro, false, 0⟩,
  ⟨QS_NODE.FULL, 1, .ro, false, 0⟩,
  ⟨QS_NODE.PATH, 1, .ro, false, 0⟩,
  ⟨QS_CNT.OOW, 1, .rc, false, 0⟩,
  ⟨QS_CNT.CUE_DISC, 1, .rc, false, 0⟩,
  ⟨QS_SUP.LIFE, 1, .rw, false, 2000⟩,
  ⟨QS_SUP.FORGET, 1, .rw, false, 60⟩,
  ⟨QS_AGE.AGE, 1, .rw, false, 300⟩,
  ⟨QS_VLAN_SEL.ENTRY, 1, .rw, false, 0⟩,
  ⟨QS_VLAN.VID, 1, .rw, false, 0⟩,
  ⟨QS_VLAN.MEMBER, 1, .rw, false, 0⟩,
  ⟨QS_VLAN.UNTAG, 1, .rw, false, 0⟩,
  ⟨QS_VLAN.VALID, 1, .rw, false, 0⟩]

/-! ### Page 0x1C (R264) -/

def PL_SEL.POL : Fld := ⟨0x1C040, 0, 6⟩
def PL_MATCH.PORTS : Fld := ⟨0x1C044, 0, 4⟩
def PL_MATCH.PCP : Fld := ⟨0x1C044, 4, 8⟩
def PL_MATCH.VID : Fld := ⟨0x1C044, 12, 12⟩
def PL_MATCH.ANY_VID : Fld := ⟨0x1C044, 24, 1⟩
def PL_MATCH.EN : Fld := ⟨0x1C044, 31, 1⟩
def PL_ETYPE.ETYPE : Fld := ⟨0x1C048, 0, 16⟩
def PL_ETYPE.ANY_ETYPE : Fld := ⟨0x1C048, 16, 1⟩
def PL_RATE.RATE : Fld := ⟨0x1C04C, 0, 22⟩
def PL_BURST.BURST : Fld := ⟨0x1C050, 0, 16⟩
def PL_STAT.TOKENS : Fld := ⟨0x1C054, 0, 17⟩
def PL_CNT.DROP : Fld := ⟨0x1C058, 0, 32⟩

/-- Rows of page 0x1C. -/
def rowsPage1Ca : List FldRow := [
  ⟨PL_SEL.POL, 1, .rw, false, 0⟩,
  ⟨PL_MATCH.PORTS, 1, .rw, false, 0⟩,
  ⟨PL_MATCH.PCP, 1, .rw, false, 255⟩,
  ⟨PL_MATCH.VID, 1, .rw, false, 0⟩,
  ⟨PL_MATCH.ANY_VID, 1, .rw, false, 1⟩,
  ⟨PL_MATCH.EN, 1, .rw, false, 0⟩,
  ⟨PL_ETYPE.ETYPE, 1, .rw, false, 0⟩,
  ⟨PL_ETYPE.ANY_ETYPE, 1, .rw, false, 1⟩,
  ⟨PL_RATE.RATE, 1, .rw, false, 2500000⟩,
  ⟨PL_BURST.BURST, 1, .rw, false, 65535⟩,
  ⟨PL_STAT.TOKENS, 1, .ro, false, 0⟩,
  ⟨PL_CNT.DROP, 1, .rc, false, 0⟩]

/-! ### Page 0x1D (R265) -/

def GT_CTRL.EN : Fld := ⟨0x1D040, 1, 3⟩
def GT_CTRL.OPER : Fld := ⟨0x1D040, 9, 3⟩
def GT_ADDR.INDEX : Fld := ⟨0x1D044, 0, 7⟩
def GT_ADDR.BANK : Fld := ⟨0x1D044, 8, 1⟩
def GT_ADDR.PORT : Fld := ⟨0x1D044, 10, 2⟩
def GT_DATA.ENTRY : Fld := ⟨0x1D048, 0, 32⟩
def GT_COUNT.COUNT : Fld := ⟨0x1D04C, 0, 8⟩
def GT_CYCLE.CYCLE : Fld := ⟨0x1D050, 0, 30⟩
def GT_OFFSET.OFFSET : Fld := ⟨0x1D054, 0, 30⟩
def GT_CHG_S_LO.SEC : Fld := ⟨0x1D058, 0, 32⟩
def GT_CHG_S_HI.SEC : Fld := ⟨0x1D05C, 0, 16⟩
def GT_CHG_NS.NS : Fld := ⟨0x1D060, 0, 30⟩
def GT_CHG.GO : Fld := ⟨0x1D064, 1, 3⟩
def GT_STAT.PEND : Fld := ⟨0x1D068, 1, 3⟩
def GT_STAT.ERR : Fld := ⟨0x1D068, 5, 3⟩

/-- Rows of page 0x1D. -/
def rowsPage1Da : List FldRow := [
  ⟨GT_CTRL.EN, 1, .rw, false, 0⟩,
  ⟨GT_CTRL.OPER, 1, .ro, true, 0⟩,
  ⟨GT_ADDR.INDEX, 1, .rw, false, 0⟩,
  ⟨GT_ADDR.BANK, 1, .rw, false, 0⟩,
  ⟨GT_ADDR.PORT, 1, .rw, false, 1⟩,
  ⟨GT_DATA.ENTRY, 1, .rw, false, 0⟩,
  ⟨GT_COUNT.COUNT, 1, .rw, false, 1⟩,
  ⟨GT_CYCLE.CYCLE, 1, .rw, false, 1000000⟩,
  ⟨GT_OFFSET.OFFSET, 1, .rw, false, 0⟩,
  ⟨GT_CHG_S_LO.SEC, 1, .rw, false, 0⟩,
  ⟨GT_CHG_S_HI.SEC, 1, .rw, false, 0⟩,
  ⟨GT_CHG_NS.NS, 1, .rw, false, 0⟩,
  ⟨GT_CHG.GO, 1, .wo, false, 0⟩,
  ⟨GT_STAT.PEND, 1, .ro, false, 0⟩,
  ⟨GT_STAT.ERR, 1, .ro, false, 0⟩]

/-! ### Page 0x1E (R278) -/

def NT_CTRL.SERVO_EN : Fld := ⟨0x1E040, 0, 1⟩
def NT_CTRL.STEP_EN : Fld := ⟨0x1E040, 1, 1⟩
def NT_CTRL.TC_EN : Fld := ⟨0x1E040, 2, 1⟩
def NT_CTRL.TWO_STEP : Fld := ⟨0x1E040, 3, 1⟩
def NT_CTRL.PPS_REF : Fld := ⟨0x1E040, 4, 1⟩
def NT_CTRL.PPS_OUT_EN : Fld := ⟨0x1E040, 5, 1⟩
def NT_STAT.LOCKED : Fld := ⟨0x1E044, 0, 1⟩
def NT_STAT.HOLDOVER : Fld := ⟨0x1E044, 1, 1⟩
def NT_STAT.ALIGNED : Fld := ⟨0x1E044, 2, 1⟩
def NT_STAT.REFCLK_OK : Fld := ⟨0x1E044, 3, 1⟩
def NT_STAT.PORT : Fld := ⟨0x1E044, 4, 2⟩
def NT_SNAP.GO : Fld := ⟨0x1E048, 0, 1⟩
def NT_RD_SEC_LO.SEC : Fld := ⟨0x1E04C, 0, 32⟩
def NT_RD_SEC_HI.SEC : Fld := ⟨0x1E050, 0, 16⟩
def NT_RD_SEC_HI.FRAC : Fld := ⟨0x1E050, 16, 16⟩
def NT_RD_NS.NS : Fld := ⟨0x1E054, 0, 30⟩
def NT_BEAT_LO.BEATNO : Fld := ⟨0x1E058, 0, 32⟩
def NT_BEAT_HI.BEATNO : Fld := ⟨0x1E05C, 0, 32⟩
def NT_RATE.RATE : Fld := ⟨0x1E060, 0, 32⟩
def NT_OFFSET.OFFSET : Fld := ⟨0x1E064, 0, 32⟩
def NT_PHASE.PHI : Fld := ⟨0x1E068, 0, 16⟩
def NT_REALIGN.J : Fld := ⟨0x1E06C, 0, 16⟩
def NT_REALIGN.BEAT : Fld := ⟨0x1E06C, 16, 16⟩
def NT_STEP.DELTA : Fld := ⟨0x1E070, 0, 32⟩
def NT_STEP_N.COMPL : Fld := ⟨0x1E074, 0, 32⟩
def NT_SERVO.STEP_TH : Fld := ⟨0x1E078, 0, 16⟩
def NT_SERVO.LOCK_TH : Fld := ⟨0x1E078, 16, 8⟩
def NT_SERVO.KP : Fld := ⟨0x1E078, 24, 4⟩
def NT_SERVO.KI : Fld := ⟨0x1E078, 28, 4⟩
def NT_PTP.DOMAIN : Fld := ⟨0x1E07C, 0, 8⟩
def NT_PTP.LOG_SYNC : Fld := ⟨0x1E07C, 8, 3⟩
def NT_PTP.LOSS : Fld := ⟨0x1E07C, 16, 4⟩
def NT_CORR.TX : Fld := ⟨0x1E080, 0, 16⟩
def NT_CORR.RX : Fld := ⟨0x1E080, 16, 16⟩
def NT_PDELAY.DELAY : Fld := ⟨0x1E08C, 0, 24⟩
def NT_PPS.OFFSET : Fld := ⟨0x1E094, 0, 20⟩
def NT_PPS.WIDTH : Fld := ⟨0x1E094, 20, 9⟩
def NT_PPS_IN.NS : Fld := ⟨0x1E098, 0, 30⟩
def NT_GM.ID : Fld := ⟨0x1E09C, 0, 32⟩
def NT_GM2.INACC : Fld := ⟨0x1E0A4, 0, 32⟩
def NT_CNT.STEPS : Fld := ⟨0x1E0A8, 0, 16⟩
def NT_CNT.REALIGN : Fld := ⟨0x1E0A8, 16, 16⟩

/-- Rows of page 0x1E. -/
def rowsPage1Ea : List FldRow := [
  ⟨NT_CTRL.SERVO_EN, 1, .rw, false, 1⟩,
  ⟨NT_CTRL.STEP_EN, 1, .rw, false, 1⟩,
  ⟨NT_CTRL.TC_EN, 1, .rw, false, 1⟩,
  ⟨NT_CTRL.TWO_STEP, 1, .rw, false, 0⟩,
  ⟨NT_CTRL.PPS_REF, 1, .rw, false, 0⟩,
  ⟨NT_CTRL.PPS_OUT_EN, 1, .rw, false, 0⟩,
  ⟨NT_STAT.LOCKED, 1, .ro, false, 0⟩,
  ⟨NT_STAT.HOLDOVER, 1, .ro, false, 0⟩,
  ⟨NT_STAT.ALIGNED, 1, .ro, false, 0⟩,
  ⟨NT_STAT.REFCLK_OK, 1, .ro, false, 0⟩,
  ⟨NT_STAT.PORT, 1, .ro, false, 0⟩,
  ⟨NT_SNAP.GO, 1, .wo, false, 0⟩,
  ⟨NT_RD_SEC_LO.SEC, 1, .ro, false, 0⟩,
  ⟨NT_RD_SEC_HI.SEC, 1, .ro, false, 0⟩,
  ⟨NT_RD_SEC_HI.FRAC, 1, .ro, false, 0⟩,
  ⟨NT_RD_NS.NS, 1, .ro, false, 0⟩,
  ⟨NT_BEAT_LO.BEATNO, 1, .ro, false, 0⟩,
  ⟨NT_BEAT_HI.BEATNO, 1, .ro, false, 0⟩,
  ⟨NT_RATE.RATE, 1, .rw, false, 0⟩,
  ⟨NT_OFFSET.OFFSET, 1, .ro, false, 0⟩,
  ⟨NT_PHASE.PHI, 1, .ro, false, 0⟩,
  ⟨NT_REALIGN.J, 1, .ro, false, 0⟩,
  ⟨NT_REALIGN.BEAT, 1, .ro, false, 0⟩,
  ⟨NT_STEP.DELTA, 1, .pw, false, 0⟩,
  ⟨NT_STEP_N.COMPL, 1, .wo, false, 0⟩,
  ⟨NT_SERVO.STEP_TH, 1, .rw, false, 10000⟩,
  ⟨NT_SERVO.LOCK_TH, 1, .rw, false, 20⟩,
  ⟨NT_SERVO.KP, 1, .rw, false, 2⟩,
  ⟨NT_SERVO.KI, 1, .rw, false, 6⟩,
  ⟨NT_PTP.DOMAIN, 1, .rw, false, 0⟩,
  ⟨NT_PTP.LOG_SYNC, 1, .rw, false, 0⟩,
  ⟨NT_PTP.LOSS, 1, .rw, false, 4⟩,
  ⟨NT_CORR.TX, 3, .rw, false, 0⟩,
  ⟨NT_CORR.RX, 3, .rw, false, 0⟩,
  ⟨NT_PDELAY.DELAY, 2, .ro, false, 0⟩,
  ⟨NT_PPS.OFFSET, 1, .rw, false, 0⟩,
  ⟨NT_PPS.WIDTH, 1, .rw, false, 100⟩,
  ⟨NT_PPS_IN.NS, 1, .ro, false, 0⟩,
  ⟨NT_GM.ID, 2, .ro, false, 0⟩,
  ⟨NT_GM2.INACC, 1, .ro, false, 0⟩,
  ⟨NT_CNT.STEPS, 1, .rc, false, 0⟩,
  ⟨NT_CNT.REALIGN, 1, .rc, false, 0⟩]

/-! ### Page 0x1F (R298, R389) -/

def KY_KDATA.DATA : Fld := ⟨0x1F040, 0, 32⟩
def KY_KLOAD.SLOT : Fld := ⟨0x1F060, 0, 4⟩
def KY_KLOAD.ERASE : Fld := ⟨0x1F060, 4, 1⟩
def KY_KLOAD.GO : Fld := ⟨0x1F060, 31, 1⟩
def KY_KLOAD_N.COMPL : Fld := ⟨0x1F064, 0, 32⟩
def KY_KSTAT.RESULT : Fld := ⟨0x1F068, 0, 2⟩
def KY_KSTAT.REASON : Fld := ⟨0x1F068, 2, 4⟩
def KY_KSTAT.VALID : Fld := ⟨0x1F068, 16, 16⟩
def KY_SVN.MIN : Fld := ⟨0x1F070, 0, 6⟩
def KY_SVN.RUN : Fld := ⟨0x1F070, 8, 6⟩
def KY_SVN.REVOKED : Fld := ⟨0x1F070, 16, 4⟩
def KY_SIG_STAT.RESULT : Fld := ⟨0x1F074, 0, 2⟩
def KY_SIG_STAT.REASON : Fld := ⟨0x1F074, 2, 4⟩
def KY_SIG_STAT.KEY_ID : Fld := ⟨0x1F074, 6, 2⟩

/-- Rows of page 0x1F. -/
def rowsPage1Fa : List FldRow := [
  ⟨KY_KDATA.DATA, 8, .wo, false, 0⟩,
  ⟨KY_KLOAD.SLOT, 1, .pw, false, 0⟩,
  ⟨KY_KLOAD.ERASE, 1, .pw, false, 0⟩,
  ⟨KY_KLOAD.GO, 1, .pw, false, 0⟩,
  ⟨KY_KLOAD_N.COMPL, 1, .wo, false, 0⟩,
  ⟨KY_KSTAT.RESULT, 1, .ro, false, 0⟩,
  ⟨KY_KSTAT.REASON, 1, .ro, false, 0⟩,
  ⟨KY_KSTAT.VALID, 1, .ro, false, 0⟩,
  ⟨KY_SVN.MIN, 1, .ro, false, 0⟩,
  ⟨KY_SVN.RUN, 1, .ro, false, 0⟩,
  ⟨KY_SVN.REVOKED, 1, .ro, false, 0⟩,
  ⟨KY_SIG_STAT.RESULT, 1, .ro, false, 0⟩,
  ⟨KY_SIG_STAT.REASON, 1, .ro, false, 0⟩,
  ⟨KY_SIG_STAT.KEY_ID, 1, .ro, false, 0⟩]

/-! ### Page 0x20 (R116) -/

def DG_CTRL.SCHEME : Fld := ⟨0x20040, 0, 2⟩
def DG_CTRL.RATE : Fld := ⟨0x20040, 2, 2⟩
def DG_STAT.FIFO_LVL : Fld := ⟨0x20044, 0, 9⟩
def DG_STAT.COMP : Fld := ⟨0x20044, 9, 1⟩
def DG_FIFO.ENTRY : Fld := ⟨0x20048, 0, 32⟩
def DG_TMR_AT.BEAT : Fld := ⟨0x2004C, 0, 16⟩
def DG_TMR_AT.OFFSET : Fld := ⟨0x2004C, 16, 10⟩
def DG_TMR_VAL.VALUE : Fld := ⟨0x20050, 0, 14⟩
def DG_TMR_VAL.INDEX : Fld := ⟨0x20050, 14, 6⟩
def DG_TMR_VAL.CAL : Fld := ⟨0x20050, 20, 1⟩
def DG_COMP_LO.COMP : Fld := ⟨0x20054, 0, 32⟩
def DG_COMP_HI.COMP : Fld := ⟨0x20058, 0, 32⟩
def DG_CNT.OVF : Fld := ⟨0x2005C, 0, 8⟩
def DG_CNT.UNDER : Fld := ⟨0x2005C, 8, 8⟩
def DG_CNT.LATE : Fld := ⟨0x2005C, 16, 8⟩
def DG_CNT.FOREIGN : Fld := ⟨0x2005C, 24, 8⟩

/-- Rows of page 0x20. -/
def rowsPage20a : List FldRow := [
  ⟨DG_CTRL.SCHEME, 1, .rw, false, 0⟩,
  ⟨DG_CTRL.RATE, 1, .rw, false, 0⟩,
  ⟨DG_STAT.FIFO_LVL, 1, .ro, false, 0⟩,
  ⟨DG_STAT.COMP, 1, .ro, false, 0⟩,
  ⟨DG_FIFO.ENTRY, 1, .wo, false, 0⟩,
  ⟨DG_TMR_AT.BEAT, 1, .rw, false, 0⟩,
  ⟨DG_TMR_AT.OFFSET, 1, .rw, false, 0⟩,
  ⟨DG_TMR_VAL.VALUE, 1, .wo, false, 0⟩,
  ⟨DG_TMR_VAL.INDEX, 1, .wo, false, 0⟩,
  ⟨DG_TMR_VAL.CAL, 1, .wo, false, 0⟩,
  ⟨DG_COMP_LO.COMP, 1, .w1c, false, 0⟩,
  ⟨DG_COMP_HI.COMP, 1, .w1c, false, 0⟩,
  ⟨DG_CNT.OVF, 1, .rc, false, 0⟩,
  ⟨DG_CNT.UNDER, 1, .rc, false, 0⟩,
  ⟨DG_CNT.LATE, 1, .rc, false, 0⟩,
  ⟨DG_CNT.FOREIGN, 1, .rc, false, 0⟩]

/-! ### Page 0x2A (R137) -/

def MG_STAT.RUN : Fld := ⟨0x2A040, 0, 1⟩
def MG_STAT.ZERO_ERR : Fld := ⟨0x2A040, 1, 1⟩
def MG_STAT.REF_ERR : Fld := ⟨0x2A040, 2, 1⟩
def MG_STAT.SUSPECT : Fld := ⟨0x2A040, 3, 1⟩
def MG_ZERO.ZERO : Fld := ⟨0x2A044, 0, 16⟩
def MG_REF.REF : Fld := ⟨0x2A048, 0, 12⟩
def MG_HK0.BIAS : Fld := ⟨0x2A04C, 0, 12⟩
def MG_HK0.SUPPLY : Fld := ⟨0x2A04C, 16, 12⟩
def MG_HK1.TEMP : Fld := ⟨0x2A050, 0, 12⟩
def MG_HK1.GND : Fld := ⟨0x2A050, 16, 12⟩
def MG_SUSPECT_LO.SUSPECT : Fld := ⟨0x2A054, 0, 32⟩
def MG_SUSPECT_HI.SUSPECT : Fld := ⟨0x2A058, 0, 32⟩
def MG_CNT.XFAIL : Fld := ⟨0x2A05C, 0, 8⟩
def MG_CNT.AR_OUT : Fld := ⟨0x2A05C, 8, 8⟩
def MG_CNT.CLIP : Fld := ⟨0x2A05C, 16, 8⟩
def MG_CNT.MISSED : Fld := ⟨0x2A05C, 24, 8⟩

/-- Rows of page 0x2A. -/
def rowsPage2Aa : List FldRow := [
  ⟨MG_STAT.RUN, 1, .ro, false, 0⟩,
  ⟨MG_STAT.ZERO_ERR, 1, .ro, false, 0⟩,
  ⟨MG_STAT.REF_ERR, 1, .ro, false, 0⟩,
  ⟨MG_STAT.SUSPECT, 1, .ro, false, 0⟩,
  ⟨MG_ZERO.ZERO, 1, .ro, false, 0⟩,
  ⟨MG_REF.REF, 1, .ro, false, 0⟩,
  ⟨MG_HK0.BIAS, 1, .ro, false, 0⟩,
  ⟨MG_HK0.SUPPLY, 1, .ro, false, 0⟩,
  ⟨MG_HK1.TEMP, 1, .ro, false, 0⟩,
  ⟨MG_HK1.GND, 1, .ro, false, 0⟩,
  ⟨MG_SUSPECT_LO.SUSPECT, 1, .w1c, false, 0⟩,
  ⟨MG_SUSPECT_HI.SUSPECT, 1, .w1c, false, 0⟩,
  ⟨MG_CNT.XFAIL, 1, .rc, false, 0⟩,
  ⟨MG_CNT.AR_OUT, 1, .rc, false, 0⟩,
  ⟨MG_CNT.CLIP, 1, .rc, false, 0⟩,
  ⟨MG_CNT.MISSED, 1, .rc, false, 0⟩]

/-! ### Page 0x30 (R160) -/

def LN_STAT.ASSIGNED : Fld := ⟨0x30040, 0, 8⟩
def LN_STAT.DONE : Fld := ⟨0x30040, 8, 8⟩
def LN_STAT.DEFER : Fld := ⟨0x30040, 16, 8⟩
def LN_STAT.TUNING : Fld := ⟨0x30040, 24, 1⟩
def LN_CNT.OVR : Fld := ⟨0x30044, 0, 16⟩
def LN_CNT.SKIP : Fld := ⟨0x30044, 16, 16⟩
def LN_ECC.CORR : Fld := ⟨0x30048, 0, 16⟩
def LN_ECC.UNCORR : Fld := ⟨0x30048, 16, 8⟩
def LN_TIME.CYCLES : Fld := ⟨0x3004C, 0, 13⟩

/-- Rows of page 0x30. -/
def rowsPage30a : List FldRow := [
  ⟨LN_STAT.ASSIGNED, 1, .ro, false, 0⟩,
  ⟨LN_STAT.DONE, 1, .ro, false, 0⟩,
  ⟨LN_STAT.DEFER, 1, .ro, false, 0⟩,
  ⟨LN_STAT.TUNING, 1, .ro, false, 0⟩,
  ⟨LN_CNT.OVR, 1, .rc, false, 0⟩,
  ⟨LN_CNT.SKIP, 1, .rc, false, 0⟩,
  ⟨LN_ECC.CORR, 1, .rc, false, 0⟩,
  ⟨LN_ECC.UNCORR, 1, .rc, false, 0⟩,
  ⟨LN_TIME.CYCLES, 1, .ro, false, 0⟩]

/-- Every row of every register table but the header's. -/
def fieldRows : List FldRow :=
  rowsPage00a ++ rowsPage01a ++ rowsPage02a ++ rowsPage03a ++ rowsPage04a ++ rowsPage05a ++ rowsPage06a ++ rowsPage07a ++ rowsPage08a ++ rowsPage09a ++ rowsPage0Aa ++ rowsPage0Ba ++ rowsPage0Ca ++ rowsPage0Da ++ rowsPage0Ea ++
  rowsPage0Fa ++ rowsPage10a ++ rowsPage11a ++ rowsPage12a ++ rowsPage13a ++ rowsPage14a ++ rowsPage15a ++ rowsPage16a ++ rowsPage17a ++ rowsPage18a ++
  rowsPage1Ba ++ rowsPage1Ca ++ rowsPage1Da ++ rowsPage1Ea ++ rowsPage1Fa ++ rowsPage20a ++ rowsPage2Aa ++ rowsPage30a

/-- The last byte of a page's header (R336). -/
def headerEnd : Nat := 0x40

/-- Drive groups, monitor groups, lanes and ports repeat one register block (R116, R137, R160, R262): the address of a
register in the block of group 0, lane 0 or port P1. Every other address is its own; a bank of a register is the register. -/
def canonKey (k : Nat) : Nat :=
  let key := k % 0x100000
  let page := key / 0x1000
  let off := key % 0x1000
  if off < headerEnd then off
  else if 0x20 ≤ page ∧ page ≤ 0x29 ∧ off < 0x240 then 0x20040 + (off - 0x40) % 0x20
  else if 0x2A ≤ page ∧ page ≤ 0x2F ∧ off < 0x240 then 0x2A040 + (off - 0x40) % 0x20
  else if page = 0x19 ∨ page = 0x1A then 0x18000 + off
  else if (page = 0x30 ∨ page = 0x31) ∧ off < 0x140 then 0x30040 + (off - 0x40) % 0x10
  else key

/-- The TYPE of a page: the first page of its block (R335). -/
def blockType (page : Nat) : Nat :=
  if page < 0x10 then page
  else if page < 0x14 then 0x10
  else if page < 0x16 then 0x14
  else if page < 0x18 then 0x16
  else if page < 0x1B then 0x18
  else if page < 0x20 then page
  else if page < 0x2A then 0x20
  else if page < 0x30 then 0x2A
  else 0x30

/-- Does the row describe a field of the register at this canonical address? -/
def FldRow.covers (r : FldRow) (key : Nat) : Bool :=
  Nat.ble r.fld.key key && Nat.blt key (r.fld.key + 4 * r.count) && Nat.beq ((key - r.fld.key) % 4) 0

/-- The rows of one register (of the header, for a header offset of an implemented page). -/
def rowsOf (key : Nat) : List FldRow :=
  let k := canonKey key
  if k < headerEnd then headerRows.filter (fun r => r.covers k) else fieldRows.filter (fun r => r.covers k)

/-- The bits of a register with the given access (R7). -/
def accMask (p : FldRow → Bool) (key : Nat) : Nat :=
  ((rowsOf key).filter p).foldl (fun a r => a + (2 ^ r.fld.w - 1) * 2 ^ r.fld.lo) 0

/-- How many events the chapter of a page names; they are its lowest bits, and the others are reserved (R336). -/
def eventBits (page : Nat) : Nat :=
  if 0x20 ≤ page then 16
  else [0, 4, 5, 6, 7, 3, 4, 3, 8, 9, 7, 4, 6, 7, 8, 6, 5, 3, 1, 3, 3, 4, 6, 2, 3, 3, 3, 4, 1, 2, 6, 2].getD page 0

/-- The bits of a register a direct 32-bit write stores (rw); of EVT_EN those of the page's events (R336). -/
def rwMask (key : Nat) : Nat :=
  if canonKey key = EVT_EN.EN.key then 2 ^ eventBits (key % 0x100000 / 0x1000) - 1 else accMask (fun r => r.acc == .rw) key

/-- The bits a 32-bit read clears (rc). -/
def rcMask (key : Nat) : Nat := accMask (fun r => r.acc == .rc) key

/-- The bits a written 1 clears (w1c). -/
def w1cMask (key : Nat) : Nat := accMask (fun r => r.acc == .w1c) key

/-- The write-only bits. -/
def woMask (key : Nat) : Nat := accMask (fun r => r.acc == .wo) key

/-- The bits that change only by a completed pair (pw). -/
def pwMask (key : Nat) : Nat := accMask (fun r => r.acc == .pw) key

/-- The voted bits (tv). -/
def tvMask (key : Nat) : Nat := accMask (fun r => r.voted) key

/-- The reset word that the tables give a register (R9). -/
def tableReset (key : Nat) : Nat := (rowsOf key).foldl (fun a r => a + r.reset * 2 ^ r.fld.lo) 0

/-- The registers whose reset word is not zero, by canonical address. -/
def resetWords : List (Nat × Nat) := [
  (0x00040, 0x9512), (0x01044, 0x1), (0x01054, 0x1), (0x02048, 0x802), (0x02060, 0xAAAAAAA),
  (0x02064, 0xEEEEEEE), (0x02068, 0x8888888), (0x0206C, 0x2222222), (0x02070, 0xDDDDDDD), (0x02074, 0x9999999),
  (0x02078, 0xCCCCCCC), (0x02080, 0x4506220), (0x04040, 0x37D7369), (0x04044, 0x5546), (0x06084, 0x186A0),
  (0x0608C, 0x10), (0x07060, 0x88B60000), (0x08040, 0x20), (0x08044, 0x1), (0x08088, 0x3C0000),
  (0x09040, 0x803), (0x09048, 0x3C), (0x09070, 0x10), (0x09074, 0x800), (0x09078, 0x19A),
  (0x0A08C, 0x80000), (0x0A098, 0xFFFF), (0x0B048, 0xFFFF01FF), (0x0C040, 0x10801), (0x0C044, 0x2580C80),
  (0x0D040, 0x6), (0x0D044, 0x100190), (0x0E040, 0x40001C), (0x0E044, 0x1E), (0x0E048, 0xE10),
  (0x0E060, 0x81064), (0x0E064, 0x220), (0x0E068, 0x40), (0x0E074, 0x22040), (0x0E078, 0x80),
  (0x0E080, 0x22380018), (0x0E084, 0x2D0), (0x0F100, 0x10001), (0x10048, 0x2710), (0x1204C, 0x10),
  (0x13040, 0x500), (0x13044, 0xFA), (0x1304C, 0x4B0157C), (0x14040, 0x4), (0x14060, 0x810012C),
  (0x15080, 0x3020100), (0x15084, 0x7060504), (0x15088, 0xB0A0908), (0x1508C, 0xF0E0D0C), (0x15090, 0x13121110),
  (0x15094, 0x17161514), (0x15098, 0x1B1A1918), (0x1509C, 0x1F1E1D1C), (0x150A0, 0x23222120), (0x150A4, 0x27262524),
  (0x150A8, 0x2B2A2928), (0x150AC, 0x2F2E2D2C), (0x150B0, 0x33323130), (0x150B4, 0x37363534), (0x150B8, 0x3B3A3938),
  (0x150BC, 0x3F3E3D3C), (0x15100, 0x3303001), (0x16040, 0x400200), (0x16048, 0x7D0), (0x17040, 0x3E80040),
  (0x18040, 0x4), (0x18048, 0x10001), (0x1804C, 0x5F2), (0x1B040, 0x4), (0x1B044, 0x88B5),
  (0x1B050, 0xFAC688), (0x1B054, 0xFAC688), (0x1B058, 0xFAC688), (0x1B05C, 0xFAC688), (0x1B064, 0x2625A0),
  (0x1B068, 0xFFFF), (0x1B06C, 0x200), (0x1B07C, 0x3FFFFFFF), (0x1B088, 0x3C07D0), (0x1B08C, 0x12C),
  (0x1C044, 0x1000FF0), (0x1C048, 0x10000), (0x1C04C, 0x2625A0), (0x1C050, 0xFFFF), (0x1D044, 0x400),
  (0x1D04C, 0x1), (0x1D050, 0xF4240), (0x1E040, 0x7), (0x1E078, 0x62142710), (0x1E07C, 0x40000),
  (0x1E094, 0x6400000)]

/-- Sources whose default class is Notice, N 1 (R308, R349, R369, R386, R332). -/
def noticeSources : List Nat := [0x10, 0x11, 0x12, 0x15, 0x18, 0x19, 0x1A, 0x1E, 0x1F, 0x27, 0x2B,
  0x34, 0x35, 0x3C, 0x41, 0x44, 0x46, 0x52, 0x54, 0x5D, 0x5F, 0x62, 0x64, 0x65, 0x67, 0x6A, 0x6C, 0x6D, 0x6E, 0x7A, 0x85,
  0x8A, 0x8C, 0x91, 0x92, 0x93, 0x94, 0x9D, 0xA5, 0xA7, 0xAB, 0xB0, 0xB1, 0xB8, 0xB9, 0xF9]

/-- Sources whose default class is Minor, N 1 (R308, R349, R369, R386, R401, R332). -/
def minorSources : List Nat := [0x00, 0x01, 0x08, 0x09, 0x0A, 0x0B, 0x13, 0x1B, 0x1C, 0x1D, 0x20, 0x21, 0x23, 0x24, 0x25, 0x26, 0x29,
  0x30, 0x31, 0x33, 0x36, 0x37, 0x38, 0x3A, 0x40, 0x42, 0x45, 0x50, 0x51, 0x53, 0x55, 0x56, 0x57, 0x58, 0x59, 0x5E, 0x63,
  0x66, 0x6B, 0x72, 0x74, 0x75, 0x78, 0x79, 0x80, 0x81, 0x82, 0x83, 0x84, 0x86, 0x87, 0x88, 0x8B, 0x90, 0x95, 0x96, 0x97,
  0x98, 0x99, 0x9A, 0x9B, 0x9E, 0x9F, 0xA0, 0xA1, 0xA2, 0xA3, 0xA6, 0xA8, 0xA9, 0xAA, 0xAC, 0xB2, 0xB3, 0xB4, 0xB5, 0xB6, 0xB7]

/-- Sources whose default class is Major, N 1 (R308, R349, R386, R401, R332). -/
def majorSources : List Nat := [0x02, 0x03, 0x04, 0x05, 0x06, 0x07, 0x14, 0x22, 0x2A, 0x61, 0x68, 0x69, 0x70, 0x71, 0x76, 0x77, 0x9C,
  0xA4, 0xF8]

/-- The default class-map entry of a source, as FC_MAP shows it: CLASS [1:0], WUNIT [2], N [15:8], W [31:16] (R308, R314).
Reserved sources and sources 0xF0 to 0xF7 hold 0 (R299). -/
def classDefault (src : Nat) : Nat :=
  let entry (cls wunit n w : Nat) : Nat := cls + wunit * 4 + n * 0x100 + w * 0x10000
  if src = 0x5C then entry 1 0 16 100
  else if src = 0x60 ∨ src = 0x89 then entry 2 1 2 1000
  else if src = 0x47 then entry 2 0 8 100
  else if src = 0x43 then entry 2 0 16 100
  else if noticeSources.contains src then entry 0 0 1 0
  else if minorSources.contains src then entry 1 0 1 0
  else if majorSources.contains src then entry 2 0 1 0
  else 0

/-- Is this number a source that has an entry in the class map (R299)? -/
def classMapped (src : Nat) : Bool := classDefault src != 0

/-- Keys of registers that a selector register banks: bank × 2^20 above the register's own address. -/
def bankUnit : Nat := 0x100000

/-- The reset word of a register key (R9): the class map's defaults (R308), the side's own letter (R347), PAGE_ID (R336),
and the tables' values. -/
def resetWord (sd : Side) (key : Nat) : Nat :=
  let k := key % bankUnit
  let page := k / 0x1000
  let off := k % 0x1000
  if k = 0x03054 then classDefault (key / bankUnit)
  else if key = 0x1B094 then 0x800FF001
  else if k = 0x00048 then (match sd with | .A => 0 | .B => 4)
  else if off = 0 then
    (if page < 0x32 then page + blockType page * 0x100 + 0x20000 else 0)
  else if off < headerEnd then 0
  else ((resetWords.find? (fun p => p.1 == canonKey k)).map (fun p => p.2)).getD 0

end Sys2Proof.Machine
end

