-- ==== Sys2Proof/Machine/State.lean ====
section
/-! DEFINITION. The state of the device: two sides, the shared pins, the tile's identity memory, and the queue of commands.
Plain data throughout. Registers live in `SideState.regs`, addressed memories in `SideState.mem`; the rest is the state the
manual gives the engines behind the registers. -/

namespace Sys2Proof.Machine

/-- No command of this device ends the run in a fault: faults of the hardware are events of its own fault collector
(R300 to R306) and are part of the next state. The type is empty. -/
inductive Fault where
  deriving DecidableEq, Repr

/-- Why a command is refused by the model. -/
inductive Refusal where
  /-- Raised by a dispatch arm whose meaning has not been written; no arm of this model raises it. Safe. -/
  | notModelled (mnemonic : String)
  deriving DecidableEq, Repr

/-- The windows of a beat, in order (R14). `edge` runs from the boundary, `marked` from 9.6 µs, `judged` from 9.9 µs. -/
inductive Win where
  | edge
  | loop
  | scene
  | copy
  | marked
  | judged
  deriving DecidableEq, Repr

/-- Ownership states of a DO (R150). -/
inductive Own where
  | none
  | loop
  | loopWait
  | tune
  | eoHold
  | scene
  | cal
  | man
  deriving DecidableEq, Repr

/-- States of a tracking entry (R28). -/
inductive CueState where
  | free
  | checking
  | solving
  | tracing
  | ready
  | armed
  | settling
  | settled
  | rejected
  | unsolved
  | traceFail
  | aborted
  | missed
  | cancelled
  | rehearsed
  | kept
  deriving DecidableEq, Repr

/-- Cue kinds of the payload header (R282). -/
inductive CueKind where
  | change
  | recall
  | curtain
  | keepAlive
  | abort
  deriving DecidableEq, Repr

/-- An admission record of key one (R204). -/
structure Admission where
  kind : CueKind
  eff : Nat
  digest : Nat
  deriving DecidableEq, Repr

/-- The edge plan of a rehearsal (R176), as SH_REH0 to SH_REH2 show it. -/
structure Plan where
  cells : Nat
  toggles : Nat
  outs : Nat
  blanks : Nat
  clamps : Nat
  maxDev : Nat
  deriving DecidableEq, Repr

/-- One tracking entry with the cue it holds (R28, R38, R202, R204). -/
structure TrkEntry where
  state : CueState := .free
  reason : Nat := 0
  bkResult : Nat := 0
  sceneId : Nat := 0
  eff : Nat := 0
  /-- SCENE_ID as the cue gives it, for its status frame (R293). -/
  cueScene : Nat := 0
  kind : CueKind := .change
  rehearse : Bool := false
  dist : Nat := 0
  connId : Nat := 0
  seq : Nat := 0
  srcNode : Nat := 0
  reply : Bool := false
  srcMac : Nat := 0
  vid : Nat := 0
  conn : Nat := 0
  detail : Nat := 0
  slot : Option Nat := none
  stored : Nat := 0
  nextBeat : Nat := 0
  repeated : Bool := false
  waitFrom : Nat := 0
  traced : Bool := false
  gate : Bool := false
  admission : Option Admission := none
  plan : Option Plan := none
  order : Nat := 0
  ended : Nat := 0
  deriving DecidableEq, Repr

/-- The header of a cue payload with its entries (R282, R283). -/
structure Cue where
  kind : CueKind
  rehearse : Bool
  earliest : Bool
  all : Bool
  reply : Bool
  dist : Nat
  fragIndex : Nat
  fragTotal : Nat
  connId : Nat
  srcNode : Nat
  dstNode : Nat
  seq : Nat
  sendS : Nat
  sendNs : Nat
  maxAge : Nat
  expect : Nat
  effective : Nat
  sceneId : Nat
  slot : Nat
  aux : Nat
  /-- The reserved bits of the header, from FLAGS on (R282, R295). -/
  headReserved : Nat
  /-- Reserved bits of entries that are not 0, and change fragments without 1 to 160 entries. -/
  entryReserved : Nat
  entries : List Nat
  deriving DecidableEq, Repr

/-- Where a cue came from: the network, with the sender's address and VID for the status frame (R293), or the mailbox. -/
inductive CueOrigin where
  | network (src vid : Nat)
  | mailbox
  deriving DecidableEq, Repr

/-- A fragment assembly (R285): the first fragment's header, where it came from, the fragments held, and when it opened. -/
structure Assembly where
  head : Cue
  origin : CueOrigin
  conn : Nat
  frags : List (Nat × List Nat)
  openedAt : Nat
  deriving DecidableEq, Repr

/-- A complete cue waiting for its check stage, with its connection entry, reception instant and check beat (R26, R286);
`repeated` once its check stage has overrun (R27), and `boxed` where the mailbox reads busy for it: its last fragment came by the
mailbox (R294). -/
structure WaitingCue where
  cue : Cue
  origin : CueOrigin
  conn : Nat
  reception : Nat
  checkBeat : Nat
  repeated : Bool
  boxed : Bool
  deriving DecidableEq, Repr

/-- A beat-aligned value staged for a DO, with the produced boundary at which it takes effect (R95). -/
structure StagedDo where
  dout : Nat
  value : Nat
  due : Nat
  writer : Own
  deriving DecidableEq, Repr

/-- A pending timer (R97). -/
structure Timer where
  dout : Nat
  beat : Nat
  offset : Nat
  value : Nat
  cal : Bool
  deriving DecidableEq, Repr

/-- Committed settings and running phase of a tone generator (R109, R110). -/
structure ToneGen where
  en : Bool := false
  pilot : Bool := false
  dout : Nat := 0
  ftw : Nat := 0
  num : Nat := 0
  den : Nat := 1
  amp : Nat := 0
  phase0 : Nat := 0
  ph : Nat := 0
  err : Nat := 0
  tone : Int := 0
  /-- The boundary the phase counts from, by BEATNO, with PH and ERR at it (R110). -/
  since : Nat := 0
  ph0 : Nat := 0
  err0 : Nat := 0
  /-- The ticks of each beat since then; 0 while the group does not run scheme Q. -/
  rate : Nat := 0
  deriving DecidableEq, Repr

/-- Where the phase of a generator counts from, as the copy tells it (R110): BEATNO, PH and ERR there, and the ticks of a beat. -/
structure TonePhase where
  since : Nat
  ph : Nat
  err : Nat
  rate : Nat
  deriving DecidableEq, Repr

/-- A tone-generator commit that waits for its boundary (R110). -/
structure TonePending where
  gen : Nat
  settings : ToneGen
  blockOnly : Bool
  /-- On an understudy, the phase with which the lead has made the same commit already. -/
  phase : Option TonePhase := none
  deriving DecidableEq, Repr

/-- A running change of mode (R103). -/
structure RangeSeq where
  dout : Nat
  mode : Nat
  value : Nat
  start : Nat
  deriving DecidableEq, Repr

/-- The drive outputs (R88 to R116). -/
structure DriveState where
  base : List (Nat × Nat) := []
  own : List (Nat × Own) := []
  staged : List StagedDo := []
  timers : List Timer := []
  fifo : List (Nat × List Word) := []
  /-- Groups whose DG_CTRL was written in this beat, with the word still in force (R99). -/
  schemeOld : List (Nat × Nat) := []
  tones : List (Nat × ToneGen) := []
  tonePending : List TonePending := []
  range : Option RangeSeq := none
  rmeas : Option (Nat × Nat) := none
  /-- Ticks of a group's sample clock: produced boundary and ticks since it (R99). -/
  ticks : List (Nat × (Nat × Nat)) := []
  /-- The commanded codes of a current-mode DO in its last 16 pin readings, oldest first (R106). -/
  pinCodes : List (Nat × List Nat) := []
  /-- Heater domains whose regulator this lead has read (R108). -/
  hsupRead : List Nat := []
  vpin : List (Nat × Nat) := []
  hsupStepAt : List (Nat × Nat) := []
  parkInForce : List (Nat × Word) := []
  parkValid : Bool := false
  parkPending : Bool := false
  /-- Requests of HL_OVR that wait for their boundary: DO, take or release, and LIVE (R158). -/
  overrides : List (Nat × (Bool × Bool)) := []
  deriving DecidableEq, Repr

/-- One monitor channel (R119, R126, R127, R132, R133). -/
structure Channel where
  range : Nat := 0
  wide : Bool := false
  settle : Nat := 0
  rangeAt : Option Nat := none
  lowRun : Nat := 0
  failRun : Nat := 0
  step : Option Nat := none
  own : Option Nat := none
  cross : Option Nat := none
  prev : Nat := 0x3000
  deriving DecidableEq, Repr

/-- A channel setting that waits for its boundary (MI_CH_SET, R135). -/
structure ChannelPending where
  mi : Nat
  range : Nat
  wide : Bool
  due : Nat
  deriving DecidableEq, Repr

/-- A slot map that waits for its boundary (R122). -/
structure SlotMapPending where
  group : Nat
  map : List Nat
  due : Nat
  deriving DecidableEq, Repr

/-- The monitor inputs (R117 to R137). -/
structure MonState where
  channels : List (Nat × Channel) := []
  filling : List (Nat × Nat) := []
  readable : List (Nat × Nat) := []
  last : List (Nat × Nat) := []
  maps : List (Nat × List Nat) := []
  mapPending : List SlotMapPending := []
  setPending : List ChannelPending := []
  dark : List (Nat × List Int) := []
  refs : List (Nat × List Int) := []
  biasInForce : Nat := 4
  /-- The produced boundary of the beat in which the banks were last switched (R123). -/
  bankAt : Option Nat := none
  deriving DecidableEq, Repr

/-- A relay tuning run (R154 to R156). -/
structure TuneRun where
  loop : Nat
  dout : Nat
  started : Bool
  base0 : Nat
  amp : Nat
  apply : Bool
  start : Nat
  /-- Whether the last y was at or above MARK; none before the first. -/
  above : Option Bool
  /-- Whether an extremum relay has set LOWEST of the entry at its first y. -/
  begun : Bool
  hi : Nat
  lo : Nat
  /-- BEATNO of the rising crossings, or of the reversals. -/
  marks : List Nat
  /-- Peak-to-peak of each full period, or rise at each reversal. -/
  swings : List Nat
  deriving DecidableEq, Repr

/-- How the last evaluation of a loop found its signal (R141, R170). -/
inductive LastEval where
  | never
  | inBand
  | outside
  | invalid
  deriving DecidableEq, Repr

/-- The hold-loop engine (R138 to R160), beside the loop table in memory. -/
structure LoopState where
  deferred : List (Nat × List Nat) := []
  lastEval : List (Nat × LastEval) := []
  fresh : List Nat := []
  /-- DO in LOOP_WAIT with the produced boundary at which they pass to LOOP. -/
  toLoopAt : List (Nat × Nat) := []
  /-- DO in LOOP_WAIT that pass to LOOP once their loop's sample is valid. -/
  awaitSample : List Nat := []
  tunes : List TuneRun := []
  /-- On an understudy, the BASE of each DO as the copy passed it to TUNE (R156). -/
  tuneBases : List (Nat × Nat) := []
  eccPending : List Nat := []
  openSince : Option Nat := none
  /-- On a new lead, the DO that have waited for their loop's sample since the takeover (R239). -/
  openWaits : List Nat := []
  /-- The loops evaluated in this beat (R170). -/
  evalNow : List Nat := []
  /-- Loop-table words that a calibration commit wrote for the present boundary (R140). -/
  wrote : List Nat := []
  deriving DecidableEq, Repr

/-- What the edge of a cue does to one changed cell (R161, R162): its new setting, the edge value of a toggling cell and
whether it was clamped, its distance from E_MID, POL for the new setting, and what arming overwrote: words 1 to 3 of the edge
table and the ramp step that had been staged. -/
structure CellPlan where
  cell : Nat
  setting : Nat
  edge : Option Nat
  clamped : Bool
  dev : Nat
  pol : Option Bool
  saved : List Byte
  ramp : Option Nat
  deriving DecidableEq, Repr

/-- What the edge of a cue does to one affected output (R167, R168); `conn` where its connection changes. -/
structure OutPlan where
  out : Nat
  wasLit : Bool
  lit : Bool
  blank : Bool
  conn : Bool
  deriving DecidableEq, Repr

/-- The staged cue (R16, R162): its tracking entry (none for a curtain that no cue asked for), effective beat, target slot,
whether it is a dark curtain, cells and outputs. -/
structure Staged where
  entry : Option Nat
  eff : Nat
  slot : Nat
  dark : Bool
  cells : List CellPlan
  outs : List OutPlan
  deriving DecidableEq, Repr

/-- An output in a blanking interval, with the BASE from before it and the produced boundary of its edge (R167, R168). -/
structure Blanked where
  out : Nat
  saved : Nat
  wasLit : Bool
  lit : Bool
  edge : Nat
  deriving DecidableEq, Repr

/-- A handover in progress (R169 to R172): the produced boundary that takes the place of E, the edge whose cues wait for
it, whether a retry started it, whether the edge moved the E_DO upward, whether its residual is discarded (R189), and
whether its edge changed POL. `edge` is the produced boundary of the edge of the cue that waits for it. -/
structure Handover where
  cell : Nat
  ref : Nat
  edge : Option Nat
  retry : Bool
  up : Bool
  tainted : Bool
  deriving DecidableEq, Repr

/-- A cue in SETTLING: the produced boundary of its edge, its changed cells and those of them that toggled (R171). -/
structure Settling where
  entry : Nat
  edge : Nat
  cells : List Nat
  toggled : List Nat
  deriving DecidableEq, Repr

/-- The scene controller (R161 to R178), beside the edge table in memory. -/
structure SceneState where
  staged : List Staged := []
  blanked : List Blanked := []
  /-- Outputs darkened after a second miss (R174). -/
  missDark : List Nat := []
  handovers : List Handover := []
  settling : List Settling := []
  /-- Cells whose edge is staged again for the next boundary (R173). -/
  refires : List Nat := []
  /-- Ramp steps staged for the next boundary: cell and value (R170). -/
  rampStaged : List (Nat × Nat) := []
  /-- The last 16 residuals of each cell (R189). -/
  residuals : List (Nat × List Int) := []
  /-- Retries and relightings that take effect at the next boundary (R172, R174). -/
  retries : List Nat := []
  darkReleases : List Nat := []
  darkStaged : List Nat := []
  /-- Cells whose handover has stalled, and goes to electro-optic hold at the next boundary (R172). -/
  stallPending : List Nat := []
  /-- DO whose edge fired at the present boundary (R60). -/
  edgesNow : List Nat := []
  /-- DO whose owner the scene controller changed at this boundary (R152). -/
  tookNow : List Nat := []
  /-- The produced boundary of the last edge that changed a cell, or at 0x10000 + record a port (R150). -/
  edgeAt : List (Nat × Nat) := []
  /-- The active scene is the empty scene of a dark curtain (R85). -/
  emptyActive : Bool := false
  deriving DecidableEq, Repr

/-- A solve in progress (R79, R84): for a tracking entry, or of the curtain scene. -/
inductive Solving where
  | entry (e : Nat)
  | curtain
  deriving DecidableEq, Repr

/-- The cue pipeline (R20 to R32, R84, R85). -/
structure PipeState where
  trk : List (Nat × TrkEntry) := []
  assemblies : List Assembly := []
  waiting : List WaitingCue := []
  solving : Option Solving := none
  curtainOwed : Bool := false
  /-- The last solve of slot 255 failed (R85). -/
  curtainFailed : Bool := false
  /-- The cycles of the curtain solve that the engine last took, if no other followed (R86). -/
  curtainCycles : Option Nat := none
  /-- The boundary count of the beat in which the engine last took a solve (R84). -/
  engineAt : Option Nat := none
  orderCount : Nat := 0
  endCount : Nat := 0
  /-- Expectation deadlines by connection entry, in ns of network time (R291). -/
  deadlines : List (Nat × Nat) := []
  /-- CQ_NODE, or the rig map's voted registers, are lost to a vote (R344). -/
  nodeLost : Bool := false
  rigLost : Bool := false
  deriving DecidableEq, Repr

/-- A run of calibration (R182 to R191). -/
inductive RunKind where
  | trim
  | survey
  | probe
  deriving DecidableEq, Repr

/-- Queued calibration work for the element of a DO, whether it belongs to the round of TRIM and PROBE or to a TRIM round, and
whether CA_REQ asked for it. -/
structure CalJob where
  dout : Nat
  kind : RunKind
  round : Bool
  trimRound : Bool
  host : Bool
  deriving DecidableEq, Repr

/-- One setting of a run: its tag, the values it writes, the beats it is held and those of them whose samples are not used. -/
structure CalPoint where
  tag : Int
  writes : List (Nat × Nat)
  hold : Nat
  skip : Nat
  deriving DecidableEq, Repr

/-- The samples of one setting (R180). -/
structure CalSet where
  phase : Nat
  tag : Int
  planned : Nat
  samples : List Nat
  /-- A sample of the setting tripped the guard (R184). -/
  tripped : Bool
  deriving DecidableEq, Repr

/-- A run (R182 to R191): its cell and loop, the monitor it reads, the DO it takes with their BASE at take, the boundary of
the take, the settings left with the boundary at which the first of them began, the sets, which sides the guard has ended,
and for a probe the slot map and channel setting to restore. -/
structure CalRun where
  job : CalJob
  cell : Option Nat
  loop : Option Nat
  mi : Nat
  taken : List (Nat × Nat)
  start : Nat
  started : Bool
  phase : Nat
  todo : List CalPoint
  since : Nat
  sets : List CalSet
  guardLo : Bool
  guardHi : Bool
  done : Bool
  probe : Option (Nat × Nat)
  restore : Option (List Nat × (Nat × Bool))
  deriving DecidableEq, Repr

/-- Staged results of one element (R193), waiting since a boundary, and the boundary at which a commit puts them in force. -/
structure CalResult where
  dout : Nat
  cell : Option Nat
  loop : Option Nat
  mark : Option Nat
  band : Option Nat
  dir : Option Bool
  resume : Option Nat
  ePi : Option Nat
  eMid : Option Nat
  phys : Option Nat
  tap : Option (Nat × Nat)
  amp : Option (Nat × Nat)
  job : Option CalJob
  since : Nat
  due : Option Nat
  deriving DecidableEq, Repr

/-- The recorded points and the present class of one ageing quantity of one element (R195, R196): points as powered hours and
value, the value at survey. -/
structure AgePoint where
  elem : Nat
  quantity : Nat
  points : List (Nat × Int)
  atSurvey : Int
  cls : Nat
  deriving DecidableEq, Repr

/-- Calibration and ageing (R179 to R201). -/
structure CalState where
  queue : List CalJob := []
  runs : List CalRun := []
  results : List CalResult := []
  /-- DO that calibration releases at the next boundary (R151). -/
  releases : List Nat := []
  /-- Elements with a committed SURVEY result, by DO. -/
  surveyed : List Nat := []
  /-- Dark intervals by monitor: their beats so far and the samples used; and the last dark level and noise (R181). -/
  darkRuns : List (Nat × (Nat × List Nat)) := []
  darkLevels : List (Nat × (Nat × Nat)) := []
  /-- T_tile at the start of a running round, and the boundary at which the last round was completed (R192). -/
  round : Option Int := none
  /-- The same of a running TRIM round of every loop, which CA_REQ asks for. -/
  trimRound : Option Int := none
  /-- Cells whose POL an edge has changed and whose handover has not ended since (R185). -/
  polTrims : List Nat := []
  lastRound : Nat := 0
  /-- The calibration record waits for the NVM window (R194). -/
  recordPending : Bool := false
  /-- A calibration record is in force (R62). -/
  recordValid : Bool := false
  /-- The record was rejected for a replaced tile: every element awaits its SURVEY (R62). -/
  replaced : Bool := false
  /-- P50 of the output monitor at LIMIT_HI of its attenuator, from the last SURVEY (R197). -/
  hiLevels : List (Nat × Nat) := []
  /-- A SURVEY has started the ageing records (R195), and the boundary of the last recording. -/
  ageFrom : Bool := false
  lastAge : Nat := 0
  /-- A SURVEY of an earlier time has started the records: the values at survey are in no record (R195). -/
  agesTaken : Bool := false
  ageing : List AgePoint := []
  heaterReadings : List (Nat × List Nat) := []
  handoverPowers : List (Nat × List Nat) := []
  /-- BASE of the T_DO at boundary H of a running handover. -/
  rampStart : List (Nat × Nat) := []
  pathRatios : List (Nat × List Nat) := []
  baseHistory : List (Nat × List Nat) := []
  /-- Loops that have stayed outside their band since wake, with the evaluations (R192). -/
  wakeOob : List (Nat × Nat) := []
  deriving DecidableEq, Repr

/-- A policy record (R205): pins as (input, output) pairs, dark locks, curtain sources. -/
structure Policy where
  pins : List (Nat × Nat)
  darkLock : List Nat
  sources : List Nat
  deriving DecidableEq, Repr

/-- The stage watch and the cue checker (R202 to R226). -/
structure WatchState where
  policy : Option Policy := none
  /-- An accepted policy record that waits for its boundary, with its bytes (R205). -/
  policyPending : Option (Policy × List Byte) := none
  /-- The bytes of the policy record in force. -/
  policyBytes : List Byte := []
  /-- Where in working SRAM the policy record stands (R204, R205). -/
  policyAt : Nat := 0
  /-- Consecutive misses of the cell check by cell, and the cells declared misstated (R209). -/
  misses : List (Nat × Nat) := []
  declared : List Nat := []
  /-- The series of the block by output, the latest sample first; the last valid value; the samples that were not valid. -/
  series : List (Nat × List Nat) := []
  seriesLast : List (Nat × Nat) := []
  invalid : List (Nat × Nat) := []
  /-- Blocks that a takeover or a wake makes VOID, and block × 512 + output for those a cue makes SKIP (R212). -/
  pilotVoid : List Nat := []
  pilotSkip : List Nat := []
  /-- The active scene at the end of the block: output and input. -/
  pilotScene : List (Nat × Nat) := []
  /-- The effective beat of a requested curtain, and whether it is armed (R215). -/
  curtainAt : Option Nat := none
  curtainArmed : Bool := false
  /-- The requested curtain has been asked for by something else than a cue (R214). -/
  curtainHeld : Bool := false
  /-- DIGEST of the scene each admitted cue leads to, by E; and that of the current scene (R222). -/
  digests : List (Nat × Nat) := []
  /-- The record of the curtain scene, made when a curtain is requested (R222). -/
  curtainDigest : Nat := 0
  currentDigest : Nat := 0
  keyMisses : Nat := 0
  /-- Causes of degraded mode that act at the next boundary, as DEG_CAUSE bits (R220), and the boundary of T_DEG. -/
  degPending : Nat := 0
  degEntered : Bool := false
  degDeadline : Option Nat := none
  relCurtain : Bool := false
  relDegraded : Bool := false
  aliveLevel : Bool := false
  deriving DecidableEq, Repr

/-- A firmware update in progress (R245), held by the lead: its step and the boundary at which the step began, the image, and
the trial time in seconds. -/
structure Update where
  step : Nat
  since : Nat
  image : List Byte
  trial : Nat
  deriving DecidableEq, Repr

/-- The twin link, the roles and the fence of a side (R227 to R247). -/
structure TwinState where
  records : List (List Byte) := []
  late : List (List Byte) := []
  recordBytes : Nat := 0
  carry : Bool := false
  flitLost : Bool := false
  /-- The places, in the records of the beat as they are sent, of those that a lost flit held (R231). -/
  lostRecords : List Nat := []
  staging : List (List Byte) := []
  committed : List (List Byte) := []
  /-- The working slot whose header the copy has written last: that of the cue whose TRK record follows it (R204, R235). -/
  slotSeen : Option Nat := none
  beatStaged : List (List Byte) := []
  markerSeen : Bool := false
  markerRole : Nat := 0
  markerResign : Bool := false
  markerSwap : Bool := false
  pulseSeen : Bool := false
  pulseSkewAt : Nat := 0
  resignLine : Bool := false
  /-- The produced boundary of the beat whose marker first carries RESIGN (R302). -/
  resignFrom : Option Nat := none
  resignWait : Bool := false
  /-- A marker has carried the resignation that `resignFrom` holds (R246). -/
  resignSent : Bool := false
  fenceRequest : Bool := false
  graveLatch : Bool := false
  /-- A Grave halt that waits for the fence of the peer's takeover (R230, R303). -/
  haltDue : Bool := false
  unfencePending : Bool := false
  fencePending : Bool := false
  takeoverDue : Option Nat := none
  takeoverCause : Nat := 0
  takeoverBeat : Nat := 0
  stageDue : Bool := false
  reportSlots : Nat := 0
  bulkStart : Nat := 0
  bulkNext : Nat := 0
  /-- Blocks of 4 KiB of regions that differed, still to be sent again (R243). -/
  bulkAgain : List Nat := []
  swapPending : Bool := false
  swapAt : Option Nat := none
  update : Option Update := none
  minorCount : Nat := 0
  stPassed : List Nat := []
  stDone : List Nat := []
  /-- The marker of the side's last beat, and its last health report, as they went over the twin link. -/
  marker : List Byte := []
  /-- The copy records of the side's last beat as they went over the twin link (R235). -/
  sent : List (List Byte) := []
  report : List Nat := []
  /-- An abandoned takeover gives the role back at the next boundary (R238). -/
  abandonDue : Bool := false
  /-- The side held the lead role up to its peer's takeover, whose fence is not complete. -/
  wasLead : Bool := false
  deriving DecidableEq, Repr

/-- A frame in a switch queue: its bytes as the port sends them, without FCS; the ingress port and corrected ingress timestamp in
1/16 ns (R272); and whether its gate has held it at the head. -/
structure Frame where
  bytes : List Byte
  port : Nat
  stamp : Int
  held : Bool
  /-- The cells of the network buffer it stands in, in order (R252). -/
  cells : List Nat := []
  /-- Its reception instant in network time, ns (R287). -/
  arrived : Nat := 0
  deriving DecidableEq, Repr

/-- A correction that a two-step transparent clock owes to a Follow_Up (R270): egress port, the type and domain of the event
message, its source port identity and sequence number, and the correction in 1/16 ns. -/
structure FollowUp where
  egress : Nat
  kind : Nat
  domain : Nat
  source : Nat
  seq : Nat
  correction : Int
  deriving DecidableEq, Repr

/-- An entry of the learning address table (R250). -/
structure AddrEntry where
  mac : Nat
  vid : Nat
  port : Nat
  seen : Nat
  deriving DecidableEq, Repr

/-- An entry of the node table (R254): highest sequence number, history of the 64 below it, last hearing per port. -/
structure NodeEntry where
  mac : Nat
  hi : Nat
  history : Nat
  seen : Nat
  heard1 : Option Nat
  heard2 : Option Nat
  onlySince : Nat
  onePath : Bool
  deriving DecidableEq, Repr

/-- The switch of a side (R248 to R265). Queues and shapers go by port × 8 + queue. -/
structure NetState where
  queues : List (Nat × List Frame) := []
  sending : List (Nat × (Nat × Frame)) := []
  /-- Shaper credit in µB, and the instant it stood at that value. -/
  credit : List (Nat × Int) := []
  creditAt : List (Nat × Nat) := []
  /-- Policer tokens in µB, and the instant they stood at that value. -/
  tokens : List (Nat × Nat) := []
  tokensAt : List (Nat × Nat) := []
  addresses : List AddrEntry := []
  nodes : List NodeEntry := []
  proxies : List Nat := []
  /-- The call-sheet entry last begun on a port. -/
  gateEntry : List (Nat × Nat) := []
  /-- The instant of network time at which a pending sheet change of a port falls due (R260). -/
  changeAt : List (Nat × Nat) := []
  followUps : List FollowUp := []
  redunSeq : Nat := 0
  /-- The instant of the last supervision frames (R254). -/
  supervisedAt : Option Nat := none
  imageBlocks : List Nat := []
  imageEnd : Option Nat := none
  /-- Cue frames that P0 has passed to the cue checker and that it has not yet taken (R251): source address, payload, and
  reception instant (R287). -/
  cueInbox : List (Nat × (List Byte × Nat)) := []
  /-- Payloads of image frames that P0 has taken and the stage manager not yet written (R384). -/
  imageInbox : List (List Byte) := []
  /-- The 32-bit timestamps of the receive descriptors of P0, the latest 64 (R272). -/
  descriptors : List Nat := []
  /-- The corrected egress timestamp in 1/16 ns of the last PTP event message of the side's own that each port sent (R272). -/
  sentStamps : List (Nat × Int) := []
  deriving DecidableEq, Repr

/-- Network time and PTP (R266 to R278). The clock is held as it read at the last boundary: seconds and nanoseconds by the beat
generator's interpolation (R273), and of its last tick the fraction, the residue and the whole ns by which it precedes them. -/
structure TimeState where
  sec : Nat := 0
  ns : Nat := 0
  frac : Nat := 0
  residue : Nat := 0
  tickNs : Nat := 0
  slew : Int := 0
  sumOffset : Int := 0
  lockCount : Nat := 0
  overCount : Nat := 0
  /-- A step has moved the clock off the beat grid, and the realignment boundary has not come (R274). -/
  stepOpen : Bool := false
  lastSync : Nat := 0
  announces : List AnnounceInfo := []
  master : Option AnnounceInfo := none
  pdelaySeq : Nat := 0
  ppsLevel : Bool := false
  /-- The instant at which PPS_OUT last rose (R276). -/
  ppsAt : Nat := 0
  /-- Clock readings that a step has crossed, those past the first and up to the second, while they can still come (R276). -/
  crossed : List (Nat × Nat) := []
  /-- The boundary since which NT_RATE has stood at its limit, and has not been reported (R277). -/
  limitSince : Option Nat := none
  onRing : Bool := false
  deriving DecidableEq, Repr

/-- An armed injection (R309). -/
structure Injection where
  point : Nat
  left : Nat
  react : Bool
  armedAt : Nat
  deriving DecidableEq, Repr

/-- The fault collector, the log buffer and the interrupt path (R299 to R314, R378, R379). -/
structure FaultState where
  injection : Option Injection := none
  majorAt : Option Nat := none
  relPending : Bool := false
  /-- Class-map entries written since the last boundary, with the entry still in force (R307). -/
  mapPending : List (Nat × Word) := []
  windows : List (Nat × Nat) := []
  condition : Bool := false
  intLow : Bool := false
  msiSent : Nat := 0
  log : List (List Byte) := []
  logSeq : Nat := 0
  halted : Bool := false
  /-- The highest class decided in this beat (R304). -/
  top : Nat := 0
  /-- Log entries were dropped since source 0xA5 was last raised, and the boundary at which it was (R379). -/
  dropped : Bool := false
  droppedAt : Option Nat := none
  /-- Voted fields whose copies differ and that nothing has read or compared since (R343): register, lowest bit, and whether all
  three differ. A read takes the majority, which one odd copy does not change. -/
  upsets : List (Nat × (Nat × Bool)) := []
  watchdog : Nat := 0
  deriving DecidableEq, Repr

/-- A housekeeping channel (R315 to R317). -/
structure HkChannel where
  value : Int := 0
  valid : Bool := false
  subst : Bool := false
  good : Nat := 4
  missed : Nat := 0
  deriving DecidableEq, Repr

/-- Temperature, housekeeping and intermission (R315 to R333). -/
structure ThermState where
  channels : List (Nat × HkChannel) := []
  tmaxHolder : Nat := 0
  /-- The failed sensors that held Tmax (R321). -/
  holdSensors : List Nat := []
  coolRounds : Nat := 0
  shutdownAt : Option Nat := none
  /-- The produced boundary of the last housekeeping round. -/
  roundAt : Option Nat := none
  intPending : Bool := false
  wakeAt : Option Nat := none
  wakePending : Option Nat := none
  deriving DecidableEq, Repr

/-- The dump engine (R367, R368). -/
structure DumpState where
  busy : Bool := false
  takenAt : Nat := 0
  taken : List Nat := []
  takenOvf : List Bool := []
  takenDiag : List Nat := []
  takenStep : Nat := 0
  prev : Nat := 0
  seq : Nat := 0
  /-- Dumps skipped before the record that is being written, and those skipped since it was taken (R367, R368). -/
  skipped : Nat := 0
  skippedNext : Nat := 0
  deriving DecidableEq, Repr

/-- Performance counters (R363 to R368). -/
structure PerfState where
  counters : List (Nat × Nat) := []
  diag : List (Nat × Nat) := []
  hold : List (Nat × Nat) := []
  holdOvf : List (Nat × Bool) := []
  holdDiag : List (Nat × Nat) := []
  shadow : List (Nat × (Nat × Bool)) := []
  dump : DumpState := {}
  /-- Has an error been recorded in BX_ERR_ADDR and BX_ERR_INFO since EVT_RAW.ERR was last cleared (R361)? -/
  errHeld : Bool := false
  deriving DecidableEq, Repr

/-- The NVM records with two copies (R375, R376). -/
inductive RecordKind where
  | rigMap
  | park
  | calibration
  | forecast
  | keys
  deriving DecidableEq, Repr

/-- A record write in progress, or waiting for the NVM write window (R323, R376): its payload, or for a key the slot and its
new content. -/
structure RecordWrite where
  kind : RecordKind
  payload : List Byte
  slot : Nat
  erase : Bool
  waiting : Bool
  deriving DecidableEq, Repr

/-- A run of NV_PROG (R377): where from and to, the pages programmed, an abort that has been asked, whether the sectors are erased,
and whether it waits for the window. -/
structure NvmRun where
  src : Nat
  dst : Nat
  len : Nat
  done : Nat
  stop : Bool
  erased : Bool
  paused : Bool
  deriving DecidableEq, Repr

/-- The NVM, firmware and key slots (R292, R372 to R390). -/
structure NvmState where
  writes : List RecordWrite := []
  run : Option NvmRun := none
  /-- The keys the side's NVM holds, by slot; kept over power cycles (R292, R400). -/
  keys : List (Nat × List Byte) := []
  /-- Key slots whose new content takes effect at the next boundary (R292). -/
  keyPending : List (Nat × Option (List Byte)) := []
  keyDataAt : Option Nat := none
  modules : List (Nat × List Byte) := []
  /-- The fuses: the lowest security version allowed and the revoked keys (R381). -/
  fuseMin : Nat := 0
  fuseRevoked : Nat := 0
  /-- The image that is being written into the tile's identity memory (R64), that of a commit which waits for the end of another such
  write, and whether the write that runs is a commit's. -/
  tileWrite : Option (List Byte) := none
  tileNext : Option (List Byte) := none
  tileCommit : Bool := false
  /-- A rig-map commit runs, up to the end of its tile write (R64). -/
  rigCommit : Bool := false
  /-- Records of the lead in its own NVM whose write on the understudy is not complete (R64, R102). -/
  awaitPeer : List RecordWrite := []
  bootRom : Bool := false
  /-- GEN of the key record in force, 0 while neither copy is valid; its bytes read zero to every master, and `keys` holds them. -/
  keyGen : Nat := 0
  /-- A slot directory that waits for the write window (R323, R376). -/
  directoryDue : Option (List Byte) := none
  /-- The vendor's public keys in the boot ROM, as points (R380): which they are the manual does not say. -/
  romKeys : List (Nat × Nat) := (List.range 4).map (fun k => (Config.vendorKeyX k, Config.vendorKeyY k))
  deriving DecidableEq, Repr

/-- Power, reset and start-up of a side (R391 to R402). -/
structure PowerState where
  powered : Bool := false
  /-- Boundaries of the peer for which the power die still keeps the rails of a side that has lost its VIN (R392). -/
  holdUp : Nat := 0
  inReset : Bool := true
  tripped : Bool := false
  arbStart : Nat := 0
  peerRank : Nat := 0
  /-- COMPAT of the lead, as a side that became understudy at arbitration has it from the message (R394). -/
  leadCompat : Option Bool := none
  /-- The pads of a lead that is to start: the release of its fence is due (false), or its values are (true) (R391). -/
  pads : Option Bool := none
  firmware : Bool := false
  retryFrom : Nat := 0
  leadAlone : Option Nat := none
  calLoaded : Bool := false
  curtainLoaded : Bool := false
  tablesExpanded : Bool := false
  selfTested : Bool := false
  deriving DecidableEq, Repr

/-- A host write of the rw fields of an element-table word, and the produced boundary from which it may take effect (R60). -/
structure TableWrite where
  addr : Nat
  mask : Nat
  value : Nat
  due : Nat
  deriving DecidableEq, Repr

/-- One side. -/
structure SideState where
  side : Side
  regs : List (Nat × Word) := []
  pairs : List (Nat × Word) := []
  mem : List Host.Cell := []
  eccSoft : List Nat := []
  eccHard : List Nat := []
  /-- Words whose uncorrectable error has been reported, and whose entry the stage manager has not rewritten yet (R422). -/
  eccOwed : List Nat := []
  /-- Host writes to element-table fields that wait for their boundary (R60). -/
  hostWrites : List TableWrite := []
  /-- The model's own field: the word the last clearing read of a master returned (R7). -/
  readBack : Word := 0
  /-- The upper word of the last 64-bit read (R338, R355). -/
  readHigh : Word := 0
  beatNo : Nat := 0
  produced : Nat := 0
  win : Win := .edge
  off : Nat := 0
  drive : DriveState := {}
  mon : MonState := {}
  loops : LoopState := {}
  scene : SceneState := {}
  pipe : PipeState := {}
  cal : CalState := {}
  watch : WatchState := {}
  twin : TwinState := {}
  net : NetState := {}
  time : TimeState := {}
  fault : FaultState := {}
  therm : ThermState := {}
  perf : PerfState := {}
  nvm : NvmState := {}
  power : PowerState := {}
  /-- The image of the rig map in force, empty without one (R61, R63). -/
  rigImage : List Byte := []
  /-- The model's own field: how many values the manual leaves open the side has taken (`Config.freeValue`). -/
  free : Nat := 0
  /-- The instruction of the die's test access port; test-logic reset selects IDCODE (R419). -/
  tap : TapInstr := .idcode
  /-- The boundary register. DESIGN CHOICE (log 135): 0 at power-up. -/
  boundary : BallLevels := {}
  deriving DecidableEq, Repr

/-- The device: its two sides, what they share, and the queue of waiting commands. -/
structure State where
  a : SideState
  b : SideState
  /-- The tile's identity memory (R41, R43): listed bytes; an unlisted byte reads 0xFF. -/
  tile : List Host.Cell
  /-- A tile answers at address 0x50 of the tile service bus (R61). -/
  tilePresent : Bool
  /-- CURTAIN_N is low past its filter (R217, R406). -/
  curtainN : Bool
  /-- The commands that wait, first in first out. -/
  pending : List Instr
  deriving DecidableEq, Repr

/-- A side right after reset: no supply, every register at its reset value (R9), every pad at high impedance (R391). -/
def SideState.reset (sd : Side) : SideState := { side := sd }

/-- The device right after reset. -/
def State.reset : State where
  a := SideState.reset .A
  b := SideState.reset .B
  tile := []
  tilePresent := true
  curtainN := false
  pending := []

end Sys2Proof.Machine
end

