-- ==== Sys2Proof/Machine/Ops.lean ====
section
/-! DEFINITION. The operations every meaning shares: reading and writing register fields and memory, events, counters, the
copy records of the lead, the log, and raising a fault event with the reaction of its class. -/

namespace Sys2Proof.Machine

/-! ### The two sides -/

/-- One side of the device. -/
def State.on (s : State) : Side → SideState
  | .A => s.a
  | .B => s.b

/-- The device with one side replaced. -/
def State.put (s : State) (sd : Side) (x : SideState) : State :=
  match sd with
  | .A => { s with a := x }
  | .B => { s with b := x }

/-! ### Register fields -/

/-- Member `g` of the drive groups, 16 register blocks of 0x20 to a page (R116). -/
def Fld.inDriveGroup (f : Fld) (g : Nat) : Fld := { f with key := f.key + g % 160 / 16 * 0x1000 + g % 16 * 0x20 }

/-- Member `g` of the monitor groups (R137). -/
def Fld.inMonGroup (f : Fld) (g : Nat) : Fld := { f with key := f.key + g % 96 / 16 * 0x1000 + g % 16 * 0x20 }

/-- Member `l` of the loop lanes, 16 register blocks of 0x10 to a page (R160). -/
def Fld.inLane (f : Fld) (l : Nat) : Fld := { f with key := f.key + l % 32 / 16 * 0x1000 + l % 16 * 0x10 }

/-- The register of port P1, P2 or P3 (R262). -/
def Fld.onPort (f : Fld) (n : Nat) : Fld := { f with key := f.key + (n - 1) % 3 * 0x1000 }

/-- The register as a selector register selects it: bank `b`. -/
def Fld.bank (f : Fld) (b : Nat) : Fld := { f with key := f.key + b * bankUnit }

/-- The word of a register. A voted register's three copies agree but for the clock edges of an upset, which enters as a
fault event of its own (R343); so the majority is this word. -/
def SideState.word (s : SideState) (key : Nat) : Word :=
  Store.read (fun k => BitVec.ofNat 32 (resetWord s.side k)) s.regs key

/-- A field's value. -/
def SideState.get (s : SideState) (f : Fld) : Nat := bits (s.word f.key).toNat f.lo f.w

/-- A one-bit field, or any bit of a field. -/
def SideState.is (s : SideState) (f : Fld) : Bool := s.get f != 0

/-- Writes a field, of a voted register all three copies in one clock edge (R343). -/
def SideState.set (s : SideState) (f : Fld) (v : Nat) : SideState :=
  let w : Word := BitVec.ofNat 32 (putBits (s.word f.key).toNat f.lo f.w v)
  { s with regs := Store.write (fun k => BitVec.ofNat 32 (resetWord s.side k)) s.regs f.key w }

/-- Writes a one-bit field. -/
def SideState.setB (s : SideState) (f : Fld) (b : Bool) : SideState := s.set f (if b then 1 else 0)

/-- The whole register as one field. -/
def wholeReg (key : Nat) : Fld := ⟨key, 0, 32⟩

/-- Adds to a counting field that saturates at its width. -/
def SideState.bump (s : SideState) (f : Fld) (n : Nat) : SideState :=
  s.set f (if s.get f + n < 2 ^ f.w then s.get f + n else 2 ^ f.w - 1)

/-- A block sets one bit of EVT_RAW of a page (R337). -/
def SideState.evt (s : SideState) (page bit : Nat) : SideState := s.set ⟨page * 0x1000 + 0x00C, bit, 1⟩ 1

/-- The last `n` elements of a list. -/
def lastN {α : Type} (n : Nat) (l : List α) : List α := l.drop (l.length - n)

/-- A value the manual does not state, of `w` bits, and the side that has taken it: a free value. -/
def SideState.fresh (s : SideState) (w : Nat) : SideState × Nat :=
  ({ s with free := s.free + 1 }, (Config.freeValue s.free).toNat % 2 ^ w)

/-! ### Instants -/

/-- The instant in ns since the PTP epoch, as the beat has it: BEATNO × 10,000 plus the offset in the beat (R11). -/
def SideState.now (s : SideState) : Nat := s.beatNo * 10000 + s.off

/-- The clock reading at the last boundary, in ns. -/
def SideState.clockNs (s : SideState) : Nat := s.time.sec * 1000000000 + s.time.ns

/-- The reading of the network-time clock in ns (R266): as it was at the last boundary, plus the offset in the beat. -/
def SideState.netNow (s : SideState) : Nat := s.clockNs + s.off

/-- Is the instant before 8.5 µs of the beat, the arming cutoff (R14)? -/
def SideState.beforeCutoff (s : SideState) : Bool :=
  match s.win with
  | .edge => true
  | .loop => true
  | .scene => true
  | _ => false

/-- The instant of a command that gives its offset in the beat: time in a beat does not run backwards. -/
def SideState.atOffset (s : SideState) (off : Nat) : SideState := { s with off := max s.off (min off 9999) }

/-! ### Roles -/

/-- Does the side hold the lead role (R227)? -/
def SideState.leads (s : SideState) : Bool := s.get TW_ROLE.ROLE == 1

/-- Is the side an understudy? -/
def SideState.isUnderstudy (s : SideState) : Bool := s.get TW_ROLE.ROLE == 2

/-- Does the side drive the pads: it leads and its drive stage has its supply (R4, R5)? -/
def SideState.drives (s : SideState) : Bool := s.leads && !s.is TW_ROLE.FENCED

/-- Are the rails of the side up: it has its VIN, or its power die still keeps them (R392)? -/
def SideState.supplied (s : SideState) : Bool := s.power.powered || s.power.holdUp != 0

/-- Does the side hold the pads of its drive stage: it drives them, or it has led up to its peer's takeover and its rail is not
fenced yet (R4, R237)? -/
def SideState.holdsPads (s : SideState) : Bool := (s.leads || s.twin.wasLead) && s.supplied && !s.is TW_ROLE.FENCED

/-- Is the side's drive-stage rail below the fence threshold, as the comparator of its peer sees it (R237, R247)? -/
def SideState.railLow (s : SideState) : Bool := !s.supplied || s.is TW_ROLE.FENCED

/-- Is the controller die of the side working: supplied, out of reset, and not halted by a Grave reaction (R303)? -/
def SideState.alive (s : SideState) : Bool :=
  s.power.powered && !s.power.inReset && !s.fault.halted && !s.power.tripped

/-- Is the stage manager running firmware and served by its watchdog (R374)? -/
def SideState.managed (s : SideState) : Bool := s.alive && s.is HM_STAT.RUN && s.is HM_STAT.WDOG_OK

/-- Has the side stopped its work after a thermal shutdown: from the boundary after the decision (R325)? -/
def SideState.stopped (s : SideState) : Bool :=
  match s.therm.shutdownAt with
  | some b => Nat.blt b s.produced
  | none => false

/-- Beats since the wake boundary. -/
def SideState.wakeBeats (s : SideState) : Nat :=
  match s.therm.wakeAt with
  | some b => s.produced - b
  | none => 0

/-- Do loops, ramps and the cell check run: not in intermission, nor in the first beats of its wake (R329, R330)? -/
def SideState.awake (s : SideState) : Bool :=
  s.get TH_INT_STAT.STATE == 0 || (s.get TH_INT_STAT.STATE == 2 && Nat.ble 21 s.wakeBeats)

/-- Does a command that needs a working controller die act on this side? Where it does not, nothing happens. -/
def SideState.live (s : SideState) (f : SideState → SideState) : SideState := if s.alive then f s else s

/-! ### Memory -/

/-- The rw fields of a register take a written value (R7, R338). -/
def SideState.writeRw (s : SideState) (key : Nat) (v : Nat) : SideState :=
  s.set (wholeReg key) (Nat.lor (Nat.land (s.word key).toNat (0xFFFFFFFF - rwMask key)) (Nat.land v (rwMask key)))

/-- A write of a register makes the copies of the voted fields it stores agree (R343). -/
def SideState.agree (s : SideState) (key : Nat) : SideState :=
  { s with fault := { s.fault with
    upsets := s.fault.upsets.filter (fun u => !(u.1 == key && bitAt (Nat.lor (rwMask key) (pwMask key)) u.2.1)) } }

/-- Does an address lie in the tables whose rw fields take effect at a boundary (R60)? -/
def inFieldTables (a : Nat) : Bool := Nat.ble 0x30000000 a && Nat.blt a 0x3009C000

/-- What an unlisted byte reads as: erased NVM reads 0xFF but for the key-material area (R375), the rest 0. -/
def memDefault (a : Nat) : Byte :=
  if 0x40000000 ≤ a ∧ a < 0x42000000 then
    (if 0x41060000 ≤ a ∧ a < 0x41070000 then 0 else 0xFF)
  else 0

/-- One byte of the side's memories. -/
def SideState.rd8 (s : SideState) (a : Nat) : Byte := Store.read memDefault s.mem a

/-- Writes one byte. An error stays in its word of the element-table memory until the word is written (R422). -/
def SideState.wr8 (s : SideState) (a : Nat) (b : Byte) : SideState :=
  { s with
    mem := Store.write memDefault s.mem a b, eccHard := dropNat (a / 4 * 4) s.eccHard, eccSoft := dropNat (a / 4 * 4) s.eccSoft }

/-- `n` bytes from an address. -/
def SideState.rdBytes (s : SideState) (a n : Nat) : List Byte := (List.range n).map (fun i => s.rd8 (a + i))

/-- Has a word an uncorrectable error, or its entry one that has been reported and not rewritten (R146, R164, R422)? -/
def SideState.wordBad (s : SideState) (a : Nat) : Bool := s.eccHard.contains a || s.eccOwed.contains a

/-- A read or the scrub reports the uncorrectable words among `l`: the stage manager is to rewrite the entries of the tables that hold
them (R422). -/
def SideState.owe (s : SideState) (l : List Nat) : SideState :=
  { s with eccOwed := (l.filter (fun a => inFieldTables a && s.eccHard.contains a)).foldl (fun o a => insertNat a o) s.eccOwed }

/-- Writes bytes from an address upward. -/
def SideState.wrBytes (s : SideState) : Nat → List Byte → SideState
  | _, [] => s
  | a, b :: t => (s.wr8 a b).wrBytes (a + 1) t

/-- A little-endian number of `n` bytes. -/
def SideState.rd (s : SideState) (a n : Nat) : Nat := leNat (s.rdBytes a n)

/-- Writes a little-endian number of `n` bytes. -/
def SideState.wr (s : SideState) (a n v : Nat) : SideState := s.wrBytes a (leBytes n v)

/-- A field of the 32-bit word at an address. -/
def SideState.rdF (s : SideState) (a lo w : Nat) : Nat := bits (s.rd a 4) lo w

/-- Writes a field of the 32-bit word at an address. -/
def SideState.wrF (s : SideState) (a lo w v : Nat) : SideState := s.wr a 4 (putBits (s.rd a 4) lo w v)

/-- A field of the entries of an element table: entries of `stride` bytes from `base`, the field in word `word`. -/
structure TFld where
  base : Nat
  stride : Nat
  word : Nat
  lo : Nat
  w : Nat
  deriving DecidableEq, Repr

/-- The address of the word that holds a table field of entry `i`. -/
def TFld.addr (f : TFld) (i : Nat) : Nat := f.base + f.stride * i + 4 * f.word

/-- A table field of entry `i`. -/
def SideState.t (s : SideState) (f : TFld) (i : Nat) : Nat := s.rdF (f.addr i) f.lo f.w

/-- Writes a table field of entry `i`. -/
def SideState.tset (s : SideState) (f : TFld) (i v : Nat) : SideState := s.wrF (f.addr i) f.lo f.w v

/-! ### Performance counters (R363) -/

/-- Adds `n` to performance counter `i`; a wrap sets its overflow bit. -/
def SideState.count (s : SideState) (i n : Nat) : SideState :=
  if n = 0 then s
  else if s.is PC_CTRL.FREEZE then s
  else
    let v := Tab.getD s.perf.counters i 0 + n
    let s := { s with perf := { s.perf with counters := Tab.put s.perf.counters i (v % 2 ^ 48) } }
    if v < 2 ^ 48 then s else (s.set { PC_OVF.OVF.nth (i / 32) with lo := i % 32, w := 1 } 1).evt 0x06 3

/-- Adds `n` to diagnostic counter `i`; it wraps at 2^32 (R365). -/
def SideState.countDiag (s : SideState) (i n : Nat) : SideState :=
  if s.is PC_CTRL.FREEZE then s
  else { s with perf := { s.perf with diag := Tab.put s.perf.diag i ((Tab.getD s.perf.diag i 0 + n) % 2 ^ 32) } }

/-- Does a frame's body carry a payload, with nothing but padding after it? -/
def carries (body payload : List Byte) : Bool :=
  body.take payload.length == payload && (body.drop payload.length).all (fun b => b == 0)

/-! ### Copy records of the lead (R235) -/

/-- The lead adds a record to the copy of the beat; any other side sends none. -/
def SideState.emit (s : SideState) (r : List Byte) : SideState :=
  if s.leads then
    { s with twin := { s.twin with records := s.twin.records ++ [r], recordBytes := s.twin.recordBytes + r.length } }
  else s

/-- DO: BASE changed by an immediate write. -/
def recDo (dout base : Nat) : List Byte := leBytes 4 (0x1 + dout * 0x10 + base * 0x40000)

/-- DO_STAGED: a beat-aligned value staged for the next boundary. -/
def recDoStaged (dout base : Nat) : List Byte := leBytes 4 (0x2 + dout * 0x10 + base * 0x40000)

/-- Is a record the DO_STAGED of a DO? -/
def isStagedOf (d : Nat) (r : List Byte) : Bool := leNat (slice r 0 4) % 0x40000 == 0x2 + d * 0x10

/-- The code of an ownership state (R150). -/
def Own.code : Own → Nat
  | .none => 0
  | .loop => 1
  | .loopWait => 2
  | .tune => 3
  | .eoHold => 4
  | .scene => 5
  | .cal => 6
  | .man => 7

/-- OWN: ownership or MODE changed. -/
def recOwn (dout : Nat) (o : Own) (modeChg mode : Nat) : List Byte :=
  leBytes 4 (0x3 + dout * 0x10 + o.code * 0x40000 + modeChg * 0x400000 + mode * 0x800000)

/-- EDGE: a cell armed or re-fired. -/
def recEdge (cell phys miss eEdge eBeat : Nat) : List Byte :=
  leBytes 4 (0x4 + cell * 0x10 + phys * 0x20000 + miss * 0x80000) ++ leBytes 4 (eEdge + eBeat * 0x10000)

/-- HO: the handover fields of a cell. -/
def recHo (cell ho paused rampStep pause : Nat) : List Byte :=
  leBytes 4 (0x5 + cell * 0x10 + ho * 0x20000 + paused * 0x80000) ++ leBytes 4 (rampStep + pause * 0x10000)

/-- TRK: a tracking entry. -/
def recTrk (entry stat e : Nat) : List Byte := leBytes 4 (0x7 + entry * 0x10) ++ leBytes 4 stat ++ leBytes 8 e

/-- MEM: bytes written to an element table, a scene slot or the policy record. -/
def recMem (addr : Nat) (data : List Byte) : List Byte :=
  leBytes 4 (0x8 + data.length * 0x10) ++ leBytes 4 addr ++ data

/-- REG: a copied register field. -/
def recReg (key value mask : Nat) : List Byte :=
  leBytes 4 (0x9 + key / 0x1000 * 0x10 + key % 0x1000 * 0x1000) ++ leBytes 4 value ++ leBytes 4 mask

/-- CONN: a connection-table entry, its sequence state and its deadline. -/
def recConn (i id cfg seq hasSeq deadline : Nat) : List Byte :=
  leBytes 4 (0xA + i * 0x10 + hasSeq * 0x400) ++ leBytes 4 id ++ leBytes 4 cfg ++ leBytes 4 seq ++ leBytes 8 deadline

/-- Sends `n` bytes of memory from `addr` as MEM records of at most 256 bytes. -/
def SideState.emitMem (s : SideState) (addr n : Nat) : SideState :=
  if s.leads then
    (List.range ((n + 255) / 256)).foldl
      (fun s i => s.emit (recMem (addr + 256 * i) (s.rdBytes (addr + 256 * i) (min 256 (n - 256 * i))))) s
  else s

/-- The copied register fields of the shipped firmware (R247, R354): register and mask. The tone generators' fields follow
with the generator page; the temperature fields are sent once per housekeeping round. -/
def copiedRegs : List (Nat × Nat) := [
  (0x09040, 0x00000F03), (0x09044, 0x00000040), (0x09048, 0x00000FFF), (0x09070, 0x000000FF), (0x09074, 0x003FFFFF),
  (0x09078, 0x003FFFFF), (0x0A080, 0x00000FFF), (0x0B040, 0x00000007), (0x0D040, 0x00000007), (0x0D044, 0x003F07FF),
  (0x0E040, 0x00FF001F), (0x0F044, 0x00000FFF), (0x0F048, 0x03FF1FFF), (0x0F074, 0xFFFFFFFF), (0x16040, 0x00FF0F01)]

/-- The mask of copied fields of a register; 0 for a register that is not copied. -/
def copiedMask (key : Nat) : Nat := Tab.getD copiedRegs key 0

/-- Sends a REG record of a register if it is copied and differs from what it was. -/
def SideState.emitReg (s old : SideState) (key : Nat) : SideState :=
  let m := copiedMask key
  if m = 0 then s
  else
    let v := Nat.land (s.word key).toNat m
    if v = Nat.land (old.word key).toNat m then s else s.emit (recReg key v m)

/-- Writes a field and sends its copy record if it is a copied field that changed. -/
def SideState.setC (s : SideState) (f : Fld) (v : Nat) : SideState := (s.set f v).emitReg s f.key

/-! ### The log (R378) -/

/-- A log entry. -/
def logEntry (s : SideState) (kind code flags count : Nat) (detail : List Byte) : List Byte :=
  let b := leBytes 8 s.beatNo ++ leBytes 4 s.fault.logSeq ++ leBytes 1 kind ++ leBytes 1 code ++ leBytes 1 flags
    ++ leBytes 1 (min count 255) ++ slice detail 0 12
  b ++ leBytes 4 (crc32c b)

/-- The SIDE and ROLE bits of FLAGS. -/
def SideState.sideRole (s : SideState) : Nat :=
  (match s.side with | .A => 0 | .B => 0x10) + s.get TW_ROLE.ROLE * 0x20

/-- Places an entry in the RAM buffer of 256 entries; a full buffer drops it and counts it (R379). -/
def SideState.placeEntry (s : SideState) (kind code flags count : Nat) (detail : List Byte) : SideState :=
  if s.fault.log.length < 256 then
    let s := { s with fault := { s.fault with
      log := s.fault.log ++ [logEntry s kind code flags count detail]
      logSeq := (s.fault.logSeq + 1) % 2 ^ 32 } }
    s.set NV_LOG_STAT.BUF s.fault.log.length
  else
    let s := (s.bump NV_LOG_STAT.LOST 1).evt 0x05 1
    { s with fault := { s.fault with dropped := true } }

/-- The stage manager's logging has stopped: its watchdog has expired (R374). -/
def SideState.logStopped (s : SideState) : Bool := s.is HM_STAT.RUN && !s.is HM_STAT.WDOG_OK

/-- The stage manager logs an entry. -/
def SideState.log (s : SideState) (kind code flags count : Nat) (detail : List Byte) : SideState :=
  if s.logStopped then s else s.placeEntry kind code flags count detail

/-- Enters a role in TW_ROLE and logs the change; the resignation line falls with it, PEER_FIT is a lead's alone, and the count of the
peer's silent beats begins anew (R227, R232, R233, R247, R378). DEDUCED (log 137): R233 counts for a role. -/
def SideState.enterRole (s : SideState) (role : Nat) : SideState :=
  if s.get TW_ROLE.ROLE = role then s
  else
    let s := s.set TW_ROLE.ROLE role
    let s := if role = 2 then s else (s.set TW_ROLE.WARMTH 0).set TW_ROLE.FIT 0
    let s := (if role = 1 then s else s.set TW_ROLE.PEER_FIT 0).set TW_HB_STAT.SILENT 0
    let s := { s with twin := { s.twin with resignLine := false, resignFrom := none, resignWait := false, resignSent := false } }
    s.log 2 0x03 s.sideRole 0 (leBytes 1 role ++ leBytes 1 (s.get TW_TAKE_STAT.CAUSE))

/-! ### The fault collector (R299 to R306) -/

/-- The class-map entry in force for a source: an entry written in this beat acts from the next boundary (R307). -/
def SideState.entryOf (s : SideState) (src : Nat) : Nat :=
  (Tab.getD s.fault.mapPending src (s.word (FC_MAP.CLASS.bank src).key)).toNat

/-- CLASS of a source (R314). -/
def SideState.classOf (s : SideState) (src : Nat) : Nat := bits (s.entryOf src) 0 2

/-- Threshold N of a source; 0 acts as 1. -/
def SideState.threshold (s : SideState) (src : Nat) : Nat := max 1 (bits (s.entryOf src) 8 8)

/-- Window W of a source in boundaries; 0 acts as 1. -/
def SideState.window (s : SideState) (src : Nat) : Nat :=
  max 1 (bits (s.entryOf src) 16 16) * (if bitAt (s.entryOf src) 2 then 100 else 1)

/-- Is this one of the collector's own sources, 0xF0 to 0xF7 (R306)? -/
def collectorSource (src : Nat) : Bool := Nat.ble 0xF0 src && Nat.ble src 0xF7

/-- Logs a fault event with a class and shows it in FC_LAST, which keeps the event of a Grave reaction (R303, R314, R378); the
collector logs a Grave entry by itself. -/
def SideState.logFault (s : SideState) (src cls : Nat) (inj : Bool) (count : Nat) (detail : List Byte) : SideState :=
  let safe := collectorSource src
  let flags := cls + (if inj then 4 else 0) + (if safe then 8 else 0)
  let s := if cls = 3 ∧ !safe then s.placeEntry 0 src (flags + s.sideRole) count detail
    else s.log 0 src (flags + s.sideRole) count detail
  if s.twin.graveLatch && cls != 3 then s
  else
  let s := (s.set FC_LAST.SOURCE src).set FC_LAST.CLASS cls
  let s := (s.setB FC_LAST.INJ inj).setB FC_LAST.SAFE safe
  s.set FC_LAST.BEAT s.beatNo

/-- Everything of the side stops, and its role becomes NONE (R303). -/
def SideState.halt (s : SideState) : SideState :=
  let s := (s.enterRole 0).set SW_STAT.ALIVE_RUN 0
  { s with fault := { s.fault with halted := true }, twin := { s.twin with haltDue := false } }

/-- The fence of the side's own drive stage: its DO are at high impedance (R5). A side after a Grave reaction halts with its
fence (R303). -/
def SideState.fenceSelf (s : SideState) : SideState :=
  let s := (s.set MI_STAT.FE_CONN 0).set DO_STAT.STAGE_EN 0
  let s := { s.set TW_ROLE.FENCED 1 with twin := { s.twin with unfencePending := false } }
  if s.twin.haltDue then s.halt else s

/-- Is the peer counted FIT (R242)? -/
def SideState.peerFit (s : SideState) : Bool := s.is TW_ROLE.PEER_FIT

/-- The side asserts resignation on its pulse line (R232). -/
def SideState.resignPulse (s : SideState) : SideState :=
  { s.set FC_STAT.RESIGN_PEND 0 with twin := { s.twin with resignLine := true, resignFrom := none, resignWait := false, resignSent := false } }

/-- The side resigns on its pulse line. It is fenced by the takeover of a FIT peer, or else at once by its own power die
(R230). -/
def SideState.resignNow (s : SideState) : SideState :=
  let s := s.resignPulse
  if s.leads && s.peerFit then s else s.fenceSelf

/-- Entry into the Major state by a source, with the resignation it brings (R301, R302). -/
def SideState.enterMajor (s : SideState) (src : Nat) : SideState :=
  let s := { s with fault := { s.fault with majorAt := some (s.produced * 10000 + s.off) } }
  if s.is FC_STAT.MAJOR then s.bump FC_MAJ.COUNT 1
  else
    let s := s.set SW_STAT.ALIVE_RUN 0
    let s := (s.set FC_STAT.MAJOR 1).set FC_MAJ.SOURCE src
    let s := (s.bump FC_MAJ.COUNT 1).set FC_MAJ.BEAT s.beatNo
    if s.leads then
      if s.peerFit then
        { s with twin := { s.twin with resignFrom := some (if s.off ≤ 9500 then s.produced else s.produced + 1) } }
      else
        { s.set FC_STAT.RESIGN_PEND 1 with twin := { s.twin with resignWait := true } }
    else s.set TW_ROLE.FIT 0

/-- Notes a class decided in this beat; answers whether it acts: a higher class of the same beat acts alone (R304). -/
def SideState.topClass (s : SideState) (cls : Nat) : SideState := { s with fault := { s.fault with top := max s.fault.top cls } }

/-- The instant by the boundaries the beat generator has produced, in ns: it rises whatever a realignment does (R300). -/
def SideState.tick (s : SideState) : Nat := s.produced * 10000 + s.off

/-- Events in the open window of a source; a window whose LEFT has reached 0 is closed (R300). -/
def SideState.countOf (s : SideState) (src : Nat) : Nat :=
  if Tab.getD s.fault.windows src 0 = 0 then 0 else s.get (FC_SCNT.COUNT.bank src)

/-- The window of a source closes with its count at 0. -/
def SideState.closeWindow (s : SideState) (src : Nat) : SideState :=
  { s.set (FC_SCNT.COUNT.bank src) 0 with fault := { s.fault with windows := Tab.del s.fault.windows src } }

/-- The window of a source opens: LEFT := W. -/
def SideState.openWindow (s : SideState) (src : Nat) : SideState :=
  { s with fault := { s.fault with windows := Tab.put s.fault.windows src (s.window src) } }

/-- The side resigns because of the collector, and is fenced as R230 states; tells whether it has resigned now. -/
def SideState.resignOnce (s : SideState) : SideState × Bool :=
  if s.twin.resignLine then ((if s.leads && s.peerFit then s else s.fenceSelf), false) else (s.resignNow, true)

/-- The reaction of a class of at least Notice (R301 to R304): a higher class of the same beat acts alone. -/
def SideState.react (s : SideState) (src cls : Nat) : SideState × Bool :=
  if cls < s.fault.top then (s, false)
  else
    let s := s.topClass cls
    if cls = 0 then (s, false)
    else if cls = 1 then ({ s.evt 0x03 0 with twin := { s.twin with minorCount := s.twin.minorCount + 1 } }, false)
    else if cls = 2 then ((s.evt 0x03 1).enterMajor src, false)
    else ({ s.set SW_STAT.ALIVE_RUN 0 with twin := { s.twin with haltDue := true, graveLatch := true } }).resignOnce

/-- An event of a source with a class of its own counts in its window; at its threshold it reacts (R300). An injected event is
logged whatever its count (R311). -/
def SideState.countEvent (s : SideState) (src : Nat) (inj : Bool) (detail : List Byte) : SideState × Bool :=
  let n := s.threshold src
  let c := s.countOf src + 1
  let s := if c = 1 then s.openWindow src else s
  let s := if (c == 1 && n != 1) || (inj && decide (c < n)) then s.logFault src 0 inj c detail else s
  if c < n then (s.set (FC_SCNT.COUNT.bank src) c, false)
  else ((s.logFault src (s.classOf src) inj c detail).closeWindow src).react src (s.classOf src)

/-- The safe state: the collector's own sources (R306); ALIVE stops with it (R218). -/
def SideState.safeState (s : SideState) (src : Nat) (inj : Bool) (detail : List Byte) : SideState × Bool :=
  (((s.logFault src 3 inj 1 detail).set FC_STAT.SAFE 1).set SW_STAT.ALIVE_RUN 0).resignOnce

/-- The injection armed at a point, if any. -/
def SideState.armedAt (s : SideState) (point : Nat) : Option Injection :=
  match s.fault.injection with
  | some i => if i.point = point then some i else none
  | none => none

/-- The checker of the armed point has made a check; after the last the injection is disarmed, RESULT done. -/
def SideState.consumeInjection (s : SideState) (i : Injection) : SideState :=
  if i.left ≤ 1 then
    let s := { s with fault := { s.fault with injection := none } }
    ((s.set FC_INJ_STAT.LEFT 0).set FC_INJ_STAT.RESULT 2).set FC_STAT.INJ_ARMED 0
  else
    { s.set FC_INJ_STAT.LEFT (i.left - 1) with fault := { s.fault with injection := some { i with left := i.left - 1 } } }

/-- An injected event of a source is shown and counted in INJ (R311). -/
def SideState.showInjected (s : SideState) : SideState := (s.evt 0x03 2).bump FC_INJ_STAT.INJ 1

/-- An injected event that does not count toward N: logged with its INJ flag and the events in the open window, and counted in FC_STOTAL
(R299, R311, R378). -/
def SideState.logInjected (s : SideState) (src : Nat) : SideState :=
  ((s.count 120 1).bump (FC_STOTAL.EVENTS.bank src) 1).logFault src (if collectorSource src then 3 else 0) true (s.countOf src) (leBytes 4 s.off)

/-- A read of a class-map entry, whose vote an injection at point 0x0A meets: the inverted copy shows in TV_ERR (R310, R311, R343). -/
def SideState.mapRead (s : SideState) : SideState :=
  match s.armedAt 0x0A with
  | none => s
  | some i => (((s.set (PAGE_STAT.TV_ERR.onPage 0x03) 1).consumeInjection i).showInjected).logInjected 0xF0

/-- A real event shows while an injection is armed (R311). -/
def SideState.showReal (s : SideState) (src : Nat) : SideState :=
  if s.fault.injection.isSome && src != 0xF8 && src != 0xF9 then (s.evt 0x03 3).bump FC_INJ_STAT.REAL 1 else s

/-- A read of the class-map entry of a source compares its copies (R343): those that differ agree again, all three with the entry's default
(R344). Tells whether they differed. -/
def SideState.compareEntry (s : SideState) (src : Nat) : SideState × Bool :=
  let key := (FC_MAP.CLASS.bank src).key
  if !s.fault.upsets.any (fun u => u.1 == key) then (s, false)
  else
    let all := s.fault.upsets.any (fun u => u.1 == key && u.2.2)
    let s := { s.set (PAGE_STAT.TV_ERR.onPage 0x03) 1 with fault := { s.fault with upsets := s.fault.upsets.filter (fun u => u.1 != key) } }
    if all then
      ({ s.set (wholeReg key) (classDefault src) with fault := { s.fault with mapPending := Tab.del s.fault.mapPending src } }, true)
    else (s, true)

/-- The collector takes an event (R299 to R306), as real unless it is injected. A resignation on the pulse line is itself the event of source
0x8A (R246), and copies of the class-map entry that differ are that of 0xF0 (R343, R344); `fuel` bounds such events within one. -/
def SideState.collect : Nat → SideState → Nat → Bool → List Byte → SideState
  | 0, s, _, _, _ => s
  | fuel + 1, s, src, inj, detail =>
    let s := if inj then s else s.showReal src
    let s := match (if collectorSource src then (s, false) else s.compareEntry src) with
      | (s, false) => s
      | (s, true) => s.collect fuel 0xF0 false (leBytes 4 s.off)
    let s := (s.count 120 1).bump (FC_STOTAL.EVENTS.bank src) 1
    match (if collectorSource src then s.safeState src inj detail else s.mapRead.countEvent src inj detail) with
    | (s, false) => s
    | (s, true) => s.collect fuel 0x8A false (leBytes 4 s.off)

/-- While log entries are dropped, source 0xA5 is raised once per second (R379). -/
def SideState.reportDrops (s : SideState) : SideState :=
  let due := match s.fault.droppedAt with
    | none => true
    | some b => Nat.ble (b + 100000) s.produced
  if s.fault.dropped && due && !s.fault.halted then
    ({ s with fault := { s.fault with dropped := false, droppedAt := some s.produced } }).collect 4 0xA5 false (leBytes 4 s.off)
  else s

/-- A block raises an event of a source, with DETAIL bytes of its own (R378). -/
def SideState.raiseWith (s : SideState) (src : Nat) (detail : List Byte) : SideState :=
  if s.fault.halted then s else (s.collect 4 src false detail).reportDrops

/-- A block raises an event of a source; DETAIL holds the offset in the beat (R378). -/
def SideState.raise (s : SideState) (src : Nat) : SideState := s.raiseWith src (leBytes 4 s.off)

/-- A block raises an event of a source if something holds. -/
def SideState.raiseIf (s : SideState) (b : Bool) (src : Nat) : SideState := if b then s.raise src else s

/-! ### Injection (R309 to R311) -/

/-- The source of an injection point (R310). -/
def injectionSource (point : Nat) : Option Nat :=
  Tab.get? [(0x01, 0x53), (0x02, 0x60), (0x03, 0x59), (0x04, 0x97), (0x05, 0x65), (0x06, 0x85), (0x07, 0x89), (0x08, 0x96),
    (0x09, 0x44), (0x0A, 0xF0)] point

/-- An injected event of a source: logged with its INJ flag and counted in INJ. With REACT it counts and reacts, but point
0x0A never takes the collector's reaction (R311). -/
def SideState.injected (s : SideState) (i : Injection) (src : Nat) : SideState :=
  let s := s.showInjected
  if i.react && !collectorSource src then s.collect 4 src true (leBytes 4 s.off) else s.logInjected src

/-- A checker at an injection point makes a check whose true result is `ok`. Armed, a check that is truly good is judged
injected and the data path follows the shadow; a check that truly fails is real, and is raised while the injection is still
armed. Answers the side with a real failure raised. -/
def SideState.checkAt (s : SideState) (point : Nat) (ok : Bool) : SideState :=
  let src := (injectionSource point).getD 0
  match s.armedAt point with
  | none => s.raiseIf (!ok) src
  | some i => if ok then (s.consumeInjection i).injected i src else (s.raise src).consumeInjection i

end Sys2Proof.Machine
end

