-- ==== Sys2Proof/Machine/Flags.lean ====
section
/-! DEFINITION. The event flags as a whole: what is pending, the interrupt condition, INT_N and MSI (R312, R336), and the next
state of a command on one side. -/

namespace Sys2Proof.Machine

/-! ### The interrupt condition (R312) -/

/-- EVT_PEND of a page (R336). -/
def SideState.pend (s : SideState) (page : Nat) : Word := s.word (page * 0x1000 + 0x00C) &&& s.word (page * 0x1000 + 0x010)

/-- The interrupt condition: an enabled page has a pending event. -/
def SideState.condition (s : SideState) : Bool :=
  (List.range 50).any (fun p => s.is ⟨0x03078 + 4 * (p / 32), p % 32, 1⟩ && s.pend p != 0)

/-- After every command: INT_N and MSI follow the condition. A side that is unpowered or in power-up reset drives neither (R405, R408).
DEDUCED (log 133): after a Grave halt the lines keep their level inside (R312); the ball is at high impedance once the side is fenced. -/
def SideState.interrupt (s : SideState) : SideState :=
  if s.fault.halted && s.power.powered then s
  else
    let c := s.condition && s.power.powered && !s.power.inReset
    { s with fault := { s.fault with
      condition := c
      intLow := s.is FC_INT_CTRL.PIN_EN && c
      msiSent := s.fault.msiSent + (if s.is FC_INT_CTRL.MSI_EN && c && !s.fault.condition then 1 else 0) } }

/-- The next state of a command that acts on one side: what it does there, then the interrupt condition. -/
def State.side (s : State) (sd : Side) (f : SideState → SideState) : State := s.put sd ((f (s.on sd)).interrupt)

end Sys2Proof.Machine
end

