-- ==== Sys2Proof/Machine/Operands.lean ====
section
/-! DEFINITION. The operand forms of the commands that reach a side over the interconnect: addresses and their targets, masters
and what they may do, widths, aliases, single and paired writes (R338 to R344, R350 to R361). -/

namespace Sys2Proof.Machine

/-! ### Accesses (R338 to R344) -/

/-- DETAIL of an access event: address, master, and 1 for a write (R378). -/
def accessDetail (addr m : Nat) (write : Bool) : List Byte :=
  leBytes 4 addr ++ leBytes 1 m ++ leBytes 1 (if write then 1 else 0)

/-- A write that is ignored and logged as an access event (R349, source 0x10). -/
def SideState.accessEvent (s : SideState) (addr : Nat) (m : Master) : SideState :=
  let s := if 0x20000000 ≤ addr ∧ addr < 0x20032000 then s.set (PAGE_STAT.ACC_ERR.onPage ((addr - 0x20000000) / 0x1000)) 1 else s
  s.raiseWith 0x10 (accessDetail addr m.code true)

/-- The address of a register key. -/
def regAddr (key : Nat) : Nat := 0x20000000 + key

/-- A write to a register that its chapter declares ignored and logged. -/
def SideState.ignored (s : SideState) (key : Nat) (m : Master) : SideState := s.accessEvent (regAddr key) m

/-- May the master write this register page (R357)? -/
def mayWritePage (m : Master) (page : Nat) : Bool :=
  match m with
  | .stageManager => true
  | .cueChecker => page == 0x0A || page == 0x0B
  | .host => true
  | .dumpEngine => false
  | .twinCopy => true
  | .networkDma => false
  | .blockingEngine => false

/-- The target number of an address, 7 outside the map (R350, R370). -/
def targetOf (a : Nat) : Nat :=
  if a < 0x20000 then 0
  else if 0x08000000 ≤ a ∧ a < 0x08020000 then 0
  else if 0x10000000 ≤ a ∧ a < 0x10800000 then 1
  else if 0x20000000 ≤ a ∧ a < 0x20400000 then 2
  else if 0x30000000 ≤ a ∧ a < 0x30420000 then 3
  else if 0x40000000 ≤ a ∧ a < 0x42000000 then 4
  else if 0x50000000 ≤ a ∧ a < 0x50100000 then 5
  else if 0x60000000 ≤ a ∧ a < 0x60010000 then 6
  else 7

/-- An error response: counted, shown in EVT_RAW.ERR, and recorded if it is the first since that bit was cleared (R361, R364,
R365, R370). -/
def SideState.errorResponse (s : SideState) (addr m kind : Nat) (write : Bool) : SideState :=
  let held := s.perf.errHeld && s.is ⟨0x0200C, 0, 1⟩
  let first := !held
  let s := { s with perf := { s.perf with errHeld := held || kind != 0 } }
  let s := if first && kind != 0 then
      let s := (s.set BX_ERR_ADDR.ADDR addr).set BX_ERR_INFO.MASTER m
      let s := (s.set BX_ERR_INFO.TARGET (targetOf addr)).set BX_ERR_INFO.KIND kind
      s.setB BX_ERR_INFO.WRITE write
    else s
  let s := if targetOf addr = 2 ∧ addr % 0x100000 < 0x32000 then s.set (PAGE_STAT.ACC_ERR.onPage (addr % 0x100000 / 0x1000)) 1 else s
  ((s.evt 0x02 0).count 122 1).countDiag 14 1

/-- An access its master may not make (R357, source 0x19). -/
def SideState.denied (s : SideState) (addr : Nat) (m : Master) (write : Bool) : SideState :=
  (s.errorResponse addr m.code 2 write).raiseWith 0x19 (accessDetail addr m.code write)

/-- An access not aligned to its width (R338, R355, source 0x11). -/
def SideState.unaligned (s : SideState) (addr : Nat) (m : Master) (write : Bool) : SideState :=
  (s.errorResponse addr m.code 7 write).raiseWith 0x11 (accessDetail addr m.code write)

/-! ### Paired writes (R340) -/

/-- The registers that take paired writes, by key (R342). -/
def pairedKeys : List Nat :=
  [0x02040, 0x03054, 0x03068, 0x05048, 0x08048, 0x08054, 0x08088, 0x09050, 0x0905C, 0x0A04C, 0x0F088, 0x11040, 0x1E070, 0x1F060]

/-- The pair on X breaks, with the reason and the master that broke it; source 0x12 logs an address: that of X, or for ORPHAN
that of the complement register (R340, R378). -/
def SideState.breakPair (s : SideState) (reason m : Nat) (byWrite : Bool) (x logged : Nat) : SideState :=
  let page := x / 0x1000
  let s := { s with pairs := Tab.del s.pairs page }
  let s := (s.set (PAGE_LOCK.STATE.onPage page) 3).set (PAGE_LOCK.OFFSET.onPage page) (x % 0x1000 / 4)
  let s := (s.set (PAGE_LOCK.REASON.onPage page) reason).set (PAGE_LOCK.MASTER.onPage page) m
  let s := s.set (PAGE_LOCK.LEFT.onPage page) 0
  s.raiseWith 0x12 (accessDetail (regAddr logged) m byWrite)

/-- The register of the pair a page holds. -/
def SideState.pairKey (s : SideState) (page : Nat) : Nat := page * 0x1000 + s.get (PAGE_LOCK.OFFSET.onPage page) * 4

/-- A pair whose 16th boundary has passed is broken, with the master of its first half (TIMEOUT). -/
def SideState.lapse (s : SideState) (page : Nat) : SideState :=
  if Tab.has s.pairs page && s.get (PAGE_LOCK.LEFT.onPage page) == 0 then
    s.breakPair 1 (s.get (PAGE_LOCK.MASTER.onPage page)) false (s.pairKey page) (s.pairKey page)
  else s

/-- A master's transfer at a target, in its diagnostic counter; a host access is a received TLP (R364, R365). -/
def SideState.transfer (s : SideState) (m : Master) : SideState :=
  let s := s.countDiag (2 * m.code) 1
  if m = .host then s.count 127 1 else s

/-- Does the side answer an access to this register: not in the boot ROM, nor after a thermal shutdown, but for the pages
that stay (R325, R382)? -/
def SideState.answers (s : SideState) (key : Nat) : Bool :=
  let page := key / 0x1000
  if s.nvm.bootRom then page == 0x00 || page == 0x03 || page == 0x05 || key == 0x08088 || key == 0x0808C
  else if s.stopped then page == 0x03 || page == 0x04
  else true

/-- A write that does not complete the pair its page holds breaks it: with MISMATCH where it goes to the complement register, as a narrow
write or one through an alias, and else with INTERVENED (R340). The twin copy engine breaks no pair (R338). -/
def SideState.intervene (s : SideState) (key : Nat) (m : Master) : SideState :=
  let page := key / 0x1000
  if m = .twinCopy then s
  else
    let s := s.lapse page
    if Tab.has s.pairs page then
      s.breakPair (if key / 4 * 4 = s.pairKey page + 4 then 3 else 2) m.code true (s.pairKey page) (s.pairKey page)
    else s

/-- The first half of a pair: V to X. -/
def SideState.firstHalf (s : SideState) (key : Nat) (m : Master) (v : Word) : SideState :=
  let page := key / 0x1000
  let s := s.intervene key m
  let s := { s with pairs := Tab.put s.pairs page v }
  let s := (s.set (PAGE_LOCK.STATE.onPage page) 1).set (PAGE_LOCK.OFFSET.onPage page) (key % 0x1000 / 4)
  (s.set (PAGE_LOCK.MASTER.onPage page) m.code).set (PAGE_LOCK.LEFT.onPage page) 16

/-- The pair a page holds is complete. -/
def SideState.completePair (s : SideState) (page : Nat) (m : Master) : SideState :=
  let s := { s with pairs := Tab.del s.pairs page }
  let s := (s.set (PAGE_LOCK.STATE.onPage page) 2).set (PAGE_LOCK.REASON.onPage page) 0
  (s.set (PAGE_LOCK.MASTER.onPage page) m.code).set (PAGE_LOCK.LEFT.onPage page) 0

/-- A write of C to the complement register of X: completes the pair, or breaks it with MISMATCH, or is ORPHAN. Answers the
value of a completed pair. -/
def SideState.secondHalf (s : SideState) (key : Nat) (m : Master) (c : Word) : SideState × Option Word :=
  let page := key / 0x1000
  let s := s.lapse page
  match Tab.get? s.pairs page with
  | none => (s.breakPair 4 m.code true key (key + 4), none)
  | some v =>
    if s.pairKey page ≠ key then
      let s := s.breakPair 2 m.code true (s.pairKey page) (s.pairKey page)
      (s.breakPair 4 m.code true key (key + 4), none)
    else if c = ~~~v then (s.completePair page m, some v)
    else (s.breakPair 3 m.code true key key, none)

/-- The write or writes that end a pair on X: a 32-bit write of the complement, or one 64-bit host write, which is unaligned
where X is not a multiple of 8 (R341). Answers the value of a completed pair. The twin copy engine completes none (R338). -/
def SideState.pairWrite (s : SideState) (key : Nat) (m : Master) (w : PairWrite) : SideState × Option Word :=
  let s := s.transfer m
  if !s.answers key || m == .twinCopy then (s, none)
  else if !mayWritePage m (key / 0x1000) then (s.denied (regAddr key) m true, none)
  else
    match w with
    | .complement c => s.secondHalf key m c
    | .both v c =>
      if m ≠ .host then (s, none)
      else if key % 8 ≠ 0 then (s.unaligned (regAddr key) m true, none)
      else (s.firstHalf key m v).secondHalf key m c

/-- The pw fields of a register take the value of a completed pair, in all three copies (R340). -/
def SideState.takePair (s : SideState) (key : Nat) (v : Word) : SideState :=
  s.set (wholeReg key) (Nat.lor (Nat.land (s.word key).toNat (0xFFFFFFFF - pwMask key)) (Nat.land v.toNat (pwMask key)))

/-- What a completed pair on X does: the pw fields take V, and then the block acts (R340). -/
def SideState.onPair (s : SideState) (key : Nat) (m : Master) (w : PairWrite) (act : Word → SideState → SideState) : SideState :=
  match s.pairWrite key m w with
  | (s, none) => s
  | (s, some v) => act v (s.takePair key v)

/-- A 32-bit write of a register with a row of its own: the access rules of R338 and R357 around what the register does. -/
def SideState.regWrite (s : SideState) (key : Nat) (m : Master) (f : SideState → SideState) : SideState :=
  let s := s.transfer m
  if !s.answers key then s
  else if mayWritePage m (key / 0x1000) then f (s.intervene key m) else s.denied (regAddr key) m true

/-! ### The access rules of the interconnect (R351, R355, R357, R359) -/

/-- Does the zero region show working SRAM (R362)? -/
def SideState.remapped (s : SideState) : Bool := s.is BX_STAT.REMAPPED

/-- May the master make this access to the target of the address (R357)? -/
def mayAccess (remapped : Bool) (m : Master) (addr : Nat) (write : Bool) : Bool :=
  let t := targetOf addr
  let page := addr % 0x100000 / 0x1000
  match m with
  | .stageManager => if t = 0 then (!write || (remapped && decide (addr < 0x20000))) else true
  | .cueChecker =>
    if t = 1 then !write
    else if t = 2 then (!write || page == 0x0A || page == 0x0B)
    else if t = 3 then true
    else if t = 5 then !write
    else false
  | .host =>
    if t = 0 then (!write || (remapped && decide (addr < 0x20000)))
    else if t = 5 ∨ t = 6 then !write
    else true
  | .dumpEngine => t == 1 && write
  | .twinCopy => if t = 4 then !write else (t == 1 || t == 2 || t == 3 || t == 6)
  | .networkDma => t == 5
  | .blockingEngine => (t == 1 && write) || t == 3

/-- Is this a width in bytes the target takes (R338, R355)? -/
def widthOk (addr width : Nat) : Bool :=
  let t := targetOf addr
  if t = 5 then width == 4 || width == 8
  else if t = 6 then width == 4
  else true

/-- Why an access gets an error response, as KIND of BX_ERR_INFO has it, by the first reason that applies: outside the map (1),
unaligned (7), a write to the boot ROM (6), not allowed to its master (2), a locked burst refused (3), a narrow write to a
register page that is implemented or the element tables (0); none for an access that gets no error response (R334, R338, R351, R355,
R357, R359). -/
def accessReason (remapped : Bool) (m : Master) (addr width : Nat) (write locked : Bool) (burst : Nat) : Option Nat :=
  let t := targetOf addr
  if t = 7 then some 1
  else if width = 0 ∨ addr % width ≠ 0 then some 7
  else if write ∧ t = 0 ∧ (m = .stageManager ∨ m = .host) ∧ !(remapped && decide (addr < 0x20000)) then some 6
  else if !mayAccess remapped m addr write || !widthOk addr width then some 2
  else if locked ∧ (16 < burst ∨ (t ≠ 1 ∧ t ≠ 3)) then some 3
  else if write ∧ width < 4 ∧ ((t = 2 ∧ addr % 0x100000 < 0x32000) ∨ t = 3) then some 0
  else none

/-- An access that gets an error response; one for which no reason applies changes nothing here. -/
def SideState.accessError (s : SideState) (m : Master) (addr width : Nat) (write locked : Bool) (burst : Nat) : SideState :=
  let d := accessDetail addr m.code write
  match accessReason s.remapped m addr width write locked burst with
  | none => s
  | some 7 => s.unaligned addr m write
  | some 2 => s.denied addr m write
  | some 3 => (s.errorResponse addr m.code 3 write).raiseWith 0x1A d
  | some 0 =>
    let s := if targetOf addr = 2 then s.intervene (addr % 0x100000) m else s
    (s.errorResponse addr m.code 0 write).raiseWith 0x10 d
  | some k => (s.errorResponse addr m.code k write).raiseWith 0x18 d

/-- A write of bytes by an engine: they are stored where its access is allowed. A write that leaves those targets gets the error response
of its first address outside, where nothing is stored (R351, R357). Transfers carry 8 bytes each (R365). -/
def SideState.engineWrite (s : SideState) (m : Master) (a : Nat) (b : List Byte) : SideState :=
  let s := s.countDiag (2 * m.code) ((b.length + 7) / 8)
  let ok (i : Nat) : Bool := targetOf (a + i) != 7 && mayAccess false m (a + i) true
  if ok 0 && ok (b.length - 1) then s.wrBytes a b
  else
    let s := (b.zipIdx.filter (fun p => ok p.2)).foldl (fun (s : SideState) p => s.wrBytes (a + p.2) [p.1]) s
    match b.zipIdx.find? (fun p => !ok p.2) with
    | some p =>
      if targetOf (a + p.2) = 7 then (s.errorResponse (a + p.2) m.code 1 true).raiseWith 0x18 (accessDetail (a + p.2) m.code true)
      else s.denied (a + p.2) m true
    | none => s

/-! ### Widths and aliases (R339) -/

/-- Is this an access width of the interconnect? -/
def isWidth (w : Nat) : Bool := w == 1 || w == 2 || w == 4 || w == 8

/-- The value an alias write gives the rw fields of a register that holds `old` (R339). -/
def aliasValue (kind : AliasKind) (old mask v : Nat) : Nat :=
  match kind with
  | .setBits => Nat.land (Nat.lor old v) mask
  | .clearBits => Nat.land (Nat.land old (0xFFFFFFFF - v)) mask
  | .toggleBits => Nat.land (Nat.xor old v) mask

/-- The alias that an address of the register pages lies in, none for the pages themselves (R339). -/
def aliasOf (addr : Nat) : Option AliasKind :=
  match addr % 0x400000 / 0x100000 with
  | 1 => some .setBits
  | 2 => some .clearBits
  | 3 => some .toggleBits
  | _ => none

end Sys2Proof.Machine
end

