-- ==== Sys2Proof/Machine/Network.lean ====
section
/-! DEFINITION. The four-port switch of a side (R248 to R265): classification, policing and queueing, PRP and HSR, egress
selection under gates and shapers, the transparent clock (R270), and the call sheets. -/

namespace Sys2Proof.Machine

/-! ### Frames -/

/-- The length of the present beat by the clock (R13, R274): 10,000 ns, or 50 ns less or more while the grid phase returns to
0 after a realignment; the last beat absorbs the remainder. -/
def SideState.beatLength (s : SideState) : Nat :=
  let phi := signed (s.get NT_PHASE.PHI) 16
  if s.time.stepOpen then 10000
  else (10000 - clampInt (-50) 50 phi).toNat

/-- A frame taken apart: addresses, C-tag as (PCP, DEI, VID), EtherType with payload, and the redundancy tag or trailer as
(path or LAN with size, sequence number). -/
structure Packet where
  dst : Nat
  src : Nat
  tag : Option (Nat × (Nat × Nat))
  body : List Byte
  redun : Option (Nat × Nat)
  deriving DecidableEq, Repr

/-- Redundancy modes (QS_CTRL.REDUN; 0b11 acts as independent). -/
def SideState.redun (s : SideState) : Nat := if s.get QS_CTRL.REDUN = 3 then 0 else s.get QS_CTRL.REDUN

/-- Takes a C-tag off what follows the addresses. -/
def splitTag (l : List Byte) : Option (Nat × (Nat × Nat)) × List Byte :=
  if beNat (slice l 0 2) = 0x8100 then
    let t := beNat (slice l 2 2)
    (some (bits t 13 3, (bits t 12 1, bits t 0 12)), l.drop 4)
  else (none, l)

/-- Takes a frame apart as it arrives on a port in a redundancy mode (R253). The HSR tag follows the source address; the PRP
trailer ends in 0x88FB and holds the size of the link service data unit. -/
def Packet.parse (mode port : Nat) (f : List Byte) : Packet :=
  let ring := port = 1 ∨ port = 2
  let rest := f.drop 12
  let hsr := mode = 2 ∧ ring ∧ beNat (slice rest 0 2) = 0x892F
  let t := splitTag (if hsr then rest.drop 6 else rest)
  let n := t.2.length - 6
  let prp := mode = 1 ∧ ring ∧ 8 ≤ t.2.length ∧ beNat (slice t.2 (n + 4) 2) = 0x88FB ∧ beNat (slice t.2 (n + 2) 2) % 4096 = n + 4
  { dst := beNat (slice f 0 6)
    src := beNat (slice f 6 6)
    tag := t.1
    body := if prp then t.2.take n else t.2
    redun := if hsr then some (beNat (slice rest 2 2), beNat (slice rest 4 2))
      else if prp then some (beNat (slice t.2 (n + 2) 2), beNat (slice t.2 n 2)) else none }

/-- The EtherType after any C-tag. -/
def Packet.etype (p : Packet) : Nat := beNat (slice p.body 0 2)

/-- A group address: broadcast or multicast. -/
def isGroup (mac : Nat) : Bool := bitAt mac 40

/-- The broadcast address. -/
def broadcastMac : Nat := 0xFFFFFFFFFFFF

/-- The side's MAC address; byte 0 of the address is the most significant (R263, R6). -/
def SideState.ownMac (s : SideState) : Nat := s.get QS_MAC_HI.MAC * 2 ^ 32 + s.get QS_MAC_LO.MAC

/-- The frame length L in bytes, destination address through FCS (R256). -/
def lengthOf (f : List Byte) : Nat := f.length + 4

/-- Pads to the shortest frame of 64 bytes with FCS (R249, R250). -/
def padFrame (f : List Byte) : List Byte := f ++ List.replicate (60 - f.length) 0

/-- The type of a PTP message that a frame body holds. -/
def ptpType (body : List Byte) : Option Nat :=
  if beNat (slice body 0 2) = 0x88F7 then some ((slice body 2 1).headD 0).toNat else none

/-- An event message: Sync, Delay_Req, Pdelay_Req or Pdelay_Resp (R270). -/
def ptpEvent (body : List Byte) : Bool :=
  match ptpType body with
  | some t => Nat.blt (t % 16) 4
  | none => false

/-! ### Call sheets (R258, R259) -/

/-- The operating bank of a port. -/
def SideState.operBank (s : SideState) (port : Nat) : Nat := bits (s.get GT_CTRL.OPER) (port - 1) 1

/-- Are the gates of a port on? -/
def SideState.gatesOn (s : SideState) (port : Nat) : Bool := port != 0 && bitAt (s.get GT_CTRL.EN) (port - 1)

/-- The register bank of a call-sheet bank. -/
def sheetBank (port bank : Nat) : Nat := port * 2 + bank

/-- CYCLE as it acts. -/
def SideState.sheetCycle (s : SideState) (port bank : Nat) : Nat :=
  clampNat 1000 1000000000 (s.get (GT_CYCLE.CYCLE.bank (sheetBank port bank)))

/-- OFFSET of a bank. -/
def SideState.sheetOffset (s : SideState) (port bank : Nat) : Nat := s.get (GT_OFFSET.OFFSET.bank (sheetBank port bank))

/-- COUNT of a bank. -/
def SideState.sheetCount (s : SideState) (port bank : Nat) : Nat := s.get (GT_COUNT.COUNT.bank (sheetBank port bank))

/-- Lays entries out from `at` until the cycle ends: end and GATES of each entry in force; the last entry lasts until the
cycle ends, and a cycle end cuts the entry in force. -/
def layEntries (cycle : Nat) : List Nat → Nat → List (Nat × Nat)
  | [], _ => []
  | [e], _ => [(cycle, bits e 0 8)]
  | e :: t, start =>
    let stop := start + max 32 (bits e 8 24)
    if cycle ≤ stop then [(cycle, bits e 0 8)] else (stop, bits e 0 8) :: layEntries cycle t stop

/-- The entries of a bank in force in one cycle. -/
def SideState.sheetParts (s : SideState) (port bank : Nat) : List (Nat × Nat) :=
  layEntries (s.sheetCycle port bank)
    ((List.range (min 128 (s.sheetCount port bank))).map (fun i => s.get (GT_DATA.ENTRY.bank (sheetBank port bank * 128 + i)))) 0

/-- How long a run of open entries lasts from `start`, and whether it reaches the end of the list. -/
def openRun (q : Nat) : List (Nat × Nat) → Nat → Nat × Bool
  | [], _ => (0, true)
  | (stop, g) :: t, start =>
    if bitAt g q then
      let r := openRun q t stop
      (stop - start + r.1, r.2)
    else (0, false)

/-- The longest run of open entries in a list laid from `start`. -/
def longestRun (q : Nat) : List (Nat × Nat) → Nat → Nat
  | [], _ => 0
  | (stop, g) :: t, start => max (openRun q ((stop, g) :: t) start).1 (longestRun q t stop)

/-- QS_LONGEST of a queue: gates off or always open, 0x3FFF_FFFF; windows continue across the cycle boundary. -/
def SideState.longestWindow (s : SideState) (port q : Nat) : Nat :=
  if !s.gatesOn port then 0x3FFFFFFF
  else
    let b := s.operBank port
    let parts := s.sheetParts port b
    if parts.all (fun p => bitAt p.2 q) then 0x3FFFFFFF
    else
      let cycle := s.sheetCycle port b
      longestRun q (parts ++ parts.map (fun p => (p.1 + cycle, p.2))) 0

/-- The rest of the window of queue `q` at network time `t` in the operating sheet: none without an end. -/
def SideState.windowRest (s : SideState) (port q t : Nat) : Option Nat :=
  let b := s.operBank port
  let cycle := s.sheetCycle port b
  let ph := (((t : Int) - s.sheetOffset port b) % (cycle : Int)).toNat
  let parts := s.sheetParts port b
  let rest := if parts.all (fun p => bitAt p.2 q) then none
    else
      let ahead := (parts ++ parts.map (fun p => (p.1 + cycle, p.2))).filter (fun p => Nat.blt ph p.1)
      some (openRun q ahead ph).1
  match Tab.get? s.net.changeAt port with
  | none => rest
  | some c =>
    match rest with
    | none => some (c - t)
    | some r => some (min r (c - t))

/-- Line rate in use: 2500BASE-X on P1 or P2 (R262). -/
def SideState.fastPort (s : SideState) (port : Nat) : Bool := port != 0 && port != 3 && s.is (NP_CTRL.SPEED.onPort port)

/-- Wire time in tenths of a ns (R259). -/
def SideState.wireTime10 (s : SideState) (port len : Nat) : Nat := (len + 20) * (if s.fastPort port then 32 else 80)

/-- Does the gate admit a frame of length `len` now? -/
def SideState.admits (s : SideState) (port q len : Nat) : Bool :=
  if !s.gatesOn port then true
  else
    match s.windowRest port q s.netNow with
    | none => true
    | some r => Nat.ble (s.wireTime10 port len) (10 * r)

/-! ### Queues (R252) -/

/-- The key of a queue, and the bank of its registers. -/
def queueKey (port q : Nat) : Nat := port * 8 + q

/-- The frames of a queue. -/
def SideState.queue (s : SideState) (port q : Nat) : List Frame := Tab.getD s.net.queues (queueKey port q) []

/-- Replaces the frames of a queue. -/
def SideState.setQueue (s : SideState) (port q : Nat) (l : List Frame) : SideState :=
  { s with net := { s.net with
    queues := if l.isEmpty then Tab.del s.net.queues (queueKey port q) else Tab.put s.net.queues (queueKey port q) l } }

/-- Cells of 256 bytes that a frame takes. -/
def frameCells (f : Frame) : Nat := (lengthOf f.bytes + 255) / 256

/-- Cells in a queue. -/
def SideState.queueLevel (s : SideState) (port q : Nat) : Nat := ((s.queue port q).map frameCells).sum

/-- Cells of the buffer in use, frames in transmission among them. -/
def SideState.cellsInUse (s : SideState) : Nat :=
  (s.net.queues.map (fun p => (p.2.map frameCells).sum)).sum + (s.net.sending.map (fun p => frameCells p.2.2)).sum

/-- The lowest `n` cells from `i` on that are not in use. -/
def freeCells (used : List Nat) : Nat → Nat → Nat → List Nat
  | 0, _, _ => []
  | _ + 1, 0, _ => []
  | fuel + 1, n + 1, i => if used.contains i then freeCells used fuel (n + 1) (i + 1) else i :: freeCells used fuel n (i + 1)

/-- The frames that stand in the buffer: those queued, then those in transmission. -/
def SideState.bufferFrames (s : SideState) : List Frame :=
  (s.net.queues.map (fun p => p.2)).flatten ++ s.net.sending.map (fun p => p.2.2)

/-- The cells a new frame takes: DESIGN CHOICE (log 113), the lowest free ones. -/
def SideState.cellsFor (s : SideState) (f : Frame) : List Nat :=
  freeCells (s.bufferFrames.map (fun f => f.cells)).flatten 4096 (frameCells f) 0

/-- The place in a frame of a byte of the network buffer, where the frame holds it (R252). -/
def Frame.placeOf (f : Frame) (off : Nat) : Option Nat :=
  let k := f.cells.idxOf (off / 256) * 256 + off % 256
  if f.cells.contains (off / 256) ∧ k < f.bytes.length then some k else none

/-- A byte of the network buffer as a frame in its cell shows it; elsewhere the memory byte stands. -/
def SideState.bufferByte (s : SideState) (off : Nat) : Byte :=
  match s.bufferFrames.findSome? (fun f => (f.placeOf off).bind (fun k => f.bytes[k]?)) with
  | some b => b
  | none => s.rd8 (0x50000000 + off)

/-- A byte written over a frame in its cell. -/
def Frame.writeByte (off : Nat) (b : Byte) (f : Frame) : Frame :=
  match f.placeOf off with
  | some k => { f with bytes := f.bytes.set k b }
  | none => f

/-- Bytes written to the network buffer change the frames that stand there. -/
def SideState.writeFrames (s : SideState) : Nat → List Byte → SideState
  | _, [] => s
  | off, b :: t =>
    ({ s with net := { s.net with
      queues := s.net.queues.map (fun (p : Nat × List Frame) => (p.1, p.2.map (Frame.writeByte off b)))
      sending := s.net.sending.map (fun (p : Nat × (Nat × Frame)) => (p.1, (p.2.1, p.2.2.writeByte off b))) } }).writeFrames (off + 1) t

/-- A frame is dropped at egress. -/
def SideState.dropEgress (s : SideState) (port : Nat) : SideState := s.count (8 * port + 5) 1

/-- Frames at the head that are longer than the longest window of the queue are dropped (R259). -/
def SideState.dropOversize (s : SideState) (port q : Nat) : Nat → SideState
  | 0 => s
  | n + 1 =>
    match s.queue port q with
    | [] => s
    | f :: t =>
      let w := s.longestWindow port q
      if w < 0x3FFFFFFF ∧ 10 * w < s.wireTime10 port (lengthOf f.bytes) then
        let s := ((s.setQueue port q t).bump (QS_QCNT.OVERSIZE.bank (queueKey port q)) 1).evt 0x1B 1
        ((s.dropEgress port).raise 0x93).dropOversize port q n
      else s

/-- Checks the head of a queue. -/
def SideState.checkHead (s : SideState) (port q : Nat) : SideState := s.dropOversize port q (s.queue port q).length

/-- Checks the heads of a port's queues (R259: at each sheet change). -/
def SideState.checkHeads (s : SideState) (port : Nat) : SideState := (List.range 8).foldl (fun s q => s.checkHead port q) s

/-- Marks each head frame of a port that its gate holds; the first time it is counted. -/
def SideState.markHeads (s : SideState) (port : Nat) : SideState :=
  (List.range 8).foldl (fun (s : SideState) q =>
    match s.queue port q with
    | [] => s
    | f :: t =>
      let hold := !s.admits port q (lengthOf f.bytes)
      let s := if hold && !f.held then s.count (8 * port + 6) 1 else s
      s.setQueue port q ({ f with held := hold } :: t)) s

/-- The network DMA's transfers for a frame that it writes to the buffer, or reads from it (R365). -/
def SideState.dmaTransfers (s : SideState) (f : Frame) : SideState :=
  s.countDiag (2 * Master.networkDma.code) (Config.engineTransfers Master.networkDma.code f.bytes.length)

/-- A frame enters its egress queue, or is a tail drop (R252). -/
def SideState.enqueue (s : SideState) (port q : Nat) (f : Frame) : SideState :=
  if s.queueLevel port q < min 4096 (s.get (QS_QLIM.LIMIT.bank (queueKey port q))) ∧ s.cellsInUse + frameCells f ≤ 4096 then
    let l := s.queue port q
    let s := (s.setQueue port q (l ++ [{ f with cells := s.cellsFor f }])).dmaTransfers f
    if l.isEmpty then s.checkHead port q else s
  else
    let s := ((s.bump (QS_QCNT.TAIL.bank (queueKey port q)) 1).evt 0x1B 0).count 63 1
    (s.dropEgress port).raise 0x92

/-! ### Ingress -/

/-- A received frame is dropped for any reason. -/
def SideState.dropIngress (s : SideState) (port : Nat) : SideState :=
  let s := s.count (8 * port + 4) 1
  if port = 0 then s else s.evt (0x18 + (port - 1) % 3) 2

/-- Bumps a drop field of a port that has one. -/
def SideState.bumpPort (s : SideState) (port : Nat) (f : Fld) : SideState := if port = 0 then s else s.bump (f.onPort port) 1

/-- A bucket in µB after the 8 ns ticks since an instant, with the instant of the last of these ticks (R256, R257). -/
def refill (v : Int) (since now rate cap : Nat) : Int × Nat :=
  let n := (now - since) / 8
  (min (v + n * rate) cap, since + 8 * n)

/-- RATE and BURST as they act (R256). -/
def rateActs (r : Nat) : Nat := clampNat 1 2500000 r
def burstActs (b : Nat) : Nat := max 64 b

/-- Brings a policer's tokens up to the present instant. -/
def SideState.refreshPolicer (s : SideState) (i : Nat) : SideState :=
  let r := refill ((Tab.getD s.net.tokens i 0 : Nat) : Int) (Tab.getD s.net.tokensAt i 0) s.tick (rateActs (s.get (PL_RATE.RATE.bank i)))
    (burstActs (s.get (PL_BURST.BURST.bank i)) * 1000000)
  { s with net := { s.net with tokens := Tab.put s.net.tokens i r.1.toNat, tokensAt := Tab.put s.net.tokensAt i r.2 } }

/-- Does policer `i` match (R257)? -/
def SideState.policerMatches (s : SideState) (i port pcp vid etype : Nat) : Bool :=
  s.is (PL_MATCH.EN.bank i) && bitAt (s.get (PL_MATCH.PORTS.bank i)) port && bitAt (s.get (PL_MATCH.PCP.bank i)) pcp
    && (s.is (PL_MATCH.ANY_VID.bank i) || s.get (PL_MATCH.VID.bank i) == vid)
    && (s.is (PL_ETYPE.ANY_ETYPE.bank i) || s.get (PL_ETYPE.ETYPE.bank i) == etype)

/-- Policing (R257): the first enabled policer that matches judges the frame; answers whether the frame passes. -/
def SideState.police (s : SideState) (port pcp vid etype len : Nat) : SideState × Bool :=
  match (List.range 64).find? (fun i => s.policerMatches i port pcp vid etype) with
  | none => (s, true)
  | some i =>
    let s := s.refreshPolicer i
    let t := Tab.getD s.net.tokens i 0
    if len * 1000000 ≤ t then
      ({ s with net := { s.net with tokens := Tab.put s.net.tokens i (t - len * 1000000) } }, true)
    else
      let s := (s.bump (PL_CNT.DROP.bank i) 1).evt 0x1C 0
      (((s.bumpPort port NP_DROP.POLICE).dropIngress port).raise 0x91, false)

/-- The valid VLAN-table entry of a VID. -/
def SideState.vlanEntry (s : SideState) (vid : Nat) : Option Nat :=
  (List.range 64).find? (fun i => s.is (QS_VLAN.VALID.bank i) && s.get (QS_VLAN.VID.bank i) == vid)

/-- The PCP and VID of a frame at its ingress port, none where untagged frames are not accepted (R250). -/
def SideState.classify (s : SideState) (port : Nat) (tag : Option (Nat × (Nat × Nat))) : Option (Nat × Nat) :=
  let pvid := if port = 0 then 1 else s.get (NP_VLAN.PVID.onPort port)
  let ok := port == 0 || s.is (NP_VLAN.UNTAG_OK.onPort port)
  match tag with
  | none => if ok then some (if port = 0 then 0 else s.get (NP_VLAN.PCP.onPort port), pvid) else none
  | some (pcp, (_, vid)) => if vid = 0 then (if ok then some (pcp, pvid) else none) else some (pcp, vid)

/-- The address table learns a source (R250); a full table of 1,024 entries learns no further address. On a RedBox the
sources of P3 are its proxy SANs, at most 32 (R249). -/
def SideState.learn (s : SideState) (port src vid : Nat) : SideState :=
  if port = 0 || isGroup src || src == s.ownMac then s
  else
    let s := if port == 3 && s.is QS_CTRL.REDBOX && s.redun != 0 && !s.net.proxies.contains src && Nat.blt s.net.proxies.length 32
      then { s with net := { s.net with proxies := s.net.proxies ++ [src] } } else s
    if s.net.addresses.any (fun (a : AddrEntry) => a.mac == src && a.vid == vid) then
      { s with net := { s.net with addresses := s.net.addresses.map (fun (a : AddrEntry) =>
        if a.mac = src ∧ a.vid = vid then { a with port := port, seen := s.tick } else a) } }
    else if s.net.addresses.length < 1024 then
      ({ s with net := { s.net with addresses := s.net.addresses ++ [AddrEntry.mk src vid port s.tick] } }).count 60 1
    else s

/-- QS_NODE follows the node table. -/
def SideState.showNodes (s : SideState) : SideState :=
  let s := (s.set QS_NODE.COUNT s.net.nodes.length).setB QS_NODE.FULL (s.net.nodes.length == 512)
  s.set QS_NODE.PATH (s.net.nodes.countP (fun (n : NodeEntry) => n.onePath))

/-- A sequence number against an entry's history: the new highest and history, whether it is a duplicate, and whether it lies
outside the history (R254). -/
def judgeSeq (hi history seq : Nat) : Nat × Nat × Bool × Bool :=
  let d := (seq + 65536 - hi) % 65536
  if d = 0 then (hi, history, true, false)
  else if d < 32768 then (seq, ((history * 2 + 1) * 2 ^ (min d 65 - 1)) % 2 ^ 64, false, false)
  else
    let b := 65536 - d
    if b ≤ 64 then
      (if bitAt history (b - 1) then (hi, history, true, false) else (hi, history + 2 ^ (b - 1), false, false))
    else (hi, history, false, true)

/-- The duplicate check of a redundant frame (R254); answers whether it is a duplicate. -/
def SideState.judgeRedundant (s : SideState) (port src seq : Nat) : SideState × Bool :=
  let hear (n : NodeEntry) : NodeEntry :=
    let n := if port = 1 then { n with heard1 := some s.tick, seen := s.tick } else { n with heard2 := some s.tick, seen := s.tick }
    let other := if port = 1 then n.heard2 else n.heard1
    { n with onePath := n.onePath && (match other with | none => true | some t => Nat.ble (t + 10000000000) s.tick) }
  match s.net.nodes.find? (fun (n : NodeEntry) => n.mac == src) with
  | none =>
    if s.net.nodes.length < 512 then
      let n := hear (NodeEntry.mk src seq 0 s.tick none none s.tick false)
      (({ s with net := { s.net with nodes := s.net.nodes ++ [n] } }).showNodes, false)
    else ((s.evt 0x1B 2).raise 0x94, false)
  | some n =>
    let j := judgeSeq n.hi n.history seq
    let n' := hear { n with hi := j.1, history := j.2.1 }
    let s := { s with net := { s.net with nodes := s.net.nodes.map (fun (m : NodeEntry) => if m.mac = src then n' else m) } }
    let s := s.showNodes
    ((if j.2.2.2 then s.bump QS_CNT.OOW 1 else s), j.2.2.1)

/-- Is the frame one that this side sends redundantly: originated, or received on P3 as a RedBox (R253)? -/
def SideState.sendsTwice (s : SideState) (port : Nat) : Bool :=
  s.redun != 0 && (port == 0 || (port == 3 && s.is QS_CTRL.REDBOX))

/-- The egress ports of a frame (R250, R251, R253), and whether it is flooded. PTP frames of P1 and P2 also reach the stage
manager (R269). -/
def SideState.destinations (s : SideState) (port vid members : Nat) (p : Packet) : List Nat × Bool :=
  let cue := p.etype == s.get QS_CUE.ETYPE
  let toP0 := port != 0 && (p.dst == s.ownMac || p.dst == broadcastMac || cue || (p.etype == 0x88F7 && port != 3))
  let known := if isGroup p.dst then none
    else if p.dst = s.ownMac then some 0
    else (s.net.addresses.find? (fun (a : AddrEntry) => a.mac == p.dst && a.vid == vid)).map (fun (a : AddrEntry) => a.port)
  let wanted := [1, 2, 3].filter (fun n => n != port && bitAt members n && (match known with | none => true | some k => k == n))
  let ring := port == 1 || port == 2
  let wanted :=
    if s.sendsTwice port then
      (if wanted.any (fun n => n != 3) then [1, 2].filter (fun n => bitAt members n) else []) ++ wanted.filter (fun n => n == 3)
    else if s.redun == 1 && ring then wanted.filter (fun n => n == 3)
    else if s.redun == 2 && ring && p.redun.isSome then
      (if p.dst == s.ownMac then [] else [3 - port].filter (fun n => bitAt members n)) ++ wanted.filter (fun n => n == 3)
    else wanted
  ((if toP0 then [0] else []) ++ wanted, known.isNone)

/-- The bytes of a frame as port `n` sends it: C-tag by the VLAN entry, redundancy trailer or tag, padding (R250, R253). -/
def SideState.build (s : SideState) (port n pcp vid : Nat) (untag : Bool) (seq : Nat) (p : Packet) : List Byte :=
  let dei := match p.tag with | some (_, (d, _)) => d | none => 0
  let addr := beBytes 6 p.dst ++ beBytes 6 p.src
  let tag := if untag then [] else beBytes 2 0x8100 ++ beBytes 2 (pcp * 8192 + dei * 4096 + vid)
  let ring := n = 1 ∨ n = 2
  if ring ∧ s.sendsTwice port then
    (if s.redun = 1 then
      let body := p.body ++ List.replicate (54 - (12 + tag.length + p.body.length)) 0
      addr ++ tag ++ body ++ beBytes 2 seq ++ beBytes 2 ((if n = 1 then 0xA000 else 0xB000) + (body.length + 4) % 4096) ++ beBytes 2 0x88FB
    else
      padFrame (addr ++ beBytes 2 0x892F ++ beBytes 2 ((if n = 1 then 0 else 0x1000) + (p.body.length + 4) % 4096) ++ beBytes 2 seq ++ tag ++ p.body))
  else
    match p.redun with
    | some (path, sq) =>
      if s.redun = 2 ∧ ring then padFrame (addr ++ beBytes 2 0x892F ++ beBytes 2 path ++ beBytes 2 sq ++ tag ++ p.body)
      else padFrame (addr ++ tag ++ p.body)
    | none => padFrame (addr ++ tag ++ p.body)

/-- The ingress correction of a port, in 1/16 ns (R272). -/
def SideState.rxCorrection (s : SideState) (port : Nat) : Int :=
  if port = 0 then 0 else signed (s.get (NT_CORR.RX.nth (port - 1))) 16

/-- The corrected ingress timestamp of a frame whose last byte has just arrived, in 1/16 ns (R272). -/
def SideState.ingressStamp (s : SideState) (port len : Nat) : Int :=
  16 * (s.netNow : Int) - ((16 * (len * (if s.fastPort port then 32 else 80)) / 10 : Nat) : Int) + s.rxCorrection port

/-- The corrected egress timestamp of a frame that starts now on a port, in 1/16 ns (R272): the first bit after the preamble and
the SFD, 8 bytes. -/
def SideState.egressStamp (s : SideState) (n : Nat) : Int :=
  16 * (s.netNow : Int) + (if s.fastPort n then 409 else 1024 : Nat) + signed (s.get (NT_CORR.TX.nth (n - 1))) 16

/-- The queue of a frame on an egress port (R250). -/
def SideState.queueOf (s : SideState) (n pcp : Nat) (p : Packet) : Nat :=
  if p.etype == 0x88F7 && s.is QS_CTRL.PTP_Q7 then 7 else bits (s.get (QS_PCPMAP.MAP.nth n)) (3 * pcp) 3

/-- A classified frame is queued for each of its destinations. -/
def SideState.forward (s : SideState) (port pcp vid entry : Nat) (stamp : Int) (p : Packet) : SideState :=
  let d := s.destinations port vid (s.get (QS_VLAN.MEMBER.bank entry)) p
  let s := if d.2 then s.count 62 1 else s
  let seq := s.net.redunSeq
  let s := if s.sendsTwice port && d.1.any (fun n => n == 1 || n == 2)
    then { s with net := { s.net with redunSeq := (seq + 1) % 65536 } } else s
  let untag := s.get (QS_VLAN.UNTAG.bank entry)
  let arrived := ((16 * (s.netNow : Int) + s.rxCorrection port) / 16).toNat
  d.1.foldl (fun (s : SideState) n =>
    s.enqueue n (s.queueOf n pcp p) { bytes := s.build port n pcp vid (bitAt untag n) seq p, port := port, stamp := stamp, held := false, arrived := arrived }) s

/-- What the switch does with a frame that has passed the checks of R250: VLAN, learning, policing, queueing. -/
def SideState.classifyFrame (s : SideState) (port len : Nat) (stamp : Int) (p : Packet) : SideState :=
  let vlanDrop (s : SideState) : SideState := (s.bumpPort port NP_DROP.VLAN).dropIngress port
  match s.classify port p.tag with
  | none => vlanDrop s
  | some (pcp, vid) =>
    match s.vlanEntry vid with
    | none => vlanDrop s
    | some entry =>
      if !bitAt (s.get (QS_VLAN.MEMBER.bank entry)) port then vlanDrop s
      else
        match (s.learn port p.src vid).police port pcp vid p.etype len with
        | (s, false) => s
        | (s, true) => s.forward port pcp vid entry stamp p

/-- A whole frame on a port (R250): counted and checked, duplicates of redundant frames discarded, then classified. -/
def SideState.receiveFrame (s : SideState) (port : Nat) (fcsOk : Bool) (f : List Byte) : SideState :=
  let len := lengthOf f
  let s := (s.count (8 * port) 1).count (8 * port + 1) len
  let rxError (fld : Fld) : SideState :=
    let s := (s.bumpPort port fld).dropIngress port
    if port = 0 then s else s.evt (0x18 + (port - 1) % 3) 1
  let longest := if port = 0 then 2000 else clampNat 1518 2000 (s.get (NP_MAXLEN.MAXLEN.onPort port))
  if !fcsOk then rxError NP_ERR.CRC
  else if len < 64 ∨ longest < len then rxError NP_ERR.LEN
  else
    let p := Packet.parse s.redun port f
    let s := if ptpEvent p.body then s.count (8 * port + 7) 1 else s
    let stamp := s.ingressStamp port len
    if p.etype = 0x8808 ∧ beNat (slice p.body 2 2) = 1 then (s.bumpPort port NP_DROP2.PAUSE).dropIngress port
    else
      match p.redun with
      | none => s.classifyFrame port len stamp p
      | some (_, seq) =>
        if s.redun == 2 && (p.src == s.ownMac || s.net.proxies.contains p.src) then s.dropIngress port
        else
          match s.judgeRedundant port p.src seq with
          | (s, true) => ((s.bumpPort port NP_DROP2.DUP).count 58 1).dropIngress port
          | (s, false) => s.classifyFrame port len stamp p

/-- Is the port up: P0 always, a line port while enabled with its link up (R262)? -/
def SideState.portUp (s : SideState) (port : Nat) : Bool :=
  !s.stopped && (port == 0 || (s.is (NP_CTRL.EN.onPort port) && s.is (NP_STAT.LINK.onPort port)))

/-- FRAME_RECEIVED (R250). A frame on P0 is one that the side originates. -/
def execFrameReceived (sd : Side) (off port : Nat) (fcsOk : Bool) (frame : List Byte) (s : State) :
    Host.Outcome State Fault Refusal :=
  .next (s.side sd (fun x => x.live (fun x =>
    let x := x.atOffset off
    if port < 4 && x.portUp port then x.receiveFrame port fcsOk frame else x)))

/-! ### Egress -/

/-- Brings a shaper's credit up to the present instant (R256). -/
def SideState.refreshShaper (s : SideState) (k : Nat) : SideState :=
  let r := refill (Tab.getD s.net.credit k 0) (Tab.getD s.net.creditAt k 0) s.tick (rateActs (s.get (QS_RATE.RATE.bank k)))
    (burstActs (s.get (QS_BURST.BURST.bank k)) * 1000000)
  { s with net := { s.net with credit := Tab.put s.net.credit k r.1, creditAt := Tab.put s.net.creditAt k r.2 } }

/-- May the shaper of a queue start a frame (R255)? -/
def SideState.shaperReady (s : SideState) (k : Nat) : Bool :=
  !s.is (QS_RATE.EN.bank k) || decide (0 ≤ Tab.getD s.net.credit k 0)

/-- Replaces bytes of a list from an offset. -/
def patchBytes (l : List Byte) (off : Nat) (b : List Byte) : List Byte := l.take off ++ b ++ l.drop (off + b.length)

/-- Where the EtherType of a frame stands, past an HSR tag, which only the frames of a ring carry, and a C-tag. -/
def bodyOffset (hsr : Bool) (f : List Byte) : Nat :=
  let o := if hsr = true ∧ beNat (slice f 12 2) = 0x892F then 18 else 12
  if beNat (slice f o 2) = 0x8100 then o + 4 else o

/-- Do the frames of a port carry HSR tags (R253)? P0 has none. -/
def SideState.hsrPort (s : SideState) (n : Nat) : Bool := s.redun == 2 && (n == 1 || n == 2)

/-- Adds a correction in 1/16 ns to the correctionField of the PTP message at `o` (IEEE 1588: ns × 2^16, signed, 8 bytes from
byte 8 of the message). -/
def addCorrection (f : List Byte) (o : Nat) (c16 : Int) : List Byte :=
  let c := signed (beNat (slice f (o + 10) 8)) 64 + c16 * 4096
  patchBytes f (o + 10) (beBytes 8 (unsignedOf c 64))

/-- Is a frame one of the side's own? -/
def SideState.ownFrame (s : SideState) (f : Frame) : Bool := beNat (slice f.bytes 6 6) == s.ownMac

/-- The event message that a Follow_Up belongs to: a Sync, or a Pdelay_Resp (DEDUCED, log 128). -/
def followedBy (t : Nat) : Option Nat := if t = 8 then some 0 else if t = 10 then some 3 else none

/-- The transparent clock at the start of a frame (R270): one-step rewrites correctionField; two-step keeps the correction for
the Follow_Up that leaves by the same port. The side's own Pdelay_Resp takes its turnaround in the same way (log 128). -/
def SideState.residence (s : SideState) (n : Nat) (f : Frame) : SideState × List Byte :=
  let o := bodyOffset (s.hsrPort n) f.bytes
  let body := f.bytes.drop o
  match (if (s.is NT_CTRL.TC_EN || s.ownFrame f) && n != 0 && f.port != 0 then ptpType body else none) with
  | none => (s, f.bytes)
  | some t =>
    let domain := beNat (slice body 6 1)
    let source := beNat (slice body 22 10)
    let seq := beNat (slice body 32 2)
    let peer : Int := if t % 16 = 0 ∧ f.port < 3 then 16 * (s.get (NT_PDELAY.DELAY.nth (f.port - 1)) : Int) else 0
    let c := s.egressStamp n - f.stamp + peer
    if t % 16 < 4 then
      (if s.is NT_CTRL.TWO_STEP then
        ({ s with net := { s.net with
          followUps := (s.net.followUps ++ [FollowUp.mk n (t % 16) domain source seq c]).drop (s.net.followUps.length - 63) } }, f.bytes)
      else (s, addCorrection f.bytes o c))
    else
      match s.net.followUps.find? (fun (u : FollowUp) =>
          u.egress == n && followedBy (t % 16) == some u.kind && u.domain == domain && u.source == source && u.seq == seq) with
      | none => (s, f.bytes)
      | some u =>
        ({ s with net := { s.net with followUps := s.net.followUps.filter (fun (w : FollowUp) => w != u) } }, addCorrection f.bytes o u.correction)

/-- A port takes the egress timestamp of an event message of the side's own (R272). -/
def SideState.stampSent (s : SideState) (n : Nat) (f : Frame) : SideState :=
  if n != 0 && s.ownFrame f && ptpEvent (f.bytes.drop (bodyOffset (s.hsrPort n) f.bytes)) then
    { s with net := { s.net with sentStamps := Tab.put s.net.sentStamps n (s.egressStamp n) } }
  else s

/-- The head frame of queue `q` starts on port `n`. -/
def SideState.startFrame (s : SideState) (n q : Nat) : SideState :=
  match s.queue n q with
  | [] => s
  | f :: t =>
    let s := s.setQueue n q t
    let k := queueKey n q
    let s := if s.is (QS_RATE.EN.bank k) then
        { s with net := { s.net with credit := Tab.put s.net.credit k (Tab.getD s.net.credit k 0 - lengthOf f.bytes * 1000000) } }
      else s
    let r := (s.stampSent n f).residence n f
    let s := { r.1 with net := { r.1.net with sending := Tab.put r.1.net.sending n (q, { f with bytes := r.2, held := false }) } }
    s.checkHead n q

/-- The transmitter of a port looks for a frame (R255): the highest queue whose gate admits its head and whose shaper allows
it. -/
def SideState.selectEgress (s : SideState) (n : Nat) : SideState :=
  if Tab.has s.net.sending n || !s.portUp n then s
  else
    let s := (List.range 8).foldl (fun (s : SideState) q => if s.is (QS_RATE.EN.bank (queueKey n q)) then s.refreshShaper (queueKey n q) else s) s
    let s := s.markHeads n
    match [7, 6, 5, 4, 3, 2, 1, 0].find? (fun q =>
        (match s.queue n q with | [] => false | f :: _ => !f.held) && s.shaperReady (queueKey n q)) with
    | none => s
    | some q => s.startFrame n q

/-- EGRESS_START (R255). -/
def execEgressStart (sd : Side) (off port : Nat) (s : State) : Host.Outcome State Fault Refusal :=
  .next (s.side sd (fun x => x.live (fun x => if port < 4 then (x.atOffset off).selectEgress port else x)))

/-- A cue frame is handed to the cue checker, which takes it with CUE_FRAME. -/
def SideState.offerCue (s : SideState) (f : Frame) : SideState :=
  let p := Packet.parse 0 0 f.bytes
  { s with net := { s.net with cueInbox := s.net.cueInbox ++ [(p.src, (p.body.drop 2, f.arrived))] } }

/-- Does P0 take a frame for the network image path: the side leads, HM_NET.EN is 1, and EtherType and destination are those of
image frames (R384)? -/
def SideState.takesImage (s : SideState) (f : Frame) : Bool :=
  s.leads && s.is HM_NET.EN && beNat (slice f.bytes (bodyOffset false f.bytes) 2) == s.get HM_NET.ETYPE
    && beNat (slice f.bytes 0 6) == s.ownMac

/-- An image frame is handed to the stage manager, which takes it with IMAGE_FRAME. -/
def SideState.offerImage (s : SideState) (f : Frame) : SideState :=
  { s with net := { s.net with imageInbox := s.net.imageInbox ++ [(Packet.parse 0 0 f.bytes).body.drop 2] } }

/-- The receive descriptor of a frame delivered to P0: the corrected ingress timestamp modulo 2^32 ns (R272). -/
def SideState.describe (s : SideState) (f : Frame) : SideState :=
  { s with net := { s.net with
    descriptors := (s.net.descriptors ++ [(f.stamp / 16 % 2 ^ 32).toNat]).drop (s.net.descriptors.length - 63) } }

/-- The side's clock identity: its MAC address with 0xFFFE in the middle (IEEE 1588-2019). -/
def SideState.clockIdentity (s : SideState) : List Byte :=
  beBytes 3 (s.ownMac / 2 ^ 24) ++ beBytes 2 0xFFFE ++ beBytes 3 (s.ownMac % 2 ^ 24)

/-- A PTP message of 54 bytes of the side on a port, as a frame (layout of IEEE 1588-2019): type, flags, correctionField, sequence
number, and the 20 bytes after the header. -/
def SideState.ptpFrame (s : SideState) (kind flags correction port seq : Nat) (rest : List Byte) : List Byte :=
  beBytes 6 0x0180C200000E ++ beBytes 6 s.ownMac ++ beBytes 2 0x88F7 ++ beBytes 1 kind ++ beBytes 1 2 ++ beBytes 2 54
    ++ beBytes 1 (s.get NT_PTP.DOMAIN) ++ beBytes 1 0 ++ beBytes 2 flags ++ beBytes 8 correction ++ beBytes 4 0 ++ s.clockIdentity
    ++ beBytes 2 port ++ beBytes 2 seq ++ beBytes 1 5 ++ beBytes 1 0x7F ++ rest

/-- A PTP message of the side's own enters the queue of one port, in PRP or HSR mode with the trailer or tag of R253. `port` and
`stamp` say where its correction counts from, 0 for a message without one. -/
def SideState.sendPtp (s : SideState) (n port : Nat) (stamp : Int) (seq : Nat) (f : List Byte) : SideState :=
  let p := Packet.parse 0 0 f
  s.enqueue n (s.queueOf n 0 p) { bytes := s.build 0 n 0 0 true seq p, port := port, stamp := stamp, held := false }

/-- The next sequence number of redundant frames (R253). -/
def SideState.nextRedun (s : SideState) : SideState :=
  if s.redun = 0 then s else { s with net := { s.net with redunSeq := (s.net.redunSeq + 1) % 65536 } }

/-- A Pdelay_Req of the domain that P1 or P2 has received is answered on that port (R269). The turnaround, from the request's
ingress timestamp to the response's egress, goes into the correctionField of the Pdelay_Resp in one-step mode, of its
Pdelay_Resp_Follow_Up in two-step mode, beside that of the request (log 128). -/
def SideState.answerPdelay (s : SideState) (f : Frame) : SideState :=
  let body := f.bytes.drop (bodyOffset false f.bytes)
  let asks := match ptpType body with
    | some t => t % 16 == 2
    | none => false
  if !asks || !s.managed || f.port == 0 || Nat.blt 2 f.port || beNat (slice body 6 1) != s.get NT_PTP.DOMAIN || !s.portUp f.port then s
  else
    let two := s.is NT_CTRL.TWO_STEP
    let c := beNat (slice body 10 8)
    let seq := beNat (slice body 32 2)
    let rest := beBytes 10 0 ++ slice body 22 10
    let s := s.sendPtp f.port f.port f.stamp s.net.redunSeq (s.ptpFrame 3 (if two then 0x200 else 0) (if two then 0 else c) f.port seq rest)
    let s := s.nextRedun
    if two then (s.sendPtp f.port f.port f.stamp s.net.redunSeq (s.ptpFrame 10 0 c f.port seq rest)).nextRedun else s

/-- TRANSMIT_DONE (R255): the transmitter is idle again. A frame whose readout met an uncorrectable error was aborted
(R252). On P0 a frame gets its receive descriptor (R272); a cue frame is passed to the cue checker on the lead and discarded
elsewhere (R251), an image frame goes to the stage manager (R384), and a Pdelay_Req is answered (R269). -/
def execTransmitDone (sd : Side) (port : Nat) (eccOk : Bool) (s : State) : Host.Outcome State Fault Refusal :=
  .next (s.side sd (fun x => x.live (fun x =>
    match Tab.get? x.net.sending port with
    | none => x
    | some (q, f) =>
      let x := { x with net := { x.net with sending := Tab.del x.net.sending port } }
      let x := (x.dmaTransfers f).checkAt 0x04 eccOk
      if !eccOk then x
      else
        let x := (x.count (8 * port + 2) 1).count (8 * port + 3) (lengthOf f.bytes)
        if port ≠ 0 then x.count (32 + 8 * (port - 1) + q) 1
        else
          let x := x.describe f
          if beNat (slice f.bytes (bodyOffset false f.bytes) 2) = x.get QS_CUE.ETYPE then
            (if x.leads then (x.count 56 1).offerCue f else (x.count 56 1).bump QS_CNT.CUE_DISC 1)
          else if x.takesImage f then x.offerImage f
          else x.answerPdelay f)))

/-- LINK_CHANGE (R262): the link of P1, P2 or P3; a link lost while the port is enabled is source 0x90. -/
def execLinkChange (sd : Side) (port : Nat) (up anDone pcsSync remoteFault : Bool) (s : State) : Host.Outcome State Fault Refusal :=
  .next (s.side sd (fun x => x.live (fun x =>
    if port = 0 ∨ 3 < port then x
    else
      let en := x.is (NP_CTRL.EN.onPort port)
      let fast := x.fastPort port
      let was := x.is (NP_STAT.LINK.onPort port)
      let now := en && (if fast then pcsSync else up)
      let x := (x.setB (NP_STAT.LINK.onPort port) now).setB (NP_STAT.AN_DONE.onPort port) (anDone && !fast && x.is (NP_CTRL.AN_EN.onPort port))
      let x := (x.setB (NP_STAT.SPEED.onPort port) fast).setB (NP_STAT.PCS_SYNC.onPort port) pcsSync
      let x := x.setB (NP_STAT.REMOTE_FAULT.onPort port) remoteFault
      let x := if was != now then x.evt (0x18 + (port - 1) % 3) 0 else x
      x.raiseIf (was && !now && en) 0x90)))

/-! ### Call-sheet commands -/

/-- GATE_ENTRY (R258): an entry of the operating sheet begins and the gate states change. -/
def execGateEntry (sd : Side) (port entry : Nat) (s : State) : Host.Outcome State Fault Refusal :=
  .next (s.side sd (fun x => x.live (fun x =>
    if port = 0 || Nat.blt 3 port || !x.gatesOn port then x
    else ({ x with net := { x.net with gateEntry := Tab.put x.net.gateEntry port entry } }).markHeads port)))

/-- The port that GT_ADDR selects; 0 acts as 1 (R265). -/
def SideState.sheetPort (s : SideState) : Nat := max 1 (s.get GT_ADDR.PORT)

/-- Does GT_ADDR select the operating bank? -/
def SideState.selectsOperating (s : SideState) : Bool := s.get GT_ADDR.BANK == s.operBank s.sheetPort

/-- CALL_SHEET_DATA (R265): every access to GT_DATA increments INDEX; a write to the operating bank is ignored and logged
(R260). -/
def execCallSheetData (sd : Side) (m : Master) (write : Option Word) (s : State) : Host.Outcome State Fault Refusal :=
  let next (x : SideState) : SideState := x.set GT_ADDR.INDEX ((x.get GT_ADDR.INDEX + 1) % 128)
  .next (s.side sd (fun x => x.live (fun x =>
    match write with
    | some v => x.regWrite 0x1D048 m (fun x =>
        let k := sheetBank x.sheetPort (x.get GT_ADDR.BANK) * 128 + x.get GT_ADDR.INDEX
        next (if x.selectsOperating then x.ignored 0x1D048 m else x.set (GT_DATA.ENTRY.bank k) v.toNat))
    | none =>
      let x := x.transfer m
      if !x.answers 0x1D048 then x
      else if mayAccess' m then next { x with
        readBack := BitVec.ofNat 32 (x.get (GT_DATA.ENTRY.bank (sheetBank x.sheetPort (x.get GT_ADDR.BANK) * 128 + x.get GT_ADDR.INDEX))), readHigh := 0 }
      else x.denied (regAddr 0x1D048) m false)))
where
  /-- The masters that may read register pages (R357). -/
  mayAccess' : Master → Bool
  | .stageManager => true
  | .cueChecker => true
  | .host => true
  | .dumpEngine => false
  | .twinCopy => true
  | .networkDma => false
  | .blockingEngine => false

/-- The first cycle start of a bank at or after a network time. -/
def SideState.cycleStart (s : SideState) (port bank t : Nat) : Nat :=
  t + (((s.sheetOffset port bank : Int) - t) % (s.sheetCycle port bank : Int)).toNat

/-- GT_CHG.GO for one port (R260). -/
def SideState.changeSheet (s : SideState) (port : Nat) : SideState :=
  let bank := 1 - s.operBank port
  let bit (f : Fld) : Fld := { f with lo := f.lo + (port - 1), w := 1 }
  if s.sheetCount port bank = 0 ∨ s.sheetCycle port bank ≤ s.sheetOffset port bank ∨ Tab.has s.net.changeAt port then
    s.set (bit GT_STAT.ERR) 1
  else
    let t := (s.get GT_CHG_S_HI.SEC * 2 ^ 32 + s.get GT_CHG_S_LO.SEC) * 1000000000 + s.get GT_CHG_NS.NS
    let s := (s.set (bit GT_STAT.ERR) 0).set (bit GT_STAT.PEND) 1
    { s with net := { s.net with changeAt := Tab.put s.net.changeAt port (s.cycleStart port bank (max t s.netNow)) } }

/-- CALL_SHEET_CHANGE (R260). -/
def execCallSheetChange (sd : Side) (m : Master) (v : Word) (s : State) : Host.Outcome State Fault Refusal :=
  .next (s.side sd (fun x => x.live (fun x => x.regWrite 0x1D064 m (fun x =>
    [1, 2, 3].foldl (fun (x : SideState) n => if bitAt v.toNat n then x.changeSheet n else x) x))))

/-- CALL_SHEET_SWITCH (R260): a pending change whose instant falls in the present beat, or is past, switches the banks. -/
def execCallSheetSwitch (sd : Side) (port : Nat) (s : State) : Host.Outcome State Fault Refusal :=
  .next (s.side sd (fun x => x.live (fun x =>
    match Tab.get? x.net.changeAt port with
    | none => x
    | some t =>
      let start := x.clockNs
      if start + x.beatLength ≤ t then x
      else
        let x := x.atOffset (t - start)
        let x := { x with net := { x.net with changeAt := Tab.del x.net.changeAt port, gateEntry := Tab.put x.net.gateEntry port 0 } }
        let x := x.set { GT_CTRL.OPER with lo := GT_CTRL.OPER.lo + (port - 1), w := 1 } (1 - x.operBank port)
        let x := (x.set { GT_STAT.PEND with lo := GT_STAT.PEND.lo + (port - 1), w := 1 } 0).evt 0x1D 0
        (x.checkHeads port).markHeads port)))

/-! ### Shapers, policers and tables -/

/-- The queue that QS_SEL selects. -/
def SideState.selectedQueue (s : SideState) : Nat := queueKey (s.get QS_SEL.PORT) (s.get QS_SEL.QUEUE)

/-- SHAPER_CONFIG (R256): QS_RATE, or QS_BURST, of the selected queue. -/
def execShaperConfig (sd : Side) (m : Master) (burst : Bool) (v : Word) (s : State) : Host.Outcome State Fault Refusal :=
  .next (s.side sd (fun x => x.live (fun x => x.regWrite (if burst then 0x1B068 else 0x1B064) m (fun x =>
    let k := x.selectedQueue
    let on := x.is (QS_RATE.EN.bank k)
    let x := x.refreshShaper k
    let x := if burst then x.writeRw (QS_BURST.BURST.bank k).key v.toNat else x.writeRw (QS_RATE.RATE.bank k).key v.toNat
    let cap : Int := (burstActs (x.get (QS_BURST.BURST.bank k)) * 1000000 : Nat)
    let c := Tab.getD x.net.credit k 0
    let c := if !on && x.is (QS_RATE.EN.bank k) then cap else min c cap
    { x with net := { x.net with credit := Tab.put x.net.credit k c } }))))

/-- POLICER_ENABLE (R257): a write of PL_MATCH; a policer that is enabled starts full. -/
def execPolicerEnable (sd : Side) (m : Master) (v : Word) (s : State) : Host.Outcome State Fault Refusal :=
  .next (s.side sd (fun x => x.live (fun x => x.regWrite 0x1C044 m (fun x =>
    let i := x.get PL_SEL.POL
    let on := x.is (PL_MATCH.EN.bank i)
    let x := x.writeRw (PL_MATCH.EN.bank i).key v.toNat
    if on || !x.is (PL_MATCH.EN.bank i) then x
    else
      { x with net := { x.net with
        tokens := Tab.put x.net.tokens i (burstActs (x.get (PL_BURST.BURST.bank i)) * 1000000)
        tokensAt := Tab.put x.net.tokensAt i x.tick } }))))

/-- ADDRESS_AGE (R250). -/
def execAddressAge (sd : Side) (index : Nat) (s : State) : Host.Outcome State Fault Refusal :=
  .next (s.side sd (fun x => x.live (fun x =>
    match x.net.addresses[index]? with
    | none => x
    | some a =>
      if x.get QS_AGE.AGE = 0 ∨ x.tick < a.seen + x.get QS_AGE.AGE * 1000000000 then x
      else
        let x := { x with net := { x.net with
          addresses := x.net.addresses.eraseIdx index
          proxies := if a.port = 3 then dropNat a.mac x.net.proxies else x.net.proxies } }
        x.count 61 1)))

/-- NODE_FORGET (R254). -/
def execNodeForget (sd : Side) (index : Nat) (s : State) : Host.Outcome State Fault Refusal :=
  .next (s.side sd (fun x => x.live (fun x =>
    match x.net.nodes[index]? with
    | none => x
    | some n =>
      if x.tick < n.seen + max 1 (x.get QS_SUP.FORGET) * 1000000000 then x
      else ({ x with net := { x.net with nodes := x.net.nodes.eraseIdx index } }).showNodes)))

/-- SINGLE_PATH_DETECT (R254): frames came on one port in the last 10 s, and none on the other for 10 s. -/
def execSinglePathDetect (sd : Side) (index : Nat) (s : State) : Host.Outcome State Fault Refusal :=
  .next (s.side sd (fun x => x.live (fun x =>
    match x.net.nodes[index]? with
    | none => x
    | some n =>
      let recent (h : Option Nat) : Bool := match h with | none => false | some t => Nat.blt x.tick (t + 10000000000)
      if n.onePath || recent n.heard1 == recent n.heard2 || Nat.blt x.tick (n.onlySince + 10000000000) then x
      else
        let x := { x with net := { x.net with nodes := x.net.nodes.set index { n with onePath := true } } }
        (x.showNodes.evt 0x1B 3).raise 0x95)))

/-- A supervision frame for one address (R254; layout of IEC 62439-3). -/
def SideState.supervision (s : SideState) (mac : Nat) : Packet :=
  let kind := if s.redun = 1 then 20 else 23
  let redbox := if mac = s.ownMac then [] else beBytes 2 0x1E06 ++ beBytes 6 s.ownMac
  { dst := 0x01154E000100
    src := s.ownMac
    tag := none
    body := beBytes 2 0x88FB ++ beBytes 2 1 ++ beBytes 2 s.net.redunSeq ++ beBytes 2 (kind * 256 + 6) ++ beBytes 6 mac ++ redbox ++ beBytes 2 0
    redun := none }

/-- Have LIFE ms passed since the last supervision frames, at the latest in the present beat (R254)? -/
def SideState.supervisionDue (s : SideState) : Bool :=
  match s.net.supervisedAt with
  | none => true
  | some t => Nat.blt (t + max 1 (s.get QS_SUP.LIFE) * 1000000) ((s.produced + 1) * 10000)

/-- SUPERVISION_SEND (R254): one frame for the side's own address and one for each proxy SAN. -/
def execSupervisionSend (sd : Side) (s : State) : Host.Outcome State Fault Refusal :=
  .next (s.side sd (fun x => x.live (fun x =>
    if x.redun = 0 || !x.supervisionDue then x
    else
      let x := { x with net := { x.net with supervisedAt := some x.tick } }
      (x.ownMac :: x.net.proxies).foldl (fun (x : SideState) mac =>
        match x.vlanEntry 1 with
        | none => x
        | some e => (x.forward 0 0 1 e (16 * (x.netNow : Int)) (x.supervision mac)).count 59 1) x)))

end Sys2Proof.Machine
end

