-- ==== Sys2Proof/Machine/Management.lean ====
section
/-! DEFINITION. The stage manager's NVM, log, mailbox, image path and module bus (R372 to R390). The firmware update steps
stand with the twin link. -/

namespace Sys2Proof.Machine

/-! ### Records with two copies (R375, R376) -/

/-- Base of copy 0 and size of one copy of a record area in the NVM window (R375). -/
def RecordKind.area : RecordKind → Nat × Nat
  | .rigMap => (0x41010000, 0x10000)
  | .park => (0x41030000, 0x10000)
  | .calibration => (0x41070000, 0x80000)
  | .forecast => (0x41170000, 0x80000)
  | .keys => (0x41060000, 0x8000)

/-- The area of the curtain scene record. -/
def curtainArea : Nat × Nat := (0x41050000, 0x8000)

/-- The MAGIC of a record copy, "CZNR". -/
def recordMagic : List Byte := [0x43, 0x5A, 0x4E, 0x52]

/-- Is the copy at an address valid: MAGIC and CRC correct (R376)? -/
def SideState.copyValid (s : SideState) (a size : Nat) : Bool :=
  let len := s.rd (a + 8) 4
  s.rdBytes a 4 == recordMagic && decide (len + 16 ≤ size)
    && crc32c (s.rdBytes a 12 ++ s.rdBytes (a + 16) len) == s.rd (a + 12) 4

/-- The address of the copy in force of a record area: the valid copy with the higher GEN. -/
def SideState.copyInForce (s : SideState) (area : Nat × Nat) : Option Nat :=
  let a := area.1
  let b := area.1 + area.2
  if s.copyValid a area.2 then
    (if s.copyValid b area.2 && decide (s.rd (a + 4) 4 < s.rd (b + 4) 4) then some b else some a)
  else if s.copyValid b area.2 then some b
  else none

/-- The payload of the record in force. -/
def SideState.record (s : SideState) (area : Nat × Nat) : Option (List Byte) :=
  (s.copyInForce area).map (fun a => s.rdBytes (a + 16) (s.rd (a + 8) 4))

/-- Erases a range of NVM: its bytes read 0xFF (R375). -/
def SideState.eraseNvm (s : SideState) (a n : Nat) : SideState :=
  { s with mem := s.mem.filter (fun c => !(Nat.ble a c.1 && Nat.blt c.1 (a + n))) }

/-- Writes a record: the other copy is erased and takes the payload with GEN + 1; pages are counted (R364, R376). -/
def SideState.writeRecord (s : SideState) (area : Nat × Nat) (payload : List Byte) : SideState :=
  let force := s.copyInForce area
  let gen := match force with
    | none => 1
    | some a => s.rd (a + 4) 4 + 1
  let dst := if force = some area.1 then area.1 + area.2 else area.1
  let head := recordMagic ++ leBytes 4 gen ++ leBytes 4 payload.length
  let bytes := head ++ leBytes 4 (crc32c (head ++ payload)) ++ payload
  ((s.eraseNvm dst area.2).wrBytes dst bytes).count 125 ((bytes.length + 255) / 256)

/-- Is the NVM write window of the side open (R323)? -/
def SideState.nvmOpen (s : SideState) : Bool := s.is TH_STAT.NVM_OK

/-- Enters a record write; it waits if the window is closed, as RG_STAT shows of a rig map (R66). -/
def SideState.startRecord (s : SideState) (w : RecordWrite) (isOpen : Bool) : SideState :=
  let w : RecordWrite := { w with waiting := !isOpen }
  let s := { s with nvm := { s.nvm with writes := s.nvm.writes ++ [w] } }
  if w.kind = .rigMap ∧ !isOpen then s.set RG_STAT.NVM_PENDING 1 else s

/-- Is a record write of this kind entered, or not complete on the understudy? -/
def SideState.recordBusy (s : SideState) (k : RecordKind) : Bool :=
  s.nvm.writes.any (fun w => w.kind == k) || s.nvm.awaitPeer.any (fun w => w.kind == k)

/-- The sectors of a run's destination are erased (R377). -/
def SideState.eraseRun (s : SideState) (r : NvmRun) : SideState :=
  let s := if r.erased then s else s.eraseNvm (0x40000000 + r.dst) ((r.len + 4095) / 4096 * 4096)
  { s with nvm := { s.nvm with run := some { r with erased := true, paused := false } } }

/-- A run programs its pages up to `n`, from working SRAM (R377). -/
def SideState.programPages (s : SideState) (r : NvmRun) (n : Nat) : SideState :=
  let data := s.rdBytes (r.src + 256 * r.done) (256 * (n - r.done))
  let s := (s.wrBytes (0x40000000 + r.dst + 256 * r.done) data).count 125 (n - r.done)
  { s.set NV_PROG_STAT.DONE (max n r.done) with nvm := { s.nvm with run := some { r with done := max n r.done } } }

/-- The window closes on a running NV_PROG: its current page is programmed, and the run waits (R323, R377). DESIGN CHOICE (log
130): the current page is the first that is not programmed yet. -/
def SideState.pauseProgram (s : SideState) : SideState :=
  match s.nvm.run with
  | none => s
  | some r =>
    if r.paused then s
    else (s.programPages { r with paused := true } (min (r.done + 1) (r.len / 256))).set NV_PROG_STAT.RESULT 5

/-- A run that waits goes on. -/
def SideState.resumeProgram (s : SideState) : SideState :=
  match s.nvm.run with
  | none => s
  | some r => if r.paused then (s.eraseRun r).set NV_PROG_STAT.RESULT 1 else s

/-- The two copies of the slot directory (R375). -/
def directoryArea : Nat × Nat := (0x40000000, 0x800)

/-- A slot directory that waits for the window is written. -/
def SideState.directoryWritten (s : SideState) : SideState :=
  match s.nvm.directoryDue with
  | none => s
  | some b => { s.writeRecord directoryArea b with nvm := { s.nvm with directoryDue := none } }

/-- PENDING_NVM_WRITE (R323): with the window open, waiting record writes and a paused NV_PROG go on. -/
def execPendingNvmWrite (sd : Side) (s : State) : Host.Outcome State Fault Refusal :=
  .next (s.side sd (fun x => x.live (fun x =>
    if !x.nvmOpen then x
    else
      let x := { x with nvm := { x.nvm with writes := x.nvm.writes.map (fun (w : RecordWrite) => { w with waiting := false }) } }
      x.resumeProgram.directoryWritten.set RG_STAT.NVM_PENDING 0)))

/-! ### The user area (R377) -/

/-- NVM_WRITE_ENABLE (R377). -/
def execNvmWriteEnable (sd : Side) (m : Master) (w : PairWrite) (s : State) : Host.Outcome State Fault Refusal :=
  .next (s.side sd (fun x => x.live (fun x => x.onPair 0x05048 m w (fun _ x => x))))

/-- NV_PROG.GO (R377): refused WEN, RANGE or BUSY, else the destination's sectors are erased and the run starts. -/
def SideState.startProgram (s : SideState) : SideState :=
  let src := s.get NV_PROG_SRC.ADDR
  let dst := s.get NV_PROG_DST.OFFSET
  let len := s.get NV_PROG_LEN.LEN
  let refuse (reason : Nat) : SideState := (s.set NV_PROG_STAT.RESULT 3).set NV_PROG_STAT.REASON reason
  if !s.is NV_WEN.EN then refuse 1
  else if src % 256 ≠ 0 ∨ dst % 4096 ≠ 0 ∨ len % 256 ≠ 0 ∨ dst < 0x1470000 ∨ 0x2000000 < dst + len
      ∨ src < 0x10000000 ∨ 0x10800000 < src + len then refuse 2
  else if s.nvm.run.isSome then refuse 3
  else
    let r : NvmRun := ⟨src, dst, len, 0, false, false, true⟩
    let s := ((s.set NV_PROG_STAT.RESULT 5).set NV_PROG_STAT.REASON 0).set NV_PROG_STAT.DONE 0
    let s := { s with nvm := { s.nvm with run := some r } }
    if s.nvmOpen then s.resumeProgram else s

/-- NVM_PROGRAM (R377): a write of NV_PROG with GO. -/
def execNvmProgram (sd : Side) (m : Master) (v : Word) (s : State) : Host.Outcome State Fault Refusal :=
  .next (s.side sd (fun x => x.live (fun x => x.regWrite 0x0505C m (fun x =>
    if v.toNat % 2 = 1 then x.startProgram else x))))

/-- NVM_PROGRAM_ABORT (R377): a write of NV_PROG with ABORT stops the run once the page in progress is programmed. -/
def execNvmProgramAbort (sd : Side) (m : Master) (v : Word) (s : State) : Host.Outcome State Fault Refusal :=
  .next (s.side sd (fun x => x.live (fun x => x.regWrite 0x0505C m (fun x =>
    match x.nvm.run with
    | none => x
    | some r => if bitAt v.toNat 1 then { x with nvm := { x.nvm with run := some { r with stop := true } } } else x))))

/-- NVM_PROGRAM_DONE (R377): the run ends with `pages` pages programmed where it was stopped or a page failed, and whole
otherwise. A run that waits for the window does not end, unless it is stopped there. -/
def execNvmProgramDone (sd : Side) (ok : Bool) (pages : Nat) (s : State) : Host.Outcome State Fault Refusal :=
  .next (s.side sd (fun x => x.live (fun x =>
    match x.nvm.run with
    | none => x
    | some r =>
      if r.paused && !r.stop then x
      else
        let n := if r.paused then r.done else if ok && !r.stop then r.len / 256 else max r.done (min pages (r.len / 256))
        let x := x.programPages r n
        let x := { x with nvm := { x.nvm with run := none } }
        let x := if !ok then ((x.set NV_PROG_STAT.RESULT 4).set NV_PROG_STAT.REASON 4).raise 0xA2
          else if r.stop then x.set NV_PROG_STAT.RESULT 4
          else x.set NV_PROG_STAT.RESULT 2
        x.evt 0x05 0)))

/-! ### The log in NVM (R379) -/

/-- Base of the log ring in the NVM window (R375). -/
def logRing : Nat := 0x41270000

/-- Programs one entry at its place. As the write position enters a sector, that sector is erased, so that 65,408 to 65,536
entries stay. -/
def SideState.programEntry (s : SideState) (e : List Byte) : SideState :=
  let seq := leNat (slice e 8 4)
  let i := seq % 65536
  let s := (s.wrBytes (logRing + 32 * i) e).count 121 1
  let s := if i % 128 = 127 then s.eraseNvm (logRing + (i / 128 + 1) % 512 * 4096) 4096 else s
  (s.set NV_LOG_WIDX.WIDX (i + 1)).set NV_LOG_SEQ.SEQ seq

/-- Is a log entry that of a Grave reaction: a fault event of class Grave that is not one of the collector's own (R303, R378)? -/
def graveEntry (e : List Byte) : Bool := leNat (slice e 12 1) == 0 && leNat (slice e 14 1) % 16 / 8 == 0 && leNat (slice e 14 1) % 4 == 3

/-- LOG_PROGRAM (R379): the buffered entries are programmed in order while the write window is open. After a Grave halt the
collector writes the Grave entry alone (R303). -/
def execLogProgram (sd : Side) (s : State) : Host.Outcome State Fault Refusal :=
  .next (s.side sd (fun x =>
    let graveOnly := x.fault.halted && x.power.powered
    if (x.managed || graveOnly) && x.nvmOpen then
      let x := (if graveOnly then x.fault.log.filter graveEntry else x.fault.log).foldl SideState.programEntry x
      let x := { x with fault := { x.fault with log := [] } }
      x.set NV_LOG_STAT.BUF 0
    else x))

/-! ### The command mailbox (R388) -/

/-- HOST_NOTE (R388): OP NOTE writes a host-note entry; an OP that is neither NOTE nor RESCAN is refused. -/
def execHostNote (sd : Side) (m : Master) (v : Word) (s : State) : Host.Outcome State Fault Refusal :=
  .next (s.side sd (fun x => x.live (fun x => x.regWrite 0x07044 m (fun x =>
    if !bitAt v.toNat 31 || !x.managed then x
    else
      match bits v.toNat 0 8 with
      | 1 =>
        let x := x.log 1 0 x.sideRole 0
          (leBytes 4 (x.get HM_ARG.ARG) ++ leBytes 4 (x.get (HM_ARG.ARG.nth 1)) ++ leBytes 4 (x.get (HM_ARG.ARG.nth 2)))
        (x.set HM_RSP.RESULT 2).evt 0x07 0
      | 2 => x.set HM_RSP.RESULT 1
      | _ => (x.set HM_RSP.RESULT 3).evt 0x07 0))))

/-! ### The module bus (R385, R390) -/

/-- Bytes read per module. -/
def SideState.moduleLen (s : SideState) : Nat := clampNat 16 256 (s.get RG_MB_CTRL.LEN)

/-- What one module answered, against what was held; a module that did not acknowledge is not in `reads`. -/
def SideState.readModule (s : SideState) (reads : List ModuleRead) (all : Bool) (m : Nat) : SideState :=
  let was := s.is ⟨0x0F104, m, 1⟩
  let chg (s : SideState) : SideState := s.set ⟨0x0F108, m, 1⟩ 1
  match reads.find? (fun r => r.module == m) with
  | none =>
    if was then (chg ({ s.set ⟨0x0F104, m, 1⟩ 0 with nvm := { s.nvm with modules := Tab.del s.nvm.modules m } })).raise 0xA7 else s
  | some r =>
    let s := if was then s else (chg (s.set ⟨0x0F104, m, 1⟩ 1)).raise 0xA7
    if 3 ≤ r.failures then (s.set ⟨0x0F108, 16 + m, 1⟩ 1).raise 0xA7
    else
      let new := slice r.bytes 0 s.moduleLen
      if Tab.get? s.nvm.modules m = some new && !all then s
      else
        let s := if Tab.get? s.nvm.modules m = some new then s else chg s
        { s with nvm := { s.nvm with modules := Tab.put s.nvm.modules m new } }

/-- MODULE_POLL (R385). -/
def execModulePoll (sd : Side) (reads : List ModuleRead) (s : State) : Host.Outcome State Fault Refusal :=
  .next (s.side sd (fun x =>
    if x.managed && x.is RG_MB_CTRL.EN then (List.range 16).foldl (fun x m => x.readModule reads false m) x else x))

/-- MODULE_RESCAN (R388): OP RESCAN reads every module at once. -/
def execModuleRescan (sd : Side) (m : Master) (v : Word) (reads : List ModuleRead) (s : State) : Host.Outcome State Fault Refusal :=
  .next (s.side sd (fun x => x.live (fun x => x.regWrite 0x07044 m (fun x =>
    if bitAt v.toNat 31 && x.managed && bits v.toNat 0 8 == 2 then
      (((List.range 16).foldl (fun x i => x.readModule reads true i) x).set HM_RSP.RESULT 2).evt 0x07 0
    else x))))

/-! ### The network image path (R384) -/

/-- The working SRAM address of an offset of the image that comes by the network. -/
def SideState.imageAddr (s : SideState) (off : Nat) : Nat := s.get HM_NET_ADDR.ADDR / 1024 * 1024 + off

/-- Is an image frame acceptable: its form, its CRC, and a block or an end that its opcode allows (R389)? -/
def SideState.imageFrameOk (s : SideState) (p : List Byte) : Bool :=
  let op := (slice p 1 1).headD 0
  let off := beNat (slice p 4 4)
  let len := beNat (slice p 8 2)
  let block := op == 1 && len != 0 && Nat.ble len 1024 && off % 1024 == 0 && Nat.ble (off + len) 8388608
    && Nat.ble 0x10000000 (s.imageAddr off) && Nat.ble (s.imageAddr off + len) 0x10800000
  let finish := op == 2 && len == 0 && Nat.ble off 8388608
  Nat.ble 16 p.length && p.length == 16 + len && slice p 0 1 == [1]
    && beNat (slice p (12 + len) 4) == crc32c (slice p 0 (12 + len)) && (block || finish)

/-- A block of an image frame is stored in its place. -/
def SideState.storeBlock (s : SideState) (p : List Byte) : SideState :=
  let off := beNat (slice p 4 4)
  let len := beNat (slice p 8 2)
  let s := s.wrBytes (s.imageAddr off) (slice p 12 len)
  let s := s.set HM_NET_STAT.BYTES (s.get HM_NET_STAT.BYTES + len)
  { s with net := { s.net with imageBlocks := insertNat (off / 1024) s.net.imageBlocks } }

/-- One image frame's payload. A block that would lie outside working SRAM is discarded with ERR. Answers whether the image became complete with it. -/
def SideState.takeImageFrame (s : SideState) (p : List Byte) : SideState × Bool :=
  if !s.imageFrameOk p then ((s.set HM_NET_STAT.ERR 1).evt 0x07 2, false)
  else
    let s := if (slice p 1 1).headD 0 = 1 then s.storeBlock p
      else { s with net := { s.net with imageEnd := some (beNat (slice p 4 4)) } }
    match s.net.imageEnd with
    | none => (s, false)
    | some e =>
      if !s.is HM_NET_STAT.DONE && (List.range ((e + 1023) / 1024)).all (fun i => s.net.imageBlocks.contains i) then
        ((s.set HM_NET_STAT.DONE 1).evt 0x07 1, true)
      else (s, false)

end Sys2Proof.Machine
end

