-- ==== Sys2Proof/Machine/Tables.lean ====
section
/-! DEFINITION. The element tables and the scene store in the element-table memory (R19 to R22, R55 to R59, R101, R140,
R161): where each field lies, and reading and writing scene slots. -/

namespace Sys2Proof.Machine

/-- Correctable errors in words that are read are put right and counted (R422). -/
def SideState.scrubWords (s : SideState) (l : List Nat) : SideState :=
  let n := s.eccSoft.countP (fun a => l.contains a)
  ({ s with eccSoft := s.eccSoft.filter (fun a => !l.contains a) }).count 124 n

/-- The same for the words of `n` bytes from an address. -/
def SideState.scrubRange (s : SideState) (addr n : Nat) : SideState :=
  s.scrubWords (s.eccSoft.filter (fun a => Nat.ble addr a && Nat.blt a (addr + n)))

/-! ### Drive table (R56) -/

def DT.ELEM : TFld := ⟨0x30000000, 16, 0, 0, 16⟩
def DT.KIND : TFld := ⟨0x30000000, 16, 0, 16, 4⟩
def DT.MODE : TFld := ⟨0x30000000, 16, 0, 20, 2⟩
def DT.HSUP : TFld := ⟨0x30000000, 16, 0, 22, 2⟩
def DT.LIMIT_HI : TFld := ⟨0x30000000, 16, 1, 0, 14⟩
def DT.LIMIT_LO : TFld := ⟨0x30000000, 16, 1, 16, 14⟩
def DT.TAP : TFld := ⟨0x30000000, 16, 2, 0, 6⟩
def DT.SLEW : TFld := ⟨0x30000000, 16, 2, 6, 2⟩
def DT.LOAD_NOM : TFld := ⟨0x30000000, 16, 2, 16, 16⟩
def DT.LOOP : TFld := ⟨0x30000000, 16, 3, 0, 16⟩

/-! ### Monitor table (R57) -/

def MT.ELEM : TFld := ⟨0x30028000, 16, 0, 0, 16⟩
def MT.KIND : TFld := ⟨0x30028000, 16, 0, 16, 4⟩
def MT.RANGE_INIT : TFld := ⟨0x30028000, 16, 0, 20, 2⟩
def MT.BW_INIT : TFld := ⟨0x30028000, 16, 0, 22, 1⟩
def MT.AUTORANGE : TFld := ⟨0x30028000, 16, 0, 23, 1⟩
def MT.RESP : TFld := ⟨0x30028000, 16, 1, 0, 16⟩
def MT.DARK_NOM : TFld := ⟨0x30028000, 16, 1, 16, 16⟩
def MT.OFFSET : TFld := ⟨0x30028000, 16, 2, 0, 16⟩
def MT.GAIN : TFld := ⟨0x30028000, 16, 2, 16, 16⟩

/-! ### Cell table (R58) and port table (R59) -/

def CT.STAGE : TFld := ⟨0x30040000, 16, 0, 0, 5⟩
def CT.POS : TFld := ⟨0x30040000, 16, 0, 5, 11⟩
def CT.T_DO : TFld := ⟨0x30040000, 16, 1, 0, 14⟩
def CT.T_PRESENT : TFld := ⟨0x30040000, 16, 1, 14, 1⟩
def CT.E_DO : TFld := ⟨0x30040000, 16, 1, 16, 14⟩
def CT.E_PRESENT : TFld := ⟨0x30040000, 16, 1, 30, 1⟩
def CT.TAP_MI : TFld := ⟨0x30040000, 16, 2, 0, 13⟩
def CT.TAP_PRESENT : TFld := ⟨0x30040000, 16, 2, 13, 1⟩
def CT.TAP_SIDE : TFld := ⟨0x30040000, 16, 2, 14, 1⟩
def PT.ATT_DO : TFld := ⟨0x30054000, 16, 0, 0, 14⟩
def PT.ATT_PRESENT : TFld := ⟨0x30054000, 16, 0, 14, 1⟩
def PT.MON_MI : TFld := ⟨0x30054000, 16, 0, 16, 13⟩
def PT.MON_PRESENT : TFld := ⟨0x30054000, 16, 0, 29, 1⟩
def PT.DARK : TFld := ⟨0x30054000, 16, 1, 0, 14⟩

/-! ### Loop table (R140) -/

def LT.DO : TFld := ⟨0x30058000, 32, 0, 0, 14⟩
def LT.LAW : TFld := ⟨0x30058000, 32, 0, 14, 2⟩
def LT.MI : TFld := ⟨0x30058000, 32, 0, 16, 13⟩
def LT.EN : TFld := ⟨0x30058000, 32, 0, 29, 1⟩
def LT.DIR : TFld := ⟨0x30058000, 32, 0, 30, 1⟩
def LT.POL : TFld := ⟨0x30058000, 32, 0, 31, 1⟩
def LT.MARK : TFld := ⟨0x30058000, 32, 1, 0, 22⟩
def LT.ACT : TFld := ⟨0x30058000, 32, 1, 24, 1⟩
def LT.BAND : TFld := ⟨0x30058000, 32, 2, 0, 22⟩
def LT.STEP : TFld := ⟨0x30058000, 32, 3, 0, 10⟩
def LT.STEP_FAR : TFld := ⟨0x30058000, 32, 3, 10, 10⟩
def LT.INTERVAL : TFld := ⟨0x30058000, 32, 3, 20, 8⟩
def LT.STEP_E : TFld := ⟨0x30058000, 32, 4, 0, 10⟩
def LT.INTERVAL_E : TFld := ⟨0x30058000, 32, 4, 12, 8⟩
def LT.LOWEST : TFld := ⟨0x30058000, 32, 5, 0, 22⟩
def LT.SRCH : TFld := ⟨0x30058000, 32, 5, 22, 1⟩
def LT.DIRST : TFld := ⟨0x30058000, 32, 5, 23, 1⟩
def LT.RESUME : TFld := ⟨0x30058000, 32, 6, 0, 14⟩
def LT.INV : TFld := ⟨0x30058000, 32, 6, 16, 8⟩
def LT.SAT : TFld := ⟨0x30058000, 32, 6, 24, 1⟩
def LT.LAST : TFld := ⟨0x30058000, 32, 7, 0, 16⟩
def LT.OOBCNT : TFld := ⟨0x30058000, 32, 7, 16, 16⟩

/-! ### Edge table (R161) -/

def ET.E_MID : TFld := ⟨0x30088000, 16, 0, 0, 14⟩
def ET.E_PI : TFld := ⟨0x30088000, 16, 0, 16, 14⟩
def ET.PHYS : TFld := ⟨0x30088000, 16, 1, 0, 2⟩
def ET.HO : TFld := ⟨0x30088000, 16, 1, 2, 2⟩
def ET.PAUSED : TFld := ⟨0x30088000, 16, 1, 4, 1⟩
def ET.MISS : TFld := ⟨0x30088000, 16, 1, 8, 2⟩
def ET.PAUSE : TFld := ⟨0x30088000, 16, 1, 16, 16⟩
def ET.E_EDGE : TFld := ⟨0x30088000, 16, 2, 0, 14⟩
def ET.RAMP_STEP : TFld := ⟨0x30088000, 16, 2, 16, 14⟩
def ET.E_BEAT : TFld := ⟨0x30088000, 16, 3, 0, 16⟩

/-! ### Park table (R101) -/

/-- The park table's window. -/
def parkBase : Nat := 0x300A0000
def PK.V_PARK : TFld := ⟨0x300A0010, 4, 0, 0, 14⟩
def PK.I_PARK : TFld := ⟨0x300A0010, 4, 0, 16, 14⟩

/-- Is a table bit set? -/
def SideState.tis (s : SideState) (f : TFld) (i : Nat) : Bool := s.t f i != 0

/-- The rw bits of word `w` of an entry of each element table; the rest is ro or reserved (R56, R57, R58, R59, R140). The
edge table's E_MID and E_PI are written by calibration alone. -/
def tableRwMask (addr : Nat) : Nat :=
  let w4 := addr % 16 / 4
  let w8 := addr % 32 / 4
  if addr < 0x30028000 then (if w4 = 1 then 0x3FFF3FFF else if w4 = 2 then 0xC0 else 0)
  else if addr < 0x30040000 then (if w4 = 0 then 0xF00000 else if w4 = 2 then 0xFFFFFFFF else 0)
  else if addr < 0x30058000 then 0
  else if addr < 0x30088000 then
    (if w8 = 0 then 0x60000000 else if w8 = 1 then 0x3FFFFF else if w8 = 2 then 0x3FFFFF else if w8 = 3 then 0x0FFFFFFF
     else if w8 = 4 then 0xFF3FF else if w8 = 6 then 0x3FFF else 0)
  else 0

/-! ### Scene slots (R19, R21) -/

/-- The base of a scene slot. -/
def slotBase (n : Nat) : Nat := 0x30100000 + n * 0x2000

/-- Words of a slot's header. -/
def SideState.slotId (s : SideState) (n : Nat) : Nat := s.rd (slotBase n) 2
def SideState.slotFlags (s : SideState) (n : Nat) : Nat := s.rd (slotBase n + 2) 2
def SideState.slotCount (s : SideState) (n : Nat) : Nat := s.rd (slotBase n + 4) 2

/-- FLAGS bits of R21. -/
def flagVALID : Nat := 1
def flagSOLVED : Nat := 2
def flagCURTAIN : Nat := 4
def flagACTIVE : Nat := 8

/-- A connection of a scene (R21). -/
structure Conn where
  input : Nat
  output : Nat
  blank : Bool
  pin : Bool
  id : Nat
  deriving DecidableEq, Repr

/-- The connection a 64-bit entry holds. -/
def Conn.ofWord (w : Nat) : Conn :=
  { input := bits w 0 9, output := bits w 16 9, blank := bitAt w 30, pin := bitAt w 31, id := bits w 32 32 }

/-- The 64-bit entry of a connection. -/
def Conn.toWord (c : Conn) : Nat :=
  c.input + c.output * 2 ^ 16 + (if c.blank then 2 ^ 30 else 0) + (if c.pin then 2 ^ 31 else 0) + c.id * 2 ^ 32

/-- The connections of a slot, in entry order. -/
def SideState.slotConns (s : SideState) (n : Nat) : List Conn :=
  (List.range (min (s.slotCount n) 512)).map (fun i => Conn.ofWord (s.rd (slotBase n + 0x10 + 8 * i) 8))

/-- CHECK of a slot: CRC-32C over the first 8 header bytes and the COUNT entries (R21). -/
def SideState.slotCheck (s : SideState) (n : Nat) : Nat :=
  crc32c (s.rdBytes (slotBase n) 8 ++ s.rdBytes (slotBase n + 0x10) (8 * min (s.slotCount n) 512))

/-- The device recomputes CHECK whenever it writes the header or an entry (R22). -/
def SideState.reCheck (s : SideState) (n : Nat) : SideState := s.wr (slotBase n + 8) 4 (s.slotCheck n)

/-- Writes FLAGS, with CHECK. -/
def SideState.setFlags (s : SideState) (n flags : Nat) : SideState := (s.wr (slotBase n + 2) 2 flags).reCheck n

/-- Is a flag set? -/
def SideState.hasFlag (s : SideState) (n flag : Nat) : Bool := s.slotFlags n / flag % 2 == 1

/-- Sets or clears one flag. -/
def SideState.setFlag (s : SideState) (n flag : Nat) (b : Bool) : SideState :=
  let f := s.slotFlags n
  let f := if f / flag % 2 = 1 then f - flag else f
  s.setFlags n (if b then f + flag else f)

/-- Settings of a cell (R21): bar, cross, idle. -/
def cellBar : Nat := 0
def cellCross : Nat := 1
def cellIdle : Nat := 2

/-- The setting of a cell in a slot's CELLS. -/
def SideState.slotCell (s : SideState) (n c : Nat) : Nat := bits (s.rd8 (slotBase n + 0x1010 + c / 4)).toNat (c % 4 * 2) 2

/-- Writes the settings of the cells 0, 1, … into a slot's CELLS. -/
def SideState.writeCells (s : SideState) (n : Nat) (cells : List Nat) : SideState :=
  s.wrBytes (slotBase n + 0x1010)
    ((List.range ((cells.length + 3) / 4)).map (fun i =>
      BitVec.ofNat 8 (cells.getD (4 * i) 0 + cells.getD (4 * i + 1) 0 * 4 + cells.getD (4 * i + 2) 0 * 16 + cells.getD (4 * i + 3) 0 * 64)))

/-- Writes a whole scene into a slot: header, entries and reserved words 0, CELLS left as they are. -/
def SideState.writeScene (s : SideState) (n id flags : Nat) (conns : List Conn) : SideState :=
  let s := s.wr (slotBase n) 2 id
  let s := s.wr (slotBase n + 2) 2 flags
  let s := s.wr (slotBase n + 4) 2 conns.length
  let s := s.wr (slotBase n + 6) 2 0
  let s := s.wr (slotBase n + 12) 4 0
  let s := s.wrBytes (slotBase n + 0x10) ((conns.map (fun c => leBytes 8 c.toWord)).flatten)
  s.reCheck n

/-- A scene is valid: no input and no output twice, at most 512 connections, ports below `ports` (R17). -/
def validConns (ports : Nat) (l : List Conn) : Bool :=
  decide (l.length ≤ 512) && l.all (fun c => decide (c.input < ports) && decide (c.output < ports))
    && decide ((l.map (fun c => c.input)).Nodup) && decide ((l.map (fun c => c.output)).Nodup)

/-- The number of ports of the rig map in force. -/
def SideState.ports (s : SideState) : Nat := s.get RG_COUNT.PORTS

/-- The number of cells of the rig map in force. -/
def SideState.cells (s : SideState) : Nat := s.get RG_COUNT.CELLS

/-- Is a rig map in force? -/
def SideState.rigged (s : SideState) : Bool := s.is RG_STAT.IN_FORCE

/-- The ports a scene may name are below this: those of the rig map, of which COMPAT leaves the first 256 (R10, R17). -/
def SideState.portLimit (s : SideState) : Nat := if s.is ID_STRAP.COMPAT then min 256 s.ports else s.ports

/-- May the device use a stored slot (R22)? -/
def SideState.slotUsable (s : SideState) (n : Nat) : Bool :=
  s.hasFlag n flagVALID && decide (s.slotCount n ≤ 512) && s.rd (slotBase n + 8) 4 == s.slotCheck n
    && validConns s.portLimit (s.slotConns n)

/-- The slot that carries ACTIVE (R22). -/
def SideState.activeSlot (s : SideState) : Nat := s.get SC_ACTIVE.SLOT

/-- The connections of the active scene; after a dark curtain it is the empty scene (R22, R85). -/
def SideState.activeConns (s : SideState) : List Conn := if s.scene.emptyActive then [] else s.slotConns s.activeSlot

/-- The setting of a cell in the active scene. -/
def SideState.activeCell (s : SideState) (c : Nat) : Nat := if s.scene.emptyActive then cellIdle else s.slotCell s.activeSlot c

/-- Is a cell lit in the active scene? -/
def SideState.cellLit (s : SideState) (c : Nat) : Bool := s.activeCell c == cellBar || s.activeCell c == cellCross

/-- Is an output lit in the active scene? -/
def SideState.outLit (s : SideState) (q : Nat) : Bool := s.activeConns.any (fun c => c.output == q)

/-- Is an input in a connection of the active scene? -/
def SideState.inLit (s : SideState) (p : Nat) : Bool := s.activeConns.any (fun c => c.input == p)

/-- Is the tracking state one of a cue in flight (R23)? -/
def CueState.inFlight : CueState → Bool
  | .checking => true
  | .solving => true
  | .tracing => true
  | .ready => true
  | _ => false

/-- The slots of the scenes that cues not yet fired lead to: the working slots of entries in flight or armed, and slot 255 while a
curtain is to come. -/
def SideState.slotsAhead (s : SideState) : List Nat :=
  s.pipe.trk.filterMap (fun p => if p.2.state.inFlight || p.2.state == .armed then p.2.slot else none)
    ++ (if s.watch.curtainAt.isSome then [255] else [])

/-- Does the cell carry light in the active scene or in a cue in flight? -/
def SideState.cellUsed (s : SideState) (c : Nat) : Bool :=
  s.cellLit c || s.slotsAhead.any (fun n => s.hasFlag n flagSOLVED && (s.slotCell n c == cellBar || s.slotCell n c == cellCross))

/-- Is port record `e` (input e, output e − PORTS) in a connection of the active scene or of a cue in flight? -/
def SideState.portUsed (s : SideState) (e : Nat) : Bool :=
  let has (l : List Conn) : Bool := l.any (fun c => if e < s.ports then c.input == e else c.output == e - s.ports)
  has s.activeConns || s.slotsAhead.any (fun n => has (s.slotConns n))

end Sys2Proof.Machine
end

