-- ==== Sys2Proof/Machine/Drive.lean ====
section
/-! DEFINITION. The drive outputs (R88 to R116): what reaches a pad, ownership checks, the four update schemes, the park
table, changes of mode, compliance, heater resistance and the tone generators. -/

namespace Sys2Proof.Machine

/-! ### What a DO holds -/

/-- BASE of a DO. -/
def SideState.base (s : SideState) (d : Nat) : Nat := Tab.getD s.drive.base d 0

/-- The ownership state of a DO (R150). -/
def SideState.own (s : SideState) (d : Nat) : Own := Tab.getD s.drive.own d .none

/-- Does the rig map name the DO? -/
def SideState.named (s : SideState) (d : Nat) : Bool := s.rigged && Nat.blt d 10240 && s.tis DT.KIND d

/-- MODE of a DO; an unnamed DO is off (R88). DESIGN CHOICE (log 33): a MODE of 0b11, which R88 does not define, acts as off. -/
def SideState.mode (s : SideState) (d : Nat) : Nat := if s.named d && s.t DT.MODE d != 3 then s.t DT.MODE d else 0

/-- A value held within the DO's limits (R56). -/
def SideState.limit (s : SideState) (d : Nat) (v : Nat) : Nat := clampNat (s.t DT.LIMIT_LO d) (s.t DT.LIMIT_HI d) v

/-- The park value in force for a DO in a mode: code 0 while no park table is in force (R100, R101). -/
def SideState.parkCode (s : SideState) (d mode : Nat) : Nat :=
  if !s.drive.parkValid then 0
  else
    let w := (Tab.getD s.drive.parkInForce d (0 : Word)).toNat
    if mode = 1 then bits w 0 14 else if mode = 2 then bits w 16 14 else 0

/-- The park value in the DO's present mode, clamped (R92 line 5). -/
def SideState.parkValue (s : SideState) (d : Nat) : Nat := s.limit d (s.parkCode d (s.mode d))

/-- Is the DO in the sequence of a change of mode? -/
def SideState.inRange (s : SideState) (d : Nat) : Bool :=
  match s.drive.range with
  | some r => r.dout == d
  | none => false

/-- The generator in force that is bound to a DO. -/
def SideState.toneOn (s : SideState) (d : Nat) : Option ToneGen :=
  (s.drive.tones.find? (fun p => p.2.en && p.2.dout == d)).map (fun p => p.2)

/-- The change of mode of a DO, with the boundaries since the beat of its request, from the first of them on (R103). -/
def SideState.rangeBeat (s : SideState) (d : Nat) : Option (RangeSeq × Nat) :=
  match s.drive.range with
  | some r => if r.dout = d ∧ r.start < s.produced then some (r, s.produced - r.start) else none
  | none => none

/-- The sample of the tone generator bound to a DO, or 0. -/
def SideState.toneNow (s : SideState) (d : Nat) : Int :=
  match s.toneOn d with
  | some g => g.tone
  | none => 0

/-- The value of a sequence of R103 at its n-th boundary, from the value at acceptance. -/
def rangeValue (v n : Nat) : Nat := v * (8 - n) / 8

/-- The current value of a DO, whatever the side's role (R92, lines 2 to 5): none at high impedance. BASE holds the park value of a DO
that nothing owns, and on another side than the lead the value that the lead committed (R94). -/
def SideState.current (s : SideState) (d : Nat) : Option Nat :=
  if s.mode d = 0 then none
  else
    match s.rangeBeat d with
    | some (r, n) => if n ≤ 8 then some (rangeValue r.value n) else none
    | none =>
      if s.own d = .none then some (s.limit d (s.base d))
      else some (clampInt (s.t DT.LIMIT_LO d) (s.t DT.LIMIT_HI d) ((s.base d : Int) + s.toneNow d)).toNat

/-- The code at a DO pad, or high impedance (R92). At a takeover the old lead holds its pads until its rail is fenced, and the
new lead's voltage-mode stages wait for the fence (R4, R237). -/
def SideState.pad (s : SideState) (d : Nat) : Option Nat :=
  if !s.holdsPads || !s.is DO_STAT.STAGE_EN || (s.mode d == 1 && s.twin.fencePending) then none
  else s.current d

/-! ### Writing a DO -/

/-- The drive group of a DO, and its index in it. -/
def driveGroup (d : Nat) : Nat := d / 64

/-- The flag of a drive group on its page, EVT_RAW[g mod 16]. -/
def SideState.groupEvt (s : SideState) (g : Nat) : SideState := s.evt (0x20 + g % 160 / 16) (g % 16)

/-- BASE changes, with no record of its own. -/
def SideState.putBase (s : SideState) (d v : Nat) : SideState := { s with drive := { s.drive with base := Tab.put s.drive.base d v } }

/-- BASE changes by an immediate write: a DO record (R235). -/
def SideState.writeBase (s : SideState) (d v : Nat) : SideState :=
  if s.base d = v then s else (s.putBase d v).emit (recDo d v)

/-- A value staged for the next boundary is withdrawn (R32, R94): the copy must not give it to the understudy. DESIGN CHOICE (log
115): a DO_STAGED record of the beat that has not gone yet turns into a DO record of BASE; after the marker the next beat's copy
carries that DO record. -/
def SideState.withdrawDo (s : SideState) (d : Nat) : SideState :=
  let r := recDo d (s.base d)
  if s.twin.records.any (isStagedOf d) then
    { s with twin := { s.twin with records := s.twin.records.map (fun x => if isStagedOf d x then r else x) } }
  else s.emit r

/-- Ownership changes, with an OWN record. A named DO that passes to NONE takes its park value as BASE (R92). -/
def SideState.setOwn (s : SideState) (d : Nat) (o : Own) : SideState :=
  if s.own d = o then s
  else
    let s := { s with drive := { s.drive with own := Tab.put s.drive.own d o } }
    let s := s.emit (recOwn d o 0 (s.mode d))
    if o = .none then s.writeBase d (s.parkValue d) else s

/-- A value from a path other than the owner's is not applied, is counted and raises 0x36 (R93). -/
def SideState.foreign (s : SideState) (d : Nat) : SideState :=
  let g := driveGroup d
  let s := s.bump (DG_CNT.FOREIGN.inDriveGroup g) 1
  (((s.groupEvt g).evt 0x10 2).count 93 1).raise 0x36

/-- A value takes effect, if its writer owns the DO then; writes to an off DO are ignored (R88, R93, R103). DESIGN CHOICE (log 123): a
value of the owner that comes in a change of mode counts as FOREIGN. -/
def SideState.apply (s : SideState) (d v : Nat) (writer : Own) : SideState :=
  if s.mode d = 0 then s
  else if s.own d = writer && !s.inRange d then s.writeBase d v
  else s.foreign d

/-- Stages a beat-aligned value: at the next boundary if staged by 8.5 µs, else at the one after; a later value for the same
boundary replaces it (R95). -/
def SideState.stage (s : SideState) (d v : Nat) (writer : Own) : SideState :=
  let due := if s.beforeCutoff then s.produced + 1 else s.produced + 2
  let rest := s.drive.staged.filter (fun x => !(x.dout == d && x.due == due))
  let s := { s with drive := { s.drive with staged := rest ++ [⟨d, v, due, writer⟩] } }
  if due = s.produced + 1 then s.emit (recDoStaged d v) else s

/-- The beat-aligned values of this boundary take effect (R95); those of the next are then sent as staged. The copy has had a
value that is dropped here as staged, that of an off DO too; a DO record gives the understudy the lead's own again (R94). -/
def SideState.applyStaged (s : SideState) : SideState :=
  let now := s.drive.staged.filter (fun x => x.due ≤ s.produced)
  let s := { s with drive := { s.drive with staged := s.drive.staged.filter (fun x => s.produced < x.due) } }
  let s := now.foldl (fun s x =>
    if s.mode x.dout = 0 then s.emit (recDo x.dout (s.base x.dout))
    else if s.own x.dout = x.writer && !s.inRange x.dout then (s.putBase x.dout x.value).count 89 1
    else (s.foreign x.dout).emit (recDo x.dout (s.base x.dout))) s
  (s.drive.staged.filter (fun x => x.due == s.produced + 1)).foldl (fun s x => s.emit (recDoStaged x.dout x.value)) s

/-- MANUAL_WRITE (R93, R95): DO_WR_VAL requests a new BASE for the DO of DO_WR_SEL. -/
def execManualWrite (sd : Side) (m : Master) (v : Word) (s : State) : Host.Outcome State Fault Refusal :=
  .next (s.side sd (fun x => x.live (fun x => x.regWrite 0x10054 m (fun x =>
    let d := x.get DO_WR_SEL.DO
    if bitAt v.toNat 16 then x.stage d (bits v.toNat 0 14) .man else x.apply d (bits v.toNat 0 14) .man))))

/-! ### Schemes T and Q (R96 to R99) -/

/-- DG_CTRL in force for a group: a change written in this beat acts from the next boundary (R99). -/
def SideState.groupCtrl (s : SideState) (g : Nat) : Nat :=
  Tab.getD s.drive.schemeOld g ((s.word (DG_CTRL.SCHEME.inDriveGroup g).key).toNat)

/-- The update scheme in force: 1 is T, 2 is Q; 3 acts as 0. -/
def SideState.scheme (s : SideState) (g : Nat) : Nat := bits (s.groupCtrl g) 0 2

/-- Is scheme T available: at most 1,152 DO used (R96)? -/
def SideState.tAvail (s : SideState) : Bool := Nat.ble (s.get RG_USED.DO_USED) 1152

/-- SCHEME_CHANGE (R96, R99): a write of DG_CTRL. Scheme T above 1,152 DO is refused and SCHEME keeps its value. -/
def execSchemeChange (sd : Side) (m : Master) (group : Nat) (v : Word) (s : State) : Host.Outcome State Fault Refusal :=
  .next (s.side sd (fun x => x.live (fun x => x.regWrite (DG_CTRL.SCHEME.inDriveGroup group).key m (fun x =>
    let old := x.groupCtrl group
    let refused := bits v.toNat 0 2 == 1 && !x.tAvail
    let x := if refused then x.evt 0x10 3 else x.set (DG_CTRL.SCHEME.inDriveGroup group) v.toNat
    let x := x.set (DG_CTRL.RATE.inDriveGroup group) (bits v.toNat 2 2)
    { x with drive := { x.drive with schemeOld := Tab.put x.drive.schemeOld group old } }))))

/-- Ticks of a group's sample clock in a beat (R99). -/
def SideState.ticksPerBeat (s : SideState) (g : Nat) : Nat :=
  match bits (s.groupCtrl g) 2 2 with
  | 0 => 1
  | 1 => 2
  | _ => 4

/-- The ticks of a group that this beat has had. -/
def SideState.ticksDone (s : SideState) (g : Nat) : Nat :=
  match Tab.get? s.drive.ticks g with
  | some p => if p.1 = s.produced then p.2 else 0
  | none => 0

/-- The phase of a generator counts from here. -/
def ToneGen.refer (g : ToneGen) (beat : Nat) : ToneGen := { g with since := beat, ph0 := g.ph, err0 := g.err }

/-- The phase of a generator at a boundary, from BEATNO and the ticks of each beat since the boundary it counts from; ERR carries
at most once a tick (R109, R110). -/
def ToneGen.phaseAt (g : ToneGen) (beat ticks : Nat) : ToneGen :=
  if beat < g.since then g.refer beat
  else
    let n := (beat - g.since) * ticks
    let e := g.err0 + n * g.num
    let carries := min n (e / max 1 g.den)
    { g with ph := (g.ph0 + n * g.ftw + carries) % 2 ^ 32, err := e - carries * max 1 g.den }

/-- Ticks of a beat in which a generator of the group advances, from this boundary on: none outside scheme Q. -/
def SideState.toneRate (s : SideState) (g : Nat) : Nat :=
  let w := (s.word (DG_CTRL.SCHEME.inDriveGroup g).key).toNat
  if bits w 0 2 = 2 then (match bits w 2 2 with
    | 0 => 1
    | 1 => 2
    | _ => 4)
  else 0

/-- A generator at a boundary: its phase, and where the phase counts from if the rate changes here. -/
def ToneGen.step (g : ToneGen) (beat rate : Nat) : ToneGen :=
  let g := g.phaseAt beat g.rate
  if g.rate = rate then g else { g.refer beat with rate := rate }

/-- A generator with the phase that the copy tells of. -/
def ToneGen.withPhase (g : ToneGen) (p : TonePhase) (beat : Nat) : ToneGen :=
  { g with since := p.since, ph0 := p.ph, err0 := p.err, rate := p.rate }.phaseAt beat p.rate

/-- The address of the phase of generator 0 in the copy. -/
def tonePhaseBase : Nat := 0x12000

/-- The phase of a running generator goes with the copy, so that both sides hold the same PH (R110). DESIGN CHOICE (log 116): the
record, which R235 leaves to the firmware, is a MEM record at an address of the generators' page. `commit`: with it the settings
that the copy committed last are in force. -/
def SideState.emitPhase (s : SideState) (g : Nat) (t : ToneGen) (commit : Bool) : SideState :=
  if t.en then
    s.emit (leBytes 4 (0x8 + 12 * 0x10) ++ leBytes 4 (tonePhaseBase + 16 * g) ++ leBytes 4 t.since ++ leBytes 4 t.ph0
      ++ leBytes 4 (t.err0 + t.rate * 0x100 + commit.toNat * 0x10000))
  else s

/-- The phases of the generators at a boundary. A lead goes by its groups; another side by the rate that the copy tells (R94). -/
def SideState.tonePhases (s : SideState) : SideState :=
  let rate (g : ToneGen) : Nat := if s.leads then s.toneRate (driveGroup g.dout) else g.rate
  let changed := s.drive.tones.filter (fun (p : Nat × ToneGen) => p.2.en && p.2.rate != rate p.2)
  let s := { s with drive := { s.drive with tones := s.drive.tones.map (fun (p : Nat × ToneGen) =>
    (p.1, if p.2.en then p.2.step s.beatNo (rate p.2) else p.2)) } }
  changed.foldl (fun (s : SideState) p => s.emitPhase p.1 (Tab.getD s.drive.tones p.1 {}) false) s

/-- Changes of SCHEME or RATE come into force: the group's FIFO and timers are discarded (R99). -/
def SideState.schemesInForce (s : SideState) : SideState :=
  s.drive.schemeOld.foldl (fun s p =>
    let g := p.1
    let s := { s with drive := { s.drive with schemeOld := Tab.del s.drive.schemeOld g } }
    if bits p.2 0 4 = bits (s.groupCtrl g) 0 4 then s
    else
      let s := { s with drive := { s.drive with
        fifo := Tab.del s.drive.fifo g
        timers := s.drive.timers.filter (fun t => t.dout / 64 != g) } }
      s.set (DG_STAT.FIFO_LVL.inDriveGroup g) 0) s

/-- TIMER_ARM (R97): a write of DG_TMR_VAL arms the DO's timer for the time in DG_TMR_AT, or is refused as late. A group
without scheme T has no timers. DESIGN CHOICE (log 122): an OFFSET of 1000 to 1023, which R116 does not list, fires at the end of
its beat. -/
def execTimerArm (sd : Side) (m : Master) (group : Nat) (v : Word) (s : State) : Host.Outcome State Fault Refusal :=
  .next (s.side sd (fun x => x.live (fun x => x.regWrite (DG_TMR_VAL.VALUE.inDriveGroup group).key m (fun x =>
    let d := group * 64 + bits v.toNat 14 6
    let beat := x.get (DG_TMR_AT.BEAT.inDriveGroup group)
    let delta := (beat + 65536 - x.beatNo % 65536) % 65536
    if x.scheme group ≠ 1 ∨ !x.named d then x
    else if delta = 0 ∨ 32767 < delta then
      ((x.bump (DG_CNT.LATE.inDriveGroup group) 1).groupEvt group).raise 0x35
    else
      let t : Timer :=
        { dout := d, beat := beat, offset := max 20 (x.get (DG_TMR_AT.OFFSET.inDriveGroup group)),
          value := bits v.toNat 0 14, cal := bitAt v.toNat 20 }
      { x with drive := { x.drive with timers := x.drive.timers.filter (fun t => t.dout != d) ++ [t] } }))))

/-- Is the timer's fire time in this beat? -/
def SideState.timerDue (s : SideState) (t : Timer) : Bool := t.beat == s.beatNo % 65536

/-- TIMER_FIRE (R97): the DO's timer reaches its fire time. -/
def execTimerFire (sd : Side) (dout : Nat) (s : State) : Host.Outcome State Fault Refusal :=
  .next (s.side sd (fun x => x.live (fun x =>
    match x.drive.timers.find? (fun t => t.dout == dout && x.timerDue t) with
    | none => x
    | some t =>
      let x := { x with drive := { x.drive with timers := x.drive.timers.filter (fun t => t.dout != dout) } }
      let x := (x.atOffset (t.offset * 10)).count 91 1
      x.apply dout t.value (if t.cal then .cal else .man))))

/-- An entry of a group's FIFO of 256, or a dropped one, counted with source 0x34 (R98, R99). -/
def SideState.pushFifo (s : SideState) (group : Nat) (v : Word) : SideState :=
  let q := Tab.getD s.drive.fifo group []
  if q.length < 256 then
    ({ s with drive := { s.drive with fifo := Tab.put s.drive.fifo group (q ++ [v]) } }).set
      (DG_STAT.FIFO_LVL.inDriveGroup group) (q.length + 1)
  else ((s.bump (DG_CNT.OVF.inDriveGroup group) 1).groupEvt group).raise 0x34

/-- FIFO_WRITE (R98, R99). A group without scheme Q has no FIFO. -/
def execFifoWrite (sd : Side) (m : Master) (group : Nat) (v : Word) (s : State) : Host.Outcome State Fault Refusal :=
  .next (s.side sd (fun x => x.live (fun x => x.regWrite (DG_FIFO.ENTRY.inDriveGroup group).key m (fun x =>
    if x.scheme group ≠ 2 then x else x.pushFifo group v))))

/-- Splits a queue after its first entry with LAST; `none` without one. -/
def splitBatch : List Word → Option (List Word × List Word)
  | [] => none
  | w :: t =>
    if bitAt w.toNat 20 then some ([w], t)
    else (splitBatch t).map (fun p => (w :: p.1, p.2))

/-! ### Tone generators (R109, R110) -/

/-- Part of the quarter wave. -/
def sineQuarterA : List Nat := [
  0, 201, 402, 603, 804, 1005, 1206, 1407, 1608, 1809, 2009, 2210, 2410, 2611, 2811, 3012,
  3212, 3412, 3612, 3811, 4011, 4210, 4410, 4609, 4808, 5007, 5205, 5404, 5602, 5800, 5998, 6195,
  6393, 6590, 6786, 6983, 7179, 7375, 7571, 7767, 7962, 8157, 8351, 8545, 8739, 8933, 9126, 9319,
  9512, 9704, 9896, 10087, 10278, 10469, 10659, 10849, 11039, 11228, 11417, 11605, 11793, 11980, 12167, 12353]

/-- Part of the quarter wave. -/
def sineQuarterB : List Nat := [
  12539, 12725, 12910, 13094, 13279, 13462, 13645, 13828, 14010, 14191, 14372, 14553, 14732, 14912, 15090, 15269,
  15446, 15623, 15800, 15976, 16151, 16325, 16499, 16673, 16846, 17018, 17189, 17360, 17530, 17700, 17869, 18037,
  18204, 18371, 18537, 18703, 18868, 19032, 19195, 19357, 19519, 19680, 19841, 20000, 20159, 20317, 20475, 20631,
  20787, 20942, 21096, 21250, 21403, 21554, 21705, 21856, 22005, 22154, 22301, 22448, 22594, 22739, 22884, 23027]

/-- Part of the quarter wave. -/
def sineQuarterC : List Nat := [
  23170, 23311, 23452, 23592, 23731, 23870, 24007, 24143, 24279, 24413, 24547, 24680, 24811, 24942, 25072, 25201,
  25329, 25456, 25582, 25708, 25832, 25955, 26077, 26198, 26319, 26438, 26556, 26674, 26790, 26905, 27019, 27133,
  27245, 27356, 27466, 27575, 27683, 27790, 27896, 28001, 28105, 28208, 28310, 28411, 28510, 28609, 28706, 28803,
  28898, 28992, 29085, 29177, 29268, 29358, 29447, 29534, 29621, 29706, 29791, 29874, 29956, 30037, 30117, 30195]

/-- Part of the quarter wave. -/
def sineQuarterD : List Nat := [
  30273, 30349, 30424, 30498, 30571, 30643, 30714, 30783, 30852, 30919, 30985, 31050, 31113, 31176, 31237, 31297,
  31356, 31414, 31470, 31526, 31580, 31633, 31685, 31736, 31785, 31833, 31880, 31926, 31971, 32014, 32057, 32098,
  32137, 32176, 32213, 32250, 32285, 32318, 32351, 32382, 32412, 32441, 32469, 32495, 32521, 32545, 32567, 32589,
  32609, 32628, 32646, 32663, 32678, 32692, 32705, 32717, 32728, 32737, 32745, 32752, 32757, 32761, 32765, 32766]

/-- Part of the quarter wave. -/
def sineQuarterE : List Nat := [
  32767]

/-- S[k] = round(32,767 × sin(2πk / 1,024)): the quarter wave from the formula, extended by the sine's symmetry (R109). -/
def sineTable (k : Nat) : Int :=
  let q := sineQuarterA ++ sineQuarterB ++ sineQuarterC ++ sineQuarterD ++ sineQuarterE
  let i := k % 1024
  if i ≤ 256 then q.getD i 0
  else if i ≤ 512 then q.getD (512 - i) 0
  else if i ≤ 768 then -(q.getD (i - 512) 0 : Int)
  else -(q.getD (1024 - i) 0 : Int)

/-- One tick of a generator (R109). -/
def ToneGen.tick (g : ToneGen) : ToneGen :=
  let tone := divNearest ((g.amp : Int) * sineTable (g.ph / 2 ^ 22)) 32768
  let den := max 1 g.den
  let err := g.err + g.num
  if den ≤ err then { g with tone := tone, err := err - den, ph := (g.ph + g.ftw + 1) % 2 ^ 32 }
  else { g with tone := tone, err := err, ph := (g.ph + g.ftw) % 2 ^ 32 }

/-- QUEUE_TICK (R99, R109): the next tick of the group's sample clock in this beat, none in the edge window and no more than
RATE gives. The group applies one complete batch and its generators produce a sample. -/
def execQueueTick (sd : Side) (group : Nat) (s : State) : Host.Outcome State Fault Refusal :=
  .next (s.side sd (fun x => x.live (fun x =>
    let n := x.ticksDone group
    let per := x.ticksPerBeat group
    if x.scheme group ≠ 2 ∨ x.win = .edge ∨ per ≤ n then x
    else
      let x := { x with drive := { x.drive with ticks := Tab.put x.drive.ticks group (x.produced, n + 1) } }
      let x := x.atOffset (250 + n * 10000 / per)
      let q := Tab.getD x.drive.fifo group []
      let x := match splitBatch q with
        | some (batch, rest) =>
          let x := { x with drive := { x.drive with fifo := Tab.put x.drive.fifo group rest } }
          let x := x.set (DG_STAT.FIFO_LVL.inDriveGroup group) rest.length
          batch.foldl (fun (x : SideState) (w : Word) =>
            (x.apply (group * 64 + bits w.toNat 14 6) (bits w.toNat 0 14) (if bitAt w.toNat 21 then .cal else .man)).count 90 1) x
        | none =>
          if q.isEmpty then x
          else ((x.bump (DG_CNT.UNDER.inDriveGroup group) 1).groupEvt group).raise 0x34
      { x with drive := { x.drive with
        tones := x.drive.tones.map (fun (p : Nat × ToneGen) => if p.2.en && p.2.dout / 64 == group then (p.1, p.2.tick) else p) } })))

/-- The settings staged for a generator. -/
def SideState.stagedTone (s : SideState) (g : Nat) : ToneGen :=
  { en := s.is (DO_TG_CTRL.EN.bank g), pilot := s.is (DO_TG_CTRL.PILOT.bank g), dout := s.get (DO_TG_CTRL.DO.bank g),
    ftw := s.get (DO_TG_FTW.FTW.bank g), num := s.get (DO_TG_FRAC.NUM.bank g), den := max 1 (s.get (DO_TG_FRAC.DEN.bank g)),
    amp := s.get (DO_TG_AMP.AMP.bank g), phase0 := s.get (DO_TG_AMP.PHASE0.bank g) }

/-- Must a commit of generator `g` be refused (R109)? -/
def SideState.toneRefused (s : SideState) (g : Nat) (t : ToneGen) : Bool :=
  t.en && (!s.named t.dout || s.scheme (driveGroup t.dout) != 2
    || decide (2 ^ 29 * t.den < t.ftw * t.den + t.num) || decide (t.den ≤ t.num)
    || s.drive.tones.any (fun p => p.1 != g && p.2.en && p.2.dout == t.dout)
    || s.drive.tonePending.any (fun p => p.gen != g && p.settings.en && p.settings.dout == t.dout))

/-- The staged settings of generator `g` come into force at the next boundary, for a pilot at the next block boundary (R110). -/
def SideState.takeTone (s : SideState) (g : Nat) : SideState :=
  let t := s.stagedTone g
  let s := s.set (DO_TG_STAT.ERR.bank g) 0
  { s with drive := { s.drive with
    tonePending := s.drive.tonePending.filter (fun p => p.gen != g || p.phase.isSome) ++ [⟨g, t, t.pilot, none⟩] } }

/-- The staged settings of a generator in the copy (R247). -/
def SideState.emitStaged (s : SideState) (g : Nat) : SideState :=
  let rec1 (s : SideState) (key mask : Nat) : SideState := s.emit (recReg key (Nat.land (s.word (key + g * bankUnit)).toNat mask) mask)
  let s := s.emit (recReg 0x12040 g 0x3FF)
  rec1 (rec1 (rec1 s 0x12048 0xFFFFFFFF) 0x1204C 0xFF) 0x12050 0xFFFF0FFF

/-- Committed settings of a generator in the copy: its selector, FTW, FRAC and AMP, and the record of CTRL that commits them on
the understudy (R247), which does not judge them again. -/
def SideState.emitTone (s : SideState) (g : Nat) (t : ToneGen) : SideState :=
  let s := (s.emit (recReg 0x12040 g 0x3FF)).emit (recReg 0x12048 t.ftw 0xFFFFFFFF)
  let s := (s.emit (recReg 0x1204C (t.num + t.den * 16) 0xFF)).emit (recReg 0x12050 (t.amp + t.phase0 * 65536) 0xFFFF0FFF)
  s.emit (recReg 0x12044 (t.en.toNat + t.pilot.toNat * 2 + t.dout * 65536) 0x3FFF0003)

/-- Commits the staged settings of generator `g`, or refuses them (R109). -/
def SideState.commitTone (s : SideState) (g : Nat) : SideState :=
  let t := s.stagedTone g
  if s.toneRefused g t then ((s.set (DO_TG_STAT.ERR.bank g) 1).evt 0x12 0).raise 0x3C else (s.takeTone g).emitTone g t

/-- TONE_COMMIT (R110): a write of DO_TG_CTRL for the generator of DO_TG_SEL. DESIGN CHOICE (log 111): after a refused commit
DO_TG_CTRL reads what was written; the settings in force are the old ones. -/
def execToneCommit (sd : Side) (m : Master) (v : Word) (s : State) : Host.Outcome State Fault Refusal :=
  .next (s.side sd (fun x => x.live (fun x => x.regWrite 0x12044 m (fun x =>
    let g := x.get DO_TG_SEL.GEN
    let x := x.set (DO_TG_CTRL.EN.bank g) v.toNat
    let x := (x.set (DO_TG_CTRL.PILOT.bank g) (bits v.toNat 1 1)).set (DO_TG_CTRL.DO.bank g) (bits v.toNat 16 14)
    x.commitTone g))))

/-- Settings that come into force at this boundary, and the reload of pilots at a block boundary (R110). -/
def SideState.tonesAtBoundary (s : SideState) : SideState :=
  let block := s.beatNo % 2560 == 0
  let ready (p : TonePending) : Bool := !p.blockOnly || block || p.phase.isSome
  let due := s.drive.tonePending.filter ready
  let s := { s with drive := { s.drive with tonePending := s.drive.tonePending.filter (fun p => !ready p) } }
  let s := due.foldl (fun s p =>
    let old := Tab.getD s.drive.tones p.gen {}
    let g := p.settings
    let runs := old.en && g.en && old.dout == g.dout
    let g := if runs then { g with ph := old.ph, err := old.err, tone := old.tone }
      else { g with ph := g.phase0 * 65536, err := 0 }
    let g := { g.refer s.beatNo with rate := if runs && !s.leads then old.rate else s.toneRate (driveGroup g.dout) }
    let g := match p.phase with
      | some h => g.withPhase h s.beatNo
      | none => g
    let s := { s with drive := { s.drive with tones := Tab.put s.drive.tones p.gen g } }
    (s.setB (DO_TG_STAT.ACTIVE.bank p.gen) g.en).emitPhase p.gen g true) s
  if block then
    { s with drive := { s.drive with
      tones := s.drive.tones.map (fun p => if p.2.en && p.2.pilot then (p.1, { p.2 with ph := p.2.phase0 * 65536, err := 0 }.refer s.beatNo) else p) } }
  else s

/-! ### Park table (R100 to R102) -/

/-- The output attenuators of the rig map: output and DO. -/
def SideState.outAttenuators (s : SideState) : List (Nat × Nat) :=
  (List.range s.ports).filterMap (fun q =>
    if s.tis PT.ATT_PRESENT (s.ports + q) then some (q, s.t PT.ATT_DO (s.ports + q)) else none)

/-- The 40,980 bytes of the park table in the element-table memory. -/
def SideState.parkBytes (s : SideState) : List Byte := s.rdBytes parkBase 40980

/-- A park table's entries by DO. -/
def parkEntries (b : List Byte) : List (Nat × Word) :=
  (List.range 10240).map (fun n => (n, BitVec.ofNat 32 (leNat (slice (b.drop 16) (4 * n) 4))))

/-- Is a park table sound: its CRC correct (R101)? -/
def parkCrcOk (b : List Byte) : Bool := leNat (slice b 40976 4) == crc32c (b.take 40976)

/-- Why a commit of the park table is rejected, 0 for none (R102). DESIGN CHOICE (log 110): of several reasons the one that the
rule names first shows; the park value of an output attenuator that is off is taken in voltage mode. -/
def SideState.parkReject (s : SideState) (bothOpen : Bool) : Nat :=
  let b := s.parkBytes
  if !parkCrcOk b then 1
  else if leNat (slice b 0 4) ≠ s.get RG_IMG_CRC.CRC then 2
  else if s.outAttenuators.any (fun p =>
      (if s.mode p.2 = 2 then s.t PK.I_PARK p.2 else s.t PK.V_PARK p.2) != s.t PT.DARK (s.ports + p.1)) then 3
  else if !bothOpen then 4
  else if s.recordBusy .park || s.drive.parkPending then 5
  else 0

/-- Do both NVM dies lie in the write window, as far as the peer is present (R64, R102, R292)? -/
def State.bothNvmOpen (s : State) (sd : Side) : Bool :=
  (s.on sd).nvmOpen && (!(s.on sd.peer).alive || (s.on sd.peer).nvmOpen)

/-- PARK_COMMIT (R102): on the lead, a completed pair with GO checks the table and starts its record. -/
def execParkCommit (sd : Side) (m : Master) (w : PairWrite) (s : State) : Host.Outcome State Fault Refusal :=
  .next (s.side sd (fun x => x.live (fun x => x.onPair 0x11040 m w (fun v x =>
    if v.toNat % 2 = 0 ∨ !x.leads then x
    else
      let r := x.parkReject (s.bothNvmOpen sd)
      if r ≠ 0 then (x.set DO_PARK_STAT.RESULT 3).set DO_PARK_STAT.REASON r
      else
        let x := (x.set DO_PARK_STAT.RESULT 1).set DO_PARK_STAT.REASON 0
        x.startRecord ⟨.park, x.parkBytes, 0, false, false⟩ true))))

/-- A committed park table comes into force at the boundary after its writes (R102): unowned DO follow it. -/
def SideState.parkInForce (s : SideState) : SideState :=
  if !s.drive.parkPending then s
  else
    let entries := parkEntries ((s.record RecordKind.park.area).getD [])
    let s := { s with drive := { s.drive with parkInForce := entries, parkValid := true, parkPending := false } }
    let s := (s.set DO_PARK_STAT.RESULT 2).evt 0x11 0
    (List.range 10240).foldl (fun s d => if s.named d && s.own d == .none then s.writeBase d (s.parkValue d) else s) s

/-! ### Changing mode (R103) -/

/-- The cell or port element of a DO carries light in the active scene or in a cue in flight. -/
def SideState.elementUsed (s : SideState) (d : Nat) : Bool :=
  let k := s.t DT.KIND d
  if k = 1 ∨ k = 2 then s.cellUsed (s.t DT.ELEM d)
  else if k = 3 ∨ k = 4 then s.portUsed (s.t DT.ELEM d)
  else false

/-- The hold loop of a DO's element, if it has one: word 3 of the DO, or for an E DO that of the cell's T DO (R139). -/
def SideState.loopOf (s : SideState) (d : Nat) : Option Nat :=
  let own (d : Nat) : Option Nat := if s.t DT.LOOP d = 0xFFFF then none else some (s.t DT.LOOP d)
  if !s.named d then none
  else if s.t DT.KIND d = 2 then
    (if s.tis CT.T_PRESENT (s.t DT.ELEM d) then own (s.t CT.T_DO (s.t DT.ELEM d)) else none)
  else own d

/-- RANGE_CHANGE (R103): a write of DO_RANGE_REQ; with GO it starts the sequence or is refused. DESIGN CHOICE (log 110): of
several reasons the one that the rule names first shows. -/
def execRangeChange (sd : Side) (m : Master) (v : Word) (s : State) : Host.Outcome State Fault Refusal :=
  .next (s.side sd (fun x => x.live (fun x => x.regWrite 0x11050 m (fun x =>
    let d := bits v.toNat 0 14
    let x := (x.set DO_RANGE_REQ.DO d).set DO_RANGE_REQ.MODE (bits v.toNat 16 2)
    if !bitAt v.toNat 31 then x
    else
      let x := x.set DO_RANGE_STAT.DO d
      let refuse (r : Nat) : SideState := ((x.set DO_RANGE_STAT.RESULT 3).set DO_RANGE_STAT.REASON r).evt 0x11 2
      let looped := match x.loopOf d with
        | some l => x.tis LT.EN l
        | none => false
      if looped then refuse 1
      else if x.elementUsed d then refuse 2
      else if !x.named d then refuse 3
      else if (x.toneOn d).isSome then refuse 4
      else if x.drive.range.isSome then refuse 5
      else
        let x := ((x.set DO_RANGE_STAT.RESULT 1).set DO_RANGE_STAT.REASON 0).set DO_RANGE_STAT.STEP 0
        let start := if x.beforeCutoff then x.produced else x.produced + 1
        { x with drive := { x.drive with range := some ⟨d, bits v.toNat 16 2, (x.current d).getD 0, start⟩ } }))))

/-- One boundary of a running change of mode (R103). The DO keeps its owner, whose values it does not take, until the end. -/
def SideState.rangeStep (s : SideState) : SideState :=
  match s.drive.range with
  | none => s
  | some r =>
    let n := s.produced - r.start
    let finish (s : SideState) : SideState :=
      let s := { s with drive := { s.drive with range := none } }
      let s := ((s.set DO_RANGE_STAT.RESULT 2).set DO_RANGE_STAT.REASON 0).evt 0x11 1
      let s := (s.tset DT.MODE r.dout r.mode).emitMem (DT.MODE.addr r.dout) 4
      let s := { s with drive := { s.drive with own := Tab.put s.drive.own r.dout .none } }
      let s := s.emit (recOwn r.dout .none 1 r.mode)
      s.writeBase r.dout (s.parkValue r.dout)
    if n = 0 then s
    else
      let s := s.set DO_RANGE_STAT.STEP n
      if n ≤ 8 then s.writeBase r.dout (rangeValue r.value n)
      else if n = 9 ∧ r.mode ≠ 0 ∧ r.mode ≠ 3 then s
      else finish s

/-! ### Compliance and heater supplies (R104 to R108) -/

/-- VOUT of a domain, held within its limits (R107). -/
def SideState.hsupClamp (s : SideState) (v : Nat) : Nat :=
  clampNat (max 1200 (s.get DO_HR_LIM.MIN)) (min 5500 (s.get DO_HR_LIM.MAX)) v

/-- COMPLIANCE_LOSS (R104, R107): the sticky bit of the DO and its source; a tracked domain steps up 50 mV, at most once per
10 beats, unless its regulator does not answer (R108). The voltage of a regulator that has not been read is a free value. -/
def execComplianceLoss (sd : Side) (dout : Nat) (s : State) : Host.Outcome State Fault Refusal :=
  .next (s.side sd (fun x => x.live (fun x =>
    if !x.drives || x.mode dout == 0 then x
    else
      let g := driveGroup dout
      let i := dout % 64
      let reg := if i < 32 then DG_COMP_LO.COMP else DG_COMP_HI.COMP
      let x := x.set { reg.inDriveGroup g with lo := i % 32, w := 1 } 1
      let x := ((x.set (DG_STAT.COMP.inDriveGroup g) 1).groupEvt g).count 92 1
      let x := x.raise (if x.mode dout = 2 then 0x30 else 0x31)
      let dom := x.t DT.HSUP dout
      let recent := match Tab.get? x.drive.hsupStepAt dom with
        | some b => Nat.blt x.produced (b + 10)
        | none => false
      if x.mode dout = 2 && bitAt (x.get DO_HR_CTRL.EN) dom && x.leads && !recent && !x.is (DO_HR_STAT.PMB_ERR.nth dom) then
        let f := DO_HR_STAT.VOUT.nth dom
        let v := if x.drive.hsupRead.contains dom then (x, x.get f) else x.fresh 13
        let x := (v.1.set f (v.1.hsupClamp (v.2 + 50))).count 94 1
        { x with drive := { x.drive with hsupStepAt := Tab.put x.drive.hsupStepAt dom x.produced } }
      else x)))

/-- One heater-resistance reading in 0.1 Ω: V_pin as a sense code of 6.0 V / 1,024, V_HSUP in mV, and the commanded current
at code c, with the pull-down's share (R91, R106). Voltages are in units of µV / 1,024, currents of nA / 16,384. -/
def heaterReading (code vpin vhsup : Nat) : Nat :=
  let dv : Int := (vhsup * 1000 * 1024 : Int) - vpin * 6000000
  let i : Nat := code * 20000000 + vpin * 6000000 * 16384 / 1024 / 100
  if dv ≤ 0 ∨ i = 0 then 0 else (dv * 16384 * 10000).toNat / (i * 1024)

/-- The mean of 16 readings of one DO, in 0.1 Ω: each with the code the DO was commanded at it. -/
def SideState.heaterMean (s : SideState) (d : Nat) (readings : List (Nat × Nat)) : Nat :=
  ((Tab.getD s.drive.pinCodes d []).zipWith (fun c p => heaterReading c p.1 p.2) readings).foldl (fun a b => a + b) 0 / 16

/-- Is a resistance outside 0.5 to 1.5 times LOAD_NOM (R106)? -/
def SideState.heaterBad (s : SideState) (d r : Nat) : Bool :=
  decide (2 * r < s.t DT.LOAD_NOM d) || decide (3 * s.t DT.LOAD_NOM d < 2 * r)

/-- Is a commanded current at least 1 mA (R106)? -/
def heaterCode (c : Nat) : Bool := decide (16384 ≤ c * 20)

/-- Is the commanded current at least 1 mA now? -/
def SideState.heaterCurrentOk (s : SideState) (d : Nat) : Bool := s.mode d == 2 && heaterCode ((s.current d).getD 0)

/-- Have the last 16 readings of a current-mode DO all been made: its current was at least 1 mA at each? -/
def SideState.heaterRead (s : SideState) (d : Nat) : Bool :=
  let l := Tab.getD s.drive.pinCodes d []
  s.mode d == 2 && l.length == 16 && l.all heaterCode

/-- The pin-voltage converters read one DO of each group in a beat (R91, R106). DESIGN CHOICE (log 111): index i in beats with
BEATNO mod 64 = i. A running measurement whose DO is commanded less than 1 mA shows LOWI. -/
def SideState.scanPins (s : SideState) : SideState :=
  let now := s.drive.base.filter (fun (p : Nat × Nat) => p.1 % 64 == s.beatNo % 64 && s.mode p.1 == 2)
  now.foldl (fun (s : SideState) p =>
    let c := (s.current p.1).getD 0
    let s := { s with drive := { s.drive with
      pinCodes := Tab.put s.drive.pinCodes p.1 (lastN 16 (Tab.getD s.drive.pinCodes p.1 [] ++ [c])) } }
    match s.drive.rmeas with
    | some (d, _) => if d = p.1 ∧ !heaterCode c then s.set DO_RMEAS.LOWI 1 else s
    | none => s) s

/-- RMEAS_START (R106): a write of DO_RMEAS_SEL; with GO it starts a measurement, or sets LOWI below 1 mA. -/
def execRmeasStart (sd : Side) (m : Master) (v : Word) (s : State) : Host.Outcome State Fault Refusal :=
  .next (s.side sd (fun x => x.live (fun x => x.regWrite 0x13070 m (fun x =>
    let d := bits v.toNat 0 14
    let x := x.set DO_RMEAS_SEL.DO d
    if !bitAt v.toNat 31 then x
    else
      let x := (x.set DO_RMEAS.VALID 0).set DO_RMEAS.LOWI 0
      if x.heaterCurrentOk d then
        { x.set DO_RMEAS.BUSY 1 with drive := { x.drive with rmeas := some (d, x.produced) } }
      else
        { (x.set DO_RMEAS.LOWI 1).set DO_RMEAS.BUSY 0 with drive := { x.drive with rmeas := none } }))))

/-- RMEAS_DONE (R106): 1,024 beats after its start the measurement ends with the mean of its 16 readings, pairs of V_pin code
and V_HSUP in mV, the oldest first. -/
def execRmeasDone (sd : Side) (readings : List (Nat × Nat)) (s : State) : Host.Outcome State Fault Refusal :=
  .next (s.side sd (fun x => x.live (fun x =>
    match x.drive.rmeas with
    | none => x
    | some (d, start) =>
      if x.produced < start + 1024 then x
      else
        let x := { x with drive := { x.drive with rmeas := none } }
        let x := (x.set DO_RMEAS.BUSY 0).evt 0x13 2
        if readings.length ≠ 16 ∨ !x.heaterRead d then x.set DO_RMEAS.LOWI 1
        else
          let r := x.heaterMean d readings
          let x := (x.set DO_RMEAS.R (min r 65535)).set DO_RMEAS.VALID 1
          x.raiseIf (x.heaterBad d r) 0x3A)))

/-- HEATER_BACKGROUND_READING (R106): the stage manager's own measurement of a current-mode DO. -/
def execHeaterBackgroundReading (sd : Side) (dout : Nat) (readings : List (Nat × Nat)) (s : State) :
    Host.Outcome State Fault Refusal :=
  .next (s.side sd (fun x =>
    if !x.managed || readings.length != 16 || !x.heaterRead dout then x
    else
      let r := x.heaterMean dout readings
      let l := Tab.put x.cal.heaterReadings dout (Tab.getD x.cal.heaterReadings dout [] ++ [r])
      let x := { x with cal := { x.cal with heaterReadings := l } }
      x.raiseIf (x.heaterBad dout r) 0x3A))

/-- The sum of the current-mode values, in codes of 20 mA / 16,384 (R105). -/
def SideState.isum (s : SideState) : Nat :=
  s.drive.base.foldl (fun a p => if s.mode p.1 = 2 then a + (s.current p.1).getD 0 else a) 0

/-- ISUM_CHECK at a boundary (R105). -/
def SideState.isumCheck (s : SideState) : SideState :=
  let n := s.isum * 20
  let s := s.set DO_ISUM.SUM (n / 16384)
  if s.is DO_STAT.STAGE_EN && decide (min 10000 (s.get DO_ISUM_LIM.LIM) * 16384 < n) then (s.evt 0x10 1).raise 0x33 else s

end Sys2Proof.Machine
end

