-- ==== Sys2Proof/Machine/Monitor.lean ====
section
/-! DEFINITION. The monitor inputs (R117 to R137): conversion slots, the sample word and its correction, autorange, the slot
maps and the cross-check between paired converters. -/

namespace Sys2Proof.Machine

/-! ### Channels -/

/-- A monitor channel. -/
def SideState.chan (s : SideState) (mi : Nat) : Channel := Tab.getD s.mon.channels mi {}

/-- Changes a monitor channel. -/
def SideState.setChan (s : SideState) (mi : Nat) (f : Channel → Channel) : SideState :=
  { s with mon := { s.mon with channels := Tab.put s.mon.channels mi (f (s.chan mi)) } }

/-- Does the rig map name the MI (R57)? -/
def SideState.miNamed (s : SideState) (mi : Nat) : Bool := s.rigged && Nat.blt mi 6144 && s.tis MT.KIND mi

/-- VALID of a sample word, 0 for a measurement (R124). -/
def sampleValid (w : Nat) : Nat := bits w 12 2

/-- RANGE of a sample word. -/
def sampleRange (w : Nat) : Nat := bits w 14 2

/-- CODE of a sample word. -/
def sampleCode (w : Nat) : Nat := bits w 0 12

/-- A sample word (R124). -/
def sampleWord (range valid code : Nat) : Nat := range * 0x4000 + valid * 0x1000 + code % 0x1000

/-- A sample word whose conversion counts no more: VALID "no conversion". -/
def noSample (w : Nat) : Nat := sampleWord (sampleRange w) 3 (sampleCode w)

/-- The normalised value of a sample word, in units of 244.14 pA (R130). -/
def sampleNV (w : Nat) : Nat := sampleCode w * 10 ^ (3 - sampleRange w)

/-- The readable sample word of an MI; no conversion where there is none (R123, R125). -/
def SideState.sample (s : SideState) (mi : Nat) : Nat := Tab.getD s.mon.readable mi (sampleWord (s.chan mi).range 3 0)

/-- The slot map in force of a monitor group; the reset map places channel i at position i (R122). -/
def SideState.slotMap (s : SideState) (g : Nat) : List Nat := Tab.getD s.mon.maps g (List.range 64)

/-- The flag of a monitor group on its page, EVT_RAW[m mod 16]. -/
def SideState.monEvt (s : SideState) (g : Nat) : SideState := s.evt (0x2A + g % 96 / 16) (g % 16)

/-- One more in a count of MG_CNT, with the flag of its group where it rises (R137). DESIGN CHOICE (log 138): all its counts
saturate, as XFAIL does; a count at 255 rises no more. -/
def SideState.monCount (s : SideState) (f : Fld) (g : Nat) : SideState :=
  if s.get (f.inMonGroup g) = 255 then s else (s.bump (f.inMonGroup g) 1).monEvt g

/-- An error bit of MG_STAT takes its value, with the flag of its group where it rises (R137). -/
def SideState.monError (s : SideState) (f : Fld) (g : Nat) (bad : Bool) : SideState :=
  let t := s.setB (f.inMonGroup g) bad
  if bad && !s.is (f.inMonGroup g) then t.monEvt g else t

/-- A change makes the next `n` samples of a channel settling (R126). -/
def Channel.settling (n : Nat) (c : Channel) : Channel := { c with settle := max c.settle n }

/-- A range takes effect at a boundary (R126, R127). -/
def Channel.toRange (r now : Nat) (c : Channel) : Channel :=
  if c.range = r then c else { Channel.settling 2 c with range := r, rangeAt := some now }

/-- Every named MI takes RANGE_INIT and BW_INIT when the rig map in force is expanded (R119). -/
def SideState.initChannels (s : SideState) : SideState :=
  let chans := (List.range 6144).filterMap (fun mi =>
    if s.tis MT.KIND mi then some (mi, ({ range := s.t MT.RANGE_INIT mi, wide := s.tis MT.BW_INIT mi } : Channel)) else none)
  { s with mon := { s.mon with channels := chans } }

/-- The code of the monitor-bias pads, if the side drives them: with its front ends connected, and from the wake boundary of a
lead on (R117, R330). -/
def SideState.biasPad (s : SideState) : Option Nat :=
  if s.is MI_STAT.FE_CONN || (s.leads && !s.is TW_ROLE.FENCED && s.get TH_INT_STAT.STATE == 2) then some s.mon.biasInForce else none

/-- The front ends connect: the three samples of every named channel from this boundary on are settling, the one it has had in
this beat among them (R126, R239). -/
def SideState.connectFrontEnds (s : SideState) : SideState :=
  if s.is MI_STAT.FE_CONN then s
  else
    let had := s.mon.bankAt == some s.produced
    let chans := s.mon.channels.map (fun (p : Nat × Channel) =>
      if s.miNamed p.1 then (p.1, Channel.settling (if had && p.2.own.isSome then 2 else 3) p.2) else p)
    { s.set MI_STAT.FE_CONN 1 with mon := { s.mon with channels := chans } }

/-- The converters run, or stop (R137). -/
def SideState.runConverters (s : SideState) (on : Bool) : SideState :=
  (List.range 96).foldl (fun s g => s.setB (MG_STAT.RUN.inMonGroup g) on) (s.setB MI_STAT.CONV_RUN on)

/-! ### Slots (R120, R121) -/

/-- The primary position of a slot; `none` for a service slot. -/
def primaryPosition (slot : Nat) : Option Nat := if slot % 5 = 4 then none else some (slot / 5 * 4 + slot % 5)

/-- The converter zero in use, in 1/16 code (R131). -/
def SideState.zeroOf (s : SideState) (conv : Nat) : Int := signed (s.get (MG_ZERO.ZERO.inMonGroup conv)) 16

/-- The corrected code before it is held in range, from a raw code (R129). -/
def SideState.corrected (s : SideState) (conv mi raw : Nat) : Int :=
  (((raw : Int) * 16 - s.zeroOf conv + signed (s.t MT.OFFSET mi) 16) * s.t MT.GAIN mi + 262144) / 524288

/-- The sample word a conversion of a channel gives, by the order of R125. The code of a conversion without result is open. -/
def SideState.convert (s : SideState) (conv mi : Nat) (raw : Option Nat) (overload : Bool) : SideState × Nat :=
  let c := s.chan mi
  match raw with
  | none =>
    let f := s.fresh 12
    (f.1, sampleWord c.range 3 f.2)
  | some r =>
    let s := s.scrubWords [MT.GAIN.addr mi]
    let v := s.corrected conv mi r
    let code := (clampInt 0 4095 v).toNat
    let valid :=
      if !s.miNamed mi || !s.is MI_STAT.FE_CONN || !s.is MI_STAT.CONV_RUN then 3
      else if c.settle ≠ 0 then 1
      else if 4080 ≤ r ∨ overload ∨ 4095 < v then 2
      else 0
    (s, sampleWord c.range valid code)

/-- Is the channel free to make an autorange step at the next boundary: outside the hold-off (R127)? -/
def SideState.autorangeFree (s : SideState) (c : Channel) : Bool :=
  match c.rangeAt with
  | none => true
  | some b => Nat.ble (b + max 2 (s.get MI_AR.HOLDOFF)) (s.produced + 1)

/-- A clipped sample (R127, R128). -/
def SideState.clipped (s : SideState) (mi : Nat) : SideState :=
  let g := mi / 64
  let c := s.chan mi
  let auto := s.tis MT.AUTORANGE mi
  let s := (s.monCount MG_CNT.CLIP g).count 98 1
  let step := if auto && c.range != 0 && s.autorangeFree c then some (c.range - 1) else c.step
  let s := s.setChan mi (fun (c : Channel) => { c with lowRun := 0, step := step })
  let s := if c.range = 0 then (s.evt 0x14 0).raise 0x40 else s
  s.raiseIf (!auto) 0x41

/-- What autorange makes of a valid sample (R127). DESIGN CHOICE (log 138): samples taken while AUTORANGE is 0 count toward DN_COUNT. -/
def SideState.stepIn (s : SideState) (mi code : Nat) : SideState :=
  let c := s.chan mi
  if min 380 (s.get MI_AR.DN_CODE) < code then s.setChan mi (fun (c : Channel) => { c with lowRun := 0 })
  else
    let run := c.lowRun + 1
    let go := s.tis MT.AUTORANGE mi && Nat.blt c.range 3 && Nat.ble (max 1 (s.get MI_AR.DN_COUNT)) run && s.autorangeFree c
    s.setChan mi (fun (c : Channel) => { c with lowRun := run, step := if go then some (c.range + 1) else c.step })

/-- The compare result of a cross-check whose samples agree or not (R132), and what the block takes it for. Armed, point 0x09 inverts it: one
that is truly good is injected, and one that truly fails passes undetected, source 0xF8 (R310, R311). -/
def SideState.compareResult (s : SideState) (ok : Bool) : SideState × Bool :=
  match s.armedAt 0x09 with
  | some i => if ok then (s.checkAt 0x09 true, true) else ((s.consumeInjection i).raise 0xF8, true)
  | none => (s.checkAt 0x09 ok, ok)

/-- The cross-check of a channel, once both its samples of the beat are there (R132, R133). -/
def SideState.crossCheck (s : SideState) (mi : Nat) : SideState :=
  let c := s.chan mi
  match c.own, c.cross with
  | some o, some x =>
    let s := s.setChan mi (fun (c : Channel) => { c with cross := none })
    let dist (a b : Nat) : Nat := ((sampleCode a : Int) - sampleCode b).natAbs
    let run := s.is MI_XCHK_CTRL.EN && sampleValid x == 0 && sampleValid o == 0 && sampleValid c.prev == 0
      && sampleRange x == sampleRange o && sampleRange o == sampleRange c.prev
      && decide (dist o c.prev ≤ s.get MI_XCHK_CTRL.STEADY)
    if !run then s.bump MI_XCHK_SKIP.SKIP 1
    else
      let s := (s.bump MI_XCHK_RUN.RUN 1).count 100 1
      let c := s.compareResult (decide (dist x o ≤ s.get MI_XCHK_CTRL.TOL))
      let s := c.1
      let pass := c.2
      if pass then s.setChan mi (fun (c : Channel) => { c with failRun := 0 })
      else
        let g := mi / 64
        let s := (((s.evt 0x15 2).monCount MG_CNT.XFAIL g).bump MI_XCHK_FAIL.FAIL 1).count 101 1
        let s := (s.set MI_XCHK_STAT.LAST_MI mi).set MI_XCHK_STAT.LAST_VALID 1
        let s := s.setChan mi (fun (c : Channel) => { c with failRun := c.failRun + 1 })
        let i := mi % 64
        let bit : Fld := { (if i < 32 then MG_SUSPECT_LO.SUSPECT else MG_SUSPECT_HI.SUSPECT).inMonGroup g with lo := i % 32, w := 1 }
        if max 1 (s.get MI_XCHK_CTRL.SUSPECT_N) ≤ (s.chan mi).failRun ∧ !s.is bit then
          ((((s.set bit 1).set (MG_STAT.SUSPECT.inMonGroup g) 1).monEvt g).evt 0x15 3).raise 0x45
        else s
  | _, _ => s

/-- The sample of a primary slot (R121, R125 to R128). DESIGN CHOICE (log 121): a slot without a result uses up no settling
sample. -/
def SideState.primarySlot (s : SideState) (conv mi : Nat) (raw : Option Nat) (overload : Bool) : SideState :=
  let r := s.convert conv mi raw overload
  let s := r.1
  let w := r.2
  let s := { s with mon := { s.mon with filling := Tab.put s.mon.filling mi w, last := Tab.put s.mon.last mi w } }
  let s := if raw.isSome then s.count 96 1 else s
  let s := if raw.isNone && s.is MI_STAT.CONV_RUN then
      (s.monCount MG_CNT.MISSED conv).raise 0x47
    else s
  let s := match sampleValid w with
    | 0 => s.stepIn mi (sampleCode w)
    | 1 => (s.setChan mi (fun (c : Channel) => { c with settle := c.settle - 1, lowRun := 0 })).count 97 1
    | 2 => s.clipped mi
    | _ => s.setChan mi (fun (c : Channel) => { c with lowRun := 0 })
  (s.setChan mi (fun (c : Channel) => { c with own := some w })).crossCheck mi

/-- The mean of a list of integers, rounded toward zero; 0 for an empty one. -/
def meanInt (l : List Int) : Int := if l.isEmpty then 0 else divTrunc (l.foldl (fun a b => a + b) 0) l.length

/-- A reference conversion (R131): MG_REF is the mean of the last 16, after ZERO. DESIGN CHOICE (log 138): before the sixteenth MG_REF and
REF_ERR stay as they are. -/
def SideState.referenceSlot (s : SideState) (conv raw : Nat) : SideState :=
  let l := lastN 16 (Tab.getD s.mon.refs conv [] ++ [(raw : Int) * 16 - s.zeroOf conv])
  let s := { s with mon := { s.mon with refs := Tab.put s.mon.refs conv l } }
  if l.length < 16 then s
  else
    let sum := l.foldl (fun a b => a + b) 0
    let bad := decide (8 * 256 < (sum - 3072 * 256).natAbs)
    let s := s.set (MG_REF.REF.inMonGroup conv) (clampInt 0 4095 (divTrunc sum 256)).toNat
    (s.monError MG_STAT.REF_ERR conv bad).raiseIf bad 0x43

/-- A service slot (R121, R131, R132): `n` is 0 to 15. DESIGN CHOICE (logs 120, 138): a dark conversion gives an unsigned code,
and the housekeeping registers show the code as it comes. -/
def SideState.serviceSlot (s : SideState) (conv n : Nat) (raw : Option Nat) (overload : Bool) : SideState :=
  if n % 4 = 0 then
    let mi := (if conv % 2 = 0 then conv + 1 else conv - 1) * 64 + 4 * (s.beatNo % 16) + n / 4
    if !s.miNamed mi then s.bump MI_XCHK_SKIP.SKIP 1
    else
      let r := s.convert conv mi raw overload
      (r.1.setChan mi (fun (c : Channel) => { c with cross := some r.2 })).crossCheck mi
  else
    match raw with
    | none => s
    | some v =>
      if n % 4 = 1 then
        { s with mon := { s.mon with dark := Tab.put s.mon.dark conv (lastN 256 (Tab.getD s.mon.dark conv [] ++ [(v : Int) * 16])) } }
      else if n % 4 = 2 then s.referenceSlot conv v
      else
        let f := if n = 3 then MG_HK0.BIAS else if n = 7 then MG_HK0.SUPPLY else if n = 11 then MG_HK1.TEMP else MG_HK1.GND
        s.set (f.inMonGroup conv) v

/-- SLOT_END (R120): the conversion of slot `slot` of converter `conv` ends. With the converters off only the sample word
"no conversion" results (R125). -/
def execSlotEnd (sd : Side) (conv slot : Nat) (raw : Option Nat) (overload : Bool) (s : State) :
    Host.Outcome State Fault Refusal :=
  .next (s.side sd (fun x => x.live (fun x =>
    if 96 ≤ conv ∨ 80 ≤ slot then x
    else
      let x := x.atOffset ((slot + 1) * 125)
      let raw := if x.is MI_STAT.CONV_RUN then raw.map (fun r => r % 4096) else none
      match primaryPosition slot with
      | some p => x.primarySlot conv (conv * 64 + (x.slotMap conv).getD p 0) raw overload
      | none => if x.is MI_STAT.CONV_RUN then x.serviceSlot conv (slot / 5) raw overload else x)))

/-- BANK_SWITCH (R123): the samples of the beat before become readable, 0.1 µs into the beat, once in it. -/
def execBankSwitch (sd : Side) (s : State) : Host.Outcome State Fault Refusal :=
  .next (s.side sd (fun x => x.live (fun x =>
    if x.win ≠ .edge ∨ x.mon.bankAt = some x.produced then x
    else
      let x := x.atOffset 100
      let chans := x.mon.channels.map (fun (p : Nat × Channel) =>
        (p.1, { p.2 with prev := p.2.own.getD 0x3000, own := none, cross := none }))
      { x with mon := { x.mon with readable := x.mon.filling, filling := [], channels := chans, bankAt := some x.produced } })))

/-! ### Slot maps and channel settings -/

/-- The staged slot map. -/
def SideState.stagedMap (s : SideState) : List Nat :=
  (List.range 64).map (fun p => s.get { MI_SMAP.CH0.nth (p / 4) with lo := p % 4 * 8 })

/-- SLOT_MAP_SELECT (R122, R136): loads the group's map in force into the staging registers; groups 96 to 127 read 0. -/
def execSlotMapSelect (sd : Side) (m : Master) (v : Word) (s : State) : Host.Outcome State Fault Refusal :=
  .next (s.side sd (fun x => x.live (fun x => x.regWrite 0x15040 m (fun x =>
    let g := bits v.toNat 0 7
    let map := if g < 96 then x.slotMap g else []
    (List.range 64).foldl (fun x p => x.set { MI_SMAP.CH0.nth (p / 4) with lo := p % 4 * 8 } (map.getD p 0)) (x.set MI_SMAP_SEL.GROUP g)))))

/-- Is the list a permutation of 0 to 63? -/
def isSlotMap (l : List Nat) : Bool := decide (sortNat l = List.range 64)

/-- SLOT_MAP_COMMIT (R122). -/
def execSlotMapCommit (sd : Side) (m : Master) (v : Word) (s : State) : Host.Outcome State Fault Refusal :=
  .next (s.side sd (fun x => x.live (fun x => x.regWrite 0x150C0 m (fun x =>
    if v.toNat % 2 = 0 then x
    else
      let g := x.get MI_SMAP_SEL.GROUP
      let x := x.set MI_SMAP_STAT.GROUP g
      if 96 ≤ g ∨ !isSlotMap x.stagedMap then ((x.set MI_SMAP_STAT.RESULT 3).evt 0x15 1).raise 0x46
      else
        let due := if x.beforeCutoff then x.produced + 1 else x.produced + 2
        let rest := x.mon.mapPending.filter (fun p => p.group != g)
        { x.set MI_SMAP_STAT.RESULT 1 with mon := { x.mon with mapPending := rest ++ [⟨g, x.stagedMap, due⟩] } }))))

/-- CHANNEL_SET (R126, R135): a write of MI_CH_SET with GO; ignored for an MI the rig map does not name. -/
def execChannelSet (sd : Side) (m : Master) (v : Word) (s : State) : Host.Outcome State Fault Refusal :=
  .next (s.side sd (fun x => x.live (fun x => x.regWrite 0x14054 m (fun x =>
    let mi := x.get MI_CH_SEL.MI
    if !bitAt v.toNat 31 || !x.miNamed mi then x
    else
      let due := if x.beforeCutoff then x.produced + 1 else x.produced + 2
      let rest := x.mon.setPending.filter (fun p => !(p.mi == mi && p.due == due))
      { x with mon := { x.mon with setPending := rest ++ [⟨mi, bits v.toNat 0 2, bitAt v.toNat 2, due⟩] } }))))

/-! ### What takes effect at a boundary -/

/-- A slot map comes into force: every channel of the converter settles once (R126). -/
def SideState.mapInForce (s : SideState) (p : SlotMapPending) : SideState :=
  let s := { s with mon := { s.mon with maps := Tab.put s.mon.maps p.group p.map } }
  let s := (List.range 64).foldl (fun (s : SideState) i => s.setChan (p.group * 64 + i) (Channel.settling 1)) s
  let s := s.evt 0x15 0
  if s.get MI_SMAP_STAT.GROUP = p.group ∧ s.get MI_SMAP_STAT.RESULT = 1 then s.set MI_SMAP_STAT.RESULT 2 else s

/-- A channel setting comes into force; it wins over an autorange step (R126, R127). DESIGN CHOICE (log 121): it starts the
hold-off also where it leaves the range as it was. -/
def SideState.settingInForce (s : SideState) (p : ChannelPending) : SideState :=
  (s.setChan p.mi (fun (c : Channel) =>
    let c := if c.wide = p.wide then c else { Channel.settling 3 c with wide := p.wide }
    { Channel.toRange p.range s.produced c with step := none, rangeAt := some s.produced })).evt 0x14 2

/-- An autorange step takes effect (R127). -/
def SideState.stepInForce (s : SideState) (mi r : Nat) : SideState :=
  let out := decide (r < (s.chan mi).range)
  let s := s.setChan mi (fun (c : Channel) => { Channel.toRange r s.produced c with step := none })
  let s := (s.evt 0x14 1).count 99 1
  if out then (s.bump MI_AR_CNT.OUT 1).monCount MG_CNT.AR_OUT (mi / 64)
  else s.bump MI_AR_CNT.IN 1

/-- The mean of the dark conversions becomes the ZERO of its converter, unless it is out of range (R131). DESIGN CHOICE (log 120):
of fewer than 256 dark conversions the mean is that of those there are, none leave ZERO as it is, and MG_ZERO shows the ZERO in
use. -/
def SideState.newZero (s : SideState) (g : Nat) : SideState :=
  let l := Tab.getD s.mon.dark g []
  if l.isEmpty then s
  else
    let z := meanInt l
    if 256 < z.natAbs then (s.monError MG_STAT.ZERO_ERR g true).raise 0x42
    else (s.monError MG_STAT.ZERO_ERR g false).set (MG_ZERO.ZERO.inMonGroup g) (unsignedOf z 16)

/-- The monitor inputs at a boundary (R122, R126, R127, R131, R135). -/
def SideState.monitorsAtBoundary (s : SideState) : SideState :=
  let maps := s.mon.mapPending.filter (fun p => p.due ≤ s.produced)
  let sets := s.mon.setPending.filter (fun p => p.due ≤ s.produced)
  let s := { s with mon := { s.mon with
    mapPending := s.mon.mapPending.filter (fun p => s.produced < p.due)
    setPending := s.mon.setPending.filter (fun p => s.produced < p.due)
    biasInForce := s.get MI_CTRL.BIAS } }
  let s := maps.foldl SideState.mapInForce s
  let s := sets.foldl SideState.settingInForce s
  let steps := s.mon.channels.filterMap (fun (p : Nat × Channel) => p.2.step.map (fun r => (p.1, r)))
  let s := steps.foldl (fun (s : SideState) (p : Nat × Nat) => s.stepInForce p.1 p.2) s
  if s.beatNo % 64 = 0 then (List.range 96).foldl SideState.newZero s else s

end Sys2Proof.Machine
end

