-- ==== Sys2Proof/Machine/Ownership.lean ====
section
/-! DEFINITION. Loops and their elements, and the ownership of drive outputs (R138, R139, R150 to R153): who drives each DO
and the changes between owners. -/

namespace Sys2Proof.Machine

/-! ### Elements -/

/-- The E_DO of a cell, if it has one. -/
def SideState.eDo (s : SideState) (c : Nat) : Option Nat := if s.tis CT.E_PRESENT c then some (s.t CT.E_DO c) else none

/-- The T_DO of a cell, if it has one. -/
def SideState.tDo (s : SideState) (c : Nat) : Option Nat := if s.tis CT.T_PRESENT c then some (s.t CT.T_DO c) else none

/-- The attenuator of an output, if it has one. -/
def SideState.attOf (s : SideState) (q : Nat) : Option Nat :=
  if s.tis PT.ATT_PRESENT (s.ports + q) then some (s.t PT.ATT_DO (s.ports + q)) else none

/-- The loop of a cell. -/
def SideState.cellLoop (s : SideState) (c : Nat) : Option Nat :=
  match s.tDo c with
  | none => none
  | some d => s.loopOf d

/-- Number of loops (R139). -/
def SideState.loopCount (s : SideState) : Nat := s.get RG_LOOPS.LOOPS

/-- The cell that a loop serves; `none` for a port attenuator's loop. -/
def SideState.loopCell (s : SideState) (l : Nat) : Option Nat :=
  if s.t DT.KIND (s.t LT.DO l) = 1 then some (s.t DT.ELEM (s.t LT.DO l)) else none

/-- The DO a loop steps: its DO, or the cell's E_DO at electro-optic hold (R140). -/
def SideState.actuator (s : SideState) (l : Nat) : Nat :=
  if s.tis LT.ACT l then
    (match s.loopCell l with
     | some c => (s.eDo c).getD (s.t LT.DO l)
     | none => s.t LT.DO l)
  else s.t LT.DO l

/-- Does the element of a DO carry light in the active scene? -/
def SideState.elementLit (s : SideState) (d : Nat) : Bool :=
  let e := s.t DT.ELEM d
  match s.t DT.KIND d with
  | 1 => s.cellLit e
  | 2 => s.cellLit e
  | 3 => s.inLit e
  | 4 => s.outLit (e - s.ports)
  | _ => false

/-- Writes a loop-table field and sends the word, which an engine has changed (R235). -/
def SideState.loopSet (s : SideState) (f : TFld) (l v : Nat) : SideState :=
  if s.t f l = v then s else (s.tset f l v).emitMem (f.addr l) 4

/-! ### The end of a tuning run -/

/-- A tuning run ends, with RESULT and REASON (R159); BASE returns to B0 (R155, R156). -/
def SideState.endTune (s : SideState) (r : TuneRun) (result reason : Nat) : SideState :=
  let s := { s with loops := { s.loops with tunes := s.loops.tunes.filter (fun t => t.loop != r.loop) } }
  let s := if r.started then s.writeBase r.dout r.base0 else s
  let s := ((s.set HL_AT_STAT.LOOP r.loop).set HL_AT_STAT.RESULT result).set HL_AT_STAT.REASON reason
  let s := (s.set HL_AT_STAT.ACTIVE s.loops.tunes.length).set (LN_STAT.TUNING.inLane (r.loop % 32)) 0
  (s.evt 0x17 (if result = 1 then 0 else 1)).count 84 1

/-! ### Changes of owner (R151) -/

/-- A DO leaves whatever wait it is in. -/
def SideState.leaveWait (s : SideState) (d : Nat) : SideState :=
  { s with loops := { s.loops with toLoopAt := Tab.del s.loops.toLoopAt d, awaitSample := dropNat d s.loops.awaitSample } }

/-- A DO passes to an owner. A tuning run of the DO ends ABORTED, PREEMPT (R156). -/
def SideState.toOwn (s : SideState) (d : Nat) (o : Own) : SideState :=
  let s := match s.loops.tunes.find? (fun t => t.dout == d) with
    | some r => if o = Own.tune then s else s.endTune r 3 7
    | none => s
  (s.leaveWait d).setOwn d o

/-- The bumpless start of a loop (R153): its state is reset, and LAST is set at its first evaluation. -/
def SideState.bumpless (s : SideState) (l : Nat) : SideState :=
  let s := ((s.tset LT.INV l 0).tset LT.OOBCNT l 0).tset LT.SRCH l 0
  { s with loops := { s.loops with fresh := insertNat l s.loops.fresh } }

/-- Word addresses of a loop-table entry. -/
def loopEntryWords (l : Nat) : List Nat := (List.range 8).map (fun i => 0x30058000 + 32 * l + 4 * i)

/-- Has the loop's entry an uncorrectable word, which the stage manager has not rewritten yet (R146, R422)? -/
def SideState.entryBad (s : SideState) (l : Nat) : Bool := (loopEntryWords l).any (fun a => s.wordBad a)

/-- Can a loop run: it is enabled, and its entry can be read? -/
def SideState.loopCan (s : SideState) (l : Nat) : Bool := s.tis LT.EN l && !s.entryBad l

/-- A DO passes to LOOP_WAIT, and to LOOP once its loop's sample is valid. -/
def SideState.waitSample (s : SideState) (d : Nat) : SideState :=
  let s := s.toOwn d .loopWait
  { s with loops := { s.loops with awaitSample := insertNat d s.loops.awaitSample } }

/-- The DO of a loop passes to LOOP; while the loop's entry cannot be read it waits (R146). -/
def SideState.toLoop (s : SideState) (d : Nat) : SideState :=
  match s.loopOf d with
  | none => s.toOwn d .loop
  | some l => if s.entryBad l then s.waitSample d else ((s.toOwn d .loop).loopSet LT.ACT l 0).bumpless l

/-- The E_DO of a cell passes to EO_HOLD, its T_DO from LOOP to LOOP_WAIT; one that host software or calibration holds stays
with them (R150, R151). -/
def SideState.toEoHold (s : SideState) (c : Nat) : SideState :=
  match s.eDo c, s.cellLoop c with
  | some e, some l =>
    let t := s.t LT.DO l
    let s := if s.own t = .loop ∨ s.own t = .tune then s.toOwn t .loopWait else s.leaveWait t
    ((s.toOwn e .eoHold).loopSet LT.ACT l 1).bumpless l
  | _, _ => s

/-- A DO passes to LOOP_WAIT, and to LOOP at a produced boundary. -/
def SideState.waitUntil (s : SideState) (d due : Nat) : SideState :=
  let s := s.toOwn d .loopWait
  { s with loops := { s.loops with toLoopAt := Tab.put s.loops.toLoopAt d due } }

/-- Is the last sample of a loop's monitor valid? -/
def SideState.lastValid (s : SideState) (l : Nat) : Bool := sampleValid (Tab.getD s.mon.last (s.t LT.MI l) 0x3000) == 0

/-- At a boundary, DO that wait pass to LOOP: those whose boundary has come, and those whose loop has a valid sample. -/
def SideState.waitsEnd (s : SideState) : SideState :=
  let due := (s.loops.toLoopAt.filter (fun p => p.2 ≤ s.produced)).map (fun p => p.1)
  let seen := s.loops.awaitSample.filter (fun d =>
    match s.loopOf d with
    | some l => s.lastValid l && !s.entryBad l
    | none => false)
  (due ++ seen).foldl (fun s d => if s.own d = .loopWait then s.toLoop d else s.leaveWait d) s

/-- Is the cell in the dwell or ramp of a handover? -/
def SideState.inHandover (s : SideState) (c : Nat) : Bool := s.t ET.HO c == 1 || s.t ET.HO c == 2

/-- HOLDOFF in force (R151). -/
def SideState.holdoff (s : SideState) : Nat := max 2 (s.get HL_CTRL.HOLDOFF)

/-- Is the cell in the edge beats of a cue edge: its handover has not reached its dwell? -/
def SideState.inEdgeBeats (s : SideState) (c : Nat) : Bool :=
  match Tab.get? s.scene.edgeAt c with
  | some b => Nat.blt s.produced (b + s.holdoff)
  | none => false

/-- Is a DO in SCENE busy (R150)? -/
def SideState.sceneBusy (s : SideState) (d : Nat) : Bool :=
  let e := s.t DT.ELEM d
  match s.t DT.KIND d with
  | 1 => s.inEdgeBeats e || s.inHandover e
  | 2 => s.inEdgeBeats e || s.inHandover e
  | 4 => s.scene.blanked.any (fun b => b.out == e - s.ports) || s.inEdgeBeats (0x10000 + e)
  | _ => false

/-- The cell of a DO that drives one. -/
def SideState.doCell (s : SideState) (d : Nat) : Option Nat :=
  if s.t DT.KIND d = 1 ∨ s.t DT.KIND d = 2 then some (s.t DT.ELEM d) else none

/-- A DO that calibration or host software releases (R151): a T or port DO goes to its loop, an E DO to the scene controller.
A DO that no enabled loop can take returns to its park value, or to the scene controller for an output (R138). -/
def SideState.release (s : SideState) (d : Nat) : SideState :=
  if s.t DT.KIND d = 2 then s.toOwn d .scene
  else
    match s.loopOf d with
    | none => s.toOwn d (if s.t DT.KIND d = 4 then .scene else .none)
    | some l =>
      if !s.tis LT.EN l then s.toOwn d .none
      else if s.tis LT.ACT l then s.toOwn d .loopWait
      else s.waitUntil d (s.produced + 1)

/-- A DO that calibration or host software takes: an E_DO leaves electro-optic hold, and its loop acts on the T_DO again (R138, R151). -/
def SideState.takeTo (s : SideState) (d : Nat) (o : Own) : SideState :=
  let held := if s.own d = Own.eoHold then (s.doCell d).bind s.cellLoop else none
  let s := s.toOwn d o
  match held with
  | some l => s.loopSet LT.ACT l 0
  | none => s

/-! ### EN of a loop (R151) -/

/-- EN set to 1: the loop's DO leaves NONE. -/
def SideState.loopEnabled (s : SideState) (l : Nat) : SideState :=
  let d := s.t LT.DO l
  if s.own d = .none then s.waitSample d else s

/-- EN set to 0: the loop's DO passes to NONE, and an E_DO at electro-optic hold to SCENE, holding. A handover of the cell
then stalls at the next boundary (R172). -/
def SideState.loopDisabled (s : SideState) (l : Nat) : SideState :=
  let d := s.t LT.DO l
  let s := if s.own d = .loop ∨ s.own d = .loopWait ∨ s.own d = .tune then s.toOwn d .none else s
  match s.loopCell l with
  | none => s
  | some c =>
    let s := match s.eDo c with
      | some e => if s.own e = Own.eoHold then s.toOwn e .scene else s
      | none => s
    let s := s.loopSet LT.ACT l 0
    if s.inHandover c || s.scene.handovers.any (fun h => h.cell == c) then
      { s with scene := { s.scene with stallPending := insertNat c s.scene.stallPending } }
    else s

/-! ### Overrides by host software (R158) -/

/-- HL_OVR_STAT. -/
def SideState.ovrStat (s : SideState) (result reason : Nat) : SideState :=
  (s.set HL_OVR_STAT.RESULT result).set HL_OVR_STAT.REASON reason

/-- Why a take is refused, 0 for none. -/
def SideState.takeRefused (s : SideState) (d : Nat) (light : Bool) : Nat :=
  let ho := match s.doCell d with
    | some c => s.inHandover c
    | none => false
  if !s.named d then 3
  else if s.own d == .cal || ho || (s.own d == .scene && s.sceneBusy d) then 1
  else if s.elementLit d && !light then 2
  else 0

/-- OVERRIDE_TAKE (R158). -/
def execOverrideTake (sd : Side) (m : Master) (v : Word) (s : State) : Host.Outcome State Fault Refusal :=
  .next (s.side sd (fun x => x.live (fun x => x.regWrite 0x16058 m (fun x =>
    if !bitAt v.toNat 31 || bits v.toNat 16 2 != 1 then x
    else
      let d := bits v.toNat 0 14
      let r := x.takeRefused d (bitAt v.toNat 14)
      if r ≠ 0 then x.ovrStat 3 r
      else { x.ovrStat 1 0 with drive := { x.drive with overrides := x.drive.overrides ++ [(d, (true, bitAt v.toNat 14))] } }))))

/-- OVERRIDE_RELEASE (R151, R158). -/
def execOverrideRelease (sd : Side) (m : Master) (v : Word) (s : State) : Host.Outcome State Fault Refusal :=
  .next (s.side sd (fun x => x.live (fun x => x.regWrite 0x16058 m (fun x =>
    if !bitAt v.toNat 31 || bits v.toNat 16 2 != 2 then x
    else
      let d := bits v.toNat 0 14
      if x.own d ≠ .man then x.ovrStat 3 4
      else { x.ovrStat 1 0 with drive := { x.drive with overrides := x.drive.overrides ++ [(d, (false, false))] } }))))

/-- Overrides at a boundary, after the scene controller and calibration; a DO that the scene controller has just moved is not
taken (R152). -/
def SideState.overridesAtBoundary (s : SideState) : SideState :=
  let l := s.drive.overrides
  l.foldl (fun (s : SideState) (p : Nat × (Bool × Bool)) =>
    if p.2.1 then
      let r := s.takeRefused p.1 p.2.2
      let r := if r = 0 && s.scene.tookNow.contains p.1 then 1 else r
      if r ≠ 0 then s.ovrStat 3 r else (s.takeTo p.1 .man).ovrStat 2 0
    else if s.own p.1 = .man then (s.release p.1).ovrStat 2 0
    else s.ovrStat 3 4) { s with drive := { s.drive with overrides := [] } }

end Sys2Proof.Machine
end

