-- ==== Sys2Proof/Machine/Solver.lean ====
section
/-! DEFINITION. The blocking engine's procedure (R67 to R82): the geometry of a fabric, phase 1, phase 2 in Beneš, extended
Beneš and generic networks, and the cost of each step. Everything here is a function of the fabric, the predicted scene P and
the target scene T. -/

namespace Sys2Proof.Machine

/-! ### Geometry (R67 to R70) -/

/-- A fabric: KIND, LOG2N, STAGES, and for a generic network the links of its stage table. -/
structure Fabric where
  kind : Nat
  n : Nat
  stages : Nat
  links : List (List Nat)
  deriving DecidableEq, Repr

/-- Ports N. -/
def Fabric.ports (f : Fabric) : Nat := 2 ^ f.n

/-- Cells per stage. -/
def Fabric.cps (f : Fabric) : Nat := 2 ^ f.n / 2

/-- The stage at which the Beneš fabric begins: 1 behind the extra stage (R69). -/
def Fabric.first (f : Fabric) : Nat := if f.kind = 1 then 1 else 0

/-- Link `s` of a Beneš fabric (R68). -/
def benesLink (n s l : Nat) : Nat :=
  if s + 1 < n then
    let b := 2 ^ n / 2 ^ s
    l / b * b + (l % b % 2) * (b / 2) + l % b / 2
  else
    let b := 2 ^ n / 2 ^ (2 * n - 3 - s)
    l / b * b + (l % b % (b / 2)) * 2 + l % b / (b / 2)

/-- The input line of stage `s` + 1 that output line `l` of stage `s` leads to (R68 to R70). -/
def Fabric.link (f : Fabric) (s l : Nat) : Nat :=
  match f.kind with
  | 0 => benesLink f.n s l
  | 1 => if s = 0 then l % (f.ports / 2) * 2 + l / (f.ports / 2) else benesLink f.n (s - 1) l
  | _ => (f.links.getD s []).getD l 0

/-- One cell on a path: the cell, the input it is entered by (0 upper, 1 lower) and its setting. -/
structure Hop where
  cell : Nat
  side : Nat
  setting : Nat
  deriving DecidableEq, Repr

/-- The other one of 0 and 1. -/
def flip1 (x : Nat) : Nat := if x = 0 then 1 else 0

/-- Exclusive or of 0s and 1s: the output a cell sends input `x` to under setting `y`. -/
def xor1 (x y : Nat) : Nat := if x % 2 = y % 2 then 0 else 1

/-- Follows a line through `k` stages from stage `s`; `none` at a cell that is neither bar nor cross. -/
def Fabric.follow (f : Fabric) (cells : Nat → Nat) : Nat → Nat → Nat → Option (Nat × List Hop)
  | 0, _, l => some (l, [])
  | k + 1, s, l =>
    let c := s * f.cps + l / 2
    let b := cells c
    if b = cellBar ∨ b = cellCross then
      let out := l / 2 * 2 + xor1 (l % 2) b
      let next := if s + 1 < f.stages then f.link s out else out
      (f.follow cells k (s + 1) next).map (fun r => (r.1, ⟨c, l % 2, b⟩ :: r.2))
    else none

/-- Traces an input through cell settings: the output line it leaves on, and its path. -/
def Fabric.trace (f : Fabric) (cells : Nat → Nat) (input : Nat) : Option (Nat × List Hop) := f.follow cells f.stages 0 input

/-! ### Scenes and members (R71) -/

/-- A scene as a solve sees it: its connections and its cell settings. -/
structure SceneView where
  conns : List Conn
  cells : List Nat
  deriving DecidableEq, Repr

/-- The setting of a cell in a scene. -/
def SceneView.cell (v : SceneView) (c : Nat) : Nat := v.cells.getD c cellIdle

/-- The connection of P that a connection of T keeps, if it is kept (R71). -/
def Fabric.keptOf (f : Fabric) (p : SceneView) (c : Conn) : Option Conn :=
  match p.conns.find? (fun d => d.input == c.input && d.output == c.output) with
  | none => none
  | some d =>
    match f.trace p.cell c.input with
    | some (q, _) => if q = c.output then some d else none
    | none => none

/-- A member of the permutation a solve routes: a connection of T, or a dummy of the padding (R75). `colours` are its colours
in P, 0 for U; `i` and `j` its local input and output at the present level. -/
structure Member where
  input : Nat
  output : Nat
  conn : Option Conn
  kept : Bool
  pin : Bool
  dist : Bool
  first : Nat
  colours : List Nat
  i : Nat
  j : Nat
  deriving DecidableEq, Repr

/-- The colours of a path: at each of the n − 1 first stages of the Beneš part, whether it leaves by the upper output. -/
def Fabric.colours (f : Fabric) (path : List Hop) : List Nat :=
  ((path.drop f.first).take (f.n - 1)).map (fun h => xor1 h.side h.setting)

/-- The input line of the Beneš part that a fabric input leads to, with the settings held at stage 0 (R69). -/
def Fabric.enter (f : Fabric) (hold : List Nat) (input : Nat) : Nat :=
  if f.first = 1 then f.link 0 (input / 2 * 2 + xor1 (input % 2) (hold.getD (input / 2) 0)) else input

/-- Connections in ascending order of output. -/
def byOutput (l : List Conn) : List Conn :=
  (sortNat (l.map (fun c => c.output))).filterMap (fun q => l.find? (fun c => c.output == q))

/-- The members of a solve: the connections of T in ascending output order, then the padding (R71, R75). A kept member whose
stage-0 cell is held at another setting than in P, or is inverted for attempt 2, is disturbed there (R76). PIN of a connection of
T is here the mark of the operator's policy. -/
def Fabric.members (f : Fabric) (p : SceneView) (t : List Conn) (hold inverted : List Nat) : List Member :=
  let real := (byOutput t).map (fun c =>
    let base : Member :=
      { input := c.input, output := c.output, conn := some c, kept := false, pin := false, dist := false, first := 0,
        colours := [], i := f.enter hold c.input, j := c.output }
    match f.keptOf p c with
    | none => base
    | some d =>
      let path := match f.trace p.cell c.input with
        | some (_, h) => h
        | none => []
      { base with
        kept := true
        pin := d.pin || c.pin
        colours := f.colours path
        dist := f.first == 1 && (hold.getD (c.input / 2) 0 != p.cell (c.input / 2) || inverted.contains (c.input / 2)) })
  let freeIn := (List.range f.ports).filter (fun i => !t.any (fun c => c.input == i))
  let freeOut := (List.range f.ports).filter (fun q => !t.any (fun c => c.output == q))
  real ++ (freeIn.zip freeOut).map (fun x =>
    { input := x.1, output := x.2, conn := none, kept := false, pin := false, dist := false, first := 0, colours := [],
      i := f.enter hold x.1, j := x.2 })

/-- The settings of stage 0 that attempt 1 holds (R76): those of P, bar for an idle cell, and under FRESH bar where no pinned
connection passes. -/
def Fabric.hold (f : Fabric) (p : SceneView) (t : List Conn) (fresh : Bool) : List Nat × List Nat :=
  let pins := (t.filter (fun c => match f.keptOf p c with
    | some d => d.pin || c.pin
    | none => false)).map (fun c => c.input / 2)
  ((List.range f.cps).map (fun k =>
    if p.cell k ≠ cellBar ∧ p.cell k ≠ cellCross then cellBar
    else if fresh && !pins.contains k then cellBar else p.cell k), pins)

/-! ### Paths and phase 1 (R74) -/

/-- The path through a Beneš fabric from local input line `i` to output line `j` that takes given colours: its first half and
its second half, the latter from the last stage back. -/
def Fabric.benesHalves (f : Fabric) : List Nat → Nat → Nat → Nat → Nat → Nat → List Hop × List Hop
  | [], lv, b0, _, i, j => ([⟨(f.first + lv) * f.cps + b0 / 2, i % 2, xor1 i j⟩], [])
  | c :: cs, lv, b0, size, i, j =>
    let r := f.benesHalves cs (lv + 1) (if c = 1 then b0 + size / 2 else b0) (size / 2) (i / 2) (j / 2)
    (⟨(f.first + lv) * f.cps + b0 / 2 + i / 2, i % 2, xor1 i c⟩ :: r.1,
      ⟨(f.first + 2 * f.n - 2 - lv) * f.cps + b0 / 2 + j / 2, c, xor1 c j⟩ :: r.2)

/-- That path in stage order. -/
def Fabric.benesPath (f : Fabric) (colours : List Nat) (i j : Nat) : List Hop :=
  let r := f.benesHalves colours 0 0 f.ports i j
  r.1 ++ r.2.reverse

/-- The colours that a path number spells, stage 0 the most significant bit (R74). -/
def pathColours (n num : Nat) : List Nat := (List.range (n - 1)).map (fun lv => num / 2 ^ (n - 2 - lv) % 2)

/-- The input lines of each stage, last stage first, from which an output line can be reached in a generic network. -/
def Fabric.reach (f : Fabric) (q : Nat) : Nat → List (List Nat)
  | 0 => []
  | k + 1 =>
    let rest := f.reach q k
    let s := f.stages - 1 - k
    let ok (out : Nat) : Bool :=
      match rest with
      | [] => out == q
      | l :: _ => l.contains (f.link s out)
    ((List.range f.ports).filter (fun l => ok (l / 2 * 2) || ok (l / 2 * 2 + 1))) :: rest

/-- The cells in use: setting, and the inputs it is entered by. -/
abbrev CellUse := List (Nat × (Nat × List Nat))

/-- Does a path fit: every cell free, or used by one connection whose setting lets it pass (R74)? -/
def pathFits (u : CellUse) (path : List Hop) : Bool :=
  path.all (fun h =>
    match Tab.get? u h.cell with
    | none => true
    | some (b, sides) => b == h.setting && !sides.contains h.side)

/-- The paths of a generic network from a line of a stage to output line `q` whose cells are free or let them pass, in ascending path
number, at most `limit`. DESIGN
CHOICE (log 40): R74 defines the path number for a Beneš fabric; here too it is the sequence of upper and lower outputs, the upper
one first and stage 0 the most significant. -/
def Fabric.genericPaths (f : Fabric) (u : CellUse) (q limit : Nat) : List (List Nat) → Nat → Nat → List (List Hop)
  | [], _, l => if l = q then [[]] else []
  | lines :: rest, s, l =>
    if !lines.contains l then []
    else
      let go (c : Nat) : List (List Hop) :=
        let out := l / 2 * 2 + c
        let next := if s + 1 < f.stages then f.link s out else out
        let hop : Hop := ⟨s * f.cps + l / 2, l % 2, xor1 l c⟩
        if pathFits u [hop] then (f.genericPaths u q limit rest (s + 1) next).map (fun h => hop :: h) else []
      (go 0 ++ go 1).take limit

/-- The candidate paths of a connection in ascending path number (R74, R77): the numbers whose choices at stages 0 to n − 2 the cells
in use let through, one alone where every cell is fixed (log 40). In a generic network they are the paths of its stage table, as
many as any budget can test. -/
def Fabric.candidates (f : Fabric) (u : CellUse) (m : Member) : List (List Hop) :=
  if f.kind = 2 then f.genericPaths u m.output 8192 (f.reach m.output f.stages) 0 m.input
  else ((List.range (2 ^ (f.n - 1))).map (fun num => f.benesPath (pathColours f.n num) m.i m.j)).filter (fun p => pathFits u (p.take (f.n - 1)))

/-- Cells of a path become fixed. -/
def usePath (u : CellUse) (path : List Hop) : CellUse :=
  path.foldl (fun u h => Tab.put u h.cell (h.setting, h.side :: (Tab.getD u h.cell (h.setting, [])).2)) u

/-- The outcome of a search for one connection: the path found, the rounds tested, and whether the budget stopped it. -/
structure Search where
  path : Option (List Hop)
  rounds : Nat
  stopped : Bool
  deriving DecidableEq, Repr

/-- Tests rounds of 16 candidates while another round fits `rounds`, the number that may still be started. -/
def searchRounds (u : CellUse) : Nat → List (List Hop) → Nat → Search
  | _, [], done => ⟨none, done, false⟩
  | 0, _ :: _, done => ⟨none, done, true⟩
  | n + 1, l, done =>
    match (l.take 16).find? (fun p => pathFits u p) with
    | some p => ⟨some p, done + 1, false⟩
    | none => searchRounds u n (l.drop 16) (done + 1)

/-- A step of a solve as BK_STAT shows it (R86), and its cost in cycles (R81). -/
structure EngineStep where
  code : Nat
  level : Nat
  cost : Nat
  deriving DecidableEq, Repr

def stepStart : EngineStep := ⟨1, 0, 32⟩
def stepLoad : EngineStep := ⟨3, 0, 64⟩
def stepMiddle : EngineStep := ⟨5, 0, 16⟩
def stepExtra : EngineStep := ⟨6, 0, 64⟩
def stepWrite : EngineStep := ⟨7, 0, 120⟩

/-- Cycles of a list of steps. -/
def stepsCost (l : List EngineStep) : Nat := l.foldl (fun a x => a + x.cost) 0

/-- Cycles of one round (R81). -/
def Fabric.roundCost (f : Fabric) : Nat := 8 + 2 * f.stages

/-- The steps of the rounds of every connection searched: one per connection and round. -/
def Fabric.roundSteps (f : Fabric) (rounds : List Nat) : List EngineStep :=
  List.replicate (rounds.foldl (fun a b => a + b) 0) ⟨2, 0, f.roundCost⟩

/-- The path a kept member has in P. -/
def Fabric.pathInP (f : Fabric) (p : SceneView) (m : Member) : List Hop :=
  match f.trace p.cell m.input with
  | some (_, h) => h
  | none => []

/-- Routes members one after the other; `budget` bounds the cycles. Answers the cells in use, the paths taken, the rounds of
each member, and the first member without a path, with whether the budget stopped it. -/
def Fabric.routeAll (f : Fabric) (budget : Nat) : List Member → CellUse → List (Member × List Hop) → List Nat →
    CellUse × List (Member × List Hop) × List Nat × Option Bool
  | [], u, paths, rounds => (u, paths, rounds, none)
  | m :: t, u, paths, rounds =>
    let used := rounds.foldl (fun a b => a + b) 0
    let r := searchRounds u (budget / f.roundCost - used) (f.candidates u m) 0
    match r.path with
    | some h => f.routeAll budget t (usePath u h) (paths ++ [(m, h)]) (rounds ++ [r.rounds])
    | none => (u, paths, rounds ++ [r.rounds], some r.stopped)

/-! ### Phase 2 in a Beneš fabric (R75) -/

/-- The members of the loop that starts at a member: it, its partner at the same last-stage cell, that one's partner at the
same first-stage cell, and so on until the loop closes. -/
def loopMembers (g : List Member) (start : Nat) : Nat → Member → List Member → List Member
  | 0, _, acc => acc
  | fuel + 1, cur, acc =>
    match g.find? (fun m => m.j == cur.j / 2 * 2 + flip1 (cur.j % 2)) with
    | none => acc ++ [cur]
    | some p =>
      match g.find? (fun m => m.i == p.i / 2 * 2 + flip1 (p.i % 2)) with
      | none => acc ++ [cur, p]
      | some next => if next.i = start then acc ++ [cur, p] else loopMembers g start fuel next (acc ++ [cur, p])

/-- Is the member a kept one that has not been disturbed? -/
def Member.steady (m : Member) : Bool := m.kept && !m.dist

/-- The colour that the first member of a loop takes; `none` where pins disagree (R75). -/
def loopColour (lv : Nat) (fresh : Bool) (seq : List Member) : Option Nat :=
  let num := seq.zipIdx
  let want (x : Member × Nat) : Nat := xor1 (x.1.colours.getD lv 0) x.2
  let pinned := num.filter (fun x => x.1.pin)
  match pinned with
  | x :: t => if t.all (fun y => want y == want x) then some (want x) else none
  | [] =>
    if fresh then some 0
    else
      let keep := num.filter (fun x => x.1.steady)
      let up := (keep.filter (fun x => want x == 0)).length
      some (if keep.length ≤ 2 * up then 0 else 1)

/-- The members of a level with their colours, or the pinned members of the first loop whose demands disagree. -/
def colourLoops (lv stage : Nat) (fresh : Bool) (g : List Member) : Nat → List (Member × Nat) → Except (List Member) (List (Member × Nat))
  | 0, acc => .ok acc
  | fuel + 1, acc =>
    match (sortNat ((g.filter (fun m => !acc.any (fun x => x.1.i == m.i))).map (fun m => m.i))).head? with
    | none => .ok acc
    | some i0 =>
      match g.find? (fun m => m.i == i0) with
      | none => .ok acc
      | some m0 =>
        let seq := loopMembers g i0 g.length m0 []
        match loopColour lv fresh seq with
        | none => .error (seq.filter (fun m => m.pin))
        | some c =>
          let done := seq.zipIdx.map (fun x =>
            let col := xor1 c x.2
            let m := x.1
            if m.steady && m.colours.getD lv 0 != col then ({ m with dist := true, first := stage }, col) else (m, col))
          colourLoops lv stage fresh g fuel (acc ++ done)

/-- Routes one subnetwork at a level: its cell settings, and the members of the two subnetworks below (R75). -/
def Fabric.routeLevel (f : Fabric) (lv b0 size : Nat) (fresh : Bool) (g : List Member) :
    Except (List Member) (List (Nat × Nat) × List (Nat × List Member)) :=
  match colourLoops lv (f.first + lv) fresh g g.length [] with
  | .error l => .error l
  | .ok cols =>
    let fs := (f.first + lv) * f.cps + b0 / 2
    let ls := (f.first + 2 * f.n - 2 - lv) * f.cps + b0 / 2
    let cells := (cols.filter (fun x => x.1.i % 2 == 0)).map (fun x => (fs + x.1.i / 2, x.2))
      ++ (cols.filter (fun x => x.1.j % 2 == 0)).map (fun x => (ls + x.1.j / 2, x.2))
    let down (c : Nat) : List Member :=
      (cols.filter (fun x => x.2 == c)).map (fun x => { x.1 with i := x.1.i / 2, j := x.1.j / 2 })
    .ok (cells, [(b0, down 0), (b0 + size / 2, down 1)])

/-- Routes every subnetwork of one level. -/
def Fabric.routeGroups (f : Fabric) (lv size : Nat) (fresh : Bool) : List (Nat × List Member) →
    Except (List Member) (List (Nat × Nat) × List (Nat × List Member))
  | [] => .ok ([], [])
  | g :: t =>
    match f.routeLevel lv g.1 size fresh g.2 with
    | .error l => .error l
    | .ok a =>
      match f.routeGroups lv size fresh t with
      | .error l => .error l
      | .ok b => .ok (a.1 ++ b.1, a.2 ++ b.2)

/-- What the levels of phase 2 come to: the cells set, the members, and the costs of the steps; or the level at which the pins
disagree with the pinned members. -/
structure Phase2 where
  cells : List (Nat × Nat)
  members : List Member
  steps : List EngineStep
  conflict : Option (Nat × List Member)
  deriving DecidableEq, Repr

/-- The levels of phase 2 from level `lv`, `k` of them left before the middle stage (R75, R81). DESIGN CHOICE (log 110): the loops of
every subnetwork of a level are examined before the next level, as R81 runs them, so that of two subnetworks whose pins disagree
the one with the earlier level is listed. -/
def Fabric.routeDown (f : Fabric) (fresh : Bool) : Nat → Nat → List (Nat × List Member) → List (Nat × Nat) → List EngineStep → Phase2
  | 0, _, gs, cells, steps =>
    let mid := (f.first + f.n - 1) * f.cps
    let set := gs.filterMap (fun g => (g.2.find? (fun m => m.i == 0)).map (fun m => (mid + g.1 / 2, m.j)))
    ⟨cells ++ set, (gs.map (fun g => g.2)).flatten, steps ++ [stepMiddle], none⟩
  | k + 1, lv, gs, cells, steps =>
    let size := f.ports / 2 ^ lv
    match f.routeGroups lv size fresh gs with
    | .error l => ⟨[], [], steps ++ [⟨4, lv, 2 * size + 16⟩], some (f.first + lv, l)⟩
    | .ok r => f.routeDown fresh k (lv + 1) r.2 (cells ++ r.1) (steps ++ [⟨4, lv, 2 * size + 16⟩])

/-! ### A whole solve -/

/-- An entry of a disturbance list (R80). -/
structure DistEntry where
  input : Nat
  output : Nat
  stage : Nat
  pinned : Bool
  id : Nat
  deriving DecidableEq, Repr

/-- The result of a solve: its code (R79), the cells a solved result writes, its list, its steps in order, and the cycles spent
in phase 1. -/
structure SolveResult where
  code : Nat
  cells : List Nat
  list : List DistEntry
  steps : List EngineStep
  incr : Nat
  byIncr : Bool
  attempt2 : Bool
  deriving DecidableEq, Repr

/-- Engine cycles of a result. -/
def SolveResult.cycles (r : SolveResult) : Nat := stepsCost r.steps

/-- A list in ascending order of input. -/
def sortEntries (l : List DistEntry) : List DistEntry :=
  (sortNat (l.map (fun d => d.input))).filterMap (fun i => l.find? (fun d => d.input == i))

/-- The entry of a member. -/
def Member.entry (m : Member) (stage : Nat) (pinned : Bool) : DistEntry :=
  ⟨m.input, m.output, stage, pinned, match m.conn with | some c => c.id | none => 0⟩

/-- WRITE (R73, R78): cells that carry a connection of T keep their setting, the others are idle; `none` where the self-trace
of a connection does not arrive at its output. -/
def Fabric.writeCells (f : Fabric) (set : List (Nat × Nat)) (t : List Conn) : Option (List Nat) :=
  let raw (c : Nat) : Nat := Tab.getD set c cellIdle
  let used := (t.filterMap (fun c => (f.trace raw c.input).map (fun r => r.2.map (fun h => h.cell)))).flatten
  let cells := (List.range (f.stages * f.cps)).map (fun c => if used.contains c then raw c else cellIdle)
  if t.all (fun c =>
      match f.trace (fun x => cells.getD x cellIdle) c.input with
      | some (q, _) => q == c.output
      | none => false) then some cells
  else none

/-- Collects cell settings in one table; later ones stand. -/
def cellTable (l : List (Nat × Nat)) : List (Nat × Nat) := l.foldl (fun t p => Tab.put t p.1 p.2) []

/-- One attempt of phase 2 in a Beneš or extended Beneš fabric, before WRITE. -/
def Fabric.attempt (f : Fabric) (p : SceneView) (t : List Conn) (fresh : Bool) (hold inverted : List Nat) : SolveResult :=
  let mem := f.members p t hold inverted
  let extra := if f.first = 1 then [stepExtra] else []
  let r := f.routeDown fresh (f.n - 1) 0 [(0, mem)] (if f.first = 1 then hold.zipIdx.map (fun x => (x.2, x.1)) else []) (stepLoad :: extra)
  match r.conflict with
  | some (stage, l) => ⟨0x10, [], sortEntries (l.map (fun m => m.entry stage true)), r.steps, 0, false, false⟩
  | none =>
    let dist := sortEntries ((r.members.filter (fun m => m.dist)).map (fun m => m.entry m.first false))
    match f.writeCells (cellTable r.cells) t with
    | none => ⟨0x14, [], [], r.steps, 0, false, false⟩
    | some cells => ⟨if dist.isEmpty then 1 else 2, cells, dist, r.steps, 0, false, false⟩

/-- The order of results between attempts (R76): lower is better. -/
def SolveResult.rank (r : SolveResult) : Nat := if r.code = 1 then 0 else if r.code = 2 then 1 + r.list.length else 10000

/-- The first stage at which two paths differ. -/
def firstDiff : List Hop → List Hop → Nat → Option Nat
  | a :: s, b :: t, n => if a = b then firstDiff s t (n + 1) else some n
  | [], [], _ => none
  | _, _, n => some n

/-- Phase 2 in a generic network (R77), before WRITE. `budget` bounds the cycles of the search. -/
def Fabric.genericPhase2 (f : Fabric) (p : SceneView) (t : List Conn) (fresh : Bool) (budget : Nat) : SolveResult :=
  let mem := (f.members p t [] []).filter (fun m => m.conn.isSome)
  let stays (m : Member) : Bool := m.kept && (!fresh || m.pin)
  let keep := mem.filter stays
  let u := keep.foldl (fun u m => usePath u (f.pathInP p m)) []
  let r := f.routeAll budget (mem.filter (fun m => !stays m)) u [] []
  let steps := stepLoad :: f.roundSteps r.2.2.1
  match r.2.2.2 with
  | some stopped => ⟨if stopped then 0x11 else 0x12, [], [], steps, 0, false, false⟩
  | none =>
    let moved := r.2.1.filterMap (fun x =>
      if x.1.kept then (firstDiff (f.pathInP p x.1) x.2 0).map (fun s => x.1.entry s false) else none)
    match f.writeCells (r.1.map (fun x => (x.1, x.2.1))) t with
    | none => ⟨0x14, [], [], steps, 0, false, false⟩
    | some cells => ⟨if moved.isEmpty then 1 else 2, cells, sortEntries moved, steps, 0, false, false⟩

/-- The settings that bear on a solve: INCR_EN, INCR_MAX, INCR, TOTAL and ATTEMPT2_EN (R86). -/
structure SolveConfig where
  incrEn : Bool
  incrMax : Nat
  incr : Nat
  total : Nat
  attempt2 : Bool
  deriving DecidableEq, Repr

/-- Phase 1 (R74): the result it reaches, or the costs of its steps where it is discarded. -/
def Fabric.phase1 (f : Fabric) (p : SceneView) (t : List Conn) (hold : List Nat) (cfg : SolveConfig) : Except (List EngineStep) SolveResult :=
  let mem := (f.members p t hold []).filter (fun m => m.conn.isSome)
  let u := (mem.filter (fun m => m.kept)).foldl (fun u m => usePath u (f.pathInP p m)) []
  let r := f.routeAll (cfg.incr - 32) (mem.filter (fun m => !m.kept)) u [] []
  let steps := stepStart :: f.roundSteps r.2.2.1
  match r.2.2.2 with
  | some _ => .error steps
  | none =>
    let set := cellTable ((if f.first = 1 then hold.zipIdx.map (fun x => (x.2, x.1)) else []) ++ r.1.map (fun x => (x.1, x.2.1)))
    let extra := if f.first = 1 then [stepExtra] else []
    let cost := stepsCost steps
    match f.writeCells set t with
    | none => .ok ⟨0x14, [], [], steps ++ extra, cost, true, false⟩
    | some cells => .ok ⟨1, cells, [], steps ++ extra, cost, true, false⟩

/-- Does a scene name a port outside the fabric? -/
def Fabric.badScene (f : Fabric) (l : List Conn) : Bool := l.any (fun c => !(Nat.blt c.input f.ports && Nat.blt c.output f.ports))

/-- A result ends with WRITE and its 120 cycles (R81). -/
def SolveResult.withWrite (r : SolveResult) : SolveResult := { r with steps := r.steps ++ [stepWrite] }

/-- A result that needed more than TOTAL cycles is BUDGET (R82). -/
def SolveResult.within (r : SolveResult) (total : Nat) : SolveResult :=
  if total < r.cycles ∨ r.code = 0x11 then { r with code := 0x11, cells := [], list := [], byIncr := false, attempt2 := false } else r

/-- The solve of T against P under a disturbance option (R71 to R82). -/
def Fabric.solve (f : Fabric) (p : SceneView) (t : List Conn) (option : Nat) (cfg : SolveConfig) : SolveResult :=
  let fresh := option == 2
  let h := f.hold p t fresh
  let hold := if f.first = 1 then h.1 else []
  let new := t.filter (fun c => (f.keptOf p c).isNone)
  let doIncr := !fresh && cfg.incrEn && Nat.ble new.length cfg.incrMax
  if f.badScene p.conns || f.badScene t then
    ((⟨0x13, [], [], [if doIncr then stepStart else stepLoad], if doIncr then 32 else 0, false, false⟩ : SolveResult).withWrite).within cfg.total
  else
    match (if doIncr then f.phase1 p t hold cfg else .error []) with
    | .ok r => r.withWrite.within cfg.total
    | .error steps =>
      let incr := stepsCost steps
      let done (r : SolveResult) : SolveResult := ({ r with steps := steps ++ r.steps, incr := incr }.withWrite).within cfg.total
      if f.kind = 2 then done (f.genericPhase2 p t fresh (cfg.total - incr - 64))
      else
        let a1 := f.attempt p t fresh hold []
        let again := f.first = 1 && (a1.code == 2 || a1.code == 0x10) && cfg.attempt2
          && Nat.ble (incr + a1.cycles + 4 * f.ports + 16 * f.n + 176 + 64) cfg.total
        if again then
          let inverted := (List.range f.cps).filter (fun k => !h.2.contains k)
          let a2 := f.attempt p t fresh (hold.zipIdx.map (fun x => if h.2.contains x.2 then x.1 else flip1 x.1)) inverted
          let steps2 := a1.steps ++ a2.steps
          if a2.rank < a1.rank then done { a2 with steps := steps2, attempt2 := true } else done { a1 with steps := steps2 }
        else done a1

end Sys2Proof.Machine
end

