-- ==== Sys2Proof/Machine/RigImage.lean ====
section
/-! DEFINITION. The rig-map image: its sections, and the steps by which an image is accepted or rejected (R43 to R54, R70).
Everything here is a function of the image's bytes and the factory block's SERIAL. -/

namespace Sys2Proof.Machine

/-- A directory entry (R46). -/
structure RigSection where
  type : Nat
  ver : Nat
  off : Nat
  len : Nat
  crc : Nat
  deriving DecidableEq, Repr

/-- The rig map an image holds. -/
structure RigMap where
  kind : Nat
  n : Nat
  stages : Nat
  cps : Nat
  cells : Nat
  ports : Nat
  elec : List (Nat × List Byte)
  groups : List Nat
  sense : List (List Byte)
  cellRecs : List Nat
  portRecs : List Nat
  stageTable : List Byte
  deriving DecidableEq, Repr

/-- The directory of an image. -/
def rigDirectory (img : List Byte) : List RigSection :=
  (records 16 (leNat (slice img 0x0E 2)) (img.drop 0x40)).map (fun d =>
    ⟨leNat (slice d 0 2), leNat (slice d 2 2), leNat (slice d 4 4), leNat (slice d 8 4), leNat (slice d 12 4)⟩)

/-- The bytes of a section, none if the image lacks it. -/
def rigSection? (img : List Byte) (type : Nat) : Option (List Byte) :=
  ((rigDirectory img).find? (fun d => d.type == type)).map (fun d => slice img d.off d.len)

/-- The bytes of a section, empty if the image lacks it. -/
def rigSection (img : List Byte) (type : Nat) : List Byte := (rigSection? img type).getD []

/-- IMG_LEN, SERIAL and IMG_CRC of a header (R45). -/
def rigLen (img : List Byte) : Nat := leNat (slice img 0x08 4)
def rigSerial (img : List Byte) : List Byte := slice img 0x10 16
def rigCrc (img : List Byte) : Nat := leNat (slice img 0x38 4)

/-- Takes an image apart (R46 to R53). -/
def RigMap.of (img : List Byte) : RigMap :=
  let topo := rigSection img 1
  let cells := leNat (slice topo 6 2)
  let ports := leNat (slice topo 8 2)
  let elec := rigSection img 3
  let sense := rigSection img 5
  { kind := leNat (slice topo 0 1)
    n := leNat (slice topo 1 1)
    stages := leNat (slice topo 2 1)
    cps := leNat (slice topo 4 2)
    cells := cells
    ports := ports
    elec := (records 16 (elec.length / 16) elec).map (fun r => (leNat (slice r 0 1), r))
    groups := (rigSection img 4).map (fun b => b.toNat)
    sense := records 8 (sense.length / 8) sense
    cellRecs := (records 6 cells (rigSection img 6)).map leNat
    portRecs := (records 4 (2 * ports) (rigSection img 7)).map leNat
    stageTable := rigSection img 2 }

/-- The electrical record of a kind. -/
def RigMap.elecOf (m : RigMap) (kind : Nat) : List Byte := (Tab.get? m.elec kind).getD []

/-! ### Elements -/

/-- The elements that have a DO: kind, element number and DO (R52, R53, R56). -/
def RigMap.drives (m : RigMap) : List (Nat × (Nat × Nat)) :=
  (m.cellRecs.zipIdx.map (fun x =>
    (if bitAt x.1 14 then [(1, (x.2, bits x.1 0 14))] else []) ++ (if bitAt x.1 30 then [(2, (x.2, bits x.1 16 14))] else []))).flatten
  ++ (m.portRecs.zipIdx.filter (fun x => bitAt x.1 14)).map (fun x => (if x.2 < m.ports then 3 else 4, (x.2, bits x.1 0 14)))

/-- The elements that have an MI: kind as in the monitor table, element number and MI (R57). -/
def RigMap.monitors (m : RigMap) : List (Nat × (Nat × Nat)) :=
  (m.cellRecs.zipIdx.filter (fun x => bitAt x.1 45)).map (fun x => (1, (x.2, bits x.1 32 13)))
  ++ (m.portRecs.zipIdx.filter (fun x => bitAt x.1 29)).map (fun x => (if x.2 < m.ports then 2 else 3, (x.2, bits x.1 16 13)))

/-- MODE of the record of a drive kind. -/
def RigMap.modeOf (m : RigMap) (kind : Nat) : Nat := leNat (slice (m.elecOf kind) 1 1)

/-- Kinds that the CELLS and PORTS sections use (R49). -/
def RigMap.kindsUsed (m : RigMap) : List Nat :=
  ((m.drives.map Prod.fst) ++ (m.monitors.map (fun (d : Nat × (Nat × Nat)) => 0x10 + d.1))).eraseDups

/-! ### The checks of R54 -/

/-- Steps 1 to 3, on the 64 header bytes: 0 or the reason. -/
def rigHeaderReject (img : List Byte) : Nat :=
  let dirs := leNat (slice img 0x0E 2)
  if img.take 4 ≠ [0x43, 0x5A, 0x52, 0x4D] then 2
  else if crc32c (slice img 0 0x3C) ≠ leNat (slice img 0x3C 4) then 3
  else if leNat (slice img 4 2) ≠ 2 ∨ leNat (slice img 6 2) ≠ 64 ∨ leNat (slice img 0x0C 2) ≠ 0x40 ∨ dirs = 0 ∨ 16 < dirs
      ∨ rigLen img < 0x40 + 16 * dirs ∨ 0xFF00 < rigLen img then 4
  else 0

/-- Is the directory sound (step 5)? -/
def rigDirectoryOk (img : List Byte) : Bool :=
  let d := rigDirectory img
  let start := 0x40 + 16 * d.length
  d.all (fun x => Nat.ble 1 x.type && Nat.ble x.type 7 && x.ver == 1 && x.off % 16 == 0 && Nat.ble start x.off && Nat.ble (x.off + x.len) (rigLen img))
    && decide ((d.map (fun x => x.type)).Nodup)
    && [1, 3, 4, 6, 7].all (fun t => d.any (fun x => x.type == t))
    && d.all (fun x => d.all (fun y => x.type == y.type || Nat.ble (x.off + x.len) y.off || Nat.ble (y.off + y.len) x.off))

/-- Do the sections have the lengths of their formats (step 7)? -/
def rigLengthsOk (img : List Byte) : Bool :=
  let topo := rigSection img 1
  topo.length == 16 && (rigSection img 3).length % 16 == 0 && (rigSection img 4).length == 160 && (rigSection img 5).length % 8 == 0
    && (rigSection img 6).length == 6 * leNat (slice topo 6 2) && (rigSection img 7).length == 8 * leNat (slice topo 8 2)

/-- The link blocks of a stage table (R70). -/
def RigMap.links (m : RigMap) : List (List Nat) :=
  (records (2 * m.ports) (m.stages - 1) (m.stageTable.drop 8)).map (fun b => (records 2 m.ports b).map leNat)

/-- Does the stage table meet R70? -/
def RigMap.stageTableOk (m : RigMap) : Bool :=
  let t := m.stageTable
  leNat (slice t 0 1) == m.stages && leNat (slice t 1 1) == m.n && leNat (slice t 2 2) + 1 == m.stages
    && t.length == 8 + 2 * m.ports * (m.stages - 1) && m.links.all (fun l => sortNat l == List.range m.ports)

/-- Does the topology meet R47 and R70 (step 9)? DESIGN CHOICE (log 110): the reserved bytes of the section are not looked at,
since the breaks that R47 names do not cover them. -/
def RigMap.topologyOk (m : RigMap) (hasTable : Bool) : Bool :=
  Nat.ble m.kind 2 && Nat.ble 3 m.n && Nat.ble m.n 9 && m.ports == 2 ^ m.n && m.cps == m.ports / 2 && m.cells == m.stages * m.cps
    && (if m.kind = 0 then m.stages + 1 == 2 * m.n else if m.kind = 1 then m.stages == 2 * m.n else Nat.ble 1 m.stages && Nat.ble m.stages 32)
    && (hasTable == (m.kind == 2)) && (m.kind != 2 || m.stageTableOk)

/-- Kind codes of R49. -/
def rigKinds : List Nat := [0x01, 0x02, 0x03, 0x04, 0x11, 0x12, 0x13]

/-- The hold loops a rig map requires: one per thermal actuator and per port attenuator (R41). -/
def RigMap.loops (m : RigMap) : Nat := m.drives.countP (fun d => d.1 != 2)

/-- The first failing step of R54, as its reason; 0 for a valid image. DEDUCED (log 118): the counts of R41 in step 11 are those of
the elements that have a DO or an MI, so that an image with more of them than DO fails there and not with step 12. -/
def rigReject (img serial : List Byte) : Nat :=
  let m := RigMap.of img
  let dos := m.drives.map (fun d => d.2.2)
  let mis := m.monitors.map (fun d => d.2.2)
  let lines := m.sense.map (fun r => leNat (slice r 0 1))
  if rigHeaderReject img ≠ 0 then rigHeaderReject img
  else if crc32c (slice img 0x40 (rigLen img - 0x40)) ≠ rigCrc img then 3
  else if !rigDirectoryOk img then 4
  else if (rigDirectory img).any (fun d => crc32c (slice img d.off d.len) != d.crc) then 3
  else if !rigLengthsOk img then 4
  else if rigSerial img ≠ serial then 5
  else if !m.topologyOk (rigSection? img 2).isSome then 0xA
  else if !(m.elec.all (fun e => rigKinds.contains e.1) && decide ((m.elec.map (fun e => e.1)).Nodup)
      && m.kindsUsed.all (fun k => Tab.has m.elec k)) then 4
  else if 5120 < m.cells ∨ 6144 < m.loops ∨ 10240 < dos.length ∨ 6144 < mis.length ∨ dos.any (fun d => Nat.ble 10240 d) ∨ mis.any (fun i => Nat.ble 6144 i)
      ∨ lines.any (fun l => Nat.blt 31 l) ∨ 32 < lines.length then 6
  else if !(decide dos.Nodup && decide mis.Nodup && decide lines.Nodup) then 7
  else if !m.portRecs.all (fun r => bitAt r 14) then 8
  else if !(m.elec.all (fun e => Nat.ble 0x10 e.1 || m.modeOf e.1 == 1 || m.modeOf e.1 == 2)
      && (!Tab.has m.elec 3 || m.modeOf 3 == 1) && (!Tab.has m.elec 1 || m.modeOf 1 == 2)
      && m.drives.all (fun d => m.modeOf d.1 != 2 || bitAt (m.groups.getD (d.2.2 / 64) 0) 7)) then 9
  else 0

/-! ### The factory block (R44) -/

/-- Is FB_MAGIC correct? -/
def factoryMagicOk (b : List Byte) : Bool := b.take 4 == [0x43, 0x5A, 0x54, 0x46]

/-- Is FB_CRC correct? -/
def factoryCrcOk (b : List Byte) : Bool := crc32c (slice b 0 252) == leNat (slice b 252 4)

/-- SERIAL of the factory block. -/
def factorySerial (b : List Byte) : List Byte := slice b 4 16

/-! ### The fabric in force -/

/-- The fabric of the rig map in force: the voted RG_TOPO fields, with the stage table of a generic network (R70). -/
def SideState.fabric (s : SideState) : Fabric :=
  { kind := s.get RG_TOPO.KIND
    n := s.get RG_TOPO.LOG2N
    stages := s.get RG_TOPO.STAGES
    links := if s.get RG_TOPO.KIND = 2 then (RigMap.of s.rigImage).links else [] }

end Sys2Proof.Machine
end

