-- ==== Sys2Proof/Machine/Tracks.lean ====
section
/-! DEFINITION. The tracking entries (R20, R28 to R32, R38): their states and ends, working slots, aborts and cancellations,
and the status frames they bring (R293). -/

namespace Sys2Proof.Machine

/-- The code of a tracking state (R28). -/
def CueState.code : CueState → Nat
  | .free => 0
  | .checking => 1
  | .solving => 2
  | .tracing => 3
  | .ready => 4
  | .armed => 5
  | .settling => 6
  | .settled => 7
  | .rejected => 8
  | .unsolved => 9
  | .traceFail => 10
  | .aborted => 11
  | .missed => 12
  | .cancelled => 13
  | .rehearsed => 14
  | .kept => 15

/-- Is this a terminal state (R28)? -/
def CueState.terminal (c : CueState) : Bool := Nat.ble 7 c.code

/-- The performance counter of a state a cue reaches (R364). -/
def CueState.counter : CueState → Option Nat
  | .rejected => some 66
  | .unsolved => some 69
  | .traceFail => some 70
  | .armed => some 71
  | .settled => some 72
  | .aborted => some 73
  | .missed => some 74
  | .cancelled => some 75
  | .rehearsed => some 76
  | .kept => some 77
  | .free => none
  | .checking => none
  | .solving => none
  | .tracing => none
  | .ready => none
  | .settling => none

/-- A tracking entry; an unused one is FREE. -/
def SideState.trk (s : SideState) (e : Nat) : TrkEntry := Tab.getD s.pipe.trk e {}

/-- The 32 tracking entries with their numbers. -/
def SideState.tracks (s : SideState) : List (Nat × TrkEntry) := (List.range 32).map (fun e => (e, s.trk e))

/-- SC_TRK_STAT of an entry (R38). -/
def TrkEntry.stat (t : TrkEntry) : Nat := t.state.code + t.reason * 0x10 + t.bkResult * 0x100 + t.sceneId * 0x10000

/-- SC_PIPE_STAT follows the entries (R37). -/
def SideState.showPipe (s : SideState) : SideState :=
  let s := s.set SC_PIPE_STAT.INFLIGHT (s.tracks.countP (fun p => p.2.state.inFlight && !p.2.rehearse))
  s.set SC_PIPE_STAT.SETTLING (s.tracks.countP (fun p => p.2.state == .settling))

/-- Writes a tracking entry, with its TRK record where its status or E changes (R235). -/
def SideState.setTrk (s : SideState) (e : Nat) (t : TrkEntry) : SideState :=
  let old := s.trk e
  let s := { s with pipe := { s.pipe with trk := Tab.put s.pipe.trk e t } }
  let s := if old.stat = t.stat ∧ old.eff = t.eff then s else s.emit (recTrk e t.stat t.eff)
  s.showPipe

/-- Entries in flight (R23): change and recall cues and rehearsals from their check until ARMED, and curtain cues that wait. -/
def SideState.flying (s : SideState) : List (Nat × TrkEntry) := s.tracks.filter (fun p => p.2.state.inFlight)

/-- Non-rehearsal change and recall cues in flight, the cues of the ordering of R24. -/
def SideState.ordered (s : SideState) : List (Nat × TrkEntry) :=
  s.flying.filter (fun p => !p.2.rehearse && (p.2.kind == .change || p.2.kind == .recall))

/-- Every non-rehearsal cue in flight (R23), curtain cues among them. -/
def SideState.queued (s : SideState) : List (Nat × TrkEntry) := s.flying.filter (fun p => !p.2.rehearse)

/-- Entries in rising or falling order of their check. -/
def byOrder (l : List (Nat × TrkEntry)) : List (Nat × TrkEntry) :=
  (sortNat (l.map (fun p => p.2.order * 32 + p.1))).filterMap (fun k => (Tab.get? l (k % 32)).map (fun t => (k % 32, t)))

/-! ### Status frames (R293) -/

/-- The fields of a status frame. -/
structure Status where
  conn : Nat
  connId : Nat
  srcNode : Nat
  seq : Nat
  eff : Nat
  sceneId : Nat
  slot : Nat
  mac : Nat
  vid : Nat
  aux : Nat
  deriving DecidableEq, Repr

/-- Is COMPAT high (R10)? The lead's strap governs the package (R394). -/
def SideState.compat (s : SideState) : Bool :=
  if s.isUnderstudy then s.power.leadCompat.getD (s.is ID_STRAP.COMPAT) else s.is ID_STRAP.COMPAT

/-- The payload of a status frame: header, CHECK over it (R289), and TAG where the connection has AUTH (R290). -/
def SideState.statusPayload (s : SideState) (r : Status) : List Byte :=
  let head := beBytes 1 (if s.compat then 1 else 2) ++ beBytes 1 8 ++ beBytes 1 0 ++ beBytes 1 1 ++ beBytes 4 r.connId
    ++ beBytes 2 (s.get CQ_NODE.NODE_ID) ++ beBytes 2 r.srcNode ++ beBytes 4 r.seq ++ beBytes 6 (s.netNow / 1000000000)
    ++ beBytes 4 (s.netNow % 1000000000) ++ beBytes 4 0 ++ beBytes 2 0 ++ beBytes 8 r.eff
  let tail := if s.compat then beBytes 1 r.sceneId ++ beBytes 1 r.slot ++ beBytes 1 0 ++ beBytes 1 0
    else beBytes 2 r.sceneId ++ beBytes 1 r.slot ++ beBytes 1 0
  let p := head ++ tail ++ beBytes 4 r.aux
  let p := p ++ beBytes 4 (crc32cFrom r.connId p)
  if s.is (CQ_CONN_CFG.AUTH.bank r.conn) then
    p ++ (hmacSha256 (Tab.getD s.nvm.keys (s.get (CQ_CONN_CFG.KEY.bank r.conn)) []) p).take 16
  else p

/-- The lead sends a status frame from P0 (R293). -/
def SideState.sendStatus (s : SideState) (r : Status) : SideState :=
  if s.leads then
    s.receiveFrame 0 true (beBytes 6 r.mac ++ beBytes 6 s.ownMac ++ beBytes 2 0x8100 ++ beBytes 2 (6 * 8192 + r.vid)
      ++ beBytes 2 (s.get QS_CUE.ETYPE) ++ s.statusPayload r)
  else s

/-- The status word of a tracking entry. -/
def TrkEntry.statusWord (t : TrkEntry) : Nat :=
  t.state.code * 2 ^ 28 + t.reason * 2 ^ 24 + t.detail * 2 ^ 16 + t.bkResult * 2 ^ 8

/-- The status frame of an entry, if its cue asked for replies. -/
def SideState.reply (s : SideState) (e : Nat) : SideState :=
  let t := s.trk e
  if t.reply then s.sendStatus ⟨t.conn, t.connId, t.srcNode, t.seq, t.eff, t.cueScene, e, t.srcMac, t.vid, t.statusWord⟩ else s

/-! ### Predicted scenes and the engine's results (R24, R71, R79 to R83) -/

/-- The latest cue in flight or armed that is ordered before `order`. -/
def SideState.predictedEntry (s : SideState) (order : Nat) : Option TrkEntry :=
  let l := s.tracks.filter (fun p => (p.2.state.inFlight || p.2.state == .armed) && !p.2.rehearse && p.2.slot.isSome && Nat.blt p.2.order order)
  (byOrder l).getLast?.map Prod.snd

/-- The predicted scene of a cue (R24): the target of that cue as its working slot holds it; a curtain that is still to come
after it takes its place, as slot 255 (R85, R215). Without either it is the active scene (none). -/
def SideState.predictedSlot (s : SideState) (order : Nat) : Option Nat :=
  let e := s.predictedEntry order
  match s.watch.curtainAt with
  | none => e.bind (fun t => t.slot)
  | some c =>
    match e with
    | none => if order = 0 then none else some 255
    | some t => if t.eff < c then some 255 else t.slot

/-- The connections of a predicted scene; a curtain that is not traced is the empty scene (R85). -/
def SideState.predictedConns (s : SideState) (order : Nat) : List Conn :=
  match s.predictedSlot order with
  | none => s.activeConns
  | some n => if n = 255 ∧ !s.is SW_STAT.CURTAIN_TRACED then [] else s.slotConns n

/-- The cell settings of a predicted scene. -/
def SideState.predictedCell (s : SideState) (order c : Nat) : Nat :=
  match s.predictedSlot order with
  | none => s.activeCell c
  | some n =>
    if n = 255 ∧ !s.is SW_STAT.CURTAIN_TRACED then cellIdle
    else if s.hasFlag n flagSOLVED then s.slotCell n c else cellIdle

/-- P of the solve of a cue: its predicted scene; a rehearsal, which takes no part in the ordering, is solved against the
active scene. -/
def SideState.sceneP (s : SideState) (t : TrkEntry) : SceneView :=
  let order := if t.rehearse then 0 else t.order
  { conns := s.predictedConns order
    cells := (List.range s.cells).map (fun c => s.predictedCell order c) }

/-- BK_BUDGET.TOTAL as it acts (R82). -/
def SideState.solveTotal (s : SideState) : Nat := clampNat 256 3280 (s.get BK_BUDGET.TOTAL)

/-- Is a pair pinned by the policy? -/
def SideState.policyPins (s : SideState) (c : Conn) : Bool :=
  match s.watch.policy with
  | some p => p.pins.contains (c.input, c.output)
  | none => false

/-- The solve of a tracking entry (R71 to R82); the pins are those of P and the marks of the policy (R71). -/
def SideState.solveOf (s : SideState) (e : Nat) : SolveResult :=
  let t := s.trk e
  let cfg : SolveConfig := ⟨s.is BK_CTRL.INCR_EN, s.get BK_CTRL.INCR_MAX, s.get BK_BUDGET.INCR, s.solveTotal, s.is BK_CTRL.ATTEMPT2_EN⟩
  match t.slot with
  | none => ⟨0x13, [], [], [stepLoad, stepWrite], 0, false, false⟩
  | some n =>
    if s.rigged then
      s.fabric.solve (s.sceneP t) ((s.slotConns n).map (fun (c : Conn) => { c with pin := s.policyPins c })) t.dist cfg
    else (⟨0x13, [], [], [stepLoad, stepWrite], 0, false, false⟩ : SolveResult).within cfg.total

/-- An entry of a disturbance list as a 64-bit word (R80). -/
def DistEntry.toWord (d : DistEntry) : Nat :=
  d.input + d.output * 2 ^ 16 + d.stage * 2 ^ 25 + (if d.pinned then 2 ^ 30 else 0) + d.id * 2 ^ 32

/-- The disturbance area of an entry is written, or cannot be (R80). -/
def SideState.writeArea (s : SideState) (e code cycles : Nat) (list : List DistEntry) : SideState :=
  let base := s.get BK_DIST_ADDR.ADDR * 4096
  if base = 0 then s
  else if base < 0x10000000 ∨ 0x10800000 < base + 0x40000 then (s.evt 0x0C 5).raise 0x64
  else
    let head := leBytes 2 list.length ++ leBytes 1 code ++ leBytes 1 e ++ leBytes 2 (s.trk e).sceneId ++ leBytes 2 cycles
    s.wrBytes (base + e * 8192) (head ++ (list.map (fun d => leBytes 8 d.toWord)).flatten)

/-- A solve for an entry ends in the engine: its registers, events and counters, and its area (R79, R80, R86, R87). -/
def SideState.engineEnd (s : SideState) (e code cycles incr : Nat) (list : List DistEntry) (attempt2 byIncr : Bool) : SideState :=
  let s := { s with pipe := { s.pipe with solving := none } }
  let s := ((((s.set BK_STAT.BUSY 0).set BK_STAT.STEP 0).set BK_STAT.LEVEL 0).set BK_STAT.ENTRY 0).set BK_STAT.CURTAIN 0
  let s := s.writeArea e code cycles list
  let s := ((s.set BK_LAST.RESULT code).set BK_LAST.DIST_COUNT list.length).set BK_LAST.ENTRY e
  let s := (s.setB BK_LAST.ATTEMPT2 attempt2).setB BK_LAST.BY_INCR byIncr
  let s := ((s.set BK_LAST_CYC.CYCLES cycles).set BK_LAST_CYC.INCR_CYC incr).count 78 cycles
  let s := { s with pipe := { s.pipe with trk := Tab.put s.pipe.trk e { s.trk e with bkResult := code } } }
  let s := s.evt 0x0C 0
  let s := if code = 1 then s.count 67 1 else if code = 2 then ((s.evt 0x0C 1).bump BK_CNT.DIST 1).count 68 1 else s
  let s := if 0x10 ≤ code ∧ code ≤ 0x14 then (s.evt 0x0C 2).bump BK_CNT.UNSOLVED 1 else s
  if code = 0x11 then (s.evt 0x0C 3).raise 0x62 else if code = 0x20 then s.evt 0x0C 4 else s

/-- The steps of a solve up to the one in progress after a number of cycles, that one included. -/
def stepsRun : List EngineStep → Nat → List EngineStep
  | [], _ => []
  | c :: t, now => c :: (if now ≤ c.cost then [] else stepsRun t (now - c.cost))

/-- The engine's cycles at the present instant: one lasts 2.5 ns, from 0.2 µs into the beat (R82). -/
def SideState.engineNow (s : SideState) : Nat := (s.off - 200) * 2 / 5

/-- A running solve is stopped at its next step boundary; the engine writes the header of the area and nothing to the slot
(R83). -/
def SideState.engineAbort (s : SideState) (e : Nat) : SideState :=
  let r := s.solveOf e
  let cycles := stepsCost (stepsRun r.steps s.engineNow)
  s.engineEnd e 0x20 cycles (min cycles r.incr) [] false false

/-! ### Ends of cues -/

/-- Sends the EDGE record of a cell (R235). -/
def SideState.emitEdge (s : SideState) (c : Nat) : SideState :=
  s.emit (recEdge c (s.t ET.PHYS c) (s.t ET.MISS c) (s.t ET.E_EDGE c) (s.t ET.E_BEAT c))

/-- The staging of one cell is undone: its edge-table words, and the ramp step it replaced. -/
def SideState.unstageCell (s : SideState) (p : CellPlan) : SideState :=
  let s := (s.wrBytes (ET.PHYS.addr p.cell) p.saved).emitEdge p.cell
  match s.eDo p.cell with
  | none => s
  | some d =>
    let s := if p.edge.isSome then s.withdrawDo d else s
    match p.ramp with
    | none => s
    | some v => { s with scene := { s.scene with rampStaged := Tab.put s.scene.rampStaged p.cell v } }.emit (recDoStaged d v)

/-- A curtain cue that waits for its curtain or is armed with it. -/
def TrkEntry.awaitsCurtain (t : TrkEntry) : Bool := t.kind == .curtain && (t.state.inFlight || t.state == .armed)

/-- Does a requested curtain stay when the cue of an entry goes: another cue waits for it, or something else asked (R214)? -/
def SideState.curtainStays (s : SideState) (e : Nat) : Bool :=
  s.watch.curtainHeld || s.tracks.any (fun p => p.1 != e && p.2.awaitsCurtain)

/-- A curtain that only the cue of an entry had asked for is withdrawn with it (R13, R32). -/
def SideState.withdrawCurtain (s : SideState) (e : Nat) : SideState :=
  if s.curtainStays e then s
  else { s.set SW_STAT.CURTAIN_PEND 0 with watch := { s.watch with curtainAt := none, curtainArmed := false } }

/-- Everything the cue has staged is discarded, and a solve that runs for it is stopped (R32, R83); a staged curtain that
stays goes on under another entry that waits for it. DESIGN CHOICE: a solve whose cue ends by something other than an abort
ends as an abort ends it, with result 0x20 (log 108). -/
def SideState.unstage (s : SideState) (e : Nat) : SideState :=
  let stays := s.curtainStays e
  let heir := (s.tracks.find? (fun p => p.1 != e && p.2.awaitsCurtain)).map Prod.fst
  let gone (g : Staged) : Bool := g.entry == some e && !(g.slot == 255 && stays)
  let mine := s.scene.staged.filter gone
  let s := mine.foldl (fun (s : SideState) (g : Staged) => g.cells.foldl SideState.unstageCell s) s
  let left := (s.scene.staged.filter (fun g => !gone g)).map (fun (g : Staged) =>
    if g.entry == some e then { g with entry := heir } else g)
  let s : SideState := { s with scene := { s.scene with staged := left } }
  if s.pipe.solving = some (.entry e) then s.engineAbort e else s

/-- An entry reaches a terminal state: counted, its working slot released unless it is REHEARSED, its gate closed, and its
status frame sent. -/
def SideState.closeCue (s : SideState) (e : Nat) (st : CueState) (reason : Nat) : SideState :=
  let s := s.unstage e
  let t := s.trk e
  let s := { s with pipe := { s.pipe with endCount := s.pipe.endCount + 1 } }
  let s := s.setTrk e { t with
    state := st
    reason := reason
    gate := false
    slot := if st = .rehearsed then t.slot else none
    ended := s.pipe.endCount }
  let s := s.evt 0x0B 0
  let s := if st = .cancelled then s.evt 0x0B 3 else s
  let s := match st.counter with
    | some k => s.count k 1
    | none => s
  s.reply e

/-- A cue that leaves the ordering ends; with a curtain cue goes the curtain that nothing else asked for. -/
def SideState.dropCue (s : SideState) (e : Nat) (st : CueState) (reason : Nat) : SideState :=
  let curtain := (s.trk e).awaitsCurtain
  let s := s.closeCue e st reason
  if curtain then s.withdrawCurtain e else s

/-- A cue ends; where it leaves the ordering without firing, every later-ordered cue in flight is cancelled with reason CHAIN
(R24). -/
def SideState.endCue (s : SideState) (e : Nat) (st : CueState) (reason : Nat) : SideState :=
  let t := s.trk e
  let chain := !t.rehearse && (t.state.inFlight || t.state == .armed)
  if chain then
    let s := s.dropCue e st reason
    (byOrder s.queued).reverse.foldl
      (fun (s : SideState) p => if t.order < p.2.order then s.dropCue p.1 .cancelled 1 else s) s
  else s.closeCue e st reason

/-- Has the arming cutoff of beat E − 1 not passed for an entry: it is in flight, or armed earlier in this scene window? One whose E has
come, as a takeover finds it, has passed it. -/
def SideState.beforeItsCutoff (s : SideState) (t : TrkEntry) : Bool :=
  t.state.inFlight || (t.state == .armed && s.beforeCutoff && Nat.blt s.beatNo t.eff)

/-- Cancels cues with one reason, the latest first (R30). -/
def SideState.cancelAll (s : SideState) (reason : Nat) (which : TrkEntry → Bool) : SideState :=
  (byOrder (s.tracks.filter (fun p => which p.2))).reverse.foldl (fun (s : SideState) p => s.closeCue p.1 .cancelled reason) s

/-- A curtain request or the entry into degraded mode cancels every cue that has not passed its arming cutoff (R30); curtain
cues stay. -/
def SideState.cancelUnarmed (s : SideState) (reason : Nat) : SideState :=
  s.cancelAll reason (fun t => t.kind != .curtain && s.beforeItsCutoff t)

/-! ### Working slots (R20) -/

/-- The working slots held. -/
def SideState.heldSlots (s : SideState) : List Nat := s.activeSlot :: s.tracks.filterMap (fun p => p.2.slot)

/-- The first free working slot. -/
def SideState.freeSlot (s : SideState) : Option Nat :=
  ((List.range 15).map (fun i => 240 + i)).find? (fun n => !s.heldSlots.contains n)

/-- The oldest REHEARSED entry that holds a slot. -/
def SideState.oldestRehearsed (s : SideState) : Option Nat :=
  let l := s.tracks.filter (fun p => p.2.state == .rehearsed && p.2.slot.isSome)
  (sortNat (l.map (fun p => p.2.ended * 32 + p.1))).head?.map (fun k => k % 32)

/-- Takes a working slot, reclaiming the oldest REHEARSED one if none is free; its plan goes with it (R20, R176). -/
def SideState.takeSlot (s : SideState) : SideState × Option Nat :=
  match s.freeSlot with
  | some n => (s, some n)
  | none =>
    match s.oldestRehearsed with
    | none => (s, none)
    | some e => (s.setTrk e { s.trk e with slot := none, plan := none }, (s.trk e).slot)

/-- The entry a new cue takes (R28): a FREE one, else the terminal one that ended first; none without either. -/
def SideState.openEntry (s : SideState) : Option Nat :=
  match (List.range 32).find? (fun e => (s.trk e).state == .free) with
  | some e => some e
  | none =>
    let l := s.tracks.filter (fun p => p.2.state.terminal)
    (sortNat (l.map (fun p => p.2.ended * 32 + p.1))).head?.map (fun k => k % 32)

/-! ### Aborts (R31, R32, R39) -/

/-- An abort of an entry at the present instant. -/
def SideState.abortEntry (s : SideState) (e : Nat) : SideState :=
  let t := s.trk e
  let s := s.set SC_ABORT_STAT.ENTRY e
  if s.beforeItsCutoff t then (s.set SC_ABORT_STAT.RESULT 1).endCue e .aborted 0
  else if t.state = .armed ∨ t.state = .settling then (s.set SC_ABORT_STAT.RESULT 2).evt 0x0B 2
  else s.set SC_ABORT_STAT.RESULT 0

/-- SC_ABORT (R39): the write itself is the abort. -/
def execScAbort (sd : Side) (m : Master) (v : Word) (s : State) : Host.Outcome State Fault Refusal :=
  .next (s.side sd (fun x => x.live (fun x => x.regWrite 0x0B060 m (fun x => x.abortEntry (v.toNat % 32)))))

end Sys2Proof.Machine
end

