-- ==== Sys2Proof/Machine/Engine.lean ====
section
/-! DEFINITION. The blocking engine's commands (R71 to R87), and the stage watch's trace (R207, R216). -/

namespace Sys2Proof.Machine

/-! ### The trace of a slot (R207) -/

/-- The 4,096-byte vector over which DIGEST is computed (R204). -/
def digestVector (conns : List Conn) : List Byte :=
  ((List.range 512).map (fun q =>
    match conns.find? (fun c => c.output == q) with
    | some c => leBytes 8 c.toWord
    | none => List.replicate 8 0)).flatten

/-- DIGEST of a list of connections. -/
def digestOf (conns : List Conn) : Nat := crc32c (digestVector conns)

/-- PATH: the OUTPUT of the first connection that does not arrive. -/
def SideState.pathFailure (s : SideState) (n : Nat) : Option Nat :=
  ((s.slotConns n).find? (fun c =>
    match s.fabric.trace (s.slotCell n) c.input with
    | some (q, _) => q != c.output
    | none => true)).map (fun c => c.output)

/-- PIN: the OUTPUT of the first kept connection with PIN whose path differs from that in the predicted scene. -/
def SideState.pinFailure (s : SideState) (n : Nat) (p : SceneView) : Option Nat :=
  let f := s.fabric
  ((s.slotConns n).find? (fun c =>
    c.pin && (f.keptOf p c).isSome
      && (f.trace (s.slotCell n) c.input).map (fun r => r.2) != (f.trace p.cell c.input).map (fun r => r.2))).map (fun c => c.output)

/-- IDLE: the first cell that no traced path passes and that is not idle. -/
def SideState.idleFailure (s : SideState) (n : Nat) : Option Nat :=
  let used := ((s.slotConns n).filterMap (fun c => (s.fabric.trace (s.slotCell n) c.input).map (fun r => r.2.map (fun h => h.cell)))).flatten
  (List.range s.cells).find? (fun c => s.slotCell n c != cellIdle && !used.contains c)

/-- Does the slot's CHECK match (R21)? -/
def SideState.checkOk (s : SideState) (n : Nat) : Bool := decide (s.slotCount n ≤ 512) && s.rd (slotBase n + 8) 4 == s.slotCheck n

/-- The first failing trace check of an entry: its code and index. -/
def SideState.traceFailure (s : SideState) (t : TrkEntry) (n : Nat) : Option (Nat × Nat) :=
  match s.pathFailure n with
  | some q => some (1, q)
  | none =>
    match s.pinFailure n (s.sceneP t) with
    | some q => some (2, q)
    | none =>
      match s.idleFailure n with
      | some c => some (3, c)
      | none =>
        if !s.checkOk n then some (4, 0)
        else
          match t.admission with
          | none => some (5, 0)
          | some a =>
            if a.kind ≠ t.kind ∨ a.eff ≠ t.eff then some (5, 0)
            else if a.digest ≠ digestOf (s.slotConns n) then some (6, 0)
            else none

/-! ### Solves -/

/-- Is an entry ready to solve in this beat? -/
def SideState.readyToSolve (s : SideState) (t : TrkEntry) : Bool := t.state == .solving && Nat.ble t.nextBeat s.beatNo

/-- The earliest ready rehearsal. -/
def SideState.nextRehearsal (s : SideState) : Option Nat :=
  ((byOrder (s.flying.filter (fun p => p.2.rehearse && s.readyToSolve p.2))).head?).map Prod.fst

/-- The entry the engine takes (R24, R84): the earliest-ordered ready cue if no earlier-ordered one is still in SOLVING, or a
rehearsal when no cue waits. -/
def SideState.nextSolve (s : SideState) : Option Nat :=
  match byOrder (s.ordered.filter (fun p => p.2.state == .solving)) with
  | p :: _ => if s.readyToSolve p.2 then some p.1 else s.nextRehearsal
  | [] => s.nextRehearsal

/-- Is the engine free to take a solve in this beat? It takes one in each beat (R84). -/
def SideState.engineFree (s : SideState) : Bool := s.pipe.solving.isNone && s.pipe.engineAt != some s.produced

/-- Solves, traces and pre-checks run on the lead, from 0.2 µs to the arming cutoff (R14, R26). -/
def SideState.stageTime (s : SideState) : Bool := s.leads && !s.stopped && (s.win == .loop || s.win == .scene)

/-- The engine reads the cell table and a slot (R422). -/
def SideState.readSlot (s : SideState) (n : Nat) : SideState := (s.scrubRange 0x30040000 0x14000).scrubRange (slotBase n) 0x2000

/-- SOLVE (R84). -/
def execSolve (sd : Side) (s : State) : Host.Outcome State Fault Refusal :=
  .next (s.side sd (fun x => x.live (fun x =>
    match x.nextSolve with
    | none => x
    | some e =>
      if !x.stageTime || !x.engineFree then x
      else
        let x := { x with pipe := { x.pipe with solving := some (.entry e), engineAt := some x.produced, curtainCycles := none } }
        let x := x.readSlot ((x.trk e).slot.getD x.activeSlot)
        let first := ((x.solveOf e).steps.headD stepLoad).code
        (((x.set BK_STAT.BUSY 1).set BK_STAT.STEP first).set BK_STAT.LEVEL 0).set BK_STAT.ENTRY e)))

/-- STEP and LEVEL at the present instant (R86). -/
def SideState.engineStep (s : SideState) (l : List EngineStep) : EngineStep := (stepsRun l s.engineNow).getLastD stepWrite

/-- The solve of slot 255: FRESH, no pins, against an empty P, at most 3,280 cycles (R85). -/
def SideState.curtainSolve (s : SideState) : SolveResult :=
  s.fabric.solve ⟨[], []⟩ ((s.slotConns 255).map (fun (c : Conn) => { c with pin := false })) 2
    ⟨false, 0, 0, 3280, s.is BK_CTRL.ATTEMPT2_EN⟩

/-- BK_STAT as it reads (R85, R86): the step in progress, of the curtain solve too while its time runs. -/
def SideState.engineView (s : SideState) (w : Nat) : Nat :=
  match s.pipe.solving with
  | some (.entry e) =>
    let k := s.engineStep (s.solveOf e).steps
    putBits (putBits w 1 3 k.code) 4 4 k.level
  | _ =>
    match s.pipe.curtainCycles with
    | some n =>
      if s.pipe.engineAt = some s.produced ∧ s.engineNow < n then
        let k := s.engineStep s.curtainSolve.steps
        1 + k.code * 2 + k.level * 16 + 2 ^ 13
      else w
    | none => w

/-- A solved result goes into the working slot: CELLS, SOLVED and CHECK (R22, R73). -/
def SideState.writeResult (s : SideState) (n : Nat) (cells : List Nat) : SideState :=
  let s := s.countDiag (2 * Master.blockingEngine.code) (Config.engineTransfers Master.blockingEngine.code 0x2000)
  let s := (s.writeCells n cells).setFlag n flagSOLVED true
  (s.emitMem (slotBase n) 16).emitMem (slotBase n + 0x1010) 1280

/-- Does a result let the cue go on (R72, R79)? -/
def solveAccepted (code dist : Nat) : Bool := code == 1 || (code == 2 && (dist == 1 || dist == 2))

/-- A solve for an entry has ended with a result: the area and the engine's registers first, then the cue's state (R80). -/
def SideState.solveEnds (s : SideState) (e : Nat) (r : SolveResult) (fault : Option Nat) : SideState :=
  let t := s.trk e
  let s := if r.code = 1 ∨ r.code = 2 then (match t.slot with | some n => s.writeResult n r.cells | none => s) else s
  let cycles := if r.code = 0x11 then s.solveTotal else r.cycles
  let list := if r.code = 2 ∨ r.code = 0x10 then r.list else []
  let s := s.engineEnd e r.code cycles (min cycles r.incr) list r.attempt2 r.byIncr
  let s := match fault with
    | some src => s.raise src
    | none => s
  if solveAccepted r.code t.dist then
    s.setTrk e { s.trk e with state := .tracing, nextBeat := s.beatNo + 1, repeated := false }
  else s.endCue e .unsolved 0

/-- SOLVE_DONE (R79). A memory error found in the engine's working memory gives FAULT (injection point 0x02); the step in progress
is charged in full, and WRITE (R81). -/
def execSolveDone (sd : Side) (memoryFault : Bool) (s : State) : Host.Outcome State Fault Refusal :=
  .next (s.side sd (fun x => x.live (fun x =>
    match x.pipe.solving with
    | some (.entry e) =>
      if !x.stageTime then x
      else
        let r := x.solveOf e
        if memoryFault then
          let run := stepsRun (r.steps.filter (fun k => k.code != 7)) x.engineNow
          let r : SolveResult := ⟨0x14, [], [], run ++ [stepWrite], min r.incr (stepsCost run), false, false⟩
          (x.solveEnds e (r.within x.solveTotal) none).checkAt 0x02 false
        else
          let x := x.checkAt 0x02 true
          x.solveEnds e r (if r.code = 0x14 then some 0x61 else none)
    | some .curtain => x
    | none => x)))

/-- SOLVE_BUDGET (R82): the count has reached TOTAL before WRITE was complete. -/
def execSolveBudget (sd : Side) (s : State) : Host.Outcome State Fault Refusal :=
  .next (s.side sd (fun x => x.live (fun x =>
    match x.pipe.solving with
    | some (.entry e) =>
      let r := x.solveOf e
      if !x.stageTime || r.code != 0x11 then x else x.solveEnds e r none
    | some .curtain => x
    | none => x)))

/-- REHEARSAL_WAIT_EXPIRY (R84). -/
def execRehearsalWaitExpiry (sd : Side) (entry : Nat) (s : State) : Host.Outcome State Fault Refusal :=
  .next (s.side sd (fun x => x.live (fun x =>
    let t := x.trk entry
    if x.leads && t.rehearse && t.state == .solving && x.pipe.solving != some (.entry entry) && Nat.ble (t.waitFrom + 64) x.produced then
      x.endCue entry .missed 1
    else x)))

/-! ### The curtain scene (R85, R216) -/

/-- The stage watch traces slot 255 with PATH, IDLE and CHECK (R216). -/
def SideState.traceCurtain (s : SideState) : SideState :=
  if (s.pathFailure 255).isNone && (s.idleFailure 255).isNone && s.checkOk 255 then s.set SW_STAT.CURTAIN_TRACED 1
  else (s.set SW_STAT.CURTAIN_TRACED 0).raise 0x72

/-- Slot 255 is solved and traced (R85). -/
def SideState.solveCurtain (s : SideState) (memoryFault : Bool) : SideState :=
  let s := s.readSlot 255
  let r := s.curtainSolve
  let ok := r.code == 1 && !memoryFault && s.hasFlag 255 flagVALID
  let s := { s with pipe := { s.pipe with
    curtainOwed := false, engineAt := some s.produced, curtainCycles := some (min 3280 r.cycles), curtainFailed := !ok } }
  let s := s.count 78 (min 3280 r.cycles)
  let s := s.checkAt 0x02 (!memoryFault)
  let s := (s.raiseIf (r.code == 0x14 && !memoryFault) 0x61).raiseIf (r.code == 0x11 && !memoryFault) 0x62
  if ok then (s.writeResult 255 r.cells).traceCurtain
  else (s.set SW_STAT.CURTAIN_TRACED 0).raise 0x63

/-- CURTAIN_SOLVE (R85): in the first beat in which the engine has no cue to solve. -/
def execCurtainSolve (sd : Side) (memoryFault : Bool) (s : State) : Host.Outcome State Fault Refusal :=
  .next (s.side sd (fun x => x.live (fun x =>
    let inTime := x.get TW_ROLE.ROLE != 0 && (x.win == .loop || x.win == .scene)
    if inTime && x.power.firmware && x.pipe.curtainOwed && x.engineFree && x.nextSolve.isNone && x.rigged then x.solveCurtain memoryFault
    else x)))

end Sys2Proof.Machine
end

