-- ==== Sys2Proof/Machine/CalBase.lean ====
section
/-! DEFINITION. The queue of calibration and the ends of its runs that other chapters bring about (R183, R192). The runs
themselves stand in Calibration. -/

namespace Sys2Proof.Machine

/-- CA_STAT follows the queue and the runs (R201). -/
def SideState.showCal (s : SideState) : SideState :=
  ((s.setB CA_STAT.RUNNING (!s.cal.runs.isEmpty)).set CA_STAT.ACTIVE (min 255 s.cal.runs.length)).set CA_STAT.PENDING
    (min 32767 s.cal.queue.length)

/-- Queues work; the same work, if it is queued already, then counts for what either was queued for. -/
def SideState.queueJob (s : SideState) (j : CalJob) : SideState :=
  let same (q : CalJob) : Bool := q.dout == j.dout && q.kind == j.kind
  let join (q : CalJob) : CalJob :=
    if same q then { q with round := q.round || j.round, trimRound := q.trimRound || j.trimRound, host := q.host || j.host } else q
  if s.cal.queue.any same then { s with cal := { s.cal with queue := s.cal.queue.map join } }
  else ({ s with cal := { s.cal with queue := s.cal.queue ++ [j] } }).showCal

/-- A trigger of the stage manager queues work (R192); not once its watchdog has expired (R374). -/
def SideState.trigger (s : SideState) (j : CalJob) : SideState := if s.managed then s.queueJob j else s

/-- Every loop's DO. -/
def SideState.loopDos (s : SideState) : List Nat := (List.range s.loopCount).map (fun l => s.t LT.DO l)

/-- Is every element of the rig surveyed (R192)? -/
def SideState.allSurveyed (s : SideState) : Bool := s.loopDos.all (fun d => s.cal.surveyed.contains d)

/-- Once every named element has a committed survey, SURVEY_DONE is set and CURTAIN_ONLY ends (R192). -/
def SideState.surveysDone (s : SideState) : SideState :=
  if s.allSurveyed && !s.is CA_STAT.SURVEY_DONE then
    let s := ((s.set CA_STAT.SURVEY_DONE 1).set RG_STAT.CURTAIN_ONLY 0).evt 0x0E 6
    { s with cal := { s.cal with replaced := false } }
  else s

/-- T_tile in 1/16 °C: the mean of the valid tile lines, or that of the lead's controller-die sensors where there is none, a failed one
by its substitute (R192, R315, R317). Means round toward zero. -/
def SideState.tileMean (s : SideState) : Int :=
  let lines := (s.therm.channels.filter (fun p => Nat.ble 32 p.1 && Nat.blt p.1 64 && p.2.valid)).map (fun p => p.2.value)
  let die := (s.therm.channels.filter (fun p => Nat.blt p.1 24 && (p.2.valid || p.2.subst))).map (fun p => p.2.value)
  meanInt (if lines.isEmpty then die else lines)

/-- T_tile in 0.01 °C. -/
def SideState.tileTemp (s : SideState) : Int := divTrunc (s.tileMean * 25) 4

/-- A round of TRIM over every loop, then one PROBE per cell; not while such a round runs (R192). A stage-0 cell is the
reference of a PROBE and is not probed (R190). -/
def SideState.queueRound (s : SideState) : SideState :=
  if s.cal.round.isSome then s
  else
    let s := { s with cal := { s.cal with round := some s.tileTemp } }
    let s := s.loopDos.foldl (fun s d => s.queueJob ⟨d, .trim, true, false, false⟩) s
    (List.range s.cells).foldl (fun s c =>
      match s.eDo c with
      | some e => if c < s.ports / 2 then s else s.queueJob ⟨e, .probe, true, false, false⟩
      | none => s) s

/-- A TRIM round of every loop, which CA_REQ asks for (R192, R201). -/
def SideState.queueTrimRound (s : SideState) : SideState :=
  s.loopDos.foldl (fun s d => s.queueJob ⟨d, .trim, false, true, false⟩)
    { s with cal := { s.cal with trimRound := some s.tileTemp } }

/-- The slot map and the channel setting that a probe changed are staged again for the next boundary (R190). -/
def SideState.restoreMonitor (s : SideState) (r : CalRun) : SideState :=
  match r.restore with
  | none => s
  | some (map, range, wide) =>
    let g := r.mi / 64
    { s with mon := { s.mon with
      mapPending := s.mon.mapPending.filter (fun p => p.group != g) ++ [⟨g, map, s.produced + 1⟩]
      setPending := s.mon.setPending.filter (fun p => p.mi != r.mi) ++ [⟨r.mi, range, wide, s.produced + 1⟩] } }

/-- A run ends without results; DO it still holds are released, but for those in `keep`, which their new owner has. -/
def SideState.dropRun (s : SideState) (r : CalRun) (keep : List Nat) : SideState :=
  let s := { s with cal := { s.cal with runs := s.cal.runs.filter (fun q => q.job.dout != r.job.dout) } }
  let s := s.restoreMonitor r
  (r.taken.map Prod.fst).foldl (fun s d => if s.own d = .cal && !keep.contains d then s.release d else s) s

/-- A run ends ABORTED: its results are discarded and the element is queued again (R183). -/
def SideState.abortRun (s : SideState) (r : CalRun) (keep : List Nat) : SideState :=
  let s := (((s.dropRun r keep).bump CA_CNT.ABORT 1).count 110 1).evt 0x0E 1
  (s.queueJob r.job).showCal

/-- The active run that has taken a DO. -/
def SideState.runOf (s : SideState) (d : Nat) : Option CalRun := s.cal.runs.find? (fun r => r.taken.any (fun p => p.1 == d))

/-- Every active run ends ABORTED at T1 (R183). -/
def SideState.abortRuns (s : SideState) : SideState := s.cal.runs.foldl (fun s r => s.abortRun r []) s

/-- Every active run ends ABORTED at a takeover; its DO are the new lead's (R183). -/
def SideState.yieldRuns (s : SideState) : SideState := s.cal.runs.foldl (fun s r => s.abortRun r (r.taken.map Prod.fst)) s

/-- A cue armed for the element of a DO ends a calibration run or a host's override of it (R151). -/
def SideState.preempt (s : SideState) (d : Nat) : SideState :=
  if s.own d = .cal ∨ s.own d = .man then
    let s := match s.runOf d with
      | some r => s.abortRun r [d]
      | none => s
    (s.evt 0x16 3).bump HL_CNT2.PREEMPT 1
  else s

/-- A loop is reported outside its band (R192): source 0x51 queues a TRIM of its element. -/
def SideState.bandTrigger (s : SideState) (l : Nat) : SideState :=
  if s.leads && s.is CA_CTRL.AUTO_OOB then s.trigger ⟨s.t LT.DO l, .trim, false, false, false⟩ else s

/-- An evaluation after wake (R192): a loop outside its band from wake for 16 evaluations has its element trimmed. -/
def SideState.wakeTrigger (s : SideState) (l : Nat) (out : Bool) : SideState :=
  match Tab.get? s.cal.wakeOob l with
  | none => s
  | some n =>
    if !out then { s with cal := { s.cal with wakeOob := Tab.del s.cal.wakeOob l } }
    else if n + 1 < 16 then { s with cal := { s.cal with wakeOob := Tab.put s.cal.wakeOob l (n + 1) } }
    else ({ s with cal := { s.cal with wakeOob := Tab.del s.cal.wakeOob l } }).trigger ⟨s.t LT.DO l, .trim, false, false, false⟩

end Sys2Proof.Machine
end

