-- ==== Sys2Proof/Machine/Loops.lean ====
section
/-! DEFINITION. The hold-loop engine (R140 to R149) and relay auto-tune (R154 to R156). -/

namespace Sys2Proof.Machine

/-! ### The two laws -/

/-- STEP of a loop; 0 acts as 1. -/
def SideState.stepOf (s : SideState) (l : Nat) : Nat := max 1 (s.t LT.STEP l)

/-- The extremum step; on the E_DO it is STEP_E (R143). -/
def SideState.extremumStep (s : SideState) (l : Nat) : Nat := if s.tis LT.ACT l then max 1 (s.t LT.STEP_E l) else s.stepOf l

/-- INTERVAL in force (R141). -/
def SideState.intervalOf (s : SideState) (l : Nat) : Nat :=
  max 1 (if s.tis LT.ACT l then s.t LT.INTERVAL_E l else s.t LT.INTERVAL l)

/-- Is the law extremum hold? -/
def SideState.isExtremum (s : SideState) (l : Nat) : Bool := s.t LT.LAW l == 2

/-- The monitored value y of a valid sample word (R130, R141). -/
def SideState.loopValue (s : SideState) (l w : Nat) : Nat :=
  if s.isExtremum l && s.tis LT.POL l then 4095000 - sampleNV w else sampleNV w

/-- Is y outside the band; the extremum law starts its search here (R142, R143). -/
def SideState.outside (s : SideState) (l y : Nat) : SideState × Bool :=
  let mark := s.t LT.MARK l
  let band := s.t LT.BAND l
  if s.isExtremum l then
    if s.tis LT.SRCH l then (s, decide (mark < y))
    else if y ≤ mark + band then (s, false)
    else ((s.tset LT.SRCH l 1).tset LT.LOWEST l y, true)
  else (s, decide (band < ((y : Int) - mark).natAbs))

/-- The step of a loop in codes (R142, R143). -/
def SideState.lawStep (s : SideState) (l y : Nat) : SideState × Int :=
  let band := s.t LT.BAND l
  if s.isExtremum l then
    let low := s.t LT.LOWEST l
    let s := if y < low then s.tset LT.LOWEST l y
      else if low + band < y then (s.tset LT.DIRST l (1 - s.t LT.DIRST l)).tset LT.LOWEST l y
      else s
    (s, if s.tis LT.DIRST l then (s.extremumStep l : Int) else -(s.extremumStep l : Int))
  else
    let e := (y : Int) - s.t LT.MARK l
    let far := if s.t LT.STEP_FAR l = 0 then s.stepOf l else s.t LT.STEP_FAR l
    let m : Int := if 8 * band < e.natAbs then far else s.stepOf l
    (s, if decide (0 < e) = s.tis LT.DIR l then -m else m)

/-- Notes how an evaluation found its signal (R170). -/
def SideState.noteEval (s : SideState) (l : Nat) (e : LastEval) : SideState :=
  { s with loops := { s.loops with lastEval := Tab.put s.loops.lastEval l e, evalNow := insertNat l s.loops.evalNow } }

/-- An evaluation without a valid sample (R141). -/
def SideState.blindEval (s : SideState) (l : Nat) : SideState :=
  let inv := min 255 (s.t LT.INV l + 1)
  let s := ((s.tset LT.INV l inv).bump HL_CNT.BLIND 1).count 82 1
  let s := s.noteEval l .invalid
  if inv = max 1 (s.get HL_CTRL.INV_MAX) then (s.evt 0x16 0).raise 0x50 else s

/-- The step of an evaluation that found y outside the band, if it is due (R141). -/
def SideState.dueStep (s : SideState) (l y : Nat) : SideState :=
  let now := s.beatNo % 65536
  if (now + 65536 - s.t LT.LAST l) % 65536 < s.intervalOf l then s
  else
    let r := s.lawStep l y
    let s := r.1
    let a := s.actuator l
    let s := s.scrubWords [DT.LIMIT_HI.addr a]
    let v := (s.base a : Int) + r.2
    let lo := s.t DT.LIMIT_LO a
    let hi := s.t DT.LIMIT_HI a
    let sat := decide (v < lo) || decide ((hi : Int) < v)
    let s := if sat && !s.tis LT.SAT l then (s.evt 0x16 1).raise 0x52 else s
    let s := if sat then s.bump HL_CNT.SAT 1 else s
    let s := s.tset LT.SAT l (if sat then 1 else 0)
    let s := if s.mode a = 0 then s else s.writeBase a (clampInt lo hi v).toNat
    (s.tset LT.LAST l now).count 81 1

/-- HOLD_LOOP_EVAL (R141): one evaluation with its readable sample word. -/
def SideState.evaluate (s : SideState) (l : Nat) : SideState :=
  let s := if s.loops.fresh.contains l then
      { s.tset LT.LAST l (s.beatNo % 65536) with loops := { s.loops with fresh := dropNat l s.loops.fresh } }
    else s
  let w := s.sample (s.t LT.MI l)
  if sampleValid w ≠ 0 then s.blindEval l
  else
    let s := s.tset LT.INV l 0
    let y := s.loopValue l w
    let r := s.outside l y
    let s := r.1
    if r.2 then
      let n := min 65535 (s.t LT.OOBCNT l + 1)
      let s := ((s.tset LT.OOBCNT l n).bump HL_CNT2.OOB 1).noteEval l .outside
      let s := if n = max 1 (s.get HL_OOB_MAX.BEATS) then ((s.evt 0x16 2).raise 0x51).bandTrigger l else s
      (s.dueStep l y).wakeTrigger l true
    else (((s.tset LT.OOBCNT l 0).tset LT.SRCH l 0).noteEval l .inBand).wakeTrigger l false

/-! ### Relay auto-tune (R154 to R156) -/

/-- CYCLES in force. -/
def SideState.tuneCycles (s : SideState) : Nat := max 2 (s.get HL_AT_CTRL.CYCLES)

/-- Replaces a running tuning run. -/
def SideState.putTune (s : SideState) (r : TuneRun) : SideState :=
  { s with loops := { s.loops with tunes := s.loops.tunes.map (fun t => if t.loop = r.loop then r else t) } }

/-- The integer square root, built from its 32 bits. -/
def isqrt (n : Nat) : Nat :=
  (List.range 32).foldl (fun r i => if (r + 2 ^ (31 - i)) * (r + 2 ^ (31 - i)) ≤ n then r + 2 ^ (31 - i) else r) 0

/-- π in units of 10⁻¹⁵. -/
def piScaled : Nat := 3141592653589793

/-- The quotient rounded to the nearest integer. -/
def roundDiv (a b : Nat) : Nat := if b = 0 then 0 else (2 * a + b) / (2 * b)

/-- The results of a run that has measured its periods (R155); it then ends and the DO returns to LOOP. -/
def SideState.finishTune (s : SideState) (r : TuneRun) : SideState :=
  let n := s.tuneCycles
  let span := (r.marks.getD (n + 1) 0) - (r.marks.getD 1 0)
  let ext := s.isExtremum r.loop
  let sum := ((r.swings.drop (if ext then 2 else 1)).take n).foldl (fun a b => a + b) 0
  let band := s.t LT.BAND r.loop
  let step := if sum = 0 then 1023
    else if ext then (isqrt (4 * r.amp * r.amp * band * n / (2 * sum)) + 1) / 2
    else roundDiv (4 * r.amp * band * n * 10 ^ 15) (piScaled * sum)
  let step := clampNat 1 1023 step
  let far := if ext then 0 else min 1023 (4 * step)
  let interval := clampNat 1 255 ((span + 4 * n - 1) / (4 * n))
  let s := (s.set HL_AT_RES0.PERIOD (min 65535 (16 * span / n))).set HL_AT_RES1.SWING (min (2 ^ 22 - 1) (sum / n))
  let s := ((s.set HL_AT_RES2.STEP step).set HL_AT_RES2.STEP_FAR far).set HL_AT_RES2.INTERVAL interval
  let s := if !r.apply then s
    else if s.tis LT.ACT r.loop then (s.loopSet LT.STEP_E r.loop step).loopSet LT.INTERVAL_E r.loop interval
    else
      let s := (s.loopSet LT.STEP r.loop step).loopSet LT.INTERVAL r.loop interval
      if ext then s else s.loopSet LT.STEP_FAR r.loop far
  (s.endTune r 1 0).toLoop r.dout

/-- The relay writes its value. -/
def SideState.relay (s : SideState) (d : Nat) (v : Int) : SideState :=
  let s := s.scrubWords [DT.LIMIT_HI.addr d]
  if s.mode d = 0 then s else s.writeBase d (clampInt (s.t DT.LIMIT_LO d) (s.t DT.LIMIT_HI d) v).toNat

/-- One evaluation of a loop under auto-tune (R154, R156); an extremum relay reverses on DIRST and LOWEST of the entry (R143). -/
def SideState.tuneEval (s : SideState) (r : TuneRun) : SideState :=
  let l := r.loop
  let w := s.sample (s.t LT.MI l)
  if sampleValid w ≠ 0 then s.blindEval l
  else
    let s := s.tset LT.INV l 0
    let y := s.loopValue l w
    let mark := s.t LT.MARK l
    let band := s.t LT.BAND l
    let away := if s.isExtremum l then decide (mark + 4 * band < y) else decide (4 * band < ((y : Int) - mark).natAbs)
    if s.elementLit r.dout && away then ((s.endTune r 3 5).toLoop r.dout).raise 0x54
    else if s.isExtremum l then
      let s := if r.begun then s else s.tset LT.LOWEST l y
      let low := s.t LT.LOWEST l
      let turn := decide (low + band < y)
      let r : TuneRun := { r with
        begun := true
        marks := if turn then r.marks ++ [s.beatNo] else r.marks
        swings := if turn then r.swings ++ [y - low] else r.swings }
      let s := (s.lawStep l y).1
      let s := s.relay r.dout (if s.tis LT.DIRST l then (s.base r.dout : Int) + r.amp else (s.base r.dout : Int) - r.amp)
      if s.tuneCycles + 2 ≤ r.marks.length then s.finishTune r else s.putTune r
    else
      let above := decide (mark ≤ y)
      let rising := above && r.above == some false
      let r : TuneRun := { r with
        above := some above
        marks := if rising then r.marks ++ [s.beatNo] else r.marks
        swings := if rising && !r.marks.isEmpty then r.swings ++ [r.hi - r.lo] else r.swings
        hi := if rising then y else max r.hi y
        lo := if rising then y else min r.lo y }
      let plus := decide ((!above) = s.tis LT.DIR l)
      let s := s.relay r.dout (if plus then (r.base0 : Int) + r.amp else (r.base0 : Int) - r.amp)
      if s.tuneCycles + 2 ≤ r.marks.length then s.finishTune r else s.putTune r

/-- AUTOTUNE_START (R154): a write of HL_AT_REQ; with GO it starts a run or is refused. -/
def execAutotuneStart (sd : Side) (m : Master) (v : Word) (s : State) : Host.Outcome State Fault Refusal :=
  .next (s.side sd (fun x => x.live (fun x => x.regWrite 0x17044 m (fun x =>
    let x := x.writeRw 0x17044 v.toNat
    if !bitAt v.toNat 31 then x
    else
      let l := bits v.toNat 0 13
      let d := x.t LT.DO l
      let refuse (r : Nat) : SideState := (x.set HL_AT_STAT.RESULT 2).set HL_AT_STAT.REASON r
      if x.loops.tunes.any (fun t => t.loop % 32 == l % 32) then refuse 1
      else if x.loopCount ≤ l ∨ x.own d ≠ .loop then refuse 2
      else if x.elementLit d && !x.is HL_AT_CTRL.LIVE then refuse 3
      else if x.get TH_STAT.STEP ≠ 0 then refuse 4
      else
        let r : TuneRun :=
          { loop := l, dout := d, started := false, base0 := x.base d, amp := max 1 (bits v.toNat 16 10),
            apply := bitAt v.toNat 13, start := x.produced, above := none, begun := false, hi := 0,
            lo := 2 ^ 22, marks := [], swings := [] }
        let x := { x with loops := { x.loops with tunes := x.loops.tunes ++ [r] } }
        ((x.set HL_AT_STAT.RESULT 4).set HL_AT_STAT.REASON 0).set HL_AT_STAT.ACTIVE x.loops.tunes.length))))

/-- Accepted runs take their DO into TUNE at the boundary, behind every other owner (R152, R154). -/
def SideState.tunesAtBoundary (s : SideState) : SideState :=
  (s.loops.tunes.filter (fun t => !t.started)).foldl (fun s r =>
    if s.own r.dout = .loop then
      let s := s.putTune { r with started := true, base0 := s.base r.dout, start := s.produced }
      (s.toOwn r.dout .tune).set (LN_STAT.TUNING.inLane (r.loop % 32)) 1
    else s.endTune r 3 7) s

/-- AUTOTUNE_TIMEOUT (R156): a run of TMAX beats ends ABORTED. -/
def execAutotuneTimeout (sd : Side) (loop : Nat) (s : State) : Host.Outcome State Fault Refusal :=
  .next (s.side sd (fun x => x.live (fun x =>
    match x.loops.tunes.find? (fun t => t.loop == loop && t.started) with
    | none => x
    | some r => if x.produced < r.start + x.get HL_AT_CTRL.TMAX then x else (x.endTune r 3 6).toLoop r.dout)))

/-- Every run in progress ends ABORTED with a reason: THROTTLE at the entry to T1, PREEMPT at a takeover (R151, R154). -/
def SideState.abortTunes (s : SideState) (reason : Nat) : SideState :=
  s.loops.tunes.foldl (fun s r => let s := s.endTune r 3 reason; if s.own r.dout = .tune then s.toLoop r.dout else s) s

/-! ### The engine (R144 to R149) -/

/-- Is the loop evaluated: enabled, and its actuator in LOOP, TUNE or EO_HOLD (R150)? After a takeover or intermission a loop
waits for a valid sample (R151). -/
def SideState.evaluable (s : SideState) (l : Nat) : Bool :=
  let o := s.own (s.actuator l)
  s.tis LT.EN l && (if s.tis LT.ACT l then o == .eoHold else o == .loop || o == .tune)
    && (!s.is HL_STAT.OPEN || sampleValid (s.sample (s.t LT.MI l)) == 0)

/-- Is position `p` due in this beat at the throttle step (R149)? -/
def SideState.positionDue (s : SideState) (p : Nat) : Bool :=
  match s.get TH_STAT.STEP with
  | 2 => s.beatNo % 2 == p % 2
  | 3 => s.beatNo % 4 == p % 4
  | _ => true

/-- A lane in its loop window: the loops it still has to evaluate, the cycles used and the evaluations made. -/
structure LaneWork where
  lane : Nat
  todo : List Nat
  used : Nat
  made : Nat
  deriving DecidableEq, Repr

/-- The loops of a lane in the order of R145 and R147: those deferred from the beat before, then the others due. -/
def SideState.laneWork (s : SideState) (lane : Nat) : LaneWork :=
  let old := Tab.getD s.loops.deferred lane []
  let all := (List.range ((s.loopCount + 31 - lane) / 32)).map (fun p => (p, p * 32 + lane))
  let due := (all.filter (fun p => s.positionDue p.1 && !old.contains p.2)).map (fun p => p.2)
  { lane := lane, todo := (sortNat old ++ due).filter s.evaluable, used := 0, made := 0 }

/-- A lane evaluates its next loop if it can end by 6.6 µs (R144, R146). Its read of the loop's entry is a check at injection
point 0x01 (R310). DESIGN CHOICE (log 139): the evaluation of a loop under auto-tune costs 48 cycles also where its read needs a
correction. -/
def SideState.laneStep (s : SideState) (capacity : Nat) (w : LaneWork) : SideState × LaneWork :=
  match w.todo with
  | [] => (s, w)
  | l :: rest =>
    let soft := (loopEntryWords l).any (fun a => s.eccSoft.contains a)
    let hard := s.entryBad l
    let run := s.loops.tunes.find? (fun t => t.loop == l && t.started)
    let cost := if run.isSome then 48 else if soft then 40 else 24
    if capacity < w.used + cost then (s, w)
    else
      let w : LaneWork := { w with todo := rest, used := w.used + cost, made := w.made + 1 }
      let s := s.count 80 1
      let s := if soft then
          ({ s with eccSoft := s.eccSoft.filter (fun a => !(loopEntryWords l).contains a) }.bump
            (LN_ECC.CORR.inLane w.lane) 1).count 124 1
        else s
      let s := s.checkAt 0x01 (!hard)
      if hard then
        let s := ((s.owe (loopEntryWords l)).bump (LN_ECC.UNCORR.inLane w.lane) 1).evt 0x16 5
        ({ s with loops := { s.loops with eccPending := insertNat l s.loops.eccPending } }, w)
      else
        match run with
        | some r => (s.tuneEval r, w)
        | none => (s.evaluate l, w)

/-- Every lane makes its next evaluation. -/
def SideState.lanesStep (s : SideState) (capacity : Nat) : List LaneWork → SideState × List LaneWork
  | [] => (s, [])
  | w :: t =>
    let r := s.laneStep capacity w
    let q := r.1.lanesStep capacity t
    (q.1, r.2 :: q.2)

/-- Evaluations until no lane has one left that fits: at most `n` on a lane. -/
def SideState.lanesRun (capacity : Nat) : Nat → SideState → List LaneWork → SideState × List LaneWork
  | 0, s, ws => (s, ws)
  | n + 1, s, ws =>
    let r := s.lanesStep capacity ws
    SideState.lanesRun capacity n r.1 r.2

/-- Does the engine evaluate loops: enabled, on the lead, with its converters running? -/
def SideState.loopsRun (s : SideState) : Bool := s.is HL_CTRL.EN && s.leads && s.is MI_STAT.CONV_RUN && s.rigged

/-- The cycles of a lane's 6.4 µs window (R144): those the command gives, as far as the clock allows them, 5,094 to 5,120 at
800 MHz and 3,820 to 3,840 at 600 MHz. -/
def SideState.laneCycles (s : SideState) (capacity : Nat) : Nat :=
  if s.get TH_STAT.STEP = 3 then clampNat 3820 3840 capacity else clampNat 5094 5120 capacity

/-- A window without evaluations: nothing is deferred, and the lanes show none (R160). -/
def SideState.idleLanes (s : SideState) : SideState :=
  (List.range 32).foldl (fun (s : SideState) n =>
    ((s.set (LN_STAT.DONE.inLane n) 0).set (LN_STAT.DEFER.inLane n) 0).set (LN_TIME.CYCLES.inLane n) 0)
    { s.set HL_STAT.RUN 0 with loops := { s.loops with deferred := [], evalNow := [] } }

/-- The loop window of the engine (R144 to R149). `capacity` is the number of cycles a lane has in the 6.4 µs window. -/
def SideState.runLoops (s : SideState) (capacity : Nat) : SideState :=
  if !s.loopsRun then s.idleLanes
  else
    let s := s.set HL_STAT.RUN 1
    let capacity := s.laneCycles capacity
    let ws := (List.range 32).map s.laneWork
    let s := ws.foldl (fun s w => s.set (LN_STAT.DEFER.inLane w.lane) (Tab.getD s.loops.deferred w.lane []).length) s
    let r := SideState.lanesRun capacity 384 { s with loops := { s.loops with deferred := [], evalNow := [] } } ws
    r.2.foldl (fun s w =>
      let s := (s.set (LN_STAT.DONE.inLane w.lane) w.made).set (LN_TIME.CYCLES.inLane w.lane) w.used
      if w.todo.isEmpty then s
      else { s with loops := { s.loops with deferred := Tab.put s.loops.deferred w.lane w.todo } }) r.1

/-- LOOP_OVERRUN (R15, R145): the loops not evaluated by 6.6 µs skip the beat and are counted. -/
def SideState.loopOverrun (s : SideState) : SideState :=
  s.loops.deferred.foldl (fun s p =>
    let s := ((s.bump (LN_CNT.OVR.inLane p.1) 1).bump (LN_CNT.SKIP.inLane p.1) p.2.length).count 83 p.2.length
    (s.evt (0x30 + p.1 % 32 / 16) (p.1 % 16)).raise 0x5C) s

end Sys2Proof.Machine
end

