-- ==== Sys2Proof/Machine/Edges.lean ====
section
/-! DEFINITION. Scene change (R161 to R178): planning and arming a cue, the edge, blanking, the handover and its ramp, stalls,
retries, and the reactions to cells that do not follow. -/

namespace Sys2Proof.Machine

/-! ### The plan of an edge (R162, R163, R167) -/

/-- Is the setting one that carries light? -/
def isLit (b : Nat) : Bool := b == cellBar || b == cellCross

/-- The scene a slot holds. -/
def SideState.slotView (s : SideState) (n : Nat) : SceneView :=
  { conns := s.slotConns n, cells := (List.range s.cells).map (fun c => s.slotCell n c) }

/-- The active scene. -/
def SideState.activeView (s : SideState) : SceneView :=
  { conns := s.activeConns, cells := (List.range s.cells).map (fun c => s.activeCell c) }

/-- The empty scene. -/
def SideState.emptyView (s : SideState) : SceneView := { conns := [], cells := List.replicate s.cells cellIdle }

/-- The path of a scene to an output: the cells, with the line each is entered by. -/
def Fabric.pathTo (f : Fabric) (v : SceneView) (q : Nat) : List Hop :=
  match v.conns.find? (fun c => c.output == q) with
  | none => []
  | some c => ((f.trace v.cell c.input).map Prod.snd).getD []

/-- The value a cell's E_DO would hold at the next boundary without the cue (R162). -/
def SideState.eNow (s : SideState) (c d : Nat) : Nat := Tab.getD s.scene.rampStaged c (s.base d)

/-- The cells that the paths of a scene pass, each with the line it is entered by. -/
def Fabric.hops (f : Fabric) (v : SceneView) : List Hop :=
  (v.conns.map (fun k => ((f.trace v.cell k.input).map Prod.snd).getD [])).flatten

/-- POL for a cell under a setting (R143): its lower lit input decides where the light leaves; `none` where no path passes. -/
def SideState.polFor (s : SideState) (f : Fabric) (v : SceneView) (c : Nat) : Option Bool :=
  let sides := ((f.hops v).filter (fun h => h.cell == c)).map (fun h => h.side)
  match (sortNat sides).head? with
  | none => none
  | some i => some (xor1 i (v.cell c) == s.t CT.TAP_SIDE c)

/-- The plan of one cell, `none` if its setting does not change. -/
def SideState.planCell (s : SideState) (f : Fabric) (v : SceneView) (c : Nat) : Option CellPlan :=
  let b := v.cell c
  if b = s.activeCell c then none
  else
    let pol := if isLit b then s.polFor f v c else none
    let saved := s.rdBytes (ET.PHYS.addr c) 12
    let ramp := Tab.get? s.scene.rampStaged c
    let still : CellPlan := { cell := c, setting := b, edge := none, clamped := false, dev := 0, pol := pol, saved := saved, ramp := ramp }
    match s.eDo c with
    | none => some still
    | some d =>
      if isLit b && s.t ET.PHYS c != b then
        let now := s.eNow c d
        let mid := s.t ET.E_MID c
        let raw : Int := if mid < now then (now : Int) - s.t ET.E_PI c else now + s.t ET.E_PI c
        let e := (clampInt (s.t DT.LIMIT_LO d) (s.t DT.LIMIT_HI d) raw).toNat
        some { still with edge := some e, clamped := decide ((e : Int) ≠ raw), dev := ((e : Int) - mid).natAbs }
      else some still

/-- The cells a scene changes. -/
def SideState.planCells (s : SideState) (v : SceneView) : List CellPlan :=
  (List.range s.cells).filterMap (s.planCell s.fabric v)

/-- The plan of one output, `none` if the cue does not affect it. One whose release from a second miss is due at the same boundary
is dark until then (R174). -/
def SideState.planOut (s : SideState) (v : SceneView) (cells : List CellPlan) (curtain : Bool) (q : Nat) : Option OutPlan :=
  let f := s.fabric
  let old := s.activeView
  let was := old.conns.find? (fun c => c.output == q)
  let now := v.conns.find? (fun c => c.output == q)
  let conn := was.map (fun c => c.input) != now.map (fun c => c.input)
  let path := f.pathTo old q ++ f.pathTo v q
  let toggles := path.any (fun h => cells.any (fun p => p.cell == h.cell && p.edge.isSome))
  if !(conn || toggles) then none
  else
    let dark := s.scene.missDark.contains q
    let released := s.scene.darkReleases.contains q
    let blank := (match now with
      | some c => c.blank
      | none => (match was with
        | some c => c.blank
        | none => false)) || s.is SH_CTRL.BLANK_ALL || curtain
    some { out := q, wasLit := was.isSome && !dark && !released, lit := now.isSome && (conn || !dark), blank := blank, conn := conn }

/-- The outputs a scene affects. -/
def SideState.planOuts (s : SideState) (v : SceneView) (cells : List CellPlan) (curtain : Bool) : List OutPlan :=
  (List.range s.ports).filterMap (s.planOut v cells curtain)

/-- The outputs that arming a scene stages; a dark curtain drives every output attenuator to its DARK code (R85). -/
def SideState.stagedOuts (s : SideState) (v : SceneView) (cells : List CellPlan) (curtain dark : Bool) : List OutPlan :=
  let outs := s.planOuts v cells curtain
  if !dark then outs
  else
    let rest := (List.range s.ports).filter (fun q => (s.attOf q).isSome && !outs.any (fun o => o.out == q))
    outs ++ rest.map (fun q => { out := q, wasLit := false, lit := false, blank := true, conn := true })

/-! ### Rehearsal (R176) -/

/-- The edge plan of a scene, as a rehearsal records it. -/
def SideState.rehearsalPlan (s : SideState) (n : Nat) : Plan :=
  let v := s.slotView n
  let cells := s.planCells v
  let outs := s.planOuts v cells false
  { cells := cells.length, toggles := cells.countP (fun p => p.edge.isSome), outs := outs.length,
    blanks := outs.countP (fun o => o.blank), clamps := cells.countP (fun p => p.clamped),
    maxDev := cells.foldl (fun a p => max a p.dev) 0 }

/-- The plan of a rehearsed entry is recorded, as SH_REH0 to SH_REH2 show it. -/
def SideState.recordPlan (s : SideState) (e : Nat) : SideState :=
  match (s.trk e).slot with
  | none => s
  | some n => (s.setTrk e { s.trk e with plan := some (s.rehearsalPlan n) }).evt 0x0D 6

/-! ### Arming (R162 to R164) -/

/-- SH_STAT follows the edge table. -/
def SideState.showHandovers (s : SideState) : SideState :=
  let ho := (List.range s.cells).map (fun c => s.t ET.HO c)
  (s.set SH_STAT.HO_ACTIVE (ho.countP (fun h => h == 1 || h == 2))).set SH_STAT.STALLED (ho.countP (fun h => h == 3))

/-- The words of the edge and drive tables that arming a cell reads. -/
def SideState.armWords (s : SideState) (c : Nat) : List Nat :=
  let edge := (List.range 4).map (fun i => 0x30088000 + 16 * c + 4 * i)
  match s.eDo c with
  | none => edge
  | some d => edge ++ (List.range 4).map (fun i => 0x30000000 + 16 * d + 4 * i)

/-- The ramp step staged for a cell's boundary is withdrawn (R162, R172). -/
def SideState.dropStep (s : SideState) (c : Nat) : SideState :=
  if Tab.has s.scene.rampStaged c then
    let s := { s with scene := { s.scene with rampStaged := Tab.del s.scene.rampStaged c } }
    match s.eDo c with
    | some d => s.withdrawDo d
    | none => s
  else s

/-- One changed cell is armed: its edge-table fields, and any ramp step staged for the boundary discarded. -/
def SideState.armCell (s : SideState) (eff : Nat) (p : CellPlan) : SideState :=
  let c := p.cell
  let s := s.dropStep c
  let s := s.tset ET.MISS c 0
  let s := match p.edge with
    | none => s
    | some e => ((s.tset ET.E_EDGE c e).tset ET.E_BEAT c (eff % 65536)).tset ET.PHYS c p.setting
  let s := s.emitEdge c
  let s := match p.edge, s.eDo c with
    | some e, some d => s.emit (recDoStaged d e)
    | _, _ => s
  if p.clamped then (s.evt 0x0D 3).raise 0x56 else s

/-- Stages a scene for the next boundary (R16, R162): every cell and output at once. -/
def SideState.stageScene (s : SideState) (entry : Option Nat) (n : Nat) (dark : Bool) (cells : List CellPlan)
    (outs : List OutPlan) : SideState :=
  let eff := s.beatNo + 1
  let s := cells.foldl (fun s p => s.armCell eff p) s
  let s := { s with scene := { s.scene with staged := s.scene.staged ++ [Staged.mk entry eff n dark cells outs] } }
  let s := ((s.set SH_LAST0.CELLS cells.length).set SH_LAST0.OUTS outs.length).setB SH_LAST0.BLANKED (outs.any (fun (o : OutPlan) => o.blank))
  let s := s.set SH_LAST0.ENTRY (entry.getD 0)
  (s.set SH_LAST1.TOGGLES (cells.countP (fun (p : CellPlan) => p.edge.isSome))).set SH_LAST1.CLAMP (cells.countP (fun (p : CellPlan) => p.clamped))

/-- A cause of degraded mode: DIGEST, SELFTEST or KEY1 and K1ST (R220), by its bit; it acts at the next boundary. -/
def SideState.degrade (s : SideState) (bit : Nat) : SideState :=
  { s with watch := { s.watch with degPending := Nat.lor s.watch.degPending (2 ^ bit) } }

/-- ARM for an entry whose effective beat is the next: its gate must be open (R203), and every entry needed readable (R164). -/
def SideState.armEntry (s : SideState) (e n : Nat) : SideState :=
  let t := s.trk e
  if !t.gate then (s.degrade 3).endCue e .missed 2
  else
    let v := s.slotView n
    let cells := s.planCells v
    let words := (cells.map (fun p => s.armWords p.cell)).flatten
    let bad := words.any (fun a => s.wordBad a)
    let s := ((s.owe words).scrubWords words).checkAt 0x03 (!bad)
    if bad then s.endCue e .missed 2
    else
      let s := s.stageScene (some e) n false cells (s.planOuts v cells false)
      let s := (s.setTrk e { s.trk e with state := .armed, gate := false }).count 71 1
      s.reply e

/-- ARM (R162): in the scene window of beat E − 1. -/
def execArm (sd : Side) (entry : Nat) (s : State) : Host.Outcome State Fault Refusal :=
  .next (s.side sd (fun x => x.live (fun x =>
    let t := x.trk entry
    if !x.leads || x.win != .scene || t.state != .ready || t.kind == .curtain || t.eff != x.beatNo + 1 then x
    else
      match t.slot with
      | none => x
      | some n => x.armEntry entry n)))

/-- The curtain is staged (R85, R215, R216): slot 255, or the empty scene where it is not traced. Curtain cues that asked for
it are ARMED with it. -/
def SideState.armCurtain (s : SideState) : SideState :=
  let dark := !s.is SW_STAT.CURTAIN_TRACED
  let v := if dark then s.emptyView else s.slotView 255
  let cells := s.planCells v
  let words := (cells.map (fun p => s.armWords p.cell)).flatten
  let bad := words.any (fun a => s.wordBad a)
  let s := ((s.owe words).scrubWords words).checkAt 0x03 (!bad)
  let mine := s.tracks.filter (fun p => p.2.kind == .curtain && p.2.state == .ready && p.2.eff == s.beatNo + 1)
  if bad then
    let s := { s with watch := { s.watch with curtainAt := none, curtainHeld := false } }
    mine.foldl (fun s p => s.endCue p.1 .missed 2) (s.set SW_STAT.CURTAIN_PEND 0)
  else
    let s := { s with watch := { s.watch with curtainArmed := true } }
    let s := s.stageScene (mine.head?.map Prod.fst) 255 dark cells (s.stagedOuts v cells true dark)
    mine.foldl (fun (s : SideState) p => ((s.setTrk p.1 { s.trk p.1 with state := .armed }).count 71 1).reply p.1) s

/-- CURTAIN_ARM (R215): in the scene window of the beat before its effective beat. -/
def execCurtainArm (sd : Side) (s : State) : Host.Outcome State Fault Refusal :=
  .next (s.side sd (fun x => x.live (fun x =>
    if x.leads && x.win == .scene && x.watch.curtainAt == some (x.beatNo + 1) && !x.watch.curtainArmed then x.armCurtain else x)))

/-! ### The request of a curtain (R214, R215) -/

/-- A curtain request in the present beat: effective two boundaries on, with every cue that has not passed its arming cutoff
cancelled (R215). A latching one sets the latch, also where the side does not lead (R217). A further request before it takes
effect adds nothing, but keeps it should the cue that asked first be aborted. -/
def SideState.askCurtain (s : SideState) (latch : Bool) : SideState :=
  let s := (if latch then s.setC SW_STAT.CURTAIN_LATCH 1 else s).count 111 1
  if !s.leads then s
  else
    let waits := match s.watch.curtainAt with
      | some c => Nat.blt s.beatNo c
      | none => false
    if waits then { s with watch := { s.watch with curtainHeld := true } }
    else
      let s := s.cancelUnarmed 2
      { s.set SW_STAT.CURTAIN_PEND 1 with watch := { s.watch with
        curtainAt := some (s.beatNo + 2), curtainArmed := false, curtainHeld := true, curtainDigest := digestOf (s.slotConns 255) } }

/-- A curtain request that bypasses key one (R214): it also wakes a side in intermission, in every role (R330). -/
def SideState.requestCurtain (s : SideState) (latch : Bool) : SideState :=
  let s := if s.get TH_INT_STAT.STATE = 1 then { s with therm := { s.therm with wakePending := some 2 } } else s
  s.askCurtain latch

/-! ### Outputs (R167, R168) -/

/-- The BASE an output takes where the table of R168 names RESUME, or LIMIT_HI without a loop. -/
def SideState.resumeOf (s : SideState) (d : Nat) : Nat :=
  match s.loopOf d with
  | some l => s.limit d (s.t LT.RESUME l)
  | none => s.t DT.LIMIT_HI d

/-- BASE is copied to RESUME when an output goes dark (R151). -/
def SideState.keepResume (s : SideState) (d : Nat) : SideState :=
  match s.loopOf d with
  | some l => s.loopSet LT.RESUME l (s.base d)
  | none => s

/-- A DO takes a value of the scene controller; an off DO takes none (R88). -/
def SideState.sceneValue (s : SideState) (d v : Nat) : SideState := if s.mode d = 0 then s else s.writeBase d v

/-- Is an output's attenuator one the scene controller may take: not in NONE (R151)? -/
def SideState.takesOut (s : SideState) (d : Nat) : Bool := s.named d && s.own d != .none

/-- An output goes to the scene controller, at DARK. -/
def SideState.darken (s : SideState) (q d : Nat) (toDark : Bool) : SideState :=
  let s := s.preempt d
  let s := if toDark && s.own d != .scene then s.keepResume d else s
  let s := s.toOwn d .scene
  s.sceneValue d (s.t PT.DARK (s.ports + q))

/-- A lit output takes its value and waits for its loop until a boundary; without a loop it stays in SCENE (R168). -/
def SideState.relight (s : SideState) (d value due : Nat) : SideState :=
  let s := s.preempt d
  match s.loopOf d with
  | some _ => (s.sceneValue d value).waitUntil d due
  | none => (s.toOwn d .scene).sceneValue d (s.t DT.LIMIT_HI d)

/-- The blanking interval of one output begins; `edge` is the produced boundary of its edge. DESIGN CHOICE (log 139): of an output in
TUNE the value kept is that of the relay, not B0. -/
def SideState.startBlank (s : SideState) (o : OutPlan) (edge : Nat) : SideState :=
  match s.attOf o.out with
  | none => s
  | some d =>
    if !s.takesOut d || s.scene.blanked.any (fun b => b.out == o.out && b.edge == edge) then s
    else
      let b : Blanked := { out := o.out, saved := s.base d, wasLit := o.wasLit, lit := o.lit, edge := edge }
      let s := { s with scene := { s.scene with blanked := s.scene.blanked ++ [b] } }
      s.darken o.out d (!o.lit)

/-- BLANK_START (R167): 9.0 µs into the beat before the edge. -/
def execBlankStart (sd : Side) (out : Nat) (s : State) : Host.Outcome State Fault Refusal :=
  .next (s.side sd (fun x => x.live (fun x =>
    let due := x.scene.staged.filter (fun (g : Staged) => g.eff == x.beatNo + 1)
    match (due.map (fun (g : Staged) => g.outs)).flatten.find? (fun o => o.out == out && o.blank) with
    | none => x
    | some o => if x.leads && x.win == .copy then (x.atOffset 9000).startBlank o (x.produced + 1) else x)))

/-- The end of a blanking interval (R168): an output that is connected is lit, unless a second miss keeps it dark (R174). -/
def SideState.endBlank (s : SideState) (b : Blanked) : SideState :=
  let s := { s with scene := { s.scene with blanked := s.scene.blanked.filter (fun x => x != b) } }
  match s.attOf b.out with
  | none => s
  | some d =>
    if s.own d ≠ .scene then s
    else if s.outLit b.out && !s.scene.missDark.contains b.out then
      s.relight d (if b.wasLit then b.saved else s.resumeOf d) (b.edge + s.holdoff)
    else s.sceneValue d (s.t PT.DARK (s.ports + b.out))

/-- BLANK_END (R168): 1.5 µs into the beat of the edge. -/
def execBlankEnd (sd : Side) (out : Nat) (s : State) : Host.Outcome State Fault Refusal :=
  .next (s.side sd (fun x => x.live (fun x =>
    match x.scene.blanked.find? (fun b => b.out == out && b.edge == x.produced) with
    | none => x
    | some b => (x.atOffset 1500).endBlank b)))

/-- A DO fires a cue edge at this boundary (R60, R165). -/
def SideState.fires (s : SideState) (d : Nat) : SideState :=
  { s with scene := { s.scene with edgesNow := insertNat d s.scene.edgesNow } }

/-- An affected output that is not blanked, at the boundary of the edge (R151, R165). -/
def SideState.edgeOut (s : SideState) (o : OutPlan) : SideState :=
  match s.attOf o.out with
  | none => s
  | some d =>
    if !s.takesOut d then s
    else if !o.lit then (if s.own d = .scene ∧ !o.wasLit then s else ((s.darken o.out d true).count 89 1).fires d)
    else if !o.wasLit then ((s.relight d (s.resumeOf d) (s.produced + s.holdoff)).count 89 1).fires d
    else s

/-! ### The edge (R165) -/

/-- A cell's handover is forgotten, with the retry or the stall that was due for it. -/
def SideState.dropHandover (s : SideState) (c : Nat) : SideState :=
  { s with
    scene := { s.scene with
      handovers := s.scene.handovers.filter (fun h => h.cell != c)
      stallPending := dropNat c s.scene.stallPending
      retries := dropNat c s.scene.retries
      rampStaged := Tab.del s.scene.rampStaged c
      refires := dropNat c s.scene.refires }
    cal := { s.cal with rampStart := Tab.del s.cal.rampStart c } }

/-- Sets the handover fields of a cell, with their HO record (R235). -/
def SideState.setHo (s : SideState) (c ho paused step pause : Nat) : SideState :=
  let s := (((s.tset ET.HO c ho).tset ET.PAUSED c paused).tset ET.RAMP_STEP c step).tset ET.PAUSE c pause
  s.emit (recHo c ho paused step pause)

/-- A trigger of the scene controller has fallen on a DO at this boundary, whatever its owner was (R152). -/
def SideState.took (s : SideState) (d : Nat) : SideState :=
  { s with scene := { s.scene with tookNow := insertNat d s.scene.tookNow } }

/-- The T_DO of a changed cell waits: any loop state, CAL or MAN passes to LOOP_WAIT; ACT := 0 (R151). DESIGN CHOICE (log 139): so does a
T_DO without a loop, with BASE held, where R138 speaks of the park value. -/
def SideState.loopWaits (s : SideState) (c : Nat) : SideState :=
  match s.tDo c with
  | none => s
  | some t =>
    let s := (s.preempt t).took t
    let s := if s.own t = .none then s else s.toOwn t .loopWait
    match s.loopOf t with
    | some l => s.loopSet LT.ACT l 0
    | none => s

/-- The E_DO of a cell is the scene controller's, with a value or holding. -/
def SideState.sceneHolds (s : SideState) (c : Nat) (v : Option Nat) : SideState :=
  match s.eDo c with
  | none => s
  | some e =>
    let s := ((s.preempt e).took e).toOwn e .scene
    match v with
    | none => s
    | some x => if s.mode e = 0 then s else s.putBase e x

/-- An edge gives a loop its POL (R143). Where it changes, the cell is queued for a TRIM once its handover has ended: at once where
it has none (R185, R192). -/
def SideState.polTo (s : SideState) (c l : Nat) (b owed : Bool) : SideState :=
  let was := s.tis LT.POL l
  let s := s.loopSet LT.POL l (if b then 1 else 0)
  if was = b then s
  else if owed then { s with cal := { s.cal with polTrims := insertNat c s.cal.polTrims } }
  else s.trigger ⟨s.t LT.DO l, .trim, false, false, false⟩

/-- One changed cell at the boundary of its edge (R151, R165, R169). -/
def SideState.edgeCell (s : SideState) (p : CellPlan) : SideState :=
  let c := p.cell
  let was := match s.eDo c with
    | some e => s.base e
    | none => 0
  let refire := p.edge.isNone && s.scene.refires.contains c
  let s := (s.dropHandover c).sceneHolds c p.edge
  let s := match s.eDo c with
    | some e => if refire then s.withdrawDo e else s
    | none => s
  let s := s.loopWaits c
  let s := match p.edge, s.eDo c with
    | some _, some e =>
      ((s.count 79 1).count 89 1).fires e
    | _, _ => s
  let s := { s with scene := { s.scene with edgeAt := Tab.put s.scene.edgeAt c s.produced } }
  let s := s.setHo c 0 0 0 0
  match s.eDo c, s.cellLoop c with
  | some _, some l =>
    if !isLit p.setting then s
    else
      let s := match p.pol with
        | some b => s.polTo c l b true
        | none => s
      let h : Handover :=
        { cell := c, ref := s.produced, edge := some s.produced, retry := false, up := Nat.blt was (p.edge.getD was),
          tainted := p.edge.isNone }
      { s with scene := { s.scene with handovers := s.scene.handovers ++ [h] } }
  | _, some l =>
    (match p.pol with
     | some b => if isLit p.setting then s.polTo c l b false else s
     | none => s)
  | _, none => s

/-- ACTIVE moves to the slot of the scene that takes effect, and the slot before is released (R22). -/
def SideState.activate (s : SideState) (n : Nat) (dark : Bool) : SideState :=
  let old := s.activeSlot
  let s := (s.setFlag old flagACTIVE false).setFlag n flagACTIVE true
  let s := (s.emitMem (slotBase old) 16).emitMem (slotBase n) 16
  let s := { s with scene := { s.scene with emptyActive := dark } }
  let s := (s.set SC_ACTIVE.SLOT n).setB SC_ACTIVE.CURTAIN (n == 255)
  s.set SC_ACTIVE.SCENE_ID (if n = 255 then 0xFFFF else s.slotId n)

/-- POL of the cells that carry light after an edge and keep their setting (R143). -/
def SideState.litPols (s : SideState) (v : SceneView) (changed : List Nat) : SideState :=
  let f := s.fabric
  let lit := (List.range s.cells).filter (fun c => isLit (v.cell c) && !changed.contains c)
  lit.foldl (fun (s : SideState) c =>
    match s.cellLoop c, s.polFor f v c with
    | some l, some b => s.polTo c l b (s.scene.handovers.any (fun h => h.cell == c))
    | _, _ => s) s

/-- At boundary E every staged value of a cue takes effect (R165). -/
def SideState.fireStaged (s : SideState) (g : Staged) : SideState :=
  let s := { s with scene := { s.scene with staged := s.scene.staged.filter (fun (x : Staged) => x != g) } }
  let s := (g.outs.filter (fun o => o.blank)).foldl (fun s o => s.startBlank o s.produced) s
  let s := g.cells.foldl SideState.edgeCell s
  let s := if g.dark then s else s.litPols (s.slotView g.slot) (g.cells.map (fun p => p.cell))
  let s := (g.outs.filter (fun o => !o.blank)).foldl SideState.edgeOut s
  let s := g.outs.foldl (fun (s : SideState) o => { s with scene := { s.scene with
    missDark := if o.conn then dropNat o.out s.scene.missDark else s.scene.missDark
    darkReleases := if o.conn || o.lit then dropNat o.out s.scene.darkReleases else s.scene.darkReleases
    darkStaged := if o.conn then dropNat o.out s.scene.darkStaged else s.scene.darkStaged
    edgeAt := Tab.put s.scene.edgeAt (0x10000 + s.ports + o.out) s.produced } }) s
  let s := (s.activate g.slot g.dark).evt 0x0D 0
  let cue := s.tracks.filter (fun p => p.2.state == .armed && p.2.eff == g.eff)
  cue.foldl (fun (s : SideState) p =>
    let s := s.setTrk p.1 { s.trk p.1 with state := .settling, slot := none }
    { s with scene := { s.scene with settling := s.scene.settling ++ [⟨p.1, s.produced, g.cells.map (fun x => x.cell), (g.cells.filter (fun x => x.edge.isSome)).map (fun x => x.cell)⟩] } }) s

/-- The cues whose effective beat has come (a takeover may find one that is past) fire. -/
def SideState.fireDue (s : SideState) : SideState :=
  let due := s.scene.staged.filter (fun (g : Staged) => g.eff ≤ s.beatNo)
  let s := due.foldl SideState.fireStaged s
  if due.any (fun (g : Staged) => g.slot == 255) then
    { s.set SW_STAT.CURTAIN_PEND 0 with watch := { s.watch with curtainAt := none, curtainArmed := false, curtainHeld := false } }
  else s

/-! ### The handover (R169 to R172) -/

/-- LEN and DWELL as they act (R178). -/
def SideState.hoLen (s : SideState) : Nat := clampNat 200 2000 (s.get SH_HO_CTRL.LEN)
def SideState.hoDwell (s : SideState) : Nat := max 1 (s.get SH_HO_CTRL.DWELL)

/-- The percentile P50 of integers (R180). -/
def medianInt (l : List Int) : Int := (sortInt l).getD ((l.length + 1) / 2 - 1) 0

/-- An update of a field held within a limit of the old value: the new value, and whether it was cut short (R179). -/
def limited (old new : Int) (limit : Nat) : Int × Bool :=
  let v := clampInt (old - limit) (old + limit) new
  (v, decide (v ≠ new))

/-- A result that its limit cut short (R179). -/
def SideState.clippedResult (s : SideState) : SideState := ((s.evt 0x0E 3).bump CA_CNT2.CLIPPED 1).raise 0xB1

/-- Is a pair of E_MID and E_PI one that may be committed (R186)? -/
def SideState.pairOk (s : SideState) (d : Nat) (mid pi : Int) : Bool :=
  decide ((s.t DT.LIMIT_LO d : Int) ≤ mid - pi) && decide (mid + pi ≤ s.t DT.LIMIT_HI d)

/-- An empty result for the element of a DO. -/
def SideState.emptyResult (s : SideState) (d : Nat) (job : Option CalJob) : CalResult :=
  { dout := d, cell := s.doCell d, loop := s.loopOf d, mark := none, band := none, dir := none, resume := none, ePi := none,
    eMid := none, phys := none, tap := none, amp := none, job := job, since := s.produced, due := none }

/-- Results wait in the staging area (R193). -/
def SideState.stageResult (s : SideState) (r : CalResult) : SideState :=
  { s with cal := { s.cal with results := s.cal.results ++ [r] } }

/-- A residual of a cell; eight of them may move E_PI (R189). -/
def SideState.recordResidual (s : SideState) (h : Handover) (e l : Nat) : SideState :=
  if h.tainted || h.retry then s
  else
    let d : Int := (s.base e : Int) - s.t ET.E_EDGE h.cell
    let all := lastN 16 (Tab.getD s.scene.residuals h.cell [] ++ [if h.up then d else -d])
    let keep (l : List Int) : SideState := { s with scene := { s.scene with residuals := Tab.put s.scene.residuals h.cell l } }
    let m := medianInt all
    if !s.is CA_CTRL.EN || all.length < 8 || m.natAbs ≤ max 1 (s.t LT.STEP_E l) then keep all
    else
      let s := keep []
      let old := s.t ET.E_PI h.cell
      let n := limited old ((old : Int) + m) (s.get CA_LIM.EPI)
      let s := if n.2 then s.clippedResult else s
      if s.pairOk e (s.t ET.E_MID h.cell) n.1 then s.stageResult { s.emptyResult e none with ePi := some n.1.toNat }
      else s.raise 0xB2

/-- The handover of a cell ends with its E_DO on E_MID: HO := 0 (R169); the power of its half-wave is kept (R195), and a TRIM
follows where an edge has changed POL since the last one ended (R185, R192). -/
def SideState.endHandover (s : SideState) (h : Handover) : SideState :=
  let c := h.cell
  let s := match s.tDo c, Tab.get? s.cal.rampStart c with
    | some t, some b =>
      let r := medianNat (Tab.getD s.cal.heaterReadings t [])
      let p := ((s.base t * s.base t : Int) - (b * b : Int)).natAbs * r * 400000000000 / (16384 * 16384) / 10000000000
      let l := if r = 0 ∨ s.mode t ≠ 2 then s.cal.handoverPowers
        else Tab.put s.cal.handoverPowers t (Tab.getD s.cal.handoverPowers t [] ++ [p])
      { s with cal := { s.cal with handoverPowers := l } }
    | _, _ => s
  let s := ((s.dropHandover c).setHo c 0 0 0 0).count 85 1
  match s.tDo c with
  | some t =>
    if s.cal.polTrims.contains c then
      ({ s with cal := { s.cal with polTrims := dropNat c s.cal.polTrims } }).trigger ⟨t, .trim, false, false, false⟩
    else s
  | none => s

/-- Boundary H of a handover (R169, R170, R189). -/
def SideState.startRamp (s : SideState) (h : Handover) (e l : Nat) : SideState :=
  let c := h.cell
  let s := s.recordResidual h e l
  let dev := ((s.base e : Int) - s.t ET.E_MID c).natAbs
  let n := max 1 (s.hoLen - s.holdoff - s.hoDwell)
  let s := s.toOwn e .scene
  let s := if s.own (s.t LT.DO l) = .loopWait then s.toLoop (s.t LT.DO l) else s.loopSet LT.ACT l 0
  let s := { s with cal := { s.cal with rampStart := Tab.put s.cal.rampStart c (s.base (s.t LT.DO l)) } }
  if dev = 0 then s.endHandover h else s.setHo c 2 0 ((dev + n - 1) / n) 0

/-- The words of a cell's edge entry are read (R422). -/
def SideState.readEdge (s : SideState) (c : Nat) : SideState := s.scrubRange (0x30088000 + 16 * c) 16

/-- A handover at a boundary: the end of the hold-off, boundary H, and a ramp step that takes effect. -/
def SideState.handoverStep (s : SideState) (h : Handover) : SideState :=
  let c := h.cell
  let s := s.readEdge c
  match s.eDo c, s.cellLoop c with
  | some e, some l =>
    if s.scene.stallPending.contains c ∨ (s.t ET.HO c = 0 ∧ s.produced < h.ref + s.holdoff) then s
    else if !s.loopCan l then { s with scene := { s.scene with stallPending := insertNat c s.scene.stallPending } }
    else
      match s.t ET.HO c with
      | 0 => (s.toEoHold c).setHo c 1 0 0 0
      | 1 => if s.is SH_CTRL.HO_EN && decide (h.ref + s.holdoff + s.hoDwell ≤ s.produced) then s.startRamp h e l else s
      | 2 =>
        (match Tab.get? s.scene.rampStaged c with
         | none => s
         | some v =>
           let s := { s with scene := { s.scene with rampStaged := Tab.del s.scene.rampStaged c } }
           let s := if s.mode e = 0 then s else (s.putBase e v).count 89 1
           if s.base e = s.t ET.E_MID c then s.endHandover h else s)
      | _ => s
  | _, _ => s

/-- A handover stalls (R172): HO := 3, source 0x55. Its move to electro-optic hold comes at the next boundary. -/
def SideState.stall (s : SideState) (c : Nat) : SideState :=
  let s := s.dropStep c
  let s := { s with scene := { s.scene with
    handovers := s.scene.handovers.filter (fun h => h.cell != c)
    stallPending := insertNat c s.scene.stallPending } }
  let s := s.setHo c 3 (s.t ET.PAUSED c) (s.t ET.RAMP_STEP c) (s.t ET.PAUSE c)
  ((((s.bump SH_CNT2.STALL 1).evt 0x0D 2).count 88 1).raise 0x55).showHandovers

/-- Cells that have stalled go to electro-optic hold, if their loop can run (R146, R172); a cell whose loop was disabled or
lost its entry stalls here, with its E_DO holding in SCENE. -/
def SideState.stallsAtBoundary (s : SideState) : SideState :=
  s.scene.stallPending.foldl (fun (s : SideState) c =>
    let s := if s.t ET.HO c = 3 then s else s.stall c
    let s := { s with scene := { s.scene with stallPending := dropNat c s.scene.stallPending } }
    match s.cellLoop c with
    | some l =>
      if s.loopCan l then s.toEoHold c else s
    | none => s) s

/-- Retries that were accepted take effect (R172). A cell whose loop cannot run stays with the scene controller, and its handover
stalls at the next boundary (R146, R172). -/
def SideState.retriesAtBoundary (s : SideState) : SideState :=
  s.scene.retries.foldl (fun (s : SideState) c =>
    let s := { s with scene := { s.scene with retries := dropNat c s.scene.retries } }
    let h : Handover :=
      { cell := c, ref := s.produced - s.holdoff, edge := none, retry := true, up := false, tainted := true }
    let s := { s with scene := { s.scene with handovers := s.scene.handovers ++ [h] } }
    let can := match s.cellLoop c with
      | some l => s.loopCan l
      | none => false
    (if can then s.toEoHold c else s.sceneHolds c none).setHo c 1 0 0 0) s

/-- The handovers at a boundary. -/
def SideState.handoversAtBoundary (s : SideState) : SideState :=
  let s := s.scene.handovers.foldl SideState.handoverStep s
  s.stallsAtBoundary.retriesAtBoundary.showHandovers

/-- One ramp step is staged for the next boundary, or withheld (R170). The ramp does not step faster than the loop is evaluated:
DEDUCED (log 117), at throttle steps T2 and T3 a beat without an evaluation of the loop neither steps nor pauses it. -/
def SideState.rampCell (s : SideState) (h : Handover) : SideState :=
  let c := h.cell
  let s := s.readEdge c
  match s.eDo c, s.cellLoop c with
  | some e, some l =>
    if s.t ET.HO c ≠ 2 ∨ s.scene.stallPending.contains c then s
    else if Tab.getD s.loops.lastEval l .never = .inBand ∧ !s.tis LT.SRCH l then
      if Nat.ble 2 (s.get TH_STAT.STEP) && !s.loops.evalNow.contains l then s
      else
        let mid := s.t ET.E_MID c
        let v := s.base e
        let step := s.t ET.RAMP_STEP c
        let next := if v < mid then min mid (v + step) else max mid (v - step)
        let s := { s with scene := { s.scene with rampStaged := Tab.put s.scene.rampStaged c next } }
        let s := if s.tis ET.PAUSED c || s.t ET.PAUSE c != 0 then s.setHo c 2 0 step 0 else s
        (s.emit (recDoStaged e next)).count 86 1
    else
      let s := s.setHo c 2 1 (s.t ET.RAMP_STEP c) (min 65535 (s.t ET.PAUSE c + 1))
      (s.bump SH_CNT2.PAUSE 1).count 87 1
  | _, _ => s

/-- The ramp in the scene window (R170); an intermission holds it, and its beats count toward no limit (R172). -/
def SideState.rampWindow (s : SideState) : SideState :=
  if !s.leads then s
  else if !s.awake then
    { s with scene := { s.scene with handovers := s.scene.handovers.map (fun (h : Handover) => { h with ref := h.ref + 1 }) } }
  else s.scene.handovers.foldl SideState.rampCell s

/-- Has a handover failed its limits (R172)? -/
def SideState.stallDue (s : SideState) (h : Handover) : Bool :=
  let c := h.cell
  let away := match s.eDo c with
    | some e => s.base e != s.t ET.E_MID c
    | none => false
  let running := s.t ET.HO c == 2 || (s.t ET.HO c == 1 && s.is SH_CTRL.HO_EN)
  running && (Nat.ble 500 (s.t ET.PAUSE c) || (away && Nat.ble (h.ref + 2000) s.produced))

/-- HANDOVER_STALL (R172). -/
def execHandoverStall (sd : Side) (cell : Nat) (s : State) : Host.Outcome State Fault Refusal :=
  .next (s.side sd (fun x => x.live (fun x =>
    match x.scene.handovers.find? (fun h => h.cell == cell) with
    | none => x
    | some h => if x.leads && x.stallDue h then x.stall cell else x)))

/-- Does a cell belong to a cue in flight (R23, R172)? A cue that is ARMED or SETTLING is in flight no more. -/
def SideState.cellAhead (s : SideState) (c : Nat) : Bool :=
  (s.flying.filterMap (fun p => if p.2.kind == .curtain then some 255 else p.2.slot)).any (fun n =>
    s.hasFlag n flagSOLVED && s.slotCell n c != s.activeCell c)

/-- Is a cell stalled, with its E_DO held by its loop or by the scene controller (R172, R174)? -/
def SideState.cellStalled (s : SideState) (c : Nat) : Bool :=
  s.t ET.HO c == 3 && (match s.eDo c with
    | some e => s.own e == .eoHold || s.own e == .scene
    | none => false)

/-- HANDOVER_RETRY (R172). -/
def execHandoverRetry (sd : Side) (m : Master) (v : Word) (s : State) : Host.Outcome State Fault Refusal :=
  .next (s.side sd (fun x => x.live (fun x => x.regWrite 0x0D070 m (fun x =>
    let c := bits v.toNat 0 13
    if !bitAt v.toNat 31 then x
    else if c < x.cells ∧ x.cellStalled c ∧ !x.cellAhead c ∧ x.leads ∧ !x.scene.retries.contains c then
      { x.set SH_STAT.RETRY_REF 0 with scene := { x.scene with retries := x.scene.retries ++ [c] } }
    else x.set SH_STAT.RETRY_REF 1))))

/-! ### Settled (R171) -/

/-- Does a changed cell still hold up the cues of the edge at boundary b? -/
def SideState.cellWaits (s : SideState) (b c : Nat) : Bool :=
  s.scene.handovers.any (fun h => h.cell == c && h.edge == some b
    && !(s.t ET.HO c == 1 && !s.is SH_CTRL.HO_EN)) || s.scene.refires.contains c

/-- Cues reach SETTLED (R171). -/
def SideState.settle (s : SideState) : SideState :=
  s.scene.settling.foldl (fun (s : SideState) (g : Settling) =>
    if s.produced < g.edge + s.hoLen ∨ g.cells.any (fun c => s.cellWaits g.edge c) then s
    else
      let s := { s with scene := { s.scene with settling := s.scene.settling.filter (fun x => x.entry != g.entry) } }
      if (s.trk g.entry).state = .settling then (s.endCue g.entry .settled 0).evt 0x0D 1 else s) s

/-! ### A cell that does not follow (R173, R174) -/

/-- The cue in SETTLING that changed a cell last. -/
def SideState.settlingCue (s : SideState) (c : Nat) : Option Settling :=
  let b := Tab.getD s.scene.edgeAt c 0
  s.scene.settling.find? (fun g => g.cells.contains c && g.edge == b)

/-- The value that the re-fire of a cell stages: E_EDGE; none for a cell that did not toggle, which holds its value. -/
def SideState.refireValue (s : SideState) (c : Nat) : Option Nat :=
  match s.settlingCue c with
  | some g => if g.toggled.contains c then some (s.t ET.E_EDGE c) else none
  | none => none

/-- The first declaration about a changed cell (R173): its edge is staged for boundary F, which its entry shows as the beat of its last
edge (R161). -/
def SideState.firstMiss (s : SideState) (c : Nat) : SideState :=
  let s := s.dropStep c
  let s := { s with scene := { s.scene with
    stallPending := dropNat c s.scene.stallPending
    refires := insertNat c s.scene.refires } }
  let s := match s.eDo c, s.refireValue c with
    | some d, some v => s.emit (recDoStaged d v)
    | _, _ => s
  let s := (((s.tset ET.MISS c 1).tset ET.E_BEAT c ((s.beatNo + 1) % 65536)).emitEdge c).setHo c 0 0 0 0
  ((s.bump SH_CNT.REFIRE 1).evt 0x0D 4).raise 0x57

/-- The outputs whose path in the active scene passes a cell. -/
def SideState.outsThrough (s : SideState) (c : Nat) : List Nat :=
  let f := s.fabric
  let v := s.activeView
  (v.conns.filter (fun k => (((f.trace v.cell k.input).map Prod.snd).getD []).any (fun h => h.cell == c))).map (fun k => k.output)

/-- The second declaration about the same cell within the cue (R174). -/
def SideState.secondMiss (s : SideState) (c : Nat) : SideState :=
  let s := (s.dropHandover c).tset ET.MISS c 2
  let s := (s.sceneHolds c none).loopWaits c
  let s := (s.setHo c 3 0 0 0).emitEdge c
  let s := ((s.bump SH_CNT.MISS 1).evt 0x0D 5).raise 0x58
  let outs := if s.is SH_CTRL.MISS_DARK then (s.outsThrough c).filter (fun q => (s.attOf q).isSome) else []
  let s := ((s.set SH_MISS_STAT.CELL c).set SH_MISS_STAT.VALID 1).set SH_MISS_STAT.DARKED outs.length
  { s with scene := { s.scene with darkStaged := outs.foldl (fun l q => insertNat q l) s.scene.darkStaged } }

/-- A declaration about a cell (R173, R174). -/
def SideState.declared (s : SideState) (c : Nat) : SideState :=
  match s.settlingCue c with
  | none => s
  | some _ =>
    match s.t ET.MISS c with
    | 0 => (s.firstMiss c).showHandovers
    | 1 => (s.secondMiss c).showHandovers
    | _ => s

/-- Re-fired edges at boundary F (R173): the handover runs again from here. A cell that did not toggle holds its value. -/
def SideState.refiresAtBoundary (s : SideState) : SideState :=
  s.scene.refires.foldl (fun (s : SideState) c =>
    let old := s.scene.handovers.find? (fun h => h.cell == c)
    let value := s.refireValue c
    let s := s.dropHandover c
    let s := s.sceneHolds c value
    let s := s.loopWaits c
    let s := (s.setHo c 0 0 0 0).count 89 1
    let edge := match old with
      | some h => h.edge
      | none => (s.settlingCue c).map (fun g => g.edge)
    let h : Handover :=
      { cell := c, ref := s.produced, edge := edge, retry := false, up := false, tainted := true }
    match s.eDo c with
    | some e => { s with scene := { s.scene with
        handovers := s.scene.handovers ++ [h], edgesNow := insertNat e s.scene.edgesNow } }
    | none => s) s

/-- Outputs darkened for a second miss, and those relit by a release (R174). One that a cue blanks at this boundary keeps the BASE
from before the interval as RESUME, and is relit at the interval's end. -/
def SideState.missOutputs (s : SideState) : SideState :=
  let s := s.scene.darkStaged.foldl (fun (s : SideState) q =>
    match s.attOf q with
    | some d =>
      if s.takesOut d then
        let s := match s.scene.blanked.find? (fun b => b.out == q && b.wasLit), s.loopOf d with
          | some b, some l => s.loopSet LT.RESUME l b.saved
          | _, _ => s
        let s := (s.darken q d true).count 89 1
        { s with scene := { s.scene with missDark := insertNat q s.scene.missDark } }
      else s
    | none => s) { s with scene := { s.scene with darkStaged := [] } }
  s.scene.darkReleases.foldl (fun (s : SideState) q =>
    match s.attOf q with
    | some d =>
      if s.scene.blanked.any (fun b => b.out == q) then s
      else (s.relight d (s.resumeOf d) (s.produced + s.holdoff)).count 89 1
    | none => s) { s with scene := { s.scene with darkReleases := [] } }

/-- MISS_RELEASE (R174). -/
def execMissRelease (sd : Side) (m : Master) (v : Word) (s : State) : Host.Outcome State Fault Refusal :=
  .next (s.side sd (fun x => x.live (fun x => x.regWrite 0x0D078 m (fun x =>
    let q := bits v.toNat 0 9
    if !bitAt v.toNat 31 then x
    else if x.scene.missDark.contains q && !(x.fabric.pathTo x.activeView q).any (fun h => x.watch.declared.contains h.cell) then
      { x with scene := { x.scene with missDark := dropNat q x.scene.missDark, darkReleases := insertNat q x.scene.darkReleases } }
    else x.evt 0x0D 5))))

/-- The scene controller at a boundary, before every other writer (R152): edges, re-fires, darkened and relit outputs, and the
handovers. -/
def SideState.sceneAtBoundary (s : SideState) : SideState :=
  let s := { s with scene := { s.scene with edgesNow := [], tookNow := [] } }
  if !s.leads then s.showHandovers
  else
    let t := s.fireDue.refiresAtBoundary.missOutputs.handoversAtBoundary.settle
    { t with scene := { t.scene with
      tookNow := ((t.drive.own.filter (fun p => p.2 != s.own p.1)).map Prod.fst).foldl (fun l d => insertNat d l) t.scene.tookNow } }

end Sys2Proof.Machine
end

