-- ==== Sys2Proof/Machine/Calibration.lean ====
section
/-! DEFINITION. Calibration (R179 to R194): requests, runs with their sweeps and guards, the results they derive, and their
commit. -/

namespace Sys2Proof.Machine

/-! ### Statistics (R180) -/

/-- The percentile Pk of integers: x(ceil(k × n / 100)) of the sorted values. -/
def percentile (k : Nat) (l : List Int) : Int := (sortInt l).getD ((k * l.length + 99) / 100 - 1) 0

/-- The percentile of samples. -/
def percentileNat (k : Nat) (l : List Nat) : Nat := (percentile k (l.map Int.ofNat)).toNat

/-- The noise of a set: round(0.741 × (P75 − P25)). -/
def noiseOf (l : List Nat) : Nat := ((percentileNat 75 l - percentileNat 25 l) * 1482 + 1000) / 2000

/-- Fewer than half of a set's planned samples make it void, and a void set ends its run (R180). -/
def CalSet.void (c : CalSet) : Bool := Nat.blt (2 * c.samples.length) c.planned

/-- The median of a set. -/
def CalSet.median (c : CalSet) : Nat := percentileNat 50 c.samples

/-! ### Requests (R200) -/

/-- The drive groups a run of DO works in. -/
def groupsOf (l : List Nat) : List Nat := l.map driveGroup

/-- May calibration write a group: scheme T or Q (R183)? -/
def SideState.groupReady (s : SideState) (g : Nat) : Bool := s.scheme g == 1 || s.scheme g == 2

/-- Does a run of the element or the group of a DO go on? -/
def SideState.calBusy (s : SideState) (d : Nat) : Bool :=
  s.cal.runs.any (fun r => r.taken.any (fun p =>
    driveGroup p.1 == driveGroup d || ((s.doCell d).isSome && s.doCell p.1 == s.doCell d)))

/-- Is the element of a DO in a cue in flight: does a scene that lies ahead change it? -/
def SideState.elementAhead (s : SideState) (d : Nat) : Bool :=
  let e := s.t DT.ELEM d
  let port (l : List Conn) : Option (Nat × Nat) :=
    (l.find? (fun c => if e < s.ports then c.input == e else c.output == e - s.ports)).map (fun c => (c.input, c.output))
  match s.doCell d with
  | some c => s.cellAhead c
  | none => s.slotsAhead.any (fun n => port (s.slotConns n) != port s.activeConns)

/-- Is the cell of a DO in a handover? -/
def SideState.elementHandover (s : SideState) (d : Nat) : Bool :=
  match s.doCell d with
  | some c => s.inHandover c || s.scene.handovers.any (fun h => h.cell == c)
  | none => false

/-- CA_REQ_STAT. -/
def SideState.calStat (s : SideState) (result reason : Nat) : SideState :=
  (s.set CA_REQ_STAT.RESULT result).set CA_REQ_STAT.REASON reason

/-- Why a request for a DO is refused, 0 for none; a DO that the host holds is BUSY (R152). -/
def SideState.calRefused (s : SideState) (d : Nat) : Nat :=
  if s.calBusy d || s.own d == .man then 1
  else if s.elementAhead d || s.elementHandover d then 2
  else if !s.groupReady (driveGroup d) then 3
  else if s.get TH_STAT.STEP ≠ 0 then 4
  else if !s.named d then 5
  else if s.elementLit d && !s.is CA_CTRL.LIVE then 6
  else 0

/-- A write of CA_REQ of one kind: with GO it is a request for the element of a DO, which the stage manager takes while it works (R374). -/
def SideState.calRequest (s : SideState) (v kind : Nat) : SideState :=
  let s := s.writeRw 0x0E054 v
  let d := bits v 0 14
  if !bitAt v 31 || bits v 14 2 != kind || !s.managed then s
  else if kind = 3 then
    (if s.cal.trimRound.isSome then s.calStat 3 1
     else if s.get TH_STAT.STEP ≠ 0 then s.calStat 3 4
     else s.queueTrimRound.calStat 1 0)
  else
    let r := s.calRefused d
    if r ≠ 0 then s.calStat 3 r
    else
      let k := if kind = 0 then RunKind.trim else if kind = 1 then RunKind.survey else RunKind.probe
      (s.queueJob ⟨d, k, false, false, true⟩).calStat 1 0

/-- CAL_REQ_TRIM (R200). -/
def execCalReqTrim (sd : Side) (m : Master) (v : Word) (s : State) : Host.Outcome State Fault Refusal :=
  .next (s.side sd (fun x => x.live (fun x => x.regWrite 0x0E054 m (fun x => x.calRequest v.toNat 0))))

/-- CAL_REQ_SURVEY (R200). -/
def execCalReqSurvey (sd : Side) (m : Master) (v : Word) (s : State) : Host.Outcome State Fault Refusal :=
  .next (s.side sd (fun x => x.live (fun x => x.regWrite 0x0E054 m (fun x => x.calRequest v.toNat 1))))

/-- CAL_REQ_PROBE (R200). -/
def execCalReqProbe (sd : Side) (m : Master) (v : Word) (s : State) : Host.Outcome State Fault Refusal :=
  .next (s.side sd (fun x => x.live (fun x => x.regWrite 0x0E054 m (fun x => x.calRequest v.toNat 2))))

/-- CAL_REQ_ROUND (R200). -/
def execCalReqRound (sd : Side) (m : Master) (v : Word) (s : State) : Host.Outcome State Fault Refusal :=
  .next (s.side sd (fun x => x.live (fun x => x.regWrite 0x0E054 m (fun x => x.calRequest v.toNat 3))))

/-- CAL_PERIOD (R192): CA_PERIOD seconds after the last completed round a new one is queued. -/
def execCalPeriod (sd : Side) (s : State) : Host.Outcome State Fault Refusal :=
  .next (s.side sd (fun x =>
    let p := x.get CA_PERIOD.PERIOD
    if x.managed && x.leads && x.is CA_CTRL.AUTO_PERIOD && p != 0 && Nat.ble (x.cal.lastRound + p * 100000) x.produced then x.queueRound
    else x))

/-- The temperature trigger (R192), when T_tile has been read: with AUTO_DT, and in intermission and wake without it. -/
def SideState.temperatureTrigger (s : SideState) : SideState :=
  let dt := clampNat 5 200 (s.get CA_DT.DT) * 10
  if s.managed && s.leads && (s.is CA_CTRL.AUTO_DT || s.get TH_INT_STAT.STATE != 0) && decide (dt ≤ (s.tileTemp - signed (s.get CA_TREF.TCAL) 16).natAbs) then s.queueRound
  else s

/-! ### Where a run works -/

/-- The physical path of an input: through every cell by its PHYS. -/
def SideState.physPath (s : SideState) (f : Fabric) (input : Nat) : Option (Nat × List Hop) := f.trace (fun c => s.t ET.PHYS c) input

/-- Is every output dark that is reached from the element of a DO through the present physical states (R182)? -/
def SideState.elementDark (s : SideState) (d : Nat) : Bool :=
  let f := s.fabric
  let e := s.t DT.ELEM d
  let lit (q : Nat) : Bool := s.outLit q && !s.scene.missDark.contains q
  match s.doCell d with
  | some c =>
    (List.range s.ports).all (fun i =>
      match s.physPath f i with
      | some (q, h) => !(h.any (fun x => x.cell == c) && lit q)
      | none => true)
  | none =>
    if e < s.ports then
      (match s.physPath f e with
       | some (q, _) => !lit q
       | none => true)
    else !lit (e - s.ports)

/-- The stage-0 cell and the output of the lit path that enters a cell by a line (R190). -/
def SideState.probePath (s : SideState) (c side : Nat) : Option (Nat × Nat) :=
  let f := s.fabric
  let v := s.activeView
  let l := v.conns.filterMap (fun k =>
    match f.trace v.cell k.input with
    | some (q, h) => if h.any (fun x => x.cell == c && x.side == side) then (h.head?).map (fun u => (k.input, (u.cell, q))) else none
    | none => none)
  match (sortNat (l.map Prod.fst)).head? with
  | none => none
  | some i => Tab.get? l i

/-- The E_DO and the output monitor of a probe's line. -/
def SideState.probeLine (s : SideState) (c side : Nat) : Option (Nat × Nat) :=
  match s.probePath c side with
  | none => none
  | some (u, q) =>
    match s.eDo u with
    | none => none
    | some e => if u ≠ c ∧ s.tis PT.MON_PRESENT (s.ports + q) then some (e, s.t PT.MON_MI (s.ports + q)) else none

/-- The DO a job takes (R182): the loop's DO, for the survey of a cell its E_DO too, for a probe the E_DO of the cell and of
the stage-0 cells of its lines. -/
def SideState.jobDos (s : SideState) (j : CalJob) : List Nat :=
  let loopDo := match s.loopOf j.dout with
    | some l => [s.t LT.DO l]
    | none => []
  match j.kind with
  | .trim => loopDo
  | .survey =>
    (match s.doCell j.dout with
     | some c => loopDo ++ (s.eDo c).toList
     | none => loopDo)
  | .probe =>
    (match s.doCell j.dout with
     | some c => (s.eDo c).toList ++ ((s.probeLine c 0).map Prod.fst).toList ++ ((s.probeLine c 1).map Prod.fst).toList
     | none => [])

/-- May calibration take a DO now (R151)? -/
def SideState.takeable (s : SideState) (d : Nat) : Bool :=
  match s.own d with
  | .none => true
  | .loop => true
  | .loopWait => true
  | .eoHold => true
  | .scene => !s.sceneBusy d
  | .tune => false
  | .cal => false
  | .man => false

/-- May a job start now (R182, R183)? -/
def SideState.mayStart (s : SideState) (j : CalJob) : Bool :=
  let dos := s.jobDos j
  let kindOk := match j.kind with
    | .trim => (s.loopOf j.dout).isSome && (!s.elementLit j.dout || s.is CA_CTRL.LIVE)
    | .survey => (s.loopOf j.dout).isSome && s.elementDark j.dout
    | .probe =>
      s.is CA_CTRL.LIVE && (match s.doCell j.dout with
        | some c => Nat.ble s.fabric.cps c && (s.probeLine c 0).isSome
        | none => false)
  kindOk && !dos.isEmpty && s.named j.dout
    && (groupsOf dos).all (fun g => s.groupReady g && !s.cal.runs.any (fun r => r.taken.any (fun p => driveGroup p.1 == g)))
    && dos.all (fun d => s.takeable d && !s.elementAhead d && !s.elementHandover d)

/-- CA_CTRL.PAR as it acts. -/
def SideState.calPar (s : SideState) : Nat := clampNat 1 160 (s.get CA_CTRL.PAR)

/-- Does calibration run: enabled, on the lead, at T0 and not in intermission? -/
def SideState.calRuns (s : SideState) : Bool :=
  s.managed && s.leads && s.rigged && s.is CA_CTRL.EN && s.get TH_STAT.STEP == 0 && s.get TH_INT_STAT.STATE == 0

/-! ### Settings -/

/-- Beats per setting, and those not used. -/
def SideState.sweepSkip (s : SideState) : Nat := s.get CA_SWEEP.SKIP
def SideState.sweepHold (s : SideState) : Nat := max (s.get CA_SWEEP.HOLD) (s.sweepSkip + 4)
def SideState.sweepStep (s : SideState) : Nat := max 1 (s.get CA_SWEEP.STEP)
def SideState.sweepHalf (s : SideState) : Nat := clampNat 1 8 (s.get CA_SWEEP.HALF)

/-- A setting of one DO. -/
def SideState.point (s : SideState) (d : Nat) (tag v : Int) : CalPoint :=
  { tag := tag, writes := [(d, (clampInt (s.t DT.LIMIT_LO d) (s.t DT.LIMIT_HI d) v).toNat)], hold := s.sweepHold, skip := s.sweepSkip }

/-- The settings of a TRIM in the order j = 0, −1, +1, −2, +2 and so on (R184). -/
def SideState.trimPoints (s : SideState) (d base : Nat) : List CalPoint :=
  let js : List Int := 0 :: ((List.range s.sweepHalf).map (fun (k : Nat) => [-(k + 1 : Int), (k + 1 : Int)])).flatten
  js.map (fun j => s.point d j ((base : Int) + j * s.sweepStep))

/-- The settings of one sweep of a SURVEY: 64 equal steps across the limits (R185). -/
def SideState.surveyPoints (s : SideState) (d : Nat) : List CalPoint :=
  let lo := s.t DT.LIMIT_LO d
  let hi := s.t DT.LIMIT_HI d
  (List.range 65).map (fun (k : Nat) => s.point d (k : Int) ((lo : Int) + k * ((hi : Int) - lo) / 64))

/-- Tag of the DARK setting of an output's SURVEY (R187). -/
def darkTag : Int := 100

/-- The settings of a probe (R190): first the beats in which the monitor settles, then pairs of a step out and a step back. -/
def SideState.probePoints (s : SideState) (u bu d bd pi : Nat) : List CalPoint :=
  let reps := max 16 (s.get CA_TAP.REPS)
  let delta := pi / max 8 (s.get CA_TAP.DIV)
  let held (x : Nat) (v : Int) : Nat × Nat := (x, (clampInt (s.t DT.LIMIT_LO x) (s.t DT.LIMIT_HI x) v).toNat)
  let rest : CalPoint := { tag := 0, writes := [], hold := 8, skip := 8 }
  let pair (i : Nat) : List CalPoint :=
    let k : Int := if i % 2 = 0 then (delta : Int) else -(delta : Int)
    [{ tag := 2 * i, writes := [held u ((bu : Int) + k), held d ((bd : Int) - k)], hold := 1, skip := 0 },
     { tag := 2 * i + 1, writes := [held u bu, held d bd], hold := 1, skip := 0 }]
  rest :: ((List.range reps).map (fun i => pair (i + 1))).flatten

/-- A calibration value goes through the queue or the timer of its group with CAL = 1 (R183); in a queue `last` ends the tick
batch. DEDUCED (log 112): a timer fires in the beat of the write, at the first tick's 0.25 µs or just after the write. -/
def SideState.calWrite (s : SideState) (last : Bool) (p : Nat × Nat) : SideState :=
  let g := driveGroup p.1
  if s.scheme g = 2 then
    s.pushFifo g (BitVec.ofNat 32 (p.2 + p.1 % 64 * 2 ^ 14 + last.toNat * 2 ^ 20 + 2 ^ 21))
  else
    let t : Timer := { dout := p.1, beat := s.beatNo % 65536, offset := clampNat 25 999 (s.off / 10 + 1), value := p.2, cal := true }
    { s with drive := { s.drive with timers := s.drive.timers.filter (fun t => t.dout != p.1) ++ [t] } }

/-- The values of one setting: those of one group make one tick batch (R98, R190). -/
def SideState.calWrites (s : SideState) : List (Nat × Nat) → SideState
  | [] => s
  | p :: t => (s.calWrite (!t.any (fun q => driveGroup q.1 == driveGroup p.1)) p).calWrites t

/-- Replaces an active run. -/
def SideState.putRun (s : SideState) (r : CalRun) : SideState :=
  { s with cal := { s.cal with runs := s.cal.runs.map (fun q => if q.job.dout = r.job.dout then r else q) } }

/-- The first setting of a run's list begins at the present boundary; the limits of its DO are read (R422). -/
def SideState.beginPoint (s : SideState) (r : CalRun) : SideState :=
  match r.todo with
  | [] => s.putRun r
  | p :: _ =>
    let set : CalSet := { phase := r.phase, tag := p.tag, planned := p.hold - p.skip, samples := [], tripped := false }
    let s := s.scrubWords (p.writes.map (fun w => DT.LIMIT_HI.addr w.1))
    (s.putRun { r with since := s.produced, sets := r.sets ++ [set] }).calWrites p.writes

/-- The settings left after the present one, without those the guard has ended. -/
def CalRun.next (r : CalRun) : List CalPoint :=
  r.todo.tail.dropWhile (fun p => (r.guardLo && decide (p.tag < 0)) || (r.guardHi && decide (0 < p.tag)))

/-- At a boundary, a run whose setting has been held goes on to the next. -/
def SideState.advanceRun (s : SideState) (r : CalRun) : SideState :=
  match r.todo with
  | [] => s
  | p :: _ =>
    if r.done || decide (s.produced < r.since + p.hold) then s
    else
      match r.next with
      | [] => s
      | l => s.beginPoint { r with todo := l }

/-- The monitor of a probe's path goes to primary position 2, in wide bandwidth (R190). -/
def SideState.moveMonitor (s : SideState) (r : CalRun) (mi : Nat) : SideState × CalRun :=
  let g := mi / 64
  let i := mi % 64
  let map := s.slotMap g
  let at2 := map.getD 2 0
  let new := map.map (fun c => if c = i then at2 else if c = at2 then i else c)
  let c := s.chan mi
  let s := { s with mon := { s.mon with
    mapPending := s.mon.mapPending.filter (fun p => p.group != g) ++ [SlotMapPending.mk g new (s.produced + 1)]
    setPending := s.mon.setPending.filter (fun p => p.mi != mi) ++ [ChannelPending.mk mi c.range true (s.produced + 1)] } }
  (s, { r with mi := mi, restore := some (map, (c.range, c.wide)) })

/-! ### Starting (R182, R183) -/

/-- The run of a job, before it has taken its DO. -/
def SideState.newRun (s : SideState) (j : CalJob) : CalRun :=
  let loop := s.loopOf j.dout
  { job := j, cell := s.doCell j.dout, loop := loop, mi := (loop.map (fun l => s.t LT.MI l)).getD 0,
    taken := (s.jobDos j).map (fun d => (d, s.base d)), start := s.produced + 1, started := false, phase := 1, todo := [],
    since := 0, sets := [], guardLo := false, guardHi := false, done := false, probe := none, restore := none }

/-- CAL_RUN_START (R183): the first queued job that may start; it takes its DO at the next boundary. -/
def execCalRunStart (sd : Side) (s : State) : Host.Outcome State Fault Refusal :=
  .next (s.side sd (fun x =>
    if !x.calRuns || !(Nat.blt x.cal.runs.length x.calPar) then x
    else
      match x.cal.queue.find? x.mayStart with
      | none => x
      | some j =>
        ({ x with cal := { x.cal with queue := x.cal.queue.filter (fun q => q != j), runs := x.cal.runs ++ [x.newRun j] } }).showCal))

/-- The line of a probe in its present phase: the stage-0 cell's E_DO and the monitor. -/
def SideState.phaseLine (s : SideState) (r : CalRun) : Option (Nat × Nat) :=
  match r.cell with
  | some c => s.probeLine c (r.phase - 1)
  | none => none

/-- The settings of a run's present phase. -/
def SideState.phasePoints (s : SideState) (r : CalRun) : List CalPoint :=
  let baseOf (d : Nat) : Nat := Tab.getD r.taken d (s.base d)
  match r.job.kind with
  | .trim => (r.taken.map (fun p => s.trimPoints p.1 p.2)).flatten
  | .survey =>
    if r.phase = 1 then
      (match r.taken with
       | (d, _) :: _ =>
         let dark : List CalPoint :=
           if s.t DT.KIND d = 4 then [s.point d darkTag (s.t PT.DARK (s.t DT.ELEM d))] else []
         s.surveyPoints d ++ dark
       | [] => [])
    else
      (match r.taken with
       | _ :: (e, _) :: _ => s.surveyPoints e
       | _ => [])
  | .probe =>
    match r.cell, s.phaseLine r with
    | some c, some (u, _) => ((s.eDo c).map (fun d => s.probePoints u (baseOf u) d (baseOf d) (s.t ET.E_PI c))).getD []
    | _, _ => []

/-- A DO passes to calibration. A stalled cell leaves electro-optic hold (R172). -/
def SideState.calTake (s : SideState) (d : Nat) : SideState :=
  let s := match s.doCell d with
    | none => s
    | some c =>
      let s := match s.eDo c, s.cellLoop c with
        | some e, some l => if s.own e = Own.eoHold then (s.toOwn e .scene).loopSet LT.ACT l 0 else s
        | _, _ => s
      if s.t ET.HO c = 3 then (s.dropHandover c).setHo c 0 0 0 0 else s
  s.toOwn d .cal

/-- Runs take their DO at the boundary, behind the scene controller (R152), and begin. -/
def SideState.takeRun (s : SideState) (r : CalRun) : SideState :=
  if s.produced < r.start then s
  else if (r.taken.map Prod.fst).all (fun d =>
      s.takeable d && !s.elementHandover d && !s.scene.edgesNow.contains d && !s.scene.tookNow.contains d) then
    let s := ((r.taken.map Prod.fst).foldl SideState.calTake s).showHandovers
    let r := { r with started := true, taken := r.taken.map (fun p => (p.1, s.base p.1)) }
    let x := match r.job.kind, s.phaseLine r with
      | .probe, some (u, mi) => s.moveMonitor { r with probe := some (u, mi) } mi
      | _, _ => (s, r)
    x.1.beginPoint { x.2 with todo := x.1.phasePoints x.2 }
  else s.abortRun r []

/-! ### Samples of a run (R181, R184) -/

/-- Adds the sample of the beat before to a set; the guard of a TRIM looks at it. -/
def SideState.addSample (s : SideState) (r : CalRun) (c : CalSet) : SideState × CalRun × CalSet :=
  let w := s.sample r.mi
  if sampleValid w ≠ 0 then (s, r, c)
  else
    match r.job.kind, r.loop with
    | .probe, _ => (s, r, { c with samples := c.samples ++ [sampleNV w] })
    | _, none => (s, r, { c with samples := c.samples ++ [sampleNV w] })
    | k, some l =>
      let y := s.loopValue l w
      let mark := s.t LT.MARK l
      let band := 4 * s.t LT.BAND l
      let trips := k == .trim && (if s.isExtremum l then decide (mark + band < y) else decide (band < ((y : Int) - mark).natAbs))
      let c := { c with samples := c.samples ++ [y], tripped := c.tripped || trips }
      if !trips then (s, r, c)
      else
        let lo := decide (c.tag ≤ 0) && !r.guardLo
        let hi := decide (0 ≤ c.tag) && !r.guardHi
        let s := if lo || hi then s.raise 0xB0 else s
        (s, { r with guardLo := r.guardLo || lo, guardHi := r.guardHi || hi }, c)

/-- The extinction of a sweep: the setting with the lowest median, on a tie the smaller |tag| (R185). -/
def bestSet : List CalSet → Option CalSet
  | [] => none
  | c :: t =>
    match bestSet t with
    | none => some c
    | some d =>
      if d.median < c.median ∨ (d.median = c.median ∧ d.tag.natAbs < c.tag.natAbs) then some d else some c

/-- The code of a tag of a DO's sweep. -/
def SideState.sweptCode (s : SideState) (r : CalRun) (d : Nat) (tag : Int) : Nat :=
  let base := Tab.getD r.taken d (s.base d)
  let lo := s.t DT.LIMIT_LO d
  let hi := s.t DT.LIMIT_HI d
  let v : Int := match r.job.kind with
    | .survey => (lo : Int) + tag * ((hi : Int) - lo) / 64
    | _ => (base : Int) + tag * s.sweepStep
  (clampInt lo hi v).toNat

/-- Skew samples of a probe's phase: s_i = (−1)^i × (y_b − y_(b+1)) (R190). -/
def skews (sets : List CalSet) : List Int :=
  sets.filterMap (fun c =>
    if c.tag < 2 ∨ c.tag % 2 = 1 then none
    else
      match c.samples, (sets.find? (fun d => d.tag == c.tag + 1)).map (fun d => d.samples) with
      | y :: _, some (z :: _) => some (if c.tag / 2 % 2 = 0 then (y : Int) - z else (z : Int) - y)
      | _, _ => none)

/-- The set of a probe's line is that of its skew samples, one for each of the REPS repetitions: is it void (R180, R190)? -/
def SideState.skewsVoid (s : SideState) (sets : List CalSet) : Bool := Nat.blt (2 * (skews sets).length) (max 16 (s.get CA_TAP.REPS))

/-- A run whose last setting of a phase is complete: the survey of a cell goes on to its E_DO, a probe to its lower line, any
other run is done. A void set ends the run (R180). -/
def SideState.phaseDone (s : SideState) (r : CalRun) : SideState :=
  let sets := r.sets.filter (fun c => c.phase == r.phase)
  let void := if r.job.kind = .probe then s.skewsVoid sets else sets.any CalSet.void
  let go (s : SideState) (r : CalRun) : SideState :=
    s.putRun { r with todo := { tag := 0, writes := [], hold := 0, skip := 0 } :: s.phasePoints r, since := s.produced }
  if void || r.phase = 2 then s.putRun { r with done := true }
  else
    match r.job.kind, r.taken with
    | .survey, (t, _) :: (_, _) :: _ =>
      let best := (bestSet (sets.filter (fun c => !c.void))).map (fun c => c.tag)
      let s := s.calWrite true (t, s.sweptCode r t (best.getD 0))
      go s { r with phase := 2 }
    | .probe, _ =>
      let r2 := { r with phase := 2 }
      (match s.phaseLine r2 with
       | none => s.putRun { r with done := true }
       | some (u, mi) =>
         let x := (s.restoreMonitor r).moveMonitor { r2 with probe := some (u, mi) } mi
         go x.1 x.2)
    | _, _ => s.putRun { r with done := true }

/-- The sample of the beat before goes to the set of the setting that was held in it; a set that it completes and that is void
ends the run (R180). -/
def SideState.sampleRun (s : SideState) (r : CalRun) : SideState :=
  if !r.started || r.done then s
  else
    match r.todo, r.sets.reverse with
    | p :: _, last :: older =>
      let n := s.produced - r.since
      if n = 0 then
        (match older with
         | before :: rest =>
           if before.phase = r.phase then
             let x := s.addSample r before
             x.1.putRun { x.2.1 with
               sets := (last :: x.2.2 :: rest).reverse
               done := r.job.kind != .probe && x.2.2.void }
           else s
         | [] => s)
      else
        let x := if Nat.blt p.skip n && Nat.ble n p.hold then s.addSample r last else (s, r, last)
        let r : CalRun := { x.2.1 with sets := (x.2.2 :: older).reverse }
        if Nat.ble p.hold n && r.next.isEmpty then x.1.phaseDone r else x.1.putRun r
    | _, _ => s

/-! ### Results (R185 to R191) -/

/-- Cuts a result to its limit, with the event where it does (R179). -/
def SideState.within (s : SideState) (free : Bool) (lo hi v : Nat) : SideState × Nat :=
  if free then (s, v)
  else if v = clampNat lo hi v then (s, v) else (s.clippedResult, clampNat lo hi v)

/-- MARK and BAND of a loop with their limits (R179); BAND may depend on the MARK that is committed (R187). -/
def SideState.markBand (s : SideState) (free : Bool) (l mark : Nat) (band : Nat → Nat) : SideState × (Nat × Nat) :=
  let oldM := s.t LT.MARK l
  let oldB := s.t LT.BAND l
  let d := oldB / max 1 (s.get CA_LIM.MARK_DIV)
  let a := s.within free (oldM - d) (oldM + d) mark
  let b := a.1.within free ((3 * oldB + 3) / 4) (3 * oldB / 2) (band a.2)
  (b.1, (min (2 ^ 22 - 1) a.2, min (2 ^ 22 - 1) b.2))

/-- Marks of a cell from a sweep of its T_DO (R185). DESIGN CHOICE (log 140): where the floor lies beyond the limit per run of R179, the
floor wins. -/
def SideState.cellMarks (s : SideState) (r : CalRun) (free : Bool) (floor : Nat) (sets : List CalSet) (res : CalResult) :
    SideState × CalResult :=
  match r.loop, bestSet sets with
  | some l, some best =>
    let p90 := percentileNat 90 best.samples
    let band := max (s.get CA_BAND_MIN.MIN) (2 * (p90 - percentileNat 10 best.samples))
    let x := s.markBand free l (max p90 floor) (fun _ => band)
    (x.1, { res with mark := some (max x.2.1 floor), band := some x.2.2 })
  | _, _ => (s, res)

/-- Re-planning caps the target of an output by the P50 that its attenuator reaches at LIMIT_HI (R197). Where no SURVEY of this
power-up has measured it, it is a free value from then on (log 124). -/
def SideState.knowLevel (s : SideState) (d : Nat) (capped : Bool) : SideState :=
  if !capped || s.t DT.KIND d == 3 || s.get CA_LEVEL_OUT.TARGET == 0 || Tab.has s.cal.hiLevels d then s
  else
    let f := s.fresh 22
    { f.1 with cal := { f.1.cal with hiLevels := Tab.put f.1.cal.hiLevels d f.2 } }

/-- The target level of a port attenuator (R187), for an output capped by re-planning (R197). -/
def SideState.levelTarget (s : SideState) (d : Nat) (capped : Bool) : Nat :=
  if s.t DT.KIND d = 3 then s.get CA_LEVEL_IN.TARGET
  else
    let t := s.get CA_LEVEL_OUT.TARGET
    match Tab.get? s.cal.hiLevels d with
    | some h => if capped && t != 0 then min t (9 * h / 10) else t
    | none => t

/-- Marks of a port attenuator (R187, R188); `den` is 64 times the codes between the outermost settings. `mid` is the set of j = 0, or for a SURVEY that of the setting nearest B0. -/
def SideState.portMarks (s : SideState) (r : CalRun) (free capped : Bool) (d : Nat) (sets : List CalSet) (mid : CalSet)
    (res : CalResult) : SideState × CalResult :=
  let tags := sortInt (sets.map (fun c => c.tag))
  let at? (t : Int) : Nat := ((sets.find? (fun c => c.tag == t)).map CalSet.median).getD 0
  match r.loop, tags.head?, tags.getLast? with
  | some l, some lo, some hi =>
    let num : Int := (at? hi : Int) - at? lo
    let den : Nat := (hi - lo).toNat * (if free then s.t DT.LIMIT_HI d - s.t DT.LIMIT_LO d else 64 * s.sweepStep)
    let m0 := mid.median
    let s := s.knowLevel d capped
    let target := s.levelTarget d capped
    let mark := if target = 0 then s.t LT.MARK l else target
    let noise := max (s.get CA_BAND_MIN.MIN) (2 * (percentileNat 90 mid.samples - percentileNat 10 mid.samples))
    let x := s.markBand free l mark (fun m => if s.t DT.KIND d = 3 then max noise ((m + 63) / 64) else noise)
    let res := { res with mark := some x.2.1, band := some x.2.2, dir := some (decide (0 < num)) }
    let inBand := decide (((m0 : Int) - x.2.1).natAbs ≤ x.2.2)
    let res := if s.t DT.KIND d = 4 && inBand && !free && s.elementLit d then
        { res with resume := some (clampNat (s.t DT.LIMIT_LO d) (s.t DT.LIMIT_HI d) (Tab.getD r.taken d (s.base d))) }
      else res
    if s.t DT.KIND d = 3 then
      (match s.drive.tones.find? (fun p => p.2.en && p.2.pilot && p.2.dout == d) with
       | some (g, t) =>
         if num = 0 then (x.1, res)
         else
           let amp := roundDiv (5 * m0 * den) (64000 * num.natAbs)
           let y := x.1.within free ((3 * t.amp + 3) / 4) (5 * t.amp / 4) amp
           (y.1, { res with amp := some (g, min 4095 y.2) })
       | none => (x.1, res))
    else (x.1, res)
  | _, _, _ => (s, res)

/-- The settings of a sweep, of neighbours with one median the first alone. -/
def levelSteps : List CalSet → List CalSet
  | [] => []
  | a :: t =>
    match levelSteps t with
    | [] => [a]
    | b :: u => if a.median = b.median then a :: u else a :: b :: u

/-- The extremes inside a sweep without level steps: tag of each local minimum and maximum of the medians, and whether it is a
minimum. -/
def turns : List CalSet → List (Int × Bool)
  | a :: b :: c :: t =>
    let rest := turns (b :: c :: t)
    if b.median < a.median ∧ b.median < c.median then (b.tag, true) :: rest
    else if a.median < b.median ∧ c.median < b.median then (b.tag, false) :: rest
    else rest
  | _ => []

/-- The extremes inside a sweep: of a level minimum or maximum the first setting counts, and a shoulder is neither. -/
def extremes (l : List CalSet) : List (Int × Bool) := turns (levelSteps l)

/-- Adjacent extremes of different kind. -/
def adjacentPairs : List (Int × Bool) → List ((Int × Bool) × (Int × Bool))
  | a :: b :: t => if a.2 = b.2 then adjacentPairs (b :: t) else (a, b) :: adjacentPairs (b :: t)
  | _ => []

/-- The pair whose middle lies nearest the centre of the span, step 32. -/
def nearestPair : List ((Int × Bool) × (Int × Bool)) → Option ((Int × Bool) × (Int × Bool))
  | [] => none
  | p :: t =>
    let off (q : (Int × Bool) × (Int × Bool)) : Nat := (q.1.1 + q.2.1 - 64).natAbs
    match nearestPair t with
    | none => some p
    | some q => if off q < off p then some q else some p

/-- E_PI, E_MID and PHYS of a cell from the sweep of its E_DO (R185, R186). A minimum of y is the extinction of the present
setting, a maximum that of the other. -/
def SideState.halfWave (s : SideState) (r : CalRun) (c e : Nat) (sets : List CalSet) (res : CalResult) : SideState × CalResult :=
  match nearestPair (adjacentPairs (extremes sets)) with
  | none => (s, res)
  | some (a, b) =>
    let ca := s.sweptCode r e a.1
    let cb := s.sweptCode r e b.1
    let pi := cb - ca
    let mid := (s.t DT.LIMIT_LO e + s.t DT.LIMIT_HI e) / 2
    let da := ((ca : Int) - mid).natAbs
    let db := ((cb : Int) - mid).natAbs
    let near := if da ≤ db then a.2 else b.2
    let now := s.t ET.PHYS c
    let phys := if near then now else xor1 now 1
    if s.pairOk e mid pi then (s, { res with ePi := some pi, eMid := some mid, phys := some phys })
    else (s.raise 0xB2, { res with phys := some phys })

/-- Is the forecast of a quantity of an element AMBER or RED (R196)? -/
def SideState.ageAlert (s : SideState) (quantity elem : Nat) : Bool :=
  s.cal.ageing.any (fun p => p.quantity == quantity && p.elem == elem && p.cls != 0)

/-- The floor of R185: the dark level, or in its place the forecast one where it is AMBER or RED (R197), and 4 times its noise. -/
def SideState.markFloor (s : SideState) (mi : Nat) (forecast : Option Nat) : Nat :=
  let d := Tab.getD s.cal.darkLevels mi (0, 0)
  forecast.getD d.1 + 4 * d.2

/-- The BASE a sweep leaves (R185), written as every value of calibration (R183). -/
def SideState.leaveAt (s : SideState) (d v : Nat) : SideState := if s.own d = .cal then s.calWrite true (d, v) else s

/-- What a list of skew samples says: 0 aligned, 1 above the deadband, 2 below it (R191). -/
def skewSide (l : List Int) : Nat :=
  let dead := percentile 75 l - percentile 25 l
  let m := 2 * percentile 50 l
  if dead < m then 1 else if m < -dead then 2 else 0

/-- What a run has come to: the side, its results, and a reason: 0, 7 GUARD or 8 SPARSE. -/
def SideState.probeResult (s : SideState) (r : CalRun) (res : CalResult) : SideState × (CalResult × Nat) :=
  let up := r.sets.filter (fun c => c.phase == 1)
  let down := r.sets.filter (fun c => c.phase == 2)
  match r.cell.bind s.eDo with
  | none => (s, (res, 8))
  | some d =>
    if s.skewsVoid up || (r.phase == 2 && s.skewsVoid down) then (s, (res, 8))
    else
      let tap := s.t DT.TAP d
      let x := match skewSide (skews up) with
        | 1 => if tap = 0 then (s.raise 0xB3, res) else (s, { res with tap := some (d, tap - 1) })
        | 2 => if tap = 63 then (s.raise 0xB3, res) else (s, { res with tap := some (d, tap + 1) })
        | _ => (s, res)
      if r.phase = 2 ∧ skewSide (skews down) ≠ 0 then
        let f := x.1.fresh 6
        (f.1.raiseIf (Nat.blt (s.get CA_TAP.XLIM) f.2) 0xB4, (x.2, 0))
      else (x.1, (x.2, 0))

/-- The result of a TRIM or a SURVEY; the SURVEY of a stage-0 cell sets TAP to 32 (R190). `forecast` is the forecast dark level of the monitor, if re-planning uses it. -/
def SideState.sweepResult (s : SideState) (r : CalRun) (forecast : Option Nat) (res : CalResult) : SideState × (CalResult × Nat) :=
  let survey := r.job.kind == .survey
  let first := r.sets.filter (fun c => c.phase == 1 && c.tag != darkTag)
  let kept := first.filter (fun c => !c.tripped)
  match r.taken, r.loop with
  | (d, b) :: more, some l =>
    if r.sets.any CalSet.void then (s.leaveAt d b, (res, 8))
    else if kept.length < 3 then (s.leaveAt d b, (res, 7))
    else if s.isExtremum l then
      let x := s.cellMarks r survey (s.markFloor r.mi forecast) kept res
      let s := x.1.leaveAt d (s.sweptCode r d (((bestSet kept).map (fun c => c.tag)).getD 0))
      (match more, r.cell with
       | (e, be) :: _, some c =>
         let y := s.halfWave r c e (r.sets.filter (fun c => c.phase == 2)) x.2
         let res := if c < s.fabric.cps then { y.2 with tap := some (e, 32) } else y.2
         (y.1.leaveAt e be, (res, 0))
       | _, _ => (s, (x.2, 0)))
    else
      let j0 : Int := if survey then
          (if s.t DT.LIMIT_HI d ≤ s.t DT.LIMIT_LO d then 0
           else divNearest (((b : Int) - s.t DT.LIMIT_LO d) * 64) (s.t DT.LIMIT_HI d - s.t DT.LIMIT_LO d))
        else 0
      let mid := ((kept.find? (fun c => c.tag == j0)).orElse (fun _ => kept.head?)).getD
        { phase := 1, tag := 0, planned := 0, samples := [], tripped := false }
      let q := s.t DT.ELEM d - s.ports
      let hi := ((first.find? (fun c => c.tag == 64)).map CalSet.median).getD 0
      let s := if survey then { s with cal := { s.cal with hiLevels := Tab.put s.cal.hiLevels d hi } } else s
      let x := s.portMarks r survey (s.ageAlert 6 q) d kept mid res
      let s := x.1.leaveAt d b
      let s := if !survey then s
        else
          match r.sets.find? (fun c => c.tag == darkTag) with
          | some k => s.raiseIf (decide (hi * hi < k.median * k.median * 10000000)) 0xB5
          | none => s
      (s, (x.2, 0))
  | _, _ => (s, (res, 8))

/-- The forecast dark level of a monitor at WARN hours, in NV (R197); it uses the line of R196. -/
def SideState.forecastDark (s : SideState) (mi : Nat) : Option Nat :=
  match s.cal.ageing.find? (fun p => p.quantity == 5 && p.elem == mi && p.cls != 0) with
  | none => none
  | some p =>
    let pts := lastN 32 p.points
    let n : Int := pts.length
    let sum (f : Nat × Int → Int) : Int := pts.foldl (fun a x => a + f x) 0
    let st := sum (fun x => x.1)
    let sv := sum (fun x => x.2)
    let num := n * sum (fun x => x.1 * x.2) - st * sv
    let den := n * sum (fun x => (x.1 : Int) * x.1) - st * st
    if den = 0 then none
    else
      let t : Int := ((pts.getLast?.map Prod.fst).getD 0 + s.get CA_AGE.WARN : Nat)
      some (divTrunc ((sv * den + num * (n * t - st)) * 1000) (n * den * 24414)).toNat

/-- Half-waves whose forecast is AMBER or RED move E_MID toward the middle of its span, once per round (R197). -/
def SideState.replanHalfWaves (s : SideState) : SideState :=
  (s.cal.ageing.filter (fun p => p.quantity == 4 && p.cls != 0)).foldl (fun (s : SideState) p =>
    match s.doCell p.elem with
    | none => s
    | some c =>
      let old := s.t ET.E_MID c
      let mid := (s.t DT.LIMIT_LO p.elem + s.t DT.LIMIT_HI p.elem) / 2
      let new := (limited old mid (s.get CA_LIM.EPI)).1
      if new = old then s
      else if s.pairOk p.elem new (s.t ET.E_PI c) then s.stageResult { s.emptyResult p.elem none with eMid := some new.toNat }
      else s.raise 0xB2) s

/-- A complete round records T_tile at its start (R192). -/
def SideState.roundDone (s : SideState) (t : Int) : SideState :=
  let s := s.set CA_TREF.TCAL (unsignedOf t 16)
  ({ s with cal := { s.cal with lastRound := s.produced } }).replanHalfWaves

/-- DESIGN CHOICE (log 112): work of a round that nothing can start does not hold the round up: that of a group without scheme,
and a PROBE while LIVE is 0 or of a cell without a lit path. It leaves the queue when nothing else of the round is left. -/
def SideState.mootJob (s : SideState) (j : CalJob) : Bool :=
  !(s.jobDos j).all (fun d => s.groupReady (driveGroup d)) || (j.kind == .probe
    && (!s.is CA_CTRL.LIVE || (s.jobDos j).isEmpty || ((s.doCell j.dout).bind (fun c => s.probeLine c 0)).isNone))

/-- A round is complete when none of its work is left (R192); a round that CA_REQ asked for shows done (R201). -/
def SideState.roundEnd (s : SideState) : SideState :=
  let left (own : CalJob → Bool) : Bool :=
    s.cal.runs.any (fun r => own r.job) || s.cal.queue.any (fun j => own j && !s.mootJob j)
  let drop (s : SideState) (own : CalJob → Bool) : SideState :=
    { s with cal := { s.cal with queue := s.cal.queue.filter (fun j => !own j || j.host) } }
  let x := match s.cal.round with
    | none => s
    | some t =>
      if left CalJob.round then s
      else
        let s := (drop s (fun j => j.round && !j.trimRound)).roundDone t
        { s with cal := { s.cal with round := none } }
  match s.cal.trimRound with
  | none => x
  | some t =>
    if left CalJob.trimRound then x
    else
      let x := (drop x (fun j => j.trimRound && !(j.round && x.cal.round.isSome))).roundDone t
      ({ x with cal := { x.cal with trimRound := none } }).calStat 2 0

/-- CAL_RUN_END (R184): after its last sample a run derives its results; its DO are released at the next boundary. -/
def execCalRunEnd (sd : Side) (dout : Nat) (s : State) : Host.Outcome State Fault Refusal :=
  .next (s.side sd (fun x => x.live (fun x =>
    match x.cal.runs.find? (fun r => r.job.dout == dout && r.done) with
    | none => x
    | some r =>
      let res := x.emptyResult r.job.dout (some r.job)
      let y := if r.job.kind = .probe then x.probeResult r res else x.sweepResult r (x.forecastDark r.mi) res
      let x := y.1.restoreMonitor r
      let x := { x with cal := { x.cal with
        runs := x.cal.runs.filter (fun q => q.job.dout != dout)
        releases := x.cal.releases ++ r.taken.map Prod.fst } }
      let x := if y.2.2 = 0 then x.stageResult y.2.1 else x
      let x := if y.2.2 = 8 then x.queueJob r.job else x
      let x := if r.job.host then x.calStat 2 y.2.2 else x
      (((x.bump CA_CNT.RUNS 1).count 108 1).evt 0x0E 0).showCal)))

/-! ### Commit (R193, R194) -/

/-- May results be committed in this beat (R193)? -/
def SideState.commitOpen (s : SideState) : Bool :=
  s.leads && s.win == .scene && s.get SC_PIPE_STAT.INFLIGHT == 0 && !s.tracks.any (fun p => p.2.state == .armed)

/-- CAL_COMMIT (R193): at most CA_COMMIT.MAX elements per beat; they take effect at the next boundary (R60). -/
def execCalCommit (sd : Side) (s : State) : Host.Outcome State Fault Refusal :=
  .next (s.side sd (fun x =>
    if !x.managed || !x.commitOpen then x
    else
      let wait := x.cal.results.filter (fun r => r.due.isNone)
      let done := x.cal.results.countP (fun r => r.due == some (x.produced + 1))
      let n := min (max 1 (x.get CA_COMMIT.MAX) - done) wait.length
      if n = 0 then x
      else
        let now := (wait.take n).map (fun (r : CalResult) => { r with due := some (x.produced + 1) })
        let rest := x.cal.results.filter (fun r => r.due.isSome) ++ now ++ wait.drop n
        (({ x with cal := { x.cal with results := rest } }).count 109 n).evt 0x0E 2))

/-- CAL_STAGE_EXPIRE (R193): results that have waited 10,000 beats are discarded and their elements queued again. -/
def execCalStageExpire (sd : Side) (s : State) : Host.Outcome State Fault Refusal :=
  .next (s.side sd (fun x => x.live (fun x =>
    let old := x.cal.results.filter (fun r => r.due.isNone && Nat.ble (r.since + 10000) x.produced)
    let x := { x with cal := { x.cal with results := x.cal.results.filter (fun r => !old.contains r) } }
    old.foldl (fun (x : SideState) r =>
      let x := (x.bump CA_CNT2.DISCARD 1).raise 0xB9
      match r.job with
      | some j => x.queueJob j
      | none => x) x)))

/-- A loop-table field that calibration commits; a host write of the same word at this boundary loses (R140). -/
def SideState.calLoopField (s : SideState) (f : TFld) (l : Nat) (v : Option Nat) : SideState :=
  match v with
  | none => s
  | some x =>
    let s := s.loopSet f l x
    { s with loops := { s.loops with wrote := insertNat (f.addr l) s.loops.wrote } }

/-- The first SURVEY starts the ageing records; the last one after a replaced tile ends CURTAIN_ONLY (R192, R195). -/
def SideState.noteSurvey (s : SideState) (d : Nat) : SideState :=
  let s := { s with cal := { s.cal with surveyed := insertNat d s.cal.surveyed } }
  let s := if s.cal.ageFrom then s
    else { s.set CA_TREF.TAGE (unsignedOf s.tileTemp 16) with cal := { s.cal with ageFrom := true, lastAge := s.produced } }
  s.surveysDone

/-- A committed result's loop words (R151). -/
def SideState.resultLoop (s : SideState) (r : CalResult) (l : Nat) : SideState :=
  let s := ((s.calLoopField LT.MARK l r.mark).calLoopField LT.BAND l r.band).calLoopField LT.RESUME l r.resume
  let s := s.calLoopField LT.DIR l (r.dir.map (fun b => if b then 1 else 0))
  if r.mark.isSome || r.band.isSome then (s.tset LT.OOBCNT l 0).tset LT.SRCH l 0 else s

/-- A word of the edge table, where the result has one. -/
def SideState.calCellField (s : SideState) (f : TFld) (c : Nat) (v : Option Nat) : SideState :=
  match v with
  | some x => s.tset f c x
  | none => s

/-- E_MID and E_PI of a committed result, or the committed pair with source 0xB2 where the limits of the E_DO refuse the new
one (R186). -/
def SideState.resultPair (s : SideState) (r : CalResult) (c : Nat) : SideState :=
  if r.eMid.isNone && r.ePi.isNone then s
  else
    let ok := match s.eDo c with
      | some e => s.pairOk e ((r.eMid.getD (s.t ET.E_MID c) : Nat) : Int) ((r.ePi.getD (s.t ET.E_PI c) : Nat) : Int)
      | none => false
    if ok then ((s.calCellField ET.E_MID c r.eMid).calCellField ET.E_PI c r.ePi).emitMem (ET.E_MID.addr c) 4 else s.raise 0xB2

/-- A committed result's edge words (R151). -/
def SideState.resultCell (s : SideState) (r : CalResult) (c : Nat) : SideState :=
  let s := (s.resultPair r c).calCellField ET.PHYS c r.phys
  if r.phys.isSome then s.emitEdge c else s

/-- A committed result takes effect at its boundary (R194). -/
def SideState.resultInForce (s : SideState) (r : CalResult) : SideState :=
  let s := r.loop.elim s (s.resultLoop r)
  let s := r.cell.elim s (s.resultCell r)
  let s := r.tap.elim s (fun p => (s.tset DT.TAP p.1 p.2).emitMem (DT.TAP.addr p.1) 4)
  let s := r.amp.elim s (fun p => (s.set (DO_TG_AMP.AMP.bank p.1) p.2).commitTone p.1)
  r.job.elim s (fun j =>
    if j.kind = .survey then s.noteSurvey ((r.loop.map (fun l => s.t LT.DO l)).getD j.dout) else s)

/-- The DO whose table words a result writes: its own, that of its loop, and the E_DO of its cell. -/
def SideState.resultDos (s : SideState) (r : CalResult) : List Nat :=
  r.dout :: (r.loop.map (fun l => s.t LT.DO l)).toList ++ (r.cell.bind s.eDo).toList ++ (r.tap.map Prod.fst).toList

/-- Committed results at a boundary, a beat later while a DO of theirs fires a cue edge (R60); after them the calibration record
is due to be written. -/
def SideState.resultsAtBoundary (s : SideState) : SideState :=
  let ready (r : CalResult) : Bool :=
    (match r.due with
     | some b => Nat.ble b s.produced
     | none => false) && !(s.resultDos r).any (fun d => s.scene.edgesNow.contains d)
  let now := s.cal.results.filter ready
  if now.isEmpty then s
  else
    let s := { s with cal := { s.cal with results := s.cal.results.filter (fun r => !now.contains r), recordPending := true } }
    now.foldl SideState.resultInForce s

/-- Calibration at a boundary: releases, runs that begin or go on, committed results, and rounds that are complete (R151, R152,
R192). DEDUCED (log 112): a DO whose last value still waits for a tick of its queue is released after that tick. -/
def SideState.calAtBoundary (s : SideState) : SideState :=
  if !s.leads then s
  else
    let waits (d : Nat) : Bool := (Tab.getD s.drive.fifo (driveGroup d) []).any (fun w =>
      bits w.toNat 14 6 == d % 64 && bitAt w.toNat 21)
    let out := s.cal.releases.filter (fun d => !waits d)
    let s := { s with cal := { s.cal with releases := s.cal.releases.filter waits } }
    let s := out.foldl (fun s d => if s.own d = .cal then s.release d else s) s
    let s := (s.cal.runs.filter (fun r => r.started)).foldl SideState.advanceRun s
    let s := (s.cal.runs.filter (fun r => !r.started)).foldl SideState.takeRun s
    s.resultsAtBoundary.roundEnd.showCal

/-! ### Dark levels (R181) -/

/-- One beat of a dark interval of a monitor, or the beat after it. The readable sample is that of the beat before (R123), so
beat n brings the sample of the interval's beat n − 1; those of its first 2 beats are not used. -/
def SideState.darkBeat (s : SideState) (mi : Nat) (dark : Bool) : SideState :=
  let r := Tab.getD s.cal.darkRuns mi (0, [])
  let w := s.sample mi
  let l := if r.1 ≤ 2 ∨ sampleValid w ≠ 0 then r.2 else r.2 ++ [sampleNV w]
  let s := { s with cal := { s.cal with
    darkRuns := if dark then Tab.put s.cal.darkRuns mi (r.1 + 1, l) else Tab.del s.cal.darkRuns mi } }
  if 8 ≤ r.1 ∧ !l.isEmpty then
    { s with cal := { s.cal with darkLevels := Tab.put s.cal.darkLevels mi (percentileNat 50 l, noiseOf l) } }
  else s

/-- The dark intervals of a beat: outputs held at DARK in SCENE, and idle cells whose physical path carries no connection. -/
def SideState.darkWatch (s : SideState) : SideState :=
  let f := s.fabric
  let s := (List.range s.ports).foldl (fun (s : SideState) q =>
    match s.attOf q with
    | some d =>
      if s.tis PT.MON_PRESENT (s.ports + q) then
        s.darkBeat (s.t PT.MON_MI (s.ports + q)) (s.own d == .scene && s.base d == s.t PT.DARK (s.ports + q))
      else s
    | none => s) s
  let crossed := ((s.activeConns.map (fun c => ((s.physPath f c.input).map Prod.snd).getD [])).flatten).map (fun h => h.cell)
  (List.range s.cells).foldl (fun (s : SideState) c =>
    if s.tis CT.TAP_PRESENT c then s.darkBeat (s.t CT.TAP_MI c) (s.activeCell c == cellIdle && !crossed.contains c) else s) s

/-- The dark intervals that ran are not followed on (R181). -/
def SideState.endDarkRuns (s : SideState) : SideState := { s with cal := { s.cal with darkRuns := [] } }

/-- What calibration reads in the loop window: the samples of its runs and the dark intervals. A beat in which it reads nothing
ends the intervals. -/
def SideState.calWindow (s : SideState) : SideState :=
  if !s.leads || !s.rigged || !s.is CA_CTRL.EN then s.endDarkRuns
  else (s.cal.runs.foldl SideState.sampleRun s).darkWatch

/-! ### The calibration record (R194) -/

/-- The payload of the calibration record: IMG_CRC, the tile's serial, TAP of every DO with bit 7 for a
committed SURVEY, OFFSET and GAIN of every MI, words 0, 1,
2 and 6 of every loop, and word 0 with PHYS of every cell. -/
def SideState.calRecord (s : SideState) : List Byte :=
  let words (f : TFld) (n : Nat) : List Byte := ((List.range n).map (fun i => s.rdBytes (f.addr i) 4)).flatten
  leBytes 4 (s.get RG_IMG_CRC.CRC) ++ rigSerial s.rigImage
    ++ (List.range 10240).map (fun d => BitVec.ofNat 8 (s.t DT.TAP d + (if s.cal.surveyed.contains d then 128 else 0)))
    ++ words MT.OFFSET 6144 ++ words LT.DO 6144 ++ words LT.MARK 6144 ++ words LT.BAND 6144 ++ words LT.RESUME 6144
    ++ words ET.E_MID 6144 ++ (List.range 6144).map (fun c => BitVec.ofNat 8 (s.t ET.PHYS c))

/-- A record write starts, or waits for the NVM window with source 0xB8 (R194). -/
def SideState.startAged (s : SideState) (k : RecordKind) (payload : List Byte) (isOpen : Bool) : SideState :=
  let s := s.startRecord ⟨k, payload, 0, false, false⟩ isOpen
  if isOpen then s else (s.evt 0x0E 7).raise 0xB8

/-- After commits the lead writes the calibration record. -/
def SideState.calRecordStart (s : SideState) (bothOpen : Bool) : SideState :=
  if s.cal.recordPending && s.leads && !s.recordBusy .calibration then
    ({ s with cal := { s.cal with recordPending := false } }).startAged .calibration s.calRecord bothOpen
  else s

end Sys2Proof.Machine
end

