-- ==== Sys2Proof/Machine/Ageing.lean ====
section
/-! DEFINITION. Ageing (R195 to R198): the recorded quantities, their forecasts and the forecast record. -/

namespace Sys2Proof.Machine

/-- Powered time in hours, by the boundaries the beat generator has produced. -/
def SideState.poweredHours (s : SideState) : Nat := s.produced / 360000000

/-- The DO of a kind that the rig map names. -/
def SideState.dosOfKind (s : SideState) (k : Nat) : List Nat := (List.range 10240).filter (fun d => s.named d && s.t DT.KIND d == k)

/-- The present value of every quantity of every element that has one: quantity, element, value (R195). -/
def SideState.ageValues (s : SideState) : List (Nat × (Nat × Int)) :=
  let of (q : Nat) (tab : List (Nat × List Nat)) : List (Nat × (Nat × Int)) :=
    tab.filterMap (fun p => if p.2.isEmpty then none else some (q, (p.1, (percentileNat 50 p.2 : Int))))
  let half := (s.dosOfKind 2).filterMap (fun d => (s.doCell d).map (fun c => (4, (d, (s.t ET.E_PI c : Int)))))
  let darks := s.cal.darkLevels.map (fun p => (5, (p.1, ((p.2.1 * 24414 / 1000 : Nat) : Int))))
  let groups := List.range 96
  of 1 s.cal.heaterReadings ++ of 2 s.cal.handoverPowers
    ++ of 3 s.cal.baseHistory
    ++ half ++ darks ++ of 6 s.cal.pathRatios
    ++ groups.map (fun g => (7, (g, ((s.get (MG_REF.REF.inMonGroup g) * 16 : Nat) : Int))))
    ++ groups.map (fun g => (8, (g, signed (s.get (MG_ZERO.ZERO.inMonGroup g)) 16)))

/-- The limits of a quantity: below, and above (R195). -/
def SideState.ageLimits (s : SideState) (p : AgePoint) : Option Int × Option Int :=
  let nom := s.t DT.LOAD_NOM p.elem
  match p.quantity with
  | 1 => (some (nom / 2 : Nat), some (3 * nom / 2 : Nat))
  | 2 => (none, some (2 * p.atSurvey))
  | 3 => (none, some (s.t DT.LIMIT_HI p.elem))
  | 4 =>
    (match s.doCell p.elem with
     | some c =>
       (none, some (min ((s.t ET.E_MID c : Int) - s.t DT.LIMIT_LO p.elem) ((s.t DT.LIMIT_HI p.elem : Int) - s.t ET.E_MID c)))
     | none => (none, none))
  | 5 =>
    let loops := (List.range s.loopCount).filter (fun l => s.t LT.MI l == p.elem)
    (match loops with
     | l :: _ => (none, some ((s.t LT.MARK l * 24414 / (if s.isExtremum l then 4000 else 10000) : Nat) : Int))
     | [] => (none, none))
  | 6 => (some (divTrunc p.atSurvey 2), none)
  | 7 => (some (3064 * 16), some (3080 * 16))
  | 8 => (some (-256), some 256)
  | _ => (none, none)

/-- The line through the last 32 points: slope as a quotient, with the sums its forecast needs. -/
structure AgeLine where
  num : Int
  den : Int
  n : Int
  sumT : Int
  sumV : Int
  deriving DecidableEq, Repr

/-- The least-squares line of recorded points (R196). -/
def ageLine (points : List (Nat × Int)) : AgeLine :=
  let l := lastN 32 points
  let sum (f : Nat × Int → Int) : Int := l.foldl (fun a x => a + f x) 0
  let n : Int := l.length
  let st := sum (fun x => x.1)
  let sv := sum (fun x => x.2)
  { num := n * sum (fun x => x.1 * x.2) - st * sv, den := n * sum (fun x => (x.1 : Int) * x.1) - st * st, n := n, sumT := st, sumV := sv }

/-- Hours until the line reaches a limit; none if it moves away, or with fewer than 8 points. -/
def hoursTo (points : List (Nat × Int)) (lower upper : Option Int) : Option Nat :=
  let k := ageLine points
  let t : Int := (points.getLast?.map Prod.fst).getD 0
  let limit := if 0 < k.num then upper else if k.num < 0 then lower else none
  match limit with
  | none => none
  | some y =>
    if points.length < 8 ∨ k.den ≤ 0 then none
    else some (max 0 (divTrunc (y * k.n * k.den - k.sumV * k.den - k.num * (k.n * t - k.sumT)) (k.n * k.num))).toNat

/-- SLOPE per 1,000 h. -/
def slopeOf (points : List (Nat × Int)) : Int :=
  let k := ageLine points
  if k.den ≤ 0 then 0 else divTrunc (k.num * 1000) k.den

/-- Has the latest point passed a limit? -/
def passed (v : Int) (lower upper : Option Int) : Bool :=
  (match lower with
   | some y => decide (v ≤ y)
   | none => false) || (match upper with
   | some y => decide (y ≤ v)
   | none => false)

/-- The class of a forecast (R196). -/
def SideState.ageClass (s : SideState) (p : AgePoint) : Nat :=
  let lim := s.ageLimits p
  let v := (p.points.getLast?.map Prod.snd).getD 0
  let h := hoursTo p.points lim.1 lim.2
  let within (n : Nat) : Bool := match h with
    | some x => Nat.ble x n
    | none => false
  if passed v lim.1 lim.2 || within (s.get CA_AGE2.ALARM) then 2 else if within (s.get CA_AGE.WARN) then 1 else 0

/-- The value at survey of a quantity that is recorded first: that recording (log 112), or a free value where the SURVEY was before
this power-up or this lead, and no record holds its value (R195). -/
def SideState.surveyValue (s : SideState) (q : Nat) (v : Int) : SideState × Int :=
  if s.cal.agesTaken && (q == 2 || q == 6) then
    let f := s.fresh 32
    (f.1, (f.2 : Int))
  else (s, v)

/-- Records one value and classifies its element afresh. -/
def SideState.recordAge (s : SideState) (q e : Nat) (v : Int) : SideState :=
  let old := s.cal.ageing.find? (fun p => p.quantity == q && p.elem == e)
  let x := if old.isNone then s.surveyValue q v else (s, v)
  let s := x.1
  let p : AgePoint := match old with
    | some p => { p with points := lastN 32 (p.points ++ [(s.poweredHours, v)]) }
    | none => { elem := e, quantity := q, points := [(s.poweredHours, v)], atSurvey := x.2, cls := 0 }
  let cls := s.ageClass p
  let was := p.cls
  let s := { s with cal := { s.cal with
    ageing := s.cal.ageing.filter (fun x => !(x.quantity == q && x.elem == e)) ++ [{ p with cls := cls }] } }
  if cls = was then s
  else if cls = 2 then (s.evt 0x0E 5).raise 0xB7
  else if cls = 1 then (s.evt 0x0E 4).raise 0xB6
  else s

/-- One entry of the forecast record (R198). -/
def SideState.forecastEntry (s : SideState) (p : AgePoint) : List Byte :=
  let lim := s.ageLimits p
  let h := hoursTo p.points lim.1 lim.2
  let v := (p.points.getLast?.map Prod.snd).getD 0
  leBytes 4 (p.elem % 65536 + p.quantity * 2 ^ 16 + p.cls * 2 ^ 24 + (if h.isNone then 2 ^ 26 else 0))
    ++ leBytes 4 (unsignedOf v 32) ++ leBytes 4 (unsignedOf (slopeOf p.points) 32) ++ leBytes 4 (h.getD 0xFFFFFFFF)

/-- The forecast record (R198). -/
def SideState.forecastRecord (s : SideState) : List Byte :=
  let head := [0x43, 0x5A, 0x46, 0x43] ++ leBytes 4 (s.get RG_IMG_CRC.CRC) ++ leBytes 8 s.beatNo
    ++ leBytes 4 s.cal.ageing.length ++ leBytes 2 (s.get CA_TREF.TAGE) ++ List.replicate 6 0
  let entries := (s.cal.ageing.map s.forecastEntry).flatten
  head ++ leBytes 4 (crc32c (head ++ entries)) ++ entries

/-- The readings kept for the next recording: BASE of every T DO and the ratio of every lit output (R195). They are taken once
per housekeeping round. -/
def SideState.ageSamples (s : SideState) : SideState :=
  if !s.leads || !s.rigged || !s.cal.ageFrom then s
  else
    let add (t : List (Nat × List Nat)) (k v : Nat) : List (Nat × List Nat) := Tab.put t k (Tab.getD t k [] ++ [v])
    let bases := (s.dosOfKind 1).foldl (fun t d => add t d (s.base d)) s.cal.baseHistory
    let ratios := s.activeConns.foldl (fun t (c : Conn) =>
      let wi := s.sample (s.t PT.MON_MI c.input)
      let wo := s.sample (s.t PT.MON_MI (s.ports + c.output))
      if s.tis PT.MON_PRESENT c.input && s.tis PT.MON_PRESENT (s.ports + c.output) && sampleValid wi == 0 && sampleValid wo == 0
          && sampleNV wi != 0 then
        add t c.output (sampleNV wo * 65536 / sampleNV wi)
      else t) s.cal.pathRatios
    { s with cal := { s.cal with baseHistory := bases, pathRatios := ratios } }

/-- One recording (R195 to R198). -/
def SideState.recordAges (s : SideState) (bothOpen : Bool) : SideState :=
  let dt := clampNat 5 200 (s.get CA_DT.DT) * 10
  let inWindow := decide ((s.tileTemp - signed (s.get CA_TREF.TAGE) 16).natAbs ≤ dt)
  let s := { s with cal := { s.cal with lastAge := s.produced } }
  let s := if inWindow then s.ageValues.foldl (fun s p => s.recordAge p.1 p.2.1 p.2.2) s else s
  let s := { s with cal := { s.cal with heaterReadings := [], handoverPowers := [], baseHistory := [], pathRatios := [] } }
  let s := (s.set CA_AGE_STAT.AMBER (min 16383 (s.cal.ageing.countP (fun p => p.cls == 1)))).set CA_AGE_STAT.RED
    (min 16383 (s.cal.ageing.countP (fun p => p.cls == 2)))
  s.startAged .forecast s.forecastRecord bothOpen

/-- AGEING_RECORD (R195): once per CA_AGE.PERIOD hours of powered time. -/
def execAgeingRecord (sd : Side) (s : State) : Host.Outcome State Fault Refusal :=
  .next (s.side sd (fun x =>
    if x.managed && x.leads && x.cal.ageFrom && Nat.ble (x.cal.lastAge + max 1 (x.get CA_AGE.PERIOD) * 360000000) x.produced then
      x.recordAges (s.bothNvmOpen sd)
    else x))

end Sys2Proof.Machine
end

