-- ==== Sys2Proof/Machine/Faults.lean ====
section
/-! DEFINITION. The fault collector's commands: fault events, counting windows, the class map, the release of the Major
state, injection and the watchdog (R299 to R314, R374). -/

namespace Sys2Proof.Machine

/-- An interconnect read met an uncorrectable word: an error response to its master, counted and reported (R355, R370). -/
def SideState.eccError (s : SideState) (f : Fld) (src addr m : Nat) : SideState :=
  (((s.errorResponse addr m 5 false).bump f 1).evt 0x02 2).raise src

/-- An interconnect read met a correctable word. -/
def SideState.eccCorrected (s : SideState) (f : Fld) : SideState := ((s.bump f 1).evt 0x02 1).count 124 1

/-- A word of the element-table memory turns uncorrectable. -/
def SideState.hardWord (s : SideState) (a : Nat) : SideState :=
  { s with eccHard := insertNat (a / 4 * 4) s.eccHard, eccSoft := dropNat (a / 4 * 4) s.eccSoft }

/-- ECC errors of the element-table memory enter with source 0x1C and `point` = master × 2^32 + address: the word holds a
correctable error that no read has met (`passes`), or an interconnect read finds it uncorrectable (R422). -/
def SideState.tableError (s : SideState) (point : Nat) (check : CheckOutcome) : SideState :=
  let a := point % 0x100000000
  let w := a / 4 * 4
  if check = .passes then { s with eccSoft := insertNat w s.eccSoft }
  else
    ((s.hardWord a).owe [w]).eccError BX_ECC_ET.UNCORR 0x1C a (point / 0x100000000)

/-- A flit that failed is resent once, and one that failed twice is lost; both are counted (R231, R364). -/
def SideState.lostFlit (s : SideState) : SideState := (s.count 116 1).bump TW_LINK.CRC_ERR 1

/-- The lead has lost a flit at `place` of the records of its beat. Where it held a copy record, the marker of the beat carries
COMPLETE 0 (R231): a record that has gone out by then, or one that the close of the beat still adds. -/
def SideState.lostRecord (s : SideState) (place : Nat) : SideState :=
  if s.leads then
    let held := Nat.blt place (s.twin.late.length + s.twin.records.length)
    { s with twin := { s.twin with flitLost := s.twin.flitLost || held, lostRecords := insertNat place s.twin.lostRecords } }
  else s

/-- The supply and clock bits that follow the checks of sources 0x02 to 0x06 (R401, R402). -/
def SideState.showSupply (s : SideState) (source : Nat) (good : Bool) : SideState :=
  match source with
  | 0x02 => let s := s.setB CK_STAT.RAILS_OK good; if good then s else s.evt 0x01 0
  | 0x03 => let s := s.setB CK_STAT.PLL_CORE good; if good then s else s.evt 0x01 1
  | 0x04 => let s := s.setB CK_STAT.PLL_SYS good; if good then s else s.evt 0x01 1
  | 0x05 => let s := s.setB CK_STAT.PLL_TIME good; if good then s else s.evt 0x01 1
  | 0x06 => s.setB CK_STAT.PD_LINK good
  | _ => s

/-- Source 0x5D (R15): a table load that is not complete is repeated whole in the next scene window, and a calibration commit
waits for the next beat that meets its rules. -/
def SideState.sceneOverrun (s : SideState) : SideState :=
  let s := (s.bump SC_OVR_CNT.SCENE_WIN 1).evt 0x0B 1
  let later (w : TableWrite) : TableWrite := if w.due = s.produced + 1 then { w with due := s.produced + 2 } else w
  let defer (r : CalResult) : CalResult := if r.due = some (s.produced + 1) then { r with due := none } else r
  { s with hostWrites := s.hostWrites.map later, cal := { s.cal with results := s.cal.results.map defer } }

/-- A block outside the model's own checks reports an event of a source; `point` names the checker of R310 that made the
check, 0 for none, and `check` how it came out (R300, R311). For source 0x85 of a lead `point` holds from bit 8 up the place of
the copy record that the lost flit held. -/
def SideState.faultEvent (s : SideState) (source point : Nat) (check : CheckOutcome) : SideState :=
  if !(classMapped source || collectorSource source) then s
  else if source = 0x1C then s.tableError point check
  else
    let s := s.showSupply source (check == .passes || check == .failsPrimaryInversion)
    let s := if source = 0x5D && check != .passes then s.sceneOverrun else s
    let s := if source = 0x85 && check != .passes && check != .failsPrimaryInversion then s.lostFlit.lostRecord (point / 256)
      else s
    match (if injectionSource (point % 256) = some source then s.armedAt (point % 256) else none) with
    | none => s.raiseIf (check != .passes) source
    | some i =>
      match check with
      | .passes => (s.consumeInjection i).raise 0xF8
      | .failsPrimaryInversion => (s.consumeInjection i).injected i source
      | .failsBoth => (s.raise source).consumeInjection i
      | .failsPrimaryOther => (s.raise source).consumeInjection i

/-- FAULT_WINDOW_EXPIRY (R300): a window whose LEFT is 0 closes. -/
def execFaultWindowExpiry (sd : Side) (source : Nat) (s : State) : Host.Outcome State Fault Refusal :=
  .next (s.side sd (fun x => x.live (fun x => if Tab.get? x.fault.windows source = some 0 then x.closeWindow source else x)))

/-- A completed FC_MAP pair: the selected source's entry, which acts from the next boundary; reserved sources and the
collector's own ignore it (R299, R307). -/
def SideState.writeClassMap (s : SideState) (m : Master) (v : Word) : SideState :=
  let src := s.get FC_SEL.SOURCE
  if !classMapped src then s.ignored 0x03054 m
  else
    let old : Word := BitVec.ofNat 32 (s.entryOf src)
    let s := { s with fault := { s.fault with mapPending := Tab.put s.fault.mapPending src old } }
    (s.agree (FC_MAP.CLASS.bank src).key).set (wholeReg (FC_MAP.CLASS.bank src).key) (Nat.land v.toNat 0xFFFFFF07)

/-- CLASS_MAP_WRITE (R307). -/
def execClassMapWrite (sd : Side) (m : Master) (w : PairWrite) (s : State) : Host.Outcome State Fault Refusal :=
  .next (s.side sd (fun x => x.live (fun x =>
    match x.pairWrite 0x03054 m w with
    | (x, none) => x
    | (x, some v) => x.writeClassMap m v)))

/-- FC_REL with GO: refused NONE or RECENT, else pending until the next boundary (R305, R314). -/
def SideState.releaseMajor (s : SideState) : SideState :=
  let recent := match s.fault.majorAt with
    | none => false
    | some t => Nat.blt s.tick (t + 1000000)
  let refuse (reason : Nat) : SideState := ((s.set FC_REL_STAT.RESULT 3).set FC_REL_STAT.REASON reason).evt 0x03 5
  if !s.is FC_STAT.MAJOR then refuse 1
  else if recent then refuse 2
  else
    let s := (s.set FC_REL_STAT.RESULT 1).set FC_REL_STAT.REASON 0
    { s with fault := { s.fault with relPending := true } }

/-- MAJOR_RELEASE (R305). -/
def execMajorRelease (sd : Side) (m : Master) (w : PairWrite) (s : State) : Host.Outcome State Fault Refusal :=
  .next (s.side sd (fun x => x.live (fun x =>
    x.onPair 0x03068 m w (fun v x => if v.toNat % 2 = 1 then x.releaseMajor else x))))

/-- An accepted release takes effect at a boundary (R305): the Major state ends, a pending resignation is withdrawn, counts
of sources of class Major are 0. ALIVE restarts by R218 with its next toggle. -/
def SideState.endMajor (s : SideState) : SideState :=
  if !s.fault.relPending then s
  else
    let s := ((s.set FC_STAT.MAJOR 0).set FC_STAT.RESIGN_PEND 0).set FC_MAJ.COUNT 0
    let s := { s with
      fault := { s.fault with relPending := false }
      twin := { s.twin with resignWait := false, resignFrom := none, resignSent := false } }
    let s := (s.fault.windows.map (fun p => p.1)).foldl (fun s src => if s.classOf src = 2 then s.closeWindow src else s) s
    (s.set FC_REL_STAT.RESULT 2).evt 0x03 5

/-- Class-map entries written since the last boundary come into force (R307). -/
def SideState.classMapInForce (s : SideState) : SideState :=
  if s.fault.mapPending.isEmpty then s
  else
    let s := (s.fault.mapPending.map (fun p => p.1)).foldl (fun s src => s.closeWindow src) s
    ({ s with fault := { s.fault with mapPending := [] } }).evt 0x03 4

/-- Every open window loses a boundary (R300). -/
def SideState.ageWindows (s : SideState) : SideState :=
  { s with fault := { s.fault with windows := s.fault.windows.map (fun p => (p.1, p.2 - 1)) } }

/-- FC_INJ with GO (R309): refused BUSY, POINT or GRAVE, else armed. -/
def SideState.armInjection (s : SideState) (v : Nat) : SideState :=
  let point := bits v 0 8
  let react := bitAt v 16
  let refuse (reason : Nat) : SideState := (s.set FC_INJ_STAT.RESULT 3).set FC_INJ_STAT.REASON reason
  if !bitAt v 31 then s
  else if s.fault.injection.isSome then refuse 1
  else
    match injectionSource point with
    | none => refuse 2
    | some src =>
      if react && s.classOf src == 3 then refuse 3
      else
        let left := max 1 (bits v 8 8)
        let s := { s with fault := { s.fault with injection := some ⟨point, left, react, s.produced⟩ } }
        let s := ((s.set FC_INJ_STAT.RESULT 1).set FC_INJ_STAT.REASON 0).set FC_INJ_STAT.LEFT left
        ((s.set FC_INJ_STAT.INJ 0).set FC_INJ_STAT.REAL 0).set FC_STAT.INJ_ARMED 1

/-- INJECTION_ARM (R309). -/
def execInjectionArm (sd : Side) (m : Master) (v : Word) (s : State) : Host.Outcome State Fault Refusal :=
  .next (s.side sd (fun x => x.live (fun x => x.regWrite 0x03090 m (fun x => x.armInjection v.toNat))))

/-- INJECTION_TIMEOUT (R309): 100,000 boundaries after arming the injection is disarmed with source 0xF9. -/
def execInjectionTimeout (sd : Side) (s : State) : Host.Outcome State Fault Refusal :=
  .next (s.side sd (fun x => x.live (fun x =>
    match x.fault.injection with
    | none => x
    | some i =>
      if x.produced < i.armedAt + 100000 then x
      else
        let x := { x with fault := { x.fault with injection := none } }
        (((x.set FC_INJ_STAT.LEFT 0).set FC_INJ_STAT.RESULT 0).set FC_STAT.INJ_ARMED 0).raise 0xF9)))

/-- WATCHDOG_EXPIRY (R374): no mark for 1,000 beats, the first of which comes with the start of the firmware; the stage manager's work stops
until the side is reset. -/
def execWatchdogExpiry (sd : Side) (s : State) : Host.Outcome State Fault Refusal :=
  .next (s.side sd (fun x => if x.managed && Nat.ble (x.fault.watchdog + 1000) x.produced then (x.set HM_STAT.WDOG_OK 0).raise 0xA4 else x))

end Sys2Proof.Machine
end

