-- ==== Sys2Proof/Machine/Interconnect.lean ====
section
/-! DEFINITION. The interconnect and the performance counters: access errors, the remap of address zero, snapshots, live
reads and dumps (R350 to R371), BAR2 writes (R345) and the timeout of a pair (R340). -/

namespace Sys2Proof.Machine

/-- BUS_ACCESS_ERROR (R351). -/
def execBusAccessError (sd : Side) (m : Master) (addr width : Nat) (write locked : Bool) (burst : Nat) (s : State) :
    Host.Outcome State Fault Refusal :=
  .next (s.side sd (fun x => x.live (fun x => (x.transfer m).accessError m addr width write locked burst)))

/-- TARGET_TIMEOUT (R361): an error response, no write, source 0x1D. -/
def execTargetTimeout (sd : Side) (m : Master) (addr : Nat) (write : Bool) (s : State) : Host.Outcome State Fault Refusal :=
  .next (s.side sd (fun x => x.live (fun x => ((x.transfer m).errorResponse addr m.code 4 write).raise 0x1D)))

/-- BAR2_WRITE (R345): ignored, an error response, source 0x15. -/
def execBar2Write (sd : Side) (offset : Nat) (_v : Word) (s : State) : Host.Outcome State Fault Refusal :=
  .next (s.side sd (fun x => x.live (fun x =>
    ((x.transfer .host).errorResponse (0x20000000 + offset) Master.host.code 0 true).raiseWith 0x15
      (accessDetail (0x20000000 + offset) Master.host.code true))))

/-- REMAP (R362): refused while REMAP_LOCK is 1. -/
def execRemap (sd : Side) (m : Master) (w : PairWrite) (s : State) : Host.Outcome State Fault Refusal :=
  .next (s.side sd (fun x => x.live (fun x => x.onPair 0x02040 m w (fun v x =>
    if x.is BX_CTRL.REMAP_LOCK then (x.evt 0x02 4).raise 0x1E
    else (x.set BX_STAT.REMAPPED v.toNat).evt 0x02 3))))

/-- PAIR_TIMEOUT (R340): the pair of a page breaks once its 16th boundary has passed. -/
def execPairTimeout (sd : Side) (page : Nat) (s : State) : Host.Outcome State Fault Refusal :=
  .next (s.side sd (fun x => x.live (fun x => x.lapse page)))

/-- Every pair held loses a boundary (R340). -/
def SideState.agePairs (s : SideState) : SideState :=
  s.pairs.foldl (fun s p => s.set (PAGE_LOCK.LEFT.onPage p.1) (s.get (PAGE_LOCK.LEFT.onPage p.1) - 1)) s

/-! ### Performance counters -/

/-- Overflow bit of counter `k`. -/
def SideState.overflow (s : SideState) (k : Nat) : Bool := s.is { PC_OVF.OVF.nth (k / 32) with lo := k % 32, w := 1 }

/-- COUNTER_SNAPSHOT (R366): every counter and overflow bit is latched, and the beat with them. -/
def execCounterSnapshot (sd : Side) (m : Master) (v : Word) (s : State) : Host.Outcome State Fault Refusal :=
  .next (s.side sd (fun x => x.live (fun x => x.regWrite 0x06044 m (fun x =>
    if v.toNat % 2 = 0 then x
    else
      let x := { x with perf := { x.perf with
        hold := x.perf.counters
        holdOvf := (List.range 128).map (fun k => (k, x.overflow k))
        holdDiag := x.perf.diag } }
      ((x.set PC_SNAP_BEAT_LO.BEATNO x.beatNo).set PC_SNAP_BEAT_HI.BEATNO (x.beatNo / 2 ^ 32)).evt 0x06 0))))

/-- COUNTER_CLEAR (R363, R365): the write's FREEZE acts; CLEAR sets every counter and overflow bit to 0. -/
def execCounterClear (sd : Side) (m : Master) (v : Word) (s : State) : Host.Outcome State Fault Refusal :=
  .next (s.side sd (fun x => x.live (fun x => x.regWrite 0x06040 m (fun x =>
    let x := x.set PC_CTRL.FREEZE v.toNat
    if bitAt v.toNat 1 then
      let x := { x with perf := { x.perf with counters := [], diag := [] } }
      (List.range 4).foldl (fun x i => x.set (PC_OVF.OVF.nth i) 0) x
    else x))))

/-- The value and the overflow bit of the counter that PC_SEL selects, live. -/
def SideState.selectedCounter (s : SideState) : Nat × Bool :=
  let k := s.get PC_SEL.COUNTER
  if s.is PC_SEL.DIAG then (Tab.getD s.perf.diag (k % 16) 0, false)
  else (Tab.getD s.perf.counters k 0, s.overflow k)

/-- A read of PC_LIVE_LO answers bits [31:0] of the selected counter and latches the rest into the reader's shadow. -/
def SideState.readLive (s : SideState) (shadow : Nat) : SideState :=
  let c := s.selectedCounter
  { s with
    readBack := BitVec.ofNat 32 (c.1 % 2 ^ 32)
    readHigh := 0
    perf := { s.perf with shadow := Tab.put s.perf.shadow shadow (c.1 / 2 ^ 32, c.2) } }

/-- LIVE_COUNTER_READ (R366): the reader's shadow latches bits [47:32] and the overflow bit. A BAR2 read of a page whose
USER_OK is 0 returns zero and reads nothing (R345). -/
def execLiveCounterRead (sd : Side) (m : Master) (bar2 : Bool) (s : State) : Host.Outcome State Fault Refusal :=
  .next (s.side sd (fun x => x.live (fun x =>
    let x := x.transfer m
    if !x.answers 0x06054 then x
    else if bar2 then
      (if x.is (PAGE_CTRL.USER_OK.onPage 0x06) then x.readLive 7 else { x with readBack := 0, readHigh := 0 })
    else if mayAccess x.remapped m (regAddr 0x06054) false then x.readLive m.code
    else x.denied (regAddr 0x06054) m false)))

/-! ### Dumps -/

/-- Records in the ring; acts within 2 to 1,024 (R371). -/
def SideState.dumpCount (s : SideState) : Nat := clampNat 2 1024 (s.get PC_DUMP_COUNT.COUNT)

/-- The ring's base. -/
def SideState.dumpBase (s : SideState) : Nat := s.get PC_DUMP_BASE.ADDR * 64

/-- DUMP_ENABLE (R367): setting EN checks the ring and resets WIDX and SEQ. -/
def execDumpEnable (sd : Side) (m : Master) (v : Word) (s : State) : Host.Outcome State Fault Refusal :=
  .next (s.side sd (fun x => x.live (fun x => x.regWrite 0x06080 m (fun x =>
    let was := x.is PC_DUMP_CTRL.EN
    let x := x.set PC_DUMP_CTRL.EN v.toNat
    if was || v.toNat % 2 == 0 then x
    else
      let x := ((x.set PC_DUMP_STAT.WIDX 0).set PC_DUMP_STAT.WRAPPED 0).set PC_DUMP_SEQ.SEQ 0
      let x := { x with perf := { x.perf with dump := {} } }
      if x.dumpBase < 0x10000000 ∨ 0x10800000 < x.dumpBase + 1120 * x.dumpCount then
        (x.set PC_DUMP_STAT.ERR 1).raise 0x1F
      else x.set PC_DUMP_STAT.ERR 0))))

/-- Does the dump engine take the counters at this boundary (R367)? -/
def SideState.dumpDue (s : SideState) : Bool :=
  s.is PC_DUMP_CTRL.EN && !s.is PC_DUMP_STAT.ERR && s.beatNo % clampNat 100 1000000 (s.get PC_DUMP_PERIOD.PERIOD) == 0
    && (s.perf.dump.takenAt != s.beatNo || s.perf.dump.taken.isEmpty)

/-- A write of the dump engine, into working SRAM alone (R357), as where PC_DUMP_BASE has been rewritten while EN is 1. -/
def SideState.dumpWrite (s : SideState) (a : Nat) (b : List Byte) : SideState := s.engineWrite .dumpEngine a b

/-- COUNTER_DUMP (R367): the counters are taken and the record opened with SEQ 0xFFFF_FFFF; or the dump is skipped, because
the previous record is not complete or the throttle step is T1 or above. -/
def execCounterDump (sd : Side) (s : State) : Host.Outcome State Fault Refusal :=
  .next (s.side sd (fun x => x.live (fun x =>
    if !x.dumpDue then x
    else if x.perf.dump.busy || x.get TH_STAT.STEP != 0 then
      ({ x with perf := { x.perf with dump := { x.perf.dump with skippedNext := min 65535 (x.perf.dump.skippedNext + 1) } } }).evt 0x06 2
    else
      let x := { x with perf := { x.perf with dump := { x.perf.dump with
        busy := true
        takenAt := x.beatNo
        taken := (List.range 128).map (fun k => Tab.getD x.perf.counters k 0)
        takenOvf := (List.range 128).map (fun k => x.overflow k)
        takenDiag := (List.range 16).map (fun k => Tab.getD x.perf.diag k 0)
        takenStep := x.get TH_STAT.STEP
        skipped := x.perf.dump.skippedNext
        skippedNext := 0 } } }
      x.dumpWrite (x.dumpBase + 1120 * x.get PC_DUMP_STAT.WIDX + 4) (leBytes 4 0xFFFFFFFF))))

/-- The bytes of the record being written (R368). -/
def SideState.dumpRecord (s : SideState) : List Byte :=
  let d := s.perf.dump
  let head := [0x43, 0x5A, 0x44, 0x50] ++ leBytes 4 d.seq ++ leBytes 8 d.takenAt ++ leBytes 8 d.prev ++ leBytes 2 d.skipped
    ++ leBytes 1 ((match s.side with | .A => 0 | .B => 1) + s.get TW_ROLE.ROLE * 2) ++ leBytes 1 d.takenStep
  let body := ((d.taken.zip d.takenOvf).map (fun p => leBytes 8 (p.1 + (if p.2 then 2 ^ 48 else 0)))).flatten
    ++ (d.takenDiag.map (fun n => leBytes 4 n)).flatten
  head ++ leBytes 4 (crc32c (head ++ body)) ++ body

/-- DUMP_RECORD_DONE (R368): the record is complete, its SEQ is written, WIDX advances. -/
def execDumpRecordDone (sd : Side) (s : State) : Host.Outcome State Fault Refusal :=
  .next (s.side sd (fun x => x.live (fun x =>
    if !x.perf.dump.busy then x
    else
      let d := x.perf.dump
      let i := x.get PC_DUMP_STAT.WIDX
      let b := x.dumpRecord
      let at' := x.dumpBase + 1120 * i
      let x := ((x.dumpWrite at' (b.take 4)).dumpWrite (at' + 8) (b.drop 8)).dumpWrite (at' + 4) (slice b 4 4)
      let x := x.set PC_DUMP_SEQ.SEQ d.seq
      let x := if i + 1 < x.dumpCount then x.set PC_DUMP_STAT.WIDX (i + 1)
        else (x.set PC_DUMP_STAT.WIDX 0).set PC_DUMP_STAT.WRAPPED 1
      let x := { x with perf := { x.perf with dump := { d with
        busy := false
        prev := d.takenAt
        seq := (d.seq + 1) % 0xFFFFFFFF } } }
      x.evt 0x06 1)))

end Sys2Proof.Machine
end

