-- ==== Sys2Proof/Machine/Rig.lean ====
section
/-! DEFINITION. The tile and the rig map in service (R55 to R66, R100, R101, R422): the start-up decision, the expansion of the
element tables, park values at power-up, the verification and rewriting of the tile image, commits, and host writes of
element-table words. -/

namespace Sys2Proof.Machine

/-! ### Reading the tile (R43, R61) -/

/-- Bytes of the tile's identity memory; an unlisted byte reads 0xFF. -/
def State.tileBytes (s : State) (a n : Nat) : List Byte := (List.range n).map (fun i => Store.read (fun _ => 0xFF) s.tile (a + i))

/-- What the lead reads of the tile (R42, R61): whether it answers, its factory block, and the image area up to IMG_LEN. -/
structure TileView where
  present : Bool
  factory : List Byte
  image : List Byte
  deriving DecidableEq, Repr

/-- The tile as its lead reads it. -/
def State.tileView (s : State) : TileView :=
  { present := s.tilePresent
    factory := s.tileBytes 0xFF00 256
    image := s.tileBytes 0 (max 0x40 (min 0xFF00 (rigLen (s.tileBytes 0 0x40)))) }

/-! ### Expansion (R55 to R59, R138 to R140, R161) -/

/-- The loops of a rig map in their order (R138, R139): DO, law and MI. -/
def RigMap.loopList (m : RigMap) : List (Nat × (Nat × Nat)) :=
  ((m.cellRecs.filter (fun r => bitAt r 14 && bitAt r 45)).map (fun r => (bits r 0 14, (2, bits r 32 13))))
  ++ ((m.portRecs.filter (fun r => bitAt r 14 && bitAt r 29)).map (fun r => (bits r 0 14, (1, bits r 16 13))))

/-- A field of two bytes of the electrical record of a kind. -/
def RigMap.half (m : RigMap) (kind off : Nat) : Nat := leNat (slice (m.elecOf kind) off 2)

/-- A field of one byte of the electrical record of a kind. -/
def RigMap.octet (m : RigMap) (kind off : Nat) : Nat := leNat (slice (m.elecOf kind) off 1)

/-- The drive-table entry of a named DO (R56), with TAP 0. -/
def RigMap.driveEntry (m : RigMap) (kind elem d : Nat) : List Byte :=
  let loop := (m.loopList.map Prod.fst).idxOf d
  leBytes 4 (elem + kind * 2 ^ 16 + m.modeOf kind % 4 * 2 ^ 20 + m.groups.getD (d / 64) 0 % 4 * 2 ^ 22)
    ++ leBytes 4 (m.half kind 6 % 2 ^ 14 + m.half kind 4 % 2 ^ 14 * 2 ^ 16)
    ++ leBytes 4 (m.octet kind 2 % 4 * 2 ^ 6 + m.half kind 10 * 2 ^ 16)
    ++ leBytes 4 (if loop < m.loopList.length then loop else 0xFFFF)

/-- The drive-table entry of an unused DO: HSUP of its group alone (R50, R56). -/
def RigMap.unusedDrive (m : RigMap) (d : Nat) : List Byte :=
  leBytes 4 (m.groups.getD (d / 64) 0 % 4 * 2 ^ 22) ++ leBytes 8 0 ++ leBytes 4 0xFFFF

/-- The monitor-table entry of a named MI (R57), with the corrections given. -/
def RigMap.monitorEntry (m : RigMap) (kind elem corr : Nat) : List Byte :=
  let k := 0x10 + kind
  leBytes 4 (elem + kind * 2 ^ 16 + m.octet k 1 % 4 * 2 ^ 20 + m.octet k 2 % 2 * 2 ^ 22 + m.octet k 3 % 2 * 2 ^ 23)
    ++ leBytes 4 (m.half k 4 + m.half k 6 * 2 ^ 16) ++ leBytes 4 corr ++ leBytes 4 0

/-- OFFSET 0 and GAIN 1.0 (R57). -/
def plainCorrection : Nat := 0x80000000

/-- The cell-table entry of a cell (R58). -/
def RigMap.cellEntry (m : RigMap) (c : Nat) : List Byte :=
  leBytes 4 (c / m.cps % 32 + c % m.cps * 32) ++ leBytes 6 (m.cellRecs.getD c 0) ++ leBytes 6 0

/-- The port-table entry of a port record (R59). -/
def RigMap.portEntry (m : RigMap) (e : Nat) : List Byte :=
  leBytes 4 (m.portRecs.getD e 0) ++ leBytes 4 (if e < m.ports then 0 else m.half 4 8 % 2 ^ 14) ++ leBytes 8 0

/-- The loop-table entry of a loop with its reset values (R140). -/
def RigMap.loopEntry (m : RigMap) (l : Nat) : List Byte :=
  let r := m.loopList.getD l (0, (0, 0))
  leBytes 4 (r.1 + r.2.1 * 2 ^ 14 + r.2.2 * 2 ^ 16 + 3 * 2 ^ 29) ++ leBytes 4 0 ++ leBytes 4 4095
    ++ leBytes 4 (1 + 2 ^ 10 + 8 * 2 ^ 20) ++ leBytes 4 (1 + 2 ^ 12) ++ leBytes 12 0

/-- The edge-table entry of a cell with its reset values (R161). -/
def freshEdge : List Byte := leBytes 4 8192 ++ leBytes 12 0

/-- The tables are expanded from a rig map (R55, R57, R138). -/
def SideState.expandTables (s : SideState) (m : RigMap) : SideState :=
  let s := (List.range 10240).foldl (fun (s : SideState) d => s.wrBytes (0x30000000 + 16 * d) (m.unusedDrive d)) s
  let s := m.drives.foldl (fun (s : SideState) x => s.wrBytes (0x30000000 + 16 * x.2.2) (m.driveEntry x.1 x.2.1 x.2.2)) s
  let s := (List.range 6144).foldl (fun (s : SideState) i => s.wr (MT.OFFSET.addr i) 4 plainCorrection) s
  let s := m.monitors.foldl (fun (s : SideState) x =>
    s.wrBytes (0x30028000 + 16 * x.2.2) (m.monitorEntry x.1 x.2.1 plainCorrection)) s
  let s := (List.range m.cells).foldl (fun (s : SideState) c =>
    (s.wrBytes (0x30040000 + 16 * c) (m.cellEntry c)).wrBytes (0x30088000 + 16 * c) freshEdge) s
  let s := (List.range (2 * m.ports)).foldl (fun (s : SideState) e => s.wrBytes (0x30054000 + 16 * e) (m.portEntry e)) s
  (List.range m.loopList.length).foldl (fun (s : SideState) l => s.wrBytes (0x30058000 + 32 * l) (m.loopEntry l)) s

/-- The registers of the rig map in force (R66). -/
def SideState.rigRegisters (s : SideState) (img : List Byte) : SideState :=
  let m := RigMap.of img
  let s := ((s.set RG_TOPO.LOG2N m.n).set RG_TOPO.KIND m.kind).set RG_TOPO.STAGES m.stages
  let s := (s.set RG_COUNT.CELLS m.cells).set RG_COUNT.PORTS m.ports
  let s := (s.set RG_USED.DO_USED m.drives.length).set RG_USED.MI_USED m.monitors.length
  (s.set RG_LOOPS.LOOPS m.loopList.length).set RG_IMG_CRC.CRC (rigCrc img)

/-- Four SERIAL registers take 16 bytes. -/
def SideState.setSerial (s : SideState) (f : Fld) (b : List Byte) : SideState :=
  (List.range 4).foldl (fun (s : SideState) i => s.set (f.nth i) (leNat (slice b (4 * i) 4))) s

/-- A rig map comes into force: registers, tables, the channels' first ranges, and the curtain scene
owed its solve (R55, R57, R66, R85). -/
def SideState.rigInForce (s : SideState) (img : List Byte) : SideState :=
  let s := { s with rigImage := img }
  let s := (s.rigRegisters img).expandTables (RigMap.of img)
  let s := { s with power := { s.power with tablesExpanded := true }, pipe := { s.pipe with curtainOwed := true } }
  let s := (s.set RG_STAT.IN_FORCE 1).setB DO_STAT.T_AVAIL (Nat.ble (RigMap.of img).drives.length 1152)
  (s.initChannels).evt 0x0F 0

/-! ### The calibration record at start-up (R57, R62, R161, R194) -/

/-- Does a calibration record belong to the rig map in force: IMG_CRC and serial (R62, R194)? -/
def SideState.calRecordFits (s : SideState) (b : List Byte) : Bool :=
  leNat (slice b 0 4) == s.get RG_IMG_CRC.CRC && slice b 4 16 == rigSerial s.rigImage

/-- The 32-bit word `i` of a part of the calibration record. -/
def calWord (b : List Byte) (base i : Nat) : Nat := leNat (slice b (base + 4 * i) 4)

/-- Offsets of the parts of the calibration record: OFFSET and GAIN; loop words 0, 1, 2 and 6; edge word 0; PHYS. -/
def calAt : Nat → Nat := fun part => 20 + 10240 + part * 24576

/-- The edge-table entry that the calibration record gives a cell. -/
def SideState.loadCalCell (s : SideState) (b : List Byte) (c : Nat) : SideState :=
  ((s.wr (ET.E_MID.addr c) 4 (calWord b (calAt 5) c)).tset ET.PHYS c (leNat (slice b (calAt 6 + c) 1)))

/-- The loop fields that the calibration record gives a loop. -/
def SideState.loadCalLoop (s : SideState) (b : List Byte) (l : Nat) : SideState :=
  let s := (s.tset LT.DIR l (bits (calWord b (calAt 1) l) 30 1)).tset LT.MARK l (calWord b (calAt 2) l)
  (s.tset LT.BAND l (calWord b (calAt 3) l)).tset LT.RESUME l (calWord b (calAt 4) l)

/-- The TAP that the calibration record gives a DO. -/
def calTap (b : List Byte) (d : Nat) : Nat := leNat (slice b (20 + d) 1) % 64

/-- The fields of the calibration record are loaded into the tables. -/
def SideState.loadCal (s : SideState) (b : List Byte) : SideState :=
  let m := RigMap.of s.rigImage
  let s := m.drives.foldl (fun (s : SideState) x => s.tset DT.TAP x.2.2 (calTap b x.2.2)) s
  let s := m.monitors.foldl (fun (s : SideState) x => s.wr (MT.OFFSET.addr x.2.2) 4 (calWord b (calAt 0) x.2.2)) s
  let s := (List.range m.loopList.length).foldl (fun (s : SideState) l => s.loadCalLoop b l) s
  let s := (List.range m.cells).foldl (fun (s : SideState) c => s.loadCalCell b c) s
  let done := (List.range 10240).filter (fun d => bitAt (leNat (slice b (20 + d) 1)) 7)
  { s with cal := { s.cal with recordValid := true, surveyed := done } }

/-- Does a forecast record belong to the rig map in force: MAGIC, IMG_CRC and CRC-32C (R198)? -/
def SideState.forecastFits (s : SideState) (b : List Byte) : Bool :=
  slice b 0 4 == [0x43, 0x5A, 0x46, 0x43] && leNat (slice b 4 4) == s.get RG_IMG_CRC.CRC
    && leNat (slice b 28 4) == crc32c (b.take 28 ++ slice b 32 (16 * leNat (slice b 16 4)))

/-- A SURVEY committed earlier has started the ageing records: TAGE is that of the forecast record, where there is one (R195,
R198). DESIGN CHOICE (log 112). -/
def SideState.restoreAges (s : SideState) : SideState :=
  if s.cal.surveyed.isEmpty || s.cal.ageFrom then s
  else
    let s := { s with cal := { s.cal with ageFrom := true, agesTaken := true, lastAge := s.produced } }
    match s.record RecordKind.forecast.area with
    | some b => if s.forecastFits b then s.set CA_TREF.TAGE (leNat (slice b 20 2)) else s
    | none => s

/-- The calibration record is loaded, or rejected; without one every element awaits its SURVEY and only curtain cues are
taken (R62). -/
def SideState.calAtStart (s : SideState) : SideState :=
  let s := { s with power := { s.power with calLoaded := true } }
  match s.record RecordKind.calibration.area with
  | some b =>
    if s.calRecordFits b then
      let s := (s.loadCal b).restoreAges
      if s.allSurveyed then s.set CA_STAT.SURVEY_DONE 1 else s.set RG_STAT.CURTAIN_ONLY 1
    else s.set RG_STAT.CURTAIN_ONLY 1
  | none => (s.raise 0xA3).set RG_STAT.CURTAIN_ONLY 1

/-! ### Park values at power-up (R61, R62, R100, R101) -/

/-- Does the record of the park table hold a sound table that belongs to the rig map in force? -/
def SideState.parkRecordOk (s : SideState) : Bool :=
  match s.record RecordKind.park.area with
  | some b => b.length == 40980 && parkCrcOk b && leNat (slice b 0 4) == s.get RG_IMG_CRC.CRC
  | none => false

/-- The park table is read into its window and comes into force, or is rejected with source 0x0B; without a valid copy of its record
source 0xA3 tells that too (R376). -/
def SideState.parkAtStart (s : SideState) : SideState :=
  if s.parkRecordOk then
    let b := (s.record RecordKind.park.area).getD []
    let s := s.wrBytes parkBase b
    { s with drive := { s.drive with parkInForce := parkEntries b, parkValid := true } }
  else (s.raiseIf (s.record RecordKind.park.area).isNone 0xA3).raise 0x0B

/-- The start-up of a lead has come to the firmware's steps, if these are not behind it (R391, R402). -/
def SideState.padsDone (s : SideState) : SideState := s.set CK_STAT.STAGE (max (s.get CK_STAT.STAGE) (if s.power.firmware then 5 else 4))

/-- Boundary b of power-up (R100, R391): every named DO takes its park value or code 0, the outputs are enabled, the bias pads are
driven and the front ends connect. Where park table or calibration record was rejected, every DO starts at code 0 (R62). -/
def SideState.padsAtStart (s : SideState) : SideState :=
  let zero := !s.drive.parkValid || (!s.cal.recordValid && (s.record RecordKind.calibration.area).isSome)
  let dos := (RigMap.of s.rigImage).drives.map (fun x => x.2.2)
  let s := { s with drive := { s.drive with parkValid := !zero } }
  let s := dos.foldl (fun (s : SideState) d => s.putBase d (s.parkValue d)) s
  let s := s.set DO_STAT.STAGE_EN 1
  let s := ((s.set DO_STAT.PARK_APPLIED 1).evt 0x10 0).connectFrontEnds
  let s := s.runConverters true
  (s.set CK_START_T.PARK_US (min 65535 (130 + s.produced))).padsDone

/-- The pads of a lead that starts, at a boundary (R391): at boundary b − 1 its fence is released with the outputs disabled, unless the
peer requests the fence (R395), and at boundary b the values take effect. -/
def SideState.padsAtBoundary (s : SideState) (peerRequest : Bool) : SideState :=
  match s.power.pads with
  | none => s
  | some due =>
    if !s.leads then { s with power := { s.power with pads := none } }
    else if peerRequest then s
    else if due then { s with power := { s.power with pads := none } }.padsAtStart
    else { (s.set TW_ROLE.FENCED 0).set DO_STAT.STAGE_EN 0 with power := { s.power with pads := some true } }

/-- The pads are to start at the next boundaries. -/
def SideState.padsSoon (s : SideState) : SideState := { s with power := { s.power with pads := some false } }

/-! ### The start-up decision (R61, R62) -/

/-- An image or the factory block is rejected. -/
def SideState.rejectImage (s : SideState) (reason : Nat) : SideState := ((s.set RG_STAT.REJECT reason).evt 0x0F 1).raise 0xA9

/-- The rewriting of the tile from the NVM record starts (R61). -/
def SideState.startRewrite (s : SideState) (img : List Byte) : SideState :=
  let s := ((s.set RG_COMMIT_STAT.TILE_BUSY 1).evt 0x0F 3).raise 0xAB
  { s with nvm := { s.nvm with tileWrite := some img } }

/-- Case 5: a replaced tile, or a side without a record. Its rig map asks for the curtain as it comes into force (R214). -/
def SideState.replacedTile (s : SideState) (v : TileView) : SideState :=
  let held := (s.record RecordKind.rigMap.area).isSome
  let s := (((s.set RG_STAT.CASE 5).evt 0x0F 2).raiseIf held 0xAA).raiseIf (!held) 0xA3
  let r := rigReject v.image (factorySerial v.factory)
  if r ≠ 0 then s.rejectImage r
  else
    let s := (s.rigInForce v.image).set RG_STAT.CURTAIN_ONLY 1
    let s := { s with
      cal := { s.cal with replaced := true, recordValid := false }
      power := { s.power with calLoaded := true } }
    ((s.startRecord ⟨.rigMap, v.image, 0, false, false⟩ s.nvmOpen).padsSoon).requestCurtain false

/-- Cases 3 and 4: the NVM record under the same serial. -/
def SideState.knownTile (s : SideState) (img : List Byte) (v : TileView) : SideState :=
  let r := rigHeaderReject v.image
  let s := s.rigInForce img
  let s := if r = 0 ∧ rigCrc v.image = rigCrc img then s.set RG_STAT.CASE 3
    else
      let s := s.set RG_STAT.CASE 4
      (if r = 0 then s else s.rejectImage r).startRewrite img
  s.parkAtStart.calAtStart.padsSoon

/-- The decision of R61, in table order. -/
def SideState.decideRig (s : SideState) (v : TileView) : SideState :=
  let s := match s.record RecordKind.rigMap.area with
    | some img => s.setSerial RG_NVSER.SERIAL (rigSerial img)
    | none => s
  if !v.present then (((s.set RG_STAT.CASE 1).set RG_STAT.REJECT 1).evt 0x0F 1).raise 0xA8
  else if !factoryMagicOk v.factory then (s.set RG_STAT.CASE 2).rejectImage 2
  else if !factoryCrcOk v.factory then (s.set RG_STAT.CASE 2).rejectImage 3
  else
    let s := s.setSerial RG_SERIAL.SERIAL (factorySerial v.factory)
    match s.record RecordKind.rigMap.area with
    | some img =>
      if rigSerial img = factorySerial v.factory then s.knownTile img v else s.replacedTile v
    | none => s.replacedTile v

/-- PARK_APPLY (R61, R100, R391): the lead that arbitration has decided on reads factory block, header and park table. Its pads start
at the boundaries that follow. -/
def execParkApply (sd : Side) (s : State) : Host.Outcome State Fault Refusal :=
  let v := s.tileView
  .next (s.side sd (fun x => x.live (fun x =>
    if x.leads && x.get CK_STAT.STAGE == 2 then
      let x := (x.set CK_STAT.STAGE 3).decideRig v
      if x.is RG_STAT.IN_FORCE then x else x.padsDone
    else x)))

/-- TILE_READ_RETRY (R61): the read is repeated while no rig map is in force. -/
def execTileReadRetry (sd : Side) (s : State) : Host.Outcome State Fault Refusal :=
  let v := s.tileView
  .next (s.side sd (fun x => x.live (fun x =>
    if x.leads && x.get RG_STAT.CASE != 0 && !x.is RG_STAT.IN_FORCE then x.decideRig v else x)))

/-- BACKGROUND_VERIFY (R61): the whole tile image against the NVM record; a difference is handled as in case 4, with the record.
DESIGN CHOICE (log 73): a tile that answers no more at this read differs, with REJECT NO_TILE and source 0xA8. -/
def execBackgroundVerify (sd : Side) (s : State) : Host.Outcome State Fault Refusal :=
  let v := s.tileView
  .next (s.side sd (fun x => x.live (fun x =>
    if !x.managed || !x.leads || x.get RG_STAT.CASE != 3 || x.is RG_STAT.VERIFIED then x
    else
      let x := x.set RG_STAT.VERIFIED 1
      let held := (x.record RecordKind.rigMap.area).getD x.rigImage
      let img := held.take (rigLen held)
      if v.present && v.image == img then x
      else
        let r := if v.present then rigReject v.image (factorySerial v.factory) else 1
        let x := if r = 0 then x else if r = 1 then ((x.set RG_STAT.REJECT 1).evt 0x0F 1).raise 0xA8 else x.rejectImage r
        x.startRewrite held)))

/-! ### Commits (R64) and the tile write -/

/-- A commit's image is accepted: its record is written, in place of a record of a replaced tile that still waits. -/
def SideState.startCommit (s : SideState) (img : List Byte) : SideState :=
  let s := { s with nvm := { s.nvm with rigCommit := true, writes := s.nvm.writes.filter (fun (w : RecordWrite) => w.kind != RecordKind.rigMap) } }
  ((s.set RG_COMMIT_STAT.RESULT 1).set RG_STAT.NVM_PENDING 0).startRecord ⟨.rigMap, img, 0, false, false⟩ true

/-- Why the image of a commit is rejected, 0 for none. An image cut off by RG_IMG_LEN has the reason of a bad IMG_LEN, after its
header has passed. -/
def commitReject (img serial : List Byte) : Nat :=
  if rigHeaderReject img ≠ 0 then rigHeaderReject img
  else if img.length < rigLen img then 4
  else rigReject img serial

/-- RIG_MAP_COMMIT (R64): the lead checks the image against R54 and the tile's serial, and starts its record. DESIGN CHOICE (log
110): the image is stored and written as it is, its REVISION raised by its builder; RG_IMG_LEN below IMG_LEN is FORMAT, and one
above 0xFF00 gives that many bytes, of which the record keeps all; a side that does not lead does nothing. -/
def execRigMapCommit (sd : Side) (m : Master) (w : PairWrite) (s : State) : Host.Outcome State Fault Refusal :=
  let bothOpen := s.bothNvmOpen sd
  let v := s.tileView
  .next (s.side sd (fun x => x.live (fun x => x.onPair 0x0F088 m w (fun c x =>
    if c.toNat % 2 = 0 ∨ !x.leads then x
    else
      let reject (r : Nat) : SideState := (x.set RG_COMMIT_STAT.RESULT 3).rejectImage r
      if x.nvm.rigCommit then reject 0xB
      else
        let img := x.rdBytes (x.get RG_IMG_ADDR.ADDR / 16 * 16) (x.get RG_IMG_LEN.LEN)
        let r := commitReject img (factorySerial v.factory)
        if r ≠ 0 then reject r
        else if !bothOpen then reject 0xC
        else x.startCommit img))))

/-- The bytes of an image in the tile: the image area takes the image, the factory block stays (R44). -/
def tileWith (tile : List Host.Cell) (img : List Byte) : List Host.Cell :=
  (img.take 0xFF00).zipIdx.foldl (fun t p => Store.write (fun _ => 0xFF) t p.2 p.1) tile

/-- TILE_WRITE_DONE (R42, R64): the image has been written into the identity memory, or the write has failed, as it does on a side
that no longer leads. The image of a commit that waited for the end of another write follows. -/
def execTileWriteDone (sd : Side) (ok : Bool) (s : State) : Host.Outcome State Fault Refusal :=
  let x := s.on sd
  match x.nvm.tileWrite with
  | none => .next s
  | some img =>
    if !x.alive then .next s
    else
      let good := ok && s.tilePresent && x.leads
      let s := if good then { s with tile := tileWith s.tile img } else s
      .next (s.side sd (fun x =>
        let x := { x.setB RG_COMMIT_STAT.TILE_BUSY x.nvm.tileNext.isSome with nvm := { x.nvm with
          tileWrite := x.nvm.tileNext, tileNext := none, tileCommit := x.nvm.tileNext.isSome
          rigCommit := x.nvm.rigCommit && !x.nvm.tileCommit } }
        if good then x.evt 0x0F 5 else x.raise 0xAC))

/-! ### Host writes of element-table words (R19, R60, R353) -/

/-- A stored slot that a cue not yet terminal uses (R19). -/
def SideState.slotInUse (s : SideState) (n : Nat) : Bool :=
  s.tracks.any (fun p => p.2.kind == .recall && p.2.stored == n && !p.2.state.terminal && p.2.state != .free)

/-- A write that the element-table target ignores and logs. -/
def SideState.tableIgnored (s : SideState) (a : Nat) (m : Master) : SideState := s.raiseWith 0x10 (accessDetail a m.code true)

/-- A word of the element-table memory is written again: an error it held is gone (R422), and the lead sends it (R235). -/
def SideState.storeTableWord (s : SideState) (a v : Nat) : SideState :=
  let s := { s with eccSoft := dropNat (a / 4 * 4) s.eccSoft }
  (s.wr a 4 v).emitMem a 4

/-- A 32-bit write at the element-table target. -/
def SideState.writeTableWord (s : SideState) (m : Master) (a v : Nat) : SideState :=
  if inFieldTables a then
    let mask := tableRwMask a
    let differs := Nat.land (s.rd a 4) (0xFFFFFFFF - mask) != Nat.land v (0xFFFFFFFF - mask)
    let s := if differs then s.tableIgnored a m else s
    if mask = 0 then s
    else { s with hostWrites := s.hostWrites ++ [⟨a, mask, Nat.land v mask, s.produced + 1⟩] }
  else if 0x300A0000 ≤ a ∧ a < 0x300A0000 + 40980 then s.storeTableWord a v
  else if 0x30100000 ≤ a ∧ a < 0x30100000 + 240 * 0x2000 then
    if s.slotInUse ((a - 0x30100000) / 0x2000) then s.tableIgnored a m else s.storeTableWord a v
  else s.tableIgnored a m

/-- ELEMENT_TABLE_WRITE (R60). -/
def execElementTableWrite (sd : Side) (m : Master) (addr : Nat) (v : Word) (s : State) : Host.Outcome State Fault Refusal :=
  .next (s.side sd (fun x => x.live (fun x =>
    let x := x.transfer m
    if addr % 4 ≠ 0 then x.unaligned addr m true
    else if !mayAccess x.remapped m addr true then x.denied addr m true
    else if targetOf addr = 3 then x.writeTableWord m addr v.toNat
    else x)))

/-! ### The repair of an entry (R422) -/

/-- A drive, monitor, cell or port entry from the rig map in force. -/
def SideState.rewriteMapEntry (s : SideState) (m : RigMap) (cal : Option (List Byte)) (a : Nat) : SideState :=
  if a < 0x30028000 then
    let d := (a - 0x30000000) / 16
    match m.drives.find? (fun x => x.2.2 == d) with
    | some x =>
      let s := s.wrBytes (0x30000000 + 16 * d) (m.driveEntry x.1 x.2.1 d)
      match cal with
      | some b => s.tset DT.TAP d (calTap b d)
      | none => s
    | none => s.wrBytes (0x30000000 + 16 * d) (m.unusedDrive d)
  else if a < 0x30040000 then
    let i := (a - 0x30028000) / 16
    let corr := match cal with
      | some b => calWord b (calAt 0) i
      | none => plainCorrection
    match m.monitors.find? (fun x => x.2.2 == i) with
    | some x => s.wrBytes (0x30028000 + 16 * i) (m.monitorEntry x.1 x.2.1 corr)
    | none => s.wrBytes (0x30028000 + 16 * i) (leBytes 8 0 ++ leBytes 4 plainCorrection ++ leBytes 4 0)
  else if a < 0x30054000 then
    let c := (a - 0x30040000) / 16
    s.wrBytes (0x30040000 + 16 * c) (if c < m.cells then m.cellEntry c else leBytes 16 0)
  else
    let e := (a - 0x30054000) / 16
    s.wrBytes (0x30054000 + 16 * e) (if e < 2 * m.ports then m.portEntry e else leBytes 16 0)

/-- The POL of a cell's loop for its setting in the active scene (R143). -/
def SideState.polOf (s : SideState) (l : Nat) : Nat :=
  match s.loopCell l with
  | none => 0
  | some c => match s.polFor s.fabric s.activeView c with
    | some true => 1
    | _ => 0

/-- A loop entry: rig map, calibration record, reset values, and POL by the active scene. EN is 0 for a loop whose DO is in
NONE. Its DO returns to LOOP once its sample is valid (R151). -/
def SideState.rewriteLoop (s : SideState) (m : RigMap) (cal : Option (List Byte)) (l : Nat) : SideState :=
  if m.loopList.length ≤ l then s.wrBytes (0x30058000 + 32 * l) (leBytes 32 0)
  else
    let s := s.wrBytes (0x30058000 + 32 * l) (m.loopEntry l)
    let s := match cal with
      | some b => s.loadCalLoop b l
      | none => s
    let d := s.t LT.DO l
    let s := (s.tset LT.EN l (if s.own d = .none then 0 else 1)).tset LT.POL l (s.polOf l)
    if s.own d = .loopWait && !Tab.has s.loops.toLoopAt d then s.waitSample d else s

/-- An edge entry: E_MID and E_PI from the record, PHYS from the active scene for a lit cell. -/
def SideState.rewriteEdge (s : SideState) (cal : Option (List Byte)) (c : Nat) : SideState :=
  let s := s.wrBytes (0x30088000 + 16 * c) freshEdge
  let s := match cal with
    | some b => s.loadCalCell b c
    | none => s
  if s.cellLit c then s.tset ET.PHYS c (s.activeCell c) else s

/-- The words of the entry that holds an address. -/
def entryOfWord (a : Nat) : Nat × Nat :=
  if 0x30058000 ≤ a ∧ a < 0x30088000 then (a / 32 * 32, 32) else (a / 16 * 16, 16)

/-- The stage manager rewrites the entry that holds an uncorrectable word. -/
def SideState.rewriteEntry (s : SideState) (a : Nat) : SideState :=
  let m := RigMap.of s.rigImage
  let cal := if s.cal.recordValid then s.record RecordKind.calibration.area else none
  let e := entryOfWord a
  let s := if a < 0x30058000 then s.rewriteMapEntry m cal a
    else if a < 0x30088000 then s.rewriteLoop m cal ((a - 0x30058000) / 32)
    else (s.rewriteEdge cal ((a - 0x30088000) / 16)).showHandovers
  let s := { s with
    eccHard := s.eccHard.filter (fun b => !(Nat.ble e.1 b && Nat.blt b (e.1 + e.2)))
    eccSoft := s.eccSoft.filter (fun b => !(Nat.ble e.1 b && Nat.blt b (e.1 + e.2)))
    eccOwed := s.eccOwed.filter (fun b => !(Nat.ble e.1 b && Nat.blt b (e.1 + e.2))) }
  s.emitMem e.1 e.2

/-- ENTRY_REWRITE (R422). -/
def execEntryRewrite (sd : Side) (addr : Nat) (s : State) : Host.Outcome State Fault Refusal :=
  .next (s.side sd (fun x =>
    if x.managed && x.rigged && inFieldTables addr && x.eccOwed.contains (addr / 4 * 4) then x.rewriteEntry (addr / 4 * 4) else x))

end Sys2Proof.Machine
end

