-- ==== Sys2Proof/Machine/Reset.lean ====
section
/-! DEFINITION. Power, reset and resignation (R230, R326, R391, R392, R398, R399, R419): what a side loses and keeps, and how it
leaves its role. -/

namespace Sys2Proof.Machine

/-! ### Leaving a role -/

/-- The side resigns on its pulse line, once, and without a FIT peer it is fenced (R230, R232, R246). -/
def SideState.resign (s : SideState) : SideState := s.resignOnce.1.raiseIf s.resignOnce.2 0x8A

/-- A side that leaves its role for a reset, a power failure or a trip: its pulse line carries the resignation until then. -/
def SideState.leaveRole (s : SideState) : SideState := { s.enterRole 0 with twin := { s.twin with takeoverDue := none, fencePending := false } }

/-! ### What a reset keeps (R398) -/

/-- The cells of the side's NVM. -/
def SideState.nvmCells (s : SideState) : List Host.Cell := s.mem.filter (fun c => Nat.ble 0x40000000 c.1 && Nat.blt c.1 0x42000000)

/-- The keys in the side's NVM, with those that were to take effect at the next boundary. -/
def SideState.storedKeys (s : SideState) : List (Nat × List Byte) :=
  s.nvm.keyPending.foldl (fun (l : List (Nat × List Byte)) p =>
    match p.2 with
    | some k => Tab.put l p.1 k
    | none => Tab.del l p.1) s.nvm.keys

/-- A valid log entry at a place of the ring: its CRC is correct, and it is not erased (R378, R379). -/
def SideState.entryAt (s : SideState) (i : Nat) : Option (List Byte) :=
  let b := s.rdBytes (logRing + 32 * i) 32
  if leNat (slice b 28 4) = crc32c (b.take 28) ∧ b ≠ List.replicate 32 0xFF then some b else none

/-- The places of the log ring that hold programmed bytes. -/
def SideState.logPlaces (s : SideState) : List Nat :=
  (s.mem.filter (fun c => Nat.ble logRing c.1 && Nat.blt c.1 (logRing + 0x200000))).foldl
    (fun l c => insertNat ((c.1 - logRing) / 32) l) []

/-- The valid entry with the highest SEQ by serial arithmetic, with its place (R379). -/
def SideState.lastEntry (s : SideState) : Option (Nat × Nat) :=
  s.logPlaces.foldl (fun (best : Option (Nat × Nat)) i =>
    match s.entryAt i with
    | none => best
    | some b =>
      let q := leNat (slice b 8 4)
      (match best with
       | none => some (q, i)
       | some p => if 1 ≤ (q + 2 ^ 32 - p.1) % 2 ^ 32 ∧ (q + 2 ^ 32 - p.1) % 2 ^ 32 < 2 ^ 31 then some (q, i) else best)) none

/-- The log goes on after the entry last programmed (R379). -/
def SideState.findLog (s : SideState) : SideState :=
  match s.lastEntry with
  | none => s
  | some (q, i) =>
    let s := { s with fault := { s.fault with logSeq := (q + 1) % 2 ^ 32 } }
    (s.set NV_LOG_WIDX.WIDX (i + 1)).set NV_LOG_SEQ.SEQ q

/-- The registers that show what NVM and fuses hold. -/
def SideState.showStored (s : SideState) : SideState :=
  let s := (s.set KY_SVN.MIN s.nvm.fuseMin).set KY_SVN.REVOKED s.nvm.fuseRevoked
  s.set KY_KSTAT.VALID (s.nvm.keys.foldl (fun a p => a + 2 ^ p.1) 0)

/-- The rank of R393: the rig-map record, and a park table made for it. -/
def SideState.rank (s : SideState) : Nat :=
  match s.record RecordKind.rigMap.area with
  | none => 0
  | some img =>
    match s.record RecordKind.park.area with
    | none => 1
    | some b => if b.length = 40980 ∧ parkCrcOk b = true ∧ leNat (slice b 0 4) = rigCrc img then 2 else 1

/-- Is this the preferred side: its SIDE equals its latched ROLE_PREF (R393)? -/
def SideState.preferred (s : SideState) : Bool :=
  match s.side with
  | .A => !s.is ID_STRAP.ROLE_PREF
  | .B => s.is ID_STRAP.ROLE_PREF

/-- The steps of R391 from the 1.0 ms step to the start of the beat generator: straps, clocks, arbitration. -/
def SideState.bootUp (s : SideState) : SideState :=
  let s := s.showStored.findLog
  let s := ((s.set CK_STAT.PLL_CORE 1).set CK_STAT.PLL_SYS 1).set CK_STAT.PLL_TIME 1
  let s := ((s.set CK_STAT.RAILS_OK 1).set CK_STAT.PD_LINK 1).set CK_STAT.STAGE 1
  let s := (s.set NT_STAT.REFCLK_OK 1).set TW_LINK.LANES 0
  (s.set CK_ARB.RANK s.rank).setB CK_ARB.PREFERRED s.preferred

/-- What every kind of reset but PCIe leaves: reset values, with NVM, keys, fuses and boot ROM as they were. -/
def SideState.bare (s : SideState) : SideState :=
  { SideState.reset s.side with
    mem := s.nvmCells
    nvm := { keys := s.storedKeys, keyGen := s.nvm.keyGen, fuseMin := s.nvm.fuseMin, fuseRevoked := s.nvm.fuseRevoked, romKeys := s.nvm.romKeys }
    power := { powered := true, inReset := false }
    free := s.free }

/-- A power-up from t0 (R391, R398): the straps are latched. -/
def SideState.coldStart (s : SideState) (compat rolePref : Bool) : SideState :=
  let r := s.bare
  let r := ((r.setB ID_STRAP.COMPAT compat).setB ID_STRAP.ROLE_PREF rolePref).setB ID_STRAP.SIDE (s.side == .B)
  (r.set CK_RST_CAUSE.CAUSE 1).bootUp

/-- A pin, update or thermal reset (R398), which also keeps ID_STRAP, the power die's fence and Grave latch, and
CK_RST_CAUSE.COUNT. -/
def SideState.restart (s : SideState) (cause : Nat) : SideState :=
  let r := s.bare
  let r := { r with tap := s.tap, boundary := s.boundary, twin := { r.twin with graveLatch := s.twin.graveLatch } }
  let keep (r : SideState) (f : Fld) : SideState := r.set f (s.get f)
  let r := keep (keep (keep r ID_STRAP.COMPAT) ID_STRAP.ROLE_PREF) ID_STRAP.SIDE
  let r := keep r TW_ROLE.FENCED
  let r := ((keep r CK_RST_CAUSE.COUNT).bump CK_RST_CAUSE.COUNT 1).set CK_RST_CAUSE.CAUSE cause
  (r.set CK_RST_CAUSE.BEAT s.beatNo).bootUp

/-! ### Commands -/

/-- POWER_UP (R391): VIN rises through 8.8 V. The levels of COMPAT and ROLE_PREF are latched (R396). -/
def execPowerUp (sd : Side) (compat rolePref : Bool) (s : State) : Host.Outcome State Fault Refusal :=
  .next (s.side sd (fun x => if x.power.powered then x else x.coldStart compat rolePref))

/-- PCIE_RESET (R398): the endpoint's configuration space only, which holds nothing this model has; the side runs on. -/
def execPcieReset (sd : Side) (s : State) : Host.Outcome State Fault Refusal :=
  .next (s.side sd (fun x => x.live (fun x => x)))

/-- A shutdown or a trip of the other side wakes an understudy that alone is in intermission (R330). -/
def SideState.peerWake (s : SideState) (peerRuns : Bool) : SideState :=
  if s.isUnderstudy && s.get TH_INT_STAT.STATE == 1 && peerRuns then { s with therm := { s.therm with wakePending := some 3 } } else s

/-- ANALOGUE_TRIP_RELEASE (R326): every die is at or below 125 °C; the controller die starts again, its fence still set. -/
def execAnalogueTripRelease (sd : Side) (s : State) : Host.Outcome State Fault Refusal :=
  .next (s.side sd (fun x =>
    if x.power.powered && x.power.tripped && !x.fault.halted then
      ({ x with power := { x.power with tripped := false } }).restart 4
    else x))

/-- An instruction of the test access port as a side takes it: EXTEST and CLAMP act only while its role is NONE and it is fenced, and
BYPASS stands in their place on any other (R419). -/
def SideState.tapFor (s : SideState) (i : TapInstr) : TapInstr :=
  if (i == TapInstr.extest || i == TapInstr.clamp) && !(s.get TW_ROLE.ROLE == 0 && s.is TW_ROLE.FENCED) then TapInstr.bypass else i

end Sys2Proof.Machine
end

