-- ==== Sys2Proof/Machine/Watch.lean ====
section
/-! DEFINITION. The stage watch and the two keys (R202 to R226): trace and pre-check, the cell check, pilot verification, the
curtain, degraded mode, and the policy record. -/

namespace Sys2Proof.Machine

/-! ### Trace and pre-check (R207) -/

/-- The outcome of a trace or pre-check as SW_TRACE_STAT shows it. -/
def SideState.traceStat (s : SideState) (e code index : Nat) : SideState :=
  let s := (s.set SW_TRACE_STAT.ENTRY e).setB SW_TRACE_STAT.FAIL (code != 0)
  (s.set SW_TRACE_STAT.REASON code).set SW_TRACE_STAT.INDEX index

/-- A failing check ends the cue TRACE_FAIL; NO_ADMIT and DIGEST are key disagreements (R220). -/
def SideState.traceFails (s : SideState) (e code index : Nat) : SideState :=
  let s := ((s.traceStat e code index).bump SW_CNT.TRACE_FAIL 1).evt 0x09 0
  let s := s.raise 0x72
  let s := if code = 5 ∨ code = 6 then s.degrade 3 else s
  s.endCue e .traceFail 0

/-- The first failing pre-check of an entry's slot: CALIB, then RANGE, with the cell or output. -/
def SideState.preFailure (s : SideState) (t : TrkEntry) (n : Nat) : Option (Nat × Nat) :=
  let calib := (List.range s.cells).find? (fun c =>
    let b := s.slotCell n c
    isLit b && s.t ET.PHYS c != b && s.t ET.E_PI c == 0)
  match calib with
  | some c => some (7, c)
  | none =>
    match s.drive.range with
    | none => none
    | some r =>
      let p := s.sceneP t
      match s.doCell r.dout with
      | some c => if s.slotCell n c ≠ p.cell c then some (8, c) else none
      | none =>
        let e := s.t DT.ELEM r.dout
        let port (l : List Conn) : Option (Nat × Nat) :=
          (l.find? (fun c => if e < s.ports then c.input == e else c.output == e - s.ports)).map (fun c => (c.input, c.output))
        if port (s.slotConns n) ≠ port p.conns then some (8, e % 8192) else none

/-- The pre-check of a traced cue: READY with its gate open (R202), or for a rehearsal REHEARSED with its plan (R176). -/
def SideState.preCheck (s : SideState) (e : Nat) : SideState :=
  let t := s.trk e
  match t.slot with
  | none => s
  | some n =>
    match s.preFailure t n with
    | some f => s.traceFails e f.1 f.2
    | none =>
      let s := s.setTrk e { t with state := .ready, gate := !t.rehearse }
      if t.rehearse then (s.recordPlan e).endCue e .rehearsed 0 else s

/-- The pre-checks of the scene window. -/
def SideState.preChecks (s : SideState) : SideState :=
  (byOrder (s.tracks.filter (fun p => p.2.state == .tracing && p.2.traced))).foldl (fun (s : SideState) p => s.preCheck p.1) s

/-- TRACE (R207): the trace of one working slot; in the scene window its pre-check follows at once. Which output INDEX shows for a
DIGEST that differs is not stated: a free value (log 53). -/
def execTrace (sd : Side) (entry : Nat) (s : State) : Host.Outcome State Fault Refusal :=
  .next (s.side sd (fun x => x.live (fun x =>
    let t := x.trk entry
    if !x.stageTime || t.state != .tracing || t.traced || !(Nat.ble t.nextBeat x.beatNo) then x
    else
      match t.slot with
      | none => x
      | some n =>
        let x := x.readSlot n
        match x.traceFailure t n with
        | some f =>
          let y := if f.1 = 6 then x.fresh 9 else (x, f.2)
          y.1.traceFails entry f.1 y.2
        | none =>
          let x := (x.traceStat entry 0 0).setTrk entry { t with traced := true }
          if x.win = .scene then x.preCheck entry else x)))

/-! ### The cell check (R208 to R210) -/

/-- Is the present beat E or E + 1 of an edge that changed the cell, a re-fire included? -/
def SideState.nearEdge (s : SideState) (c : Nat) : Bool :=
  let near (b : Nat) : Bool := Nat.blt s.produced (b + 2)
  (match Tab.get? s.scene.edgeAt c with
   | some b => near b
   | none => false) || s.scene.handovers.any (fun h => h.cell == c && !h.retry && near h.ref)

/-- A cell is declared misstated (R209). -/
def SideState.declare (s : SideState) (c : Nat) : SideState :=
  let s := { s with watch := { s.watch with declared := insertNat c s.watch.declared } }
  let s := ((s.bump SW_CNT.DECL 1).evt 0x09 1).count 104 1
  let s := (s.set SW_DECL.LAST_CELL c).set SW_DECL.LAST_VALID 1
  if (s.settlingCue c).isSome then s.declared c else s.raise 0x70

/-- The check of one cell. The third miss in a row among the checks that ran declares it, once until a check that it passes; a cell that
is not lit is not checked (R208, R209). -/
def SideState.checkCell (s : SideState) (c : Nat) : SideState :=
  let ended (s : SideState) : SideState := { s with watch := { s.watch with misses := Tab.del s.watch.misses c } }
  if !s.cellLit c then s
  else
    match s.cellLoop c with
    | none => s
    | some l =>
      let w := s.sample (s.t CT.TAP_MI c)
      if !s.tis CT.TAP_PRESENT c || !s.tis LT.EN l || sampleValid w != 0 || s.nearEdge c then s
      else
        let s := (s.scrubWords (CT.TAP_MI.addr c :: loopEntryWords l)).count 102 1
        let k := max 5 (s.get SW_CTRL.CELL_K)
        if s.loopValue l w ≤ s.t LT.MARK l + k * s.t LT.BAND l then
          { ended s with watch := { (ended s).watch with declared := dropNat c s.watch.declared } }
        else
          let n := Tab.getD s.watch.misses c 0 + 1
          let s := ({ s with watch := { s.watch with misses := Tab.put s.watch.misses c n } }).count 103 1
          if n = 3 then s.declare c else s

/-- The cell check of a beat. -/
def SideState.cellCheck (s : SideState) : SideState :=
  if !s.leads || !s.rigged then s
  else
    let s := (List.range s.cells).foldl SideState.checkCell s
    s.set SW_DECL.COUNT s.watch.declared.length

/-- PHYS against the active scene (R210), but for the cells whose edge fires at the next boundary. -/
def SideState.physCompare (s : SideState) : SideState :=
  if !s.leads || !s.rigged then s
  else
    let soon := ((s.scene.staged.filter (fun (g : Staged) => g.eff == s.beatNo + 1)).map (fun (g : Staged) => g.cells)).flatten
    let read := s.scrubWords (((List.range s.cells).filter (fun c => s.cellLit c)).map (fun c => ET.PHYS.addr c))
    (List.range s.cells).foldl (fun (s : SideState) c =>
      s.raiseIf (s.cellLit c && s.t ET.PHYS c != s.activeCell c && !soon.any (fun p => p.cell == c)) 0x71) read

/-! ### Pilot verification (R211 to R213) -/

/-- 2 cos(2π / 2,560) in units of 2⁻¹²⁸. -/
def twoCosStep : Int := 680562684006268862181342486294888275017

/-- 2 cos(2πk / 2,560) for k = 0 to `n`, the last first, in units of 2⁻¹²⁸, by the recurrence of the cosine. -/
def twoCosines : Nat → List Int
  | 0 => [2 ^ 129]
  | 1 => [twoCosStep, 2 ^ 129]
  | n + 2 =>
    match twoCosines (n + 1) with
    | a :: b :: t => (twoCosStep * a / 2 ^ 128 - b) :: a :: b :: t
    | l => l

/-- |X(k)|² of a series by a Goertzel filter with coefficient `c`, in units of 2⁻²⁵⁶. -/
def goertzel (c : Int) (series : List Nat) : Int :=
  let r := series.foldl (fun (p : Int × Int) (x : Nat) => (((x : Int) * 2 ^ 128 + c * p.1 / 2 ^ 128 - p.2), p.1)) (0, 0)
  r.1 * r.1 + r.2 * r.2 - (c * r.1 / 2 ^ 128) * r.2

/-- The powers of bins 512 to 1,023 (R211). -/
def bandPowers (series : List Nat) : List Int :=
  (((twoCosines 1023).take 512).reverse).map (fun c => goertzel c series)

/-- The bin with the largest power, the lowest on a tie. -/
def largestBin (l : List Int) : Nat :=
  (l.zipIdx.foldl (fun (best : Int × Nat) p => if best.1 < p.1 then p else best) (-1, 0)).2

/-- The status of an output for a block with what the table shows of it (R212, R213). -/
structure PilotResult where
  status : Nat
  found : Nat
  ratio : Nat
  invalid : Nat
  mean : Nat
  deriving DecidableEq, Repr

/-- An entry of the pilot result table. -/
def PilotResult.toWord (r : PilotResult) : Nat :=
  r.status + r.found * 2 ^ 4 + r.ratio * 2 ^ 16 + min 255 r.invalid * 2 ^ 24 + r.mean % 2 ^ 22 * 2 ^ 32

/-- One sample of an output's series (R211): a sample that is not valid is replaced by the last valid one. -/
def SideState.pilotSample (s : SideState) (q : Nat) : SideState :=
  let w := s.sample (s.t PT.MON_MI (s.ports + q))
  let ok := sampleValid w == 0
  let v := if ok then sampleNV w else Tab.getD s.watch.seriesLast q 0
  { s with watch := { s.watch with
    series := Tab.put s.watch.series q (v :: Tab.getD s.watch.series q [])
    seriesLast := Tab.put s.watch.seriesLast q v
    invalid := if ok then s.watch.invalid else Tab.put s.watch.invalid q (Tab.getD s.watch.invalid q 0 + 1) } }

/-- Outputs with a monitor. -/
def SideState.watchedOuts (s : SideState) : List Nat := (List.range s.ports).filter (fun q => s.tis PT.MON_PRESENT (s.ports + q))

/-- The samples of the beat before join the series. -/
def SideState.pilotCollect (s : SideState) : SideState :=
  if !s.leads || !s.rigged then s else s.watchedOuts.foldl SideState.pilotSample s

/-- Judges one output for block `j`. -/
def SideState.judgeOut (s : SideState) (j q : Nat) : PilotResult :=
  let l := (Tab.getD s.watch.series q []).reverse
  let inv := min 2560 (Tab.getD s.watch.invalid q 0 + (2560 - l.length))
  let mean := l.foldl (fun a b => a + b) 0 / max 1 l.length
  let r : PilotResult := { status := 0, found := 0, ratio := 0, invalid := inv, mean := mean }
  let input := Tab.get? s.watch.pilotScene q
  let voided := s.watch.pilotVoid.contains j || Nat.blt (s.get SW_PILOT_CTRL.INV_MAX) inv
  match input with
  | none =>
    if !s.is SW_CTRL.DARK_EN then { r with status := 3 }
    else if s.watch.pilotSkip.contains (j * 512 + q) then { r with status := 5 }
    else if voided then { r with status := 6 }
    else { r with status := if mean ≤ s.get SW_PILOT_DARK.LEVEL then 3 else 4 }
  | some p =>
    let bins := bandPowers l
    let x := bins.getD p 0
    let sum := bins.foldl (fun a b => a + b) 0
    let r := { r with found := largestBin bins, ratio := if sum ≤ 0 then 0 else (255 * x / sum).toNat }
    if !s.is SW_CTRL.PILOT_EN then { r with status := 7 }
    else if s.watch.pilotSkip.contains (j * 512 + q) then { r with status := 5 }
    else if voided then { r with status := 6 }
    else if mean < s.get SW_PILOT_MIN.LEVEL then { r with status := 7 }
    else { r with status := if 9 * sum ≤ 10 * x then 1 else 2 }

/-- Base of the pilot result table in the status memory. -/
def pilotTable : Nat := 0x30404000

/-- The results of one output are written, counted and raised. -/
def SideState.reportOut (s : SideState) (q : Nat) (r : PilotResult) : SideState :=
  let s := s.wr (pilotTable + 8 * q) 8 r.toWord
  match r.status with
  | 1 => (s.set SW_PILOT_SUM.PASS (s.get SW_PILOT_SUM.PASS + 1)).count 105 1
  | 3 => (s.set SW_PILOT_SUM.PASS (s.get SW_PILOT_SUM.PASS + 1)).count 105 1
  | 2 => (((s.set SW_PILOT_SUM.FAIL (s.get SW_PILOT_SUM.FAIL + 1)).count 106 1).evt 0x09 2).raise 0x74
  | 4 => (((s.set SW_PILOT_SUM.FAIL (s.get SW_PILOT_SUM.FAIL + 1)).count 106 1).evt 0x09 3).raise 0x75
  | _ => (s.set SW_PILOT_SUM.OTHER (s.get SW_PILOT_SUM.OTHER + 1)).count 107 1

/-- The end of a block (R213). -/
def SideState.pilotJudge (s : SideState) : SideState :=
  let j := s.beatNo / 2560 - 1
  let results := s.watchedOuts.map (fun q => (q, s.judgeOut j q))
  let s := ((s.set SW_PILOT_SUM.PASS 0).set SW_PILOT_SUM.FAIL 0).set SW_PILOT_SUM.OTHER 0
  let s := results.foldl (fun (s : SideState) p => s.reportOut p.1 p.2) s
  let s := { s with watch := { s.watch with
    series := [], invalid := []
    pilotVoid := s.watch.pilotVoid.filter (fun b => Nat.blt j b)
    pilotSkip := s.watch.pilotSkip.filter (fun k => Nat.blt j (k / 512)) } }
  (s.set SW_PILOT_BLK.BLOCK j).evt 0x09 4

/-- PILOT_BLOCK_END (R213): 8.5 µs into the first beat of the next block. -/
def execPilotBlockEnd (sd : Side) (s : State) : Host.Outcome State Fault Refusal :=
  .next (s.side sd (fun x => x.live (fun x =>
    if x.leads && x.rigged && x.win == .copy && x.beatNo % 2560 == 0 && x.beatNo != 0 && !x.watch.series.isEmpty then x.pilotJudge else x)))

/-- At a boundary that begins a block, the scene of the block before is kept for its judgement. -/
def SideState.pilotBoundary (s : SideState) : SideState :=
  if s.beatNo % 2560 = 0 then
    { s with watch := { s.watch with pilotScene := s.activeConns.map (fun c => (c.output, c.input)) } }
  else s

/-- The outputs that a cue affects are SKIP in the block of its E (R212). -/
def SideState.pilotSkips (s : SideState) (l : List Staged) : SideState :=
  let outs := (l.map (fun (g : Staged) => g.outs)).flatten
  { s with watch := { s.watch with
    pilotSkip := outs.foldl (fun a o => insertNat (s.beatNo / 2560 * 512 + o.out) a) s.watch.pilotSkip } }

/-- The present block is VOID: the side has taken over the lead, or woken (R212). -/
def SideState.voidBlock (s : SideState) : SideState :=
  { s with watch := { s.watch with pilotVoid := insertNat (s.beatNo / 2560) s.watch.pilotVoid } }

/-! ### The curtain (R214 to R217) -/

/-- SW_CURTAIN_REQ (R214). -/
def execSwCurtainReq (sd : Side) (m : Master) (v : Word) (s : State) : Host.Outcome State Fault Refusal :=
  .next (s.side sd (fun x => x.live (fun x => x.regWrite 0x09058 m (fun x =>
    if bitAt v.toNat 31 then x.requestCurtain (v.toNat % 2 == 1) else x))))

/-- The pin CURTAIN_N as a side sees it. -/
def SideState.curtainPin (s : SideState) (low : Bool) : SideState :=
  if s.is SW_STAT.CURTAIN_N = low then s
  else if low then ((s.set SW_STAT.CURTAIN_N 1).raise 0x7A).requestCurtain true
  else s.set SW_STAT.CURTAIN_N 0

/-- CURTAIN_N_ASSERT (R214, R217): both sides sample the pin. -/
def execCurtainNAssert (s : State) : Host.Outcome State Fault Refusal :=
  let s := { s with curtainN := true }
  .next ((s.side .A (fun x => x.live (fun x => x.curtainPin true))).side .B (fun x => x.live (fun x => x.curtainPin true)))

/-- CURTAIN_N_DEASSERT (R217). -/
def execCurtainNDeassert (s : State) : Host.Outcome State Fault Refusal :=
  let s := { s with curtainN := false }
  .next ((s.side .A (fun x => x.live (fun x => x.curtainPin false))).side .B (fun x => x.live (fun x => x.curtainPin false)))

/-- CURTAIN_RELEASE (R217): refused while the pin is low or the side is degraded, else at the next boundary. -/
def execCurtainRelease (sd : Side) (m : Master) (w : PairWrite) (s : State) : Host.Outcome State Fault Refusal :=
  .next (s.side sd (fun x => x.live (fun x => x.onPair 0x0905C m w (fun v x =>
    if v.toNat % 2 = 0 then x
    else if x.is SW_STAT.CURTAIN_N || s.curtainN || x.is SW_STAT.DEGRADED then x.set SW_REL_STAT.CUR 2
    else { x.set SW_REL_STAT.CUR 1 with watch := { x.watch with relCurtain := true } }))))

/-! ### Self-tests and degraded mode (R206, R220 to R223) -/

/-- A self-test item of R241 has completed a cycle. -/
def SideState.selfItem (s : SideState) (item : Nat) (ok : Bool) : SideState :=
  { s with twin := { s.twin with
    stDone := insertNat item s.twin.stDone
    stPassed := if ok then insertNat item s.twin.stPassed else dropNat item s.twin.stPassed } }

/-- The result of the cue checker's self-test (R206). -/
def SideState.keyOneTest (s : SideState) (ok : Bool) : SideState :=
  let s := (s.setB CQ_STAT.ST_OK ok).selfItem 0 ok
  if ok then s else ((s.evt 0x0A 6).raise 0x68).degrade 0

/-- K1_SELFTEST (R206). -/
def execK1Selftest (sd : Side) (ok : Bool) (s : State) : Host.Outcome State Fault Refusal :=
  .next (s.side sd (fun x => x.live (fun x => if x.is CQ_STAT.RUN then x.keyOneTest ok else x)))

/-- The result of the stage watch's self-test (R221). -/
def SideState.keyTwoTest (s : SideState) (ok : Bool) : SideState :=
  let s := (s.setB SW_STAT.K2_ST_OK ok).selfItem 1 ok
  if ok then s else ((s.evt 0x09 8).raise 0x77).degrade 2

/-- The heartbeat of the cue checker, judged at 6.6 µs (R206). -/
def SideState.heartbeat (s : SideState) (seen : Bool) : SideState :=
  if !s.is CQ_STAT.RUN then s
  else
    let s := s.setB CQ_STAT.HB_OK seen
    let n := if seen then 0 else s.watch.keyMisses + 1
    let s := { s with watch := { s.watch with keyMisses := n } }
    if n = 3 then ((s.evt 0x0A 6).raise 0x69).degrade 1 else s

/-- Does DIGEST of the active scene agree with the cue checker's record of it (R222)? -/
def SideState.sceneAgrees (s : SideState) : Bool := digestOf s.activeConns == s.watch.currentDigest

/-- A failed comparison of the scene. -/
def SideState.compareScene (s : SideState) : SideState := if s.sceneAgrees then s else (s.raise 0x76).degrade 4

/-- ACTIVE has moved: the new active scene is compared with the record for this boundary (R222). -/
def SideState.afterFire (s : SideState) (l : List Staged) : SideState :=
  match l.getLast? with
  | none => if s.leads && s.rigged && s.power.firmware && s.beatNo % 100 == 0 then s.compareScene else s
  | some g =>
    let want := if g.dark then digestOf [] else if g.slot = 255 then s.watch.curtainDigest else Tab.getD s.watch.digests g.eff 0
    let s := { s with watch := { s.watch with
      currentDigest := want, digests := s.watch.digests.filter (fun p => Nat.blt s.beatNo p.1) } }
    let s := (s.pilotSkips l).compareScene
    if g.slot = 255 then s.evt 0x09 5 else s

/-- The scene controller at a boundary, and the comparison that follows ACTIVE (R152, R222). -/
def SideState.sceneBoundary (s : SideState) : SideState :=
  let due := s.scene.staged.filter (fun (g : Staged) => g.eff ≤ s.beatNo)
  s.sceneAtBoundary.afterFire due

/-- T_DEG as it acts, in boundaries. -/
def SideState.tDeg (s : SideState) : Nat := clampNat 1 3600 (s.get SW_DEG_T.T_DEG) * 100000

/-- Degraded mode at a boundary: releases, and entry of the side that leads for the causes known before it; a cause found at
this boundary acts at the next (R220, R223). -/
def SideState.degradedAtBoundary (s : SideState) (cause : Nat) : SideState :=
  let s := if s.watch.relCurtain then s.setC SW_STAT.CURTAIN_LATCH 0 else s
  let s := if s.watch.relDegraded then
      let s := ((s.set SW_STAT.DEGRADED 0).set SW_STAT.DEG_CAUSE 0).set SW_DEG_LEFT.LEFT 0
      { s with watch := { s.watch with degDeadline := none } }
    else s
  let forced := s.watch.degEntered
  let s := { s with watch := { s.watch with
    relCurtain := false, relDegraded := false, degPending := Nat.xor s.watch.degPending cause, degEntered := false } }
  let s := if (cause = 0 ∧ !forced) ∨ !s.leads then s
    else
      let fresh := !s.is SW_STAT.DEGRADED || forced
      let s := s.set SW_STAT.DEG_CAUSE (Nat.lor (s.get SW_STAT.DEG_CAUSE) cause)
      if !fresh then s
      else
        let s := (s.set SW_STAT.DEGRADED 1).cancelUnarmed 5
        let s := { s with watch := { s.watch with degDeadline := some (s.produced + s.tDeg) } }
        (s.evt 0x09 6).raise 0x78
  match s.watch.degDeadline with
  | some b => s.set SW_DEG_LEFT.LEFT ((b - s.produced + 99999) / 100000)
  | none => s

/-- T_DEG_EXPIRY (R220). -/
def execTDegExpiry (sd : Side) (s : State) : Host.Outcome State Fault Refusal :=
  .next (s.side sd (fun x => x.live (fun x =>
    match x.watch.degDeadline with
    | none => x
    | some b =>
      if x.produced < b ∨ !x.is SW_STAT.DEGRADED then x
      else
        let x := { x.set SW_DEG_LEFT.LEFT 0 with watch := { x.watch with degDeadline := none } }
        ((x.evt 0x09 7).raise 0x79).requestCurtain true)))

/-- DEGRADED_RELEASE (R223): the self-tests are rerun in the beat of the release. -/
def execDegradedRelease (sd : Side) (m : Master) (w : PairWrite) (k1Ok k2Ok : Bool) (s : State) :
    Host.Outcome State Fault Refusal :=
  .next (s.side sd (fun x => x.live (fun x => x.onPair 0x09050 m w (fun v x =>
    if v.toNat % 2 = 0 then x
    else
      let x := (x.keyOneTest k1Ok).keyTwoTest k2Ok
      if k1Ok && k2Ok && x.is CQ_STAT.HB_OK && x.sceneAgrees then
        { x.set SW_REL_STAT.DEG 1 with watch := { x.watch with relDegraded := true } }
      else x.set SW_REL_STAT.DEG 2))))

/-! ### The policy record (R204, R205) -/

/-- A policy record from its bytes. -/
def policyOf (b : List Byte) : Policy :=
  let pins := leNat (slice b 4 2)
  let srcs := leNat (slice b 6 2)
  let lock := leNat (slice b 8 64)
  { pins := (List.range pins).map (fun i =>
      let w := leNat (slice b (0x68 + 4 * i) 4)
      (bits w 0 9, bits w 16 9))
    darkLock := (List.range 512).filter (fun q => bitAt lock q)
    sources := (List.range srcs).map (fun i => leNat (slice b (0x48 + 2 * i) 2) % 4096) }

/-- Why a policy record is rejected, 0 for none; BUSY apart. -/
def policyReject (b : List Byte) : Nat :=
  let n := leNat (slice b 4 2)
  let p := policyOf b
  if slice b 0 4 ≠ [0x43, 0x5A, 0x50, 0x4C] then 1
  else if leNat (slice b (b.length - 4) 4) ≠ crc32c (b.take (b.length - 4)) then 2
  else if 512 < n ∨ 16 < leNat (slice b 6 2) ∨ b.length ≠ 0x6C + 4 * n then 3
  else if !(decide (p.pins.map Prod.fst).Nodup && decide (p.pins.map Prod.snd).Nodup) then 4
  else 0

/-- POLICY_COMMIT (R205): on the lead. -/
def execPolicyCommit (sd : Side) (m : Master) (w : PairWrite) (s : State) : Host.Outcome State Fault Refusal :=
  .next (s.side sd (fun x => x.live (fun x => x.onPair 0x0A04C m w (fun v x =>
    if v.toNat % 2 = 0 ∨ !x.leads then x
    else
      let reject (r : Nat) : SideState := (((x.set CQ_POL_STAT.RESULT 3).set CQ_POL_STAT.REASON r).evt 0x0A 5).raise 0x6A
      let a := x.get CQ_POL_ADDR.ADDR / 16 * 16
      let b := x.rdBytes a (x.get CQ_POL_LEN.LEN)
      let r := policyReject b
      if r ≠ 0 then reject r
      else if x.watch.policyPending.isSome then reject 5
      else
        let x := (x.set CQ_POL_STAT.RESULT 1).set CQ_POL_STAT.REASON 0
        { x with watch := { x.watch with policyPending := some (policyOf b, b), policyAt := 0x10000000 + a % 0x800000 } }))))

/-- A policy record comes into force, on the lead and as its copy, and CQ_POL_STAT shows it (R205, R226). -/
def SideState.takePolicy (s : SideState) (b : List Byte) : SideState :=
  let p := policyOf b
  let s := { s with watch := { s.watch with policy := some p, policyBytes := b } }
  let s := (s.set CQ_POL_STAT.RESULT 2).set CQ_POL_STAT.REASON 0
  (s.set CQ_STAT.POLICY_IN 1).set CQ_POL_STAT.PINS p.pins.length

/-- A record that waits for its boundary as the side loses the lead does not come into force: CQ_POL_STAT shows the one before (R226). -/
def SideState.dropPolicy (s : SideState) : SideState :=
  if s.watch.policyPending.isNone then s
  else
    let s := { s with watch := { s.watch with policyPending := none } }
    (s.set CQ_POL_STAT.RESULT (if s.watch.policy.isSome then 2 else 0)).set CQ_POL_STAT.REASON 0

/-- Sends the policy record, as MEM records at its place in working SRAM (R204, R235). -/
def SideState.emitPolicy (s : SideState) (b : List Byte) : SideState :=
  let a := s.watch.policyAt
  (List.range ((b.length + 255) / 256)).foldl (fun (s : SideState) i => s.emit (recMem (a + 256 * i) ((b.drop (256 * i)).take 256))) s

/-- May the accepted record come into force at this boundary? -/
def SideState.policyReady (s : SideState) : Bool :=
  s.alive && s.leads && s.win == .edge && s.get SC_PIPE_STAT.INFLIGHT == 0 && !s.tracks.any (fun p => p.2.state == .armed)

/-- POLICY_IN_FORCE (R205): at the first boundary with no cue in flight and none ARMED, on the lead and its understudy. -/
def execPolicyInForce (sd : Side) (s : State) : Host.Outcome State Fault Refusal :=
  let x := s.on sd
  match x.watch.policyPending with
  | none => .next s
  | some (_, b) =>
    if !x.policyReady then .next s
    else
      .next ((s.side sd (fun x =>
        let x := { x with watch := { x.watch with policyPending := none } }
        ((x.takePolicy b).evt 0x0A 5).emitPolicy b)).side sd.peer (fun y =>
          if y.alive && y.isUnderstudy then { y.takePolicy b with watch := { (y.takePolicy b).watch with policyAt := x.watch.policyAt } } else y))

end Sys2Proof.Machine
end

