-- ==== Sys2Proof/Machine/Voted.lean ====
section
/-! DEFINITION. Voted fields (R343, R344), ECC errors of working SRAM, and FAULT_EVENT itself.

A voted field is stored as the value its copies agree on, beside the list of fields whose copies differ (FaultState.upsets). An
upset enters as a fault event of the field's source: as the compare that meets it, or, with 2^40 added to the point, for a field that
the device's logic reads on demand, as copies that differ from then on until a read or a boundary compares them. The other voted
fields are read by the device's logic all the time, so that their compare is at once. `point` names the field: an injection point of R310 for
the three votes that have one, else 32 × the register's key + the field's lowest bit. `failsPrimaryOther` is one copy that
differs, `failsBoth` all three. -/

namespace Sys2Proof.Machine

/-- The voted field that the point of a fault event names. -/
def votedPoint (s : SideState) (point : Nat) : Option Fld :=
  if point = 0x07 then some TW_ROLE.ROLE
  else if point = 0x08 then some (GT_CTRL.OPER)
  else if point = 0x0A then some (FC_MAP.CLASS.bank (s.get FC_SEL.SOURCE))
  else if point < 0x20 then none
  else
    ((rowsOf (point / 32)).find? (fun r => r.voted && r.fld.lo == point % 32)).map
      (fun r => { r.fld with key := point / 32 })

/-- The source of a voted field: its own (R344), else 0x13 for one copy that differs and 0x14 for all three. -/
def votedSource (key : Nat) (all : Bool) : Nat :=
  let k := key % bankUnit
  if k = TW_ROLE.ROLE.key then 0x89
  else if k = FC_MAP.CLASS.key then 0xF0
  else if k = FC_STAT.MAJOR.key then 0xF3
  else if k = GT_CTRL.OPER.key then 0x96
  else if all then 0x14 else 0x13

/-- The side enters its safe state (R306): resignation on the pulse line and the fence; role NONE follows at the boundary (R227,
log 137). -/
def SideState.enterSafe (s : SideState) : SideState := ((s.set FC_STAT.SAFE 1).set SW_STAT.ALIVE_RUN 0).resign.fenceSelf

/-- A rig map's voted registers come back from the record of the side's NVM (R344). -/
def SideState.reloadRig (s : SideState) : SideState :=
  if !s.pipe.rigLost then s
  else
    match s.record RecordKind.rigMap.area with
    | none => s
    | some img => ({ s with pipe := { s.pipe with rigLost := false } }).rigRegisters img

/-- A changed entry of the connection table goes to the understudy (R235, R280). -/
def SideState.emitConn (s : SideState) (i : Nat) : SideState :=
  s.emit (recConn i (s.get (CQ_CONN_ID.ID.bank i)) (s.word (CQ_CONN_CFG.EN.bank i).key).toNat (s.get (CQ_CONN_SEQ.SEQ.bank i))
    (s.get (CQ_CONN_STAT.HAS_SEQ.bank i)) (Tab.getD s.pipe.deadlines i 0))

/-- What a field does when all three copies differ, with the value they take (R344). A change of CQ_NODE or of the connection table goes
to the understudy (R280). `peerLow` is the peer-rail comparator. -/
def SideState.voteLost (s : SideState) (key : Nat) (peerLow : Bool) : SideState :=
  let k := key % bankUnit
  if k = TW_ROLE.ROLE.key then
    ((s.enterSafe.enterRole 0).setB TW_ROLE.PEER_FENCED peerLow).set TW_ROLE.FENCED 1
  else if k = FC_MAP.CLASS.key then
    let s := s.set (wholeReg key) (classDefault (key / bankUnit))
    { s with fault := { s.fault with mapPending := Tab.del s.fault.mapPending (key / bankUnit) } }
  else if k = FC_STAT.MAJOR.key then (s.set FC_STAT.MAJOR 1).set FC_STAT.SAFE 1
  else if k = SW_STAT.DEGRADED.key then s
  else if k = RG_TOPO.LOG2N.key ∨ k = RG_COUNT.CELLS.key ∨ k = RG_IMG_CRC.CRC.key then
    let s := { s with pipe := { s.pipe with rigLost := true } }
    s.set (wholeReg k) 0
  else if k = CQ_NODE.NODE_ID.key then
    let s := (s.set CQ_NODE.NODE_ID 0).emitReg s CQ_NODE.NODE_ID.key
    { s with pipe := { s.pipe with nodeLost := true } }
  else if k = CQ_CONN_ID.ID.key ∨ k = CQ_CONN_CFG.SRC_NODE.key then
    let s := if k = CQ_CONN_ID.ID.key then s.set (wholeReg key) 0 else s.set (CQ_CONN_CFG.SRC_NODE.bank (key / bankUnit)) 0
    (s.set (CQ_CONN_CFG.EN.bank (key / bankUnit)) 0).emitConn (key / bankUnit)
  else s

/-- The two voted bits of SW_STAT go apart: DEGRADED enters degraded mode without a cause, CURTAIN_LATCH requests a latching
curtain (R344). -/
def SideState.statLost (s : SideState) (lo : Nat) : SideState :=
  if lo = SW_STAT.DEGRADED.lo then
    let s := s.set SW_STAT.DEGRADED 1
    { s with watch := { s.watch with degEntered := true } }
  else s.requestCurtain true

/-- The voted fields that the device's own logic reads on demand only: the class map at an event, and CQ_NODE and the connection table
at a frame (R343). -/
def readOnDemand (key : Nat) : Bool :=
  let k := key % bankUnit
  k == FC_MAP.CLASS.key || k == CQ_NODE.NODE_ID.key || k == CQ_CONN_ID.ID.key || k == CQ_CONN_CFG.SRC_NODE.key

/-- Copies of a voted field differ: TV_ERR of its page, its source, and with all three its outcome (R343, R344). `reader` is the master
whose read found it, 0xFF for a boundary or the device's own logic; an entry without an own source shows it (R378). -/
def SideState.voteDiffers (s : SideState) (f : Fld) (all peerLow : Bool) (reader : Nat) : SideState :=
  let s := s.set (PAGE_STAT.TV_ERR.onPage (f.key % bankUnit / 0x1000)) 1
  let s := if !all then s
    else if f.key = SW_STAT.DEGRADED.key then s.statLost f.lo
    else s.voteLost f.key peerLow
  let s := if f.key = GT_CTRL.OPER.key then s.evt 0x1D 1 else s
  let src := votedSource f.key all
  if src = 0x13 ∨ src = 0x14 then s.raiseWith src (leBytes 4 (regAddr (f.key % bankUnit)) ++ leBytes 1 reader ++ leBytes 1 0)
  else s.raise src

/-- ECC errors of working SRAM enter with source 0x1B and `point` = master × 2^32 + address: an interconnect read met a
correctable word (`passes`), or an uncorrectable one (R355, R370). -/
def SideState.sramError (s : SideState) (point : Nat) (check : CheckOutcome) : SideState :=
  if check = .passes then s.eccCorrected BX_ECC_SRAM.CORR
  else s.eccError BX_ECC_SRAM.UNCORR 0x1B (point % 0x100000000) (point / 0x100000000)

/-- The fields that a compare looks at and whose copies differ: each is reported once, and its copies agree again (R343). -/
def SideState.compareCopies (s : SideState) (p : Nat → Bool) (peerLow : Bool) (reader : Nat) : SideState :=
  (s.fault.upsets.filter (fun u => p u.1)).foldl (fun (s : SideState) u => s.voteDiffers ⟨u.1, u.2.1, 1⟩ u.2.2 peerLow reader)
    { s with fault := { s.fault with upsets := s.fault.upsets.filter (fun u => !p u.1) } }

/-- A vote at an injection point: an injection that is armed there inverts a copy, which shows in TV_ERR of the page (R310, R343). -/
def SideState.voteCheck (s : SideState) (point page : Nat) : SideState :=
  match s.armedAt point with
  | none => s
  | some _ => (s.set (PAGE_STAT.TV_ERR.onPage page) 1).checkAt point true

/-- The compare of all voted fields at a beat boundary, with the checks that an injection at point 0x07 or 0x08 meets (R310,
R343). -/
def SideState.compareAtBoundary (s : SideState) (peerLow : Bool) : SideState :=
  ((s.compareCopies (fun _ => true) peerLow 0xFF).voteCheck 0x07 0x08).voteCheck 0x08 0x1D

/-- The frame stage reads CQ_NODE and the connection table (R343). -/
def SideState.readsNode (s : SideState) : SideState :=
  s.compareCopies (fun k => readOnDemand k && k % bankUnit != FC_MAP.CLASS.key) false 0xFF

/-- One fault event of a side. -/
def SideState.eventOf (s : SideState) (source point : Nat) (check : CheckOutcome) (peerLow : Bool) : SideState :=
  let waits := Nat.ble (2 ^ 40) point
  let point := point % 2 ^ 40
  let all := check == .failsBoth
  let vote := all || check == .failsPrimaryOther
  match (if vote && source != 0x1B && source != 0x1C then votedPoint s point else none) with
  | some f =>
    if votedSource f.key all = source ∧ waits ∧ readOnDemand f.key = true then
      { s with fault := { s.fault with upsets := s.fault.upsets ++ [(f.key, (f.lo, all))] } }
    else if votedSource f.key all = source then
      let armed := if injectionSource point = some source then s.armedAt point else none
      let s := s.voteDiffers f all peerLow 0xFF
      match armed with
      | some i => s.consumeInjection i
      | none => s
    else s.faultEvent source point check
  | none =>
    if source = 0x1B then s.sramError point check
    else if source = 0x1C ∧ waits ∧ check ≠ .passes then s.hardWord (point % 0x100000000)
    else
      let s := match (if check = .failsPrimaryInversion ∧ injectionSource point = some source then votedPoint s point else none) with
        | some f => if (s.armedAt point).isSome then s.set (PAGE_STAT.TV_ERR.onPage (f.key % bankUnit / 0x1000)) 1 else s
        | none => s
      s.faultEvent source point check

/-- FAULT_EVENT (R300). -/
def execFaultEvent (sd : Side) (source point : Nat) (check : CheckOutcome) (s : State) : Host.Outcome State Fault Refusal :=
  let peer := s.on sd.peer
  let low := peer.railLow && !(s.on sd).twin.fencePending
  .next (s.side sd (fun x => x.live (fun x => x.eventOf source point check low)))

end Sys2Proof.Machine
end

