-- ==== Sys2Proof/Machine/Cues.lean ====
section
/-! DEFINITION. Cue messages and key one (R202 to R204, R279 to R298): the frame stage with its assemblies, the cue stage, the
policy and ordering checks, the connection table, expectations, keys, and the host mailbox. -/

namespace Sys2Proof.Machine

/-! ### The payload (R282, R283, R295) -/

/-- A change entry: OP, BLANK, PIN, input and output. -/
structure CueEntry where
  add : Bool
  blank : Bool
  pin : Bool
  input : Nat
  output : Nat
  deriving DecidableEq, Repr

/-- A version 2 entry word (R283). -/
def CueEntry.ofWord (w : Nat) : CueEntry := ⟨bitAt w 31, bitAt w 30, bitAt w 29, bits w 16 9, bits w 0 9⟩

/-- A version 1 entry word in the form of version 2 (R295). -/
def entryOfV1 (w : Nat) : Nat := bits w 29 3 * 2 ^ 29 + bits w 16 8 * 2 ^ 16 + bits w 8 8

/-- Number of nonzero values in a list. -/
def nonzero (l : List Nat) : Nat := l.countP (fun n => n != 0)

/-- The kind of a code. -/
def cueKindOf (n : Nat) : Option CueKind :=
  Tab.get? [(1, CueKind.change), (2, .recall), (3, .curtain), (4, .keepAlive), (5, .abort)] n

/-- Bytes of the header of a version, and the offset of COUNT in it. -/
def headerBytes (compat : Bool) : Nat := if compat then 44 else 48
def countOffset (compat : Bool) : Nat := if compat then 42 else 43

/-- COUNT of a payload. -/
def payloadCount (compat : Bool) (p : List Byte) : Nat := beNat (slice p (countOffset compat) 1)

/-- CONN_ID of a payload. -/
def payloadConn (p : List Byte) : Nat := beNat (slice p 4 4)

/-- The entry words of a payload as sent. -/
def payloadWords (compat : Bool) (p : List Byte) : List Nat :=
  (List.range (payloadCount compat p)).map (fun i => beNat (slice p (headerBytes compat + 4 * i) 4))

/-- The header and entries of a payload of a kind. -/
def cueOf (compat : Bool) (kind : CueKind) (p : List Byte) : Cue :=
  let flags := beNat (slice p 2 1)
  let words := payloadWords compat p
  let reservedOf (w : Nat) : Nat :=
    if compat then nonzero [bits w 24 5, bits w 0 8] else nonzero [bits w 25 4, bits w 9 7]
  { kind := kind
    rehearse := bitAt flags 0
    earliest := bitAt flags 1
    all := bitAt flags 2
    reply := bitAt flags 3
    dist := if compat then 0 else bits flags 4 2
    fragIndex := beNat (slice p 3 1) / 16
    fragTotal := beNat (slice p 3 1) % 16
    connId := payloadConn p
    srcNode := beNat (slice p 8 2) % 4096
    dstNode := beNat (slice p 10 2) % 4096
    seq := beNat (slice p 12 4)
    sendS := beNat (slice p 16 6)
    sendNs := beNat (slice p 22 4) % 2 ^ 30
    maxAge := beNat (slice p 26 4)
    expect := beNat (slice p 30 2)
    effective := beNat (slice p 32 8)
    sceneId := beNat (slice p 40 (if compat then 1 else 2))
    slot := beNat (slice p (if compat then 41 else 42) 1)
    aux := if compat then 0 else beNat (slice p 44 4)
    headReserved := bits flags 6 2 + 4 * (beNat (slice p 8 2) / 4096) + 64 * (beNat (slice p 10 2) / 4096)
      + 1024 * (beNat (slice p 22 4) / 2 ^ 30) + (if compat then 4096 * bits flags 4 2 + 16384 * beNat (slice p 43 1) else 0)
    entryReserved := (words.map reservedOf).foldl (fun a b => a + b) 0
      + (if kind = .change ∧ (words.length = 0 ∨ 160 < words.length) then 1 else 0)
    entries := if compat then words.map entryOfV1 else words }

/-! ### The connection table (R279, R280, R291) -/

/-- The enabled entry with a CONN_ID. -/
def SideState.connOf (s : SideState) (id : Nat) : Option Nat :=
  (List.range 64).find? (fun i => s.is (CQ_CONN_CFG.EN.bank i) && s.get (CQ_CONN_ID.ID.bank i) == id)

/-- Sets or clears the expectation deadline of an entry. -/
def SideState.setDeadline (s : SideState) (i : Nat) (d : Option Nat) : SideState :=
  let l := match d with
    | some t => Tab.put s.pipe.deadlines i t
    | none => Tab.del s.pipe.deadlines i
  { s with pipe := { s.pipe with deadlines := l } }

/-- Does the key slot hold a key? -/
def SideState.hasKey (s : SideState) (slot : Nat) : Bool := Tab.has s.nvm.keys slot

/-- A write of CQ_CONN_CFG (R279). -/
def SideState.writeConnCfg (s : SideState) (i v : Nat) : SideState :=
  let f : Fld := { CQ_CONN_CFG.SRC_NODE.bank i with w := 21 }
  let was := s.is (CQ_CONN_CFG.EN.bank i)
  let s' := (s.agree f.key).set f v
  if was then
    if bitAt v 12 then s else s'.emitConn i
  else if !bitAt v 12 then s'.emitConn i
  else
    let id := s.get (CQ_CONN_ID.ID.bank i)
    if (s.connOf id).isSome || (bitAt v 13 && !s.hasKey (bits v 14 4)) then
      ((s'.set (CQ_CONN_CFG.EN.bank i) 0).evt 0x0A 3).emitConn i
    else (((s'.set (CQ_CONN_STAT.HAS_SEQ.bank i) 0).set (CQ_CONN_SEQ.SEQ.bank i) 0).setDeadline i none).emitConn i

/-- CONN_CONFIG (R279). -/
def execConnConfig (sd : Side) (m : Master) (isId : Bool) (v : Word) (s : State) : Host.Outcome State Fault Refusal :=
  .next (s.side sd (fun x => x.live (fun x => x.regWrite (if isId then 0x0A088 else 0x0A08C) m (fun x =>
    let i := x.get CQ_CONN_SEL.CONN
    if isId then
      if x.is (CQ_CONN_CFG.EN.bank i) then x else ((x.agree (CQ_CONN_ID.ID.bank i).key).set (CQ_CONN_ID.ID.bank i) v.toNat).emitConn i
    else x.writeConnCfg i v.toNat))))

/-- EXPECTATION_EXPIRY (R291): at a boundary, on either side; the understudy holds the lead's deadlines (R280). -/
def execExpectationExpiry (sd : Side) (conn : Nat) (s : State) : Host.Outcome State Fault Refusal :=
  .next (s.side sd (fun x => x.live (fun x =>
    match Tab.get? x.pipe.deadlines conn with
    | none => x
    | some d =>
      if x.win != .edge || !x.is (CQ_CONN_CFG.EN.bank conn) || Nat.ble x.netNow d then x
      else
        let x := ((x.set (CQ_CONN_STAT.EXPIRED.bank conn) 1).evt 0x0A 2).raise 0x6B
        (x.setDeadline conn none).emitConn conn)))

/-! ### The frame stage (R285, R286) -/

/-- The fault source of a frame-stage detail (R286, R296). -/
def discardSource (detail : Nat) : Nat :=
  if detail = 0x04 then 0x65 else if detail = 0x05 then 0x66 else if detail = 0x06 ∨ detail = 0x07 then 0x6D else 0x6C

/-- A frame, or an assembly, is discarded; `conn` is 0x3F where no entry matched. A wrong CHECK raises its source through the
injection point of its checker (R310). -/
def SideState.discardCue (s : SideState) (detail conn : Nat) : SideState :=
  let cnt := if detail = 0x04 then CQ_DISC_CNT.CHECK else if detail = 0x05 then CQ_DISC_CNT.AUTH
    else if detail = 0x06 ∨ detail = 0x07 then CQ_DISC_CNT2.FRAG else CQ_DISC_CNT2.OTHER
  let s := ((s.bump cnt 1).count 57 1).set CQ_SAFE_STAT.DETAIL detail
  let s := (s.set CQ_SAFE_STAT.CONN conn).set CQ_SAFE_STAT.FRAME 1
  let s := s.evt 0x0A 0
  if detail = 0x04 then s.checkAt 0x05 false else s.raise (discardSource detail)

/-- FORMAT: version, length, FRAG and KIND. -/
def SideState.formatOk (s : SideState) (p : List Byte) : Bool :=
  let c := s.compat
  let base := headerBytes c + 4 * payloadCount c p + 4
  let lens := match s.connOf (payloadConn p) with
    | none => [base, base + 16]
    | some i => if s.is (CQ_CONN_CFG.AUTH.bank i) then [base + 16] else [base]
  let frag := beNat (slice p 3 1)
  let kind := beNat (slice p 1 1)
  Nat.ble (headerBytes c + 4) p.length && beNat (slice p 0 1) == (if c then 1 else 2) && lens.contains p.length
    && Nat.blt (frag / 16) (frag % 16) && Nat.ble (frag % 16) 8 && Nat.ble 1 kind && Nat.ble kind (if c then 4 else 5)

/-- The frame stage on a payload (R286): the failing detail and connection, or the cue and its connection entry. -/
def SideState.frameStage (s : SideState) (network : Bool) (p : List Byte) : Except (Nat × Nat) (Cue × Nat) :=
  if !s.formatOk p then .error (0x01, 0x3F)
  else
    match cueKindOf (beNat (slice p 1 1)) with
    | none => .error (0x01, 0x3F)
    | some kind =>
      let cue := cueOf s.compat kind p
      if !(cue.all && cue.kind == .curtain) && (s.pipe.nodeLost || cue.dstNode != s.get CQ_NODE.NODE_ID) then .error (0x02, 0x3F)
      else
        match s.connOf cue.connId with
        | none => .error (0x03, 0x3F)
        | some i =>
          let base := headerBytes s.compat + 4 * payloadCount s.compat p
          if s.get (CQ_CONN_CFG.SRC_NODE.bank i) ≠ cue.srcNode then .error (0x03, 0x3F)
          else if !s.is (if network then CQ_CONN_CFG.NET.bank i else CQ_CONN_CFG.HOST.bank i) then .error (0x16, i)
          else if beNat (slice p base 4) ≠ crc32cFrom cue.connId (p.take base) then .error (0x04, i)
          else if s.is (CQ_CONN_CFG.AUTH.bank i) && (match Tab.get? s.nvm.keys (s.get (CQ_CONN_CFG.KEY.bank i)) with
              | none => true
              | some key => decide (p.drop (base + 4) ≠ (hmacSha256 key (p.take (base + 4))).take 16)) then .error (0x05, i)
          else .ok (cue, i)

/-- The header fields that the fragments of one cue share (R285). -/
def Cue.shared (c : Cue) : Cue := { c with fragIndex := 0, entryReserved := 0, entries := [] }

/-- An assembly with every fragment held is one cue, with the entries in INDEX order. -/
def Assembly.whole (a : Assembly) (reserved : Nat) : Cue :=
  { a.head with
    entryReserved := reserved
    entries := ((List.range a.head.fragTotal).map (fun i => (Tab.get? a.frags i).getD [])).flatten }

/-- The check beat of a cue whose reception instant is `r` (R26). -/
def SideState.checkBeatAt (s : SideState) (r : Nat) : Nat := if r ≤ s.clockNs + 5000 then s.beatNo else s.beatNo + 1

/-- Removes the open assemblies of a connection identifier. -/
def SideState.dropAssembly (s : SideState) (id : Nat) : SideState :=
  { s with pipe := { s.pipe with assemblies := s.pipe.assemblies.filter (fun (a : Assembly) => a.head.connId != id) } }

/-- A complete cue with its reception instant waits for its check stage (R285, R287); `last` is where its last fragment came from. -/
def SideState.cueComplete (s : SideState) (cue : Cue) (origin last : CueOrigin) (conn received : Nat) : SideState :=
  { s with pipe := { s.pipe with
    waiting := s.pipe.waiting ++ [⟨cue, origin, conn, received, s.checkBeatAt received, false, last == .mailbox⟩] } }

/-- What the intake answers: a discard with its detail, a fragment held, or a complete cue. -/
inductive Intake where
  | discarded (detail : Nat)
  | held
  | complete
  deriving DecidableEq, Repr

/-- A good frame that no open assembly awaits: a whole cue, the first fragment of a new assembly, or one too many. -/
def SideState.firstFragment (s : SideState) (cue : Cue) (origin : CueOrigin) (conn received : Nat) : SideState × Intake :=
  if cue.fragTotal = 1 then (s.cueComplete cue origin origin conn received, .complete)
  else if 4 ≤ s.pipe.assemblies.length then (s.discardCue 0x07 conn, .discarded 0x07)
  else
    let a : Assembly := ⟨{ cue with entries := [] }, origin, conn, [(cue.fragIndex, cue.entries)], s.tick⟩
    ({ s with pipe := { s.pipe with assemblies := s.pipe.assemblies ++ [a] } }, .held)

/-- A fragment that its assembly lacks (R285): held, or the cue is complete. -/
def SideState.joinFragment (s : SideState) (a : Assembly) (cue : Cue) (last : CueOrigin) (conn received : Nat) : SideState × Intake :=
  let a : Assembly := { a with
    head := { a.head with entryReserved := a.head.entryReserved + cue.entryReserved }
    frags := Tab.put a.frags cue.fragIndex cue.entries }
  let l := s.pipe.assemblies.map (fun (b : Assembly) => if b.head.connId == cue.connId then a else b)
  if a.frags.length < cue.fragTotal then ({ s with pipe := { s.pipe with assemblies := l } }, .held)
  else ((s.dropAssembly cue.connId).cueComplete (a.whole a.head.entryReserved) a.origin last conn received, .complete)

/-- Assembly (R285) of a frame that has passed every check of the frame stage. -/
def SideState.assemble (s : SideState) (cue : Cue) (origin : CueOrigin) (conn received : Nat) : SideState × Intake :=
  match s.pipe.assemblies.find? (fun (a : Assembly) => a.head.connId == cue.connId) with
  | none => s.firstFragment cue origin conn received
  | some a =>
    if a.head.seq ≠ cue.seq then ((s.dropAssembly cue.connId).discardCue 0x06 conn).firstFragment cue origin conn received
    else if a.head.shared ≠ cue.shared then ((s.dropAssembly cue.connId).discardCue 0x06 conn, .discarded 0x06)
    else if Tab.has a.frags cue.fragIndex then (s.bump CQ_DISC_CNT2.FRAG 1, .discarded 0x06)
    else s.joinFragment a cue origin conn received

/-- A payload with its reception instant is taken through the frame stage and its assembly. -/
def SideState.intake (s : SideState) (origin : CueOrigin) (p : List Byte) (received : Nat) : SideState × Intake :=
  let network := match origin with
    | .network _ _ => true
    | .mailbox => false
  let s := s.readsNode
  match s.frameStage network p with
  | .error (d, c) => ((if d = 0x05 then s.checkAt 0x05 true else s).discardCue d c, .discarded d)
  | .ok (cue, c) => (s.checkAt 0x05 true).assemble cue origin c received

/-- The place among the frames that P0 has passed on of one with this source and payload. -/
def SideState.cueOffered (s : SideState) (src : Nat) (payload : List Byte) : Option Nat :=
  s.net.cueInbox.findIdx? (fun f => f.1 == src && carries f.2.1 payload)

/-- CUE_FRAME (R281, R286): the lead takes a cue frame that P0 has passed to its cue checker, while SC_CUE_CTRL.NET_EN is 1
(R36, R251); without such a frame there is nothing to take. -/
def execCueFrame (sd : Side) (off _port vid src : Nat) (payload : List Byte) (s : State) : Host.Outcome State Fault Refusal :=
  .next (s.side sd (fun x => x.live (fun x =>
    let x := x.atOffset off
    match x.cueOffered src payload with
    | none => x
    | some i =>
      let received := (x.net.cueInbox[i]?.map (fun f => f.2.2)).getD x.netNow
      let x := { x with net := { x.net with cueInbox := x.net.cueInbox.eraseIdx i } }
      if x.leads && x.is SC_CUE_CTRL.NET_EN then (x.intake (.network src vid) payload received).1 else x)))

/-- FRAGMENT_TIMEOUT (R285): 100 µs after its first fragment an assembly is abandoned. -/
def execFragmentTimeout (sd : Side) (assembly : Nat) (s : State) : Host.Outcome State Fault Refusal :=
  .next (s.side sd (fun x => x.live (fun x =>
    match x.pipe.assemblies[assembly]? with
    | none => x
    | some a => if x.tick < a.openedAt + 100000 then x else (x.dropAssembly a.head.connId).discardCue 0x06 a.conn)))

/-! ### The cue stage (R284, R286, R287) -/

/-- Is the cue handled as a rehearsal (R25, R282)? -/
def SideState.rehearses (s : SideState) (c : Cue) : Bool :=
  (c.kind == .change || c.kind == .recall) && (c.rehearse || !s.is SC_CUE_CTRL.ARM)

/-- The place of a new cue in the ordering; a rehearsal is checked against the active scene (R24). -/
def SideState.newOrder (s : SideState) (c : Cue) : Nat := if s.rehearses c then 0 else s.pipe.orderCount + 1

/-- SEQ (R287). -/
def SideState.seqOk (s : SideState) (w : WaitingCue) : Bool :=
  let d := (w.cue.seq + 2 ^ 32 - s.get (CQ_CONN_SEQ.SEQ.bank w.conn)) % 2 ^ 32
  !s.is (CQ_CONN_STAT.HAS_SEQ.bank w.conn) || (Nat.ble 1 d && Nat.blt d (2 ^ 31))

/-- Can the clock judge age (R287)? -/
def SideState.timed (s : SideState) : Bool := s.is NT_STAT.LOCKED || s.is NT_STAT.HOLDOVER

/-- Is MAX_AGE within its limits? -/
def Cue.maxAgeOk (c : Cue) : Bool := Nat.ble 50 c.maxAge && Nat.ble c.maxAge 100000

/-- Age in ns. -/
def WaitingCue.age (w : WaitingCue) : Int := (w.reception : Int) - (w.cue.sendS * 1000000000 + w.cue.sendNs : Nat)

/-- SEQ, TIME and AGE in table order: the failing detail, 0 for none. -/
def SideState.sequenceFailure (s : SideState) (w : WaitingCue) : Nat :=
  if !s.seqOk w then 0x10
  else if !s.timed then (if w.cue.kind = .curtain then 0 else 0x12)
  else if !w.cue.maxAgeOk then 0x13
  else if w.age < -10000 ∨ (w.cue.maxAge * 1000 : Nat) < w.age then 0x11
  else 0

/-- A cue that passes SEQ and AGE becomes the last accepted SEQ, and sets the deadline (R287, R291). -/
def SideState.acceptSeq (s : SideState) (w : WaitingCue) : SideState :=
  let s := (s.set (CQ_CONN_SEQ.SEQ.bank w.conn) w.cue.seq).set (CQ_CONN_STAT.HAS_SEQ.bank w.conn) 1
  let s := if w.cue.expect = 0 then s
    else (s.set (CQ_CONN_STAT.EXPIRED.bank w.conn) 0).setDeadline w.conn (some (w.reception + w.cue.expect * 1000000))
  s.emitConn w.conn

/-- The entries of a cue. -/
def Cue.changes (c : Cue) : List CueEntry := c.entries.map CueEntry.ofWord

/-- FIELD (R284). -/
def SideState.fieldOk (s : SideState) (c : Cue) : Bool :=
  let common := c.headReserved == 0 && c.entryReserved == 0 && c.maxAgeOk && Nat.ble c.expect 1000
    && c.changes.all (fun e => Nat.blt e.input s.ports && Nat.blt e.output s.ports)
  let plain := c.entries.isEmpty && !c.rehearse && c.dist == 0 && c.slot == 0 && c.sceneId == 0
  common && (c.all == false || c.kind == .curtain) && (c.aux == 0 || c.kind == .abort) &&
    (match c.kind with
    | .change => !c.entries.isEmpty && c.slot == 0 && c.sceneId != 0xFFFF
    | .recall => c.entries.isEmpty && c.sceneId != 0xFFFF && Nat.blt c.slot 240 && s.slotId c.slot == c.sceneId
    | .curtain => plain
    | .keepAlive => plain && Nat.ble 1 c.expect
    | .abort => plain)

/-- The pairs that a change cue removes. -/
def Cue.removes (c : Cue) : List (Nat × Nat) := (c.changes.filter (fun e => !e.add)).map (fun e => (e.input, e.output))

/-- The connections that a change cue adds, with the header's CONN_ID. -/
def Cue.adds (c : Cue) : List Conn := (c.changes.filter (fun e => e.add)).map (fun e => ⟨e.input, e.output, e.blank, e.pin, c.connId⟩)

/-- The target scene of a change or recall cue (R284). -/
def SideState.target (s : SideState) (c : Cue) (pred : List Conn) : List Conn :=
  if c.kind = .recall then s.slotConns c.slot
  else pred.filter (fun d => !c.removes.contains (d.input, d.output)) ++ c.adds

/-- CONTENT. -/
def Cue.contentOk (c : Cue) (pred : List Conn) : Bool :=
  let left := pred.filter (fun d => !c.removes.contains (d.input, d.output))
  let all := left ++ c.adds
  c.removes.all (fun r => pred.any (fun d => d.input == r.1 && d.output == r.2))
    && c.adds.all (fun d => !c.removes.contains (d.input, d.output))
    && decide ((all.map (fun d => d.input)).Nodup) && decide ((all.map (fun d => d.output)).Nodup)

/-- OWNER. -/
def SideState.ownerOk (s : SideState) (w : WaitingCue) (pred : List Conn) : Bool :=
  s.is (CQ_CONN_CFG.ANY_OWNER.bank w.conn) ||
    (w.cue.kind != .recall && (pred.filter (fun d => w.cue.removes.contains (d.input, d.output))).all (fun d => d.id == w.cue.connId))

/-- FIELD, SLOT, CONTENT and OWNER in table order: the failing detail, 0 for none. -/
def SideState.contentFailure (s : SideState) (w : WaitingCue) (pred : List Conn) : Nat :=
  if !s.fieldOk w.cue then 0x13
  else if w.cue.kind = .recall then
    (if !s.slotUsable w.cue.slot then 0x17 else if !s.ownerOk w pred then 0x15 else 0)
  else if w.cue.kind = .change then
    (if !w.cue.contentOk pred then 0x14 else if !s.ownerOk w pred then 0x15 else 0)
  else 0

/-! ### Policy and ordering (R23, R203) -/

/-- Does the network curtain's source stand in the curtain source list? -/
def SideState.sourceOk (s : SideState) (w : WaitingCue) : Bool :=
  match w.origin, s.watch.policy with
  | .network _ _, some p => p.sources.isEmpty || p.sources.contains w.cue.srcNode
  | _, _ => true

/-- Can the curtain scene not be solved (R85)? -/
def SideState.curtainUnsolved (s : SideState) : Bool := !s.pipe.curtainOwed && (!s.hasFlag 255 flagSOLVED || s.pipe.curtainFailed)

/-- Has a connection of the predicted scene its path there, so that it can be kept and pinned (R71)? The scene of a cue whose
solve is still to come carries every connection once it is solved; if it is not, later cues go with it (R24). -/
def SideState.carried (s : SideState) (order : Nat) (d : Conn) : Bool :=
  let unsolved := match s.predictedSlot order with
    | some n => n != 255 && !s.hasFlag n flagSOLVED
    | none => false
  unsolved || (match s.fabric.trace (s.predictedCell order) d.input with
    | some (q, _) => q == d.output
    | none => false)

/-- The policy checks: the REASON of a refusal, 0 for none. -/
def SideState.policyFailure (s : SideState) (w : WaitingCue) (order : Nat) (pred target : List Conn) : Nat :=
  let k := w.cue.kind
  let keyOneCause := bitAt (s.get SW_STAT.DEG_CAUSE) 0 || bitAt (s.get SW_STAT.DEG_CAUSE) 1
  if s.pipe.rigLost then 2
  else if s.is SW_STAT.DEGRADED && (k != .curtain || keyOneCause) then 6
  else if k = .curtain then (if s.sourceOk w then 0 else 2)
  else if s.watch.policy.isNone || s.is SW_STAT.CURTAIN_LATCH || s.is RG_STAT.CURTAIN_ONLY || s.curtainUnsolved then 2
  else if k = .change ∨ k = .recall then
    let lock := match s.watch.policy with
      | some p => p.darkLock
      | none => []
    if pred.any (fun d => (d.pin || s.policyPins d) && !target.any (fun t => t.input == d.input && t.output == d.output)
        && s.carried order d) then 2
    else if target.any (fun t => lock.contains t.output) then 2
    else 0
  else 0

/-- Does a cue name or get an effective beat at its check: a change or a recall? Curtain and keep-alive cues have none there
(R284), so of the checks of R23 only FULL can meet them. -/
def CueKind.hasBeat (k : CueKind) : Bool := k == .change || k == .recall

/-- ORDER, FULL and TOO_LATE (R20, R23, R203): the REASON, 0 for none. `free` tells whether a working slot can be had. -/
def SideState.orderFailure (s : SideState) (w : WaitingCue) (rehearse free : Bool) (eff : Nat) : Nat :=
  let beat := w.cue.kind.hasBeat
  let n := (s.flying.filter (fun p => p.2.rehearse && p.2.state != .checking)).length
  let order := beat && !rehearse && s.queued.any (fun p => p.2.state != .checking && Nat.ble eff p.2.eff)
  let full := if rehearse then Nat.ble 5 n || !free
    else Nat.ble 8 (s.queued.countP (fun p => p.2.state != .checking)) || (beat && !free)
  if order then 3 else if full then 4 else if beat && Nat.blt eff (w.checkBeat + 4) then 5 else 0

/-! ### The check stage (R26, R203, R204) -/

/-- E of a cue: that of its frame, or for the earliest beat its check beat + 4 (R23). -/
def effectiveOf (w : WaitingCue) : Nat :=
  if w.cue.earliest ∧ (w.cue.kind = .change ∨ w.cue.kind = .recall) then w.checkBeat + 4 else w.cue.effective

/-- The status frame of a cue that has no tracking entry (R286, R293). -/
def SideState.replyWithout (s : SideState) (w : WaitingCue) (word : Nat) : SideState :=
  match w.origin with
  | .network src vid =>
    if w.cue.reply then
      s.sendStatus ⟨w.conn, w.cue.connId, w.cue.srcNode, w.cue.seq, effectiveOf w, w.cue.sceneId, 0x1F, src, vid, word⟩
    else s
  | .mailbox => s

/-- The mailbox leaves busy (R294). -/
def SideState.mailboxDone (s : SideState) (result entry detail : Nat) : SideState :=
  (((s.set CQ_MBX_STAT.RESULT result).set CQ_MBX_STAT.ENTRY entry).set CQ_MBX_STAT.DETAIL detail).evt 0x0A 4

/-- The mailbox leaves busy with the check of the cue that it reads busy for. -/
def SideState.mailboxTaken (s : SideState) (w : WaitingCue) (entry : Nat) : SideState :=
  if w.boxed then s.mailboxDone 2 entry 0 else s

/-- A cue that fails the cue stage: shown, and source 0x67 raised. -/
def SideState.safetyFails (s : SideState) (w : WaitingCue) (entry detail : Nat) : SideState :=
  let s := ((s.set CQ_SAFE_STAT.DETAIL detail).set CQ_SAFE_STAT.CONN w.conn).set CQ_SAFE_STAT.FRAME 0
  ((s.set CQ_SAFE_STAT.ENTRY entry).evt 0x0A 1).raise 0x67

/-- The tracking entry of a cue at the start of its check. -/
def SideState.entryOfCue (s : SideState) (w : WaitingCue) : TrkEntry :=
  let c := w.cue
  { state := .checking
    sceneId := if c.kind = .curtain then 0xFFFF else c.sceneId
    eff := effectiveOf w
    cueScene := c.sceneId
    kind := c.kind
    rehearse := s.rehearses c
    dist := c.dist
    connId := c.connId
    seq := c.seq
    srcNode := c.srcNode
    reply := c.reply && w.origin != .mailbox
    srcMac := match w.origin with
      | .network src _ => src
      | .mailbox => 0
    vid := match w.origin with
      | .network _ vid => vid
      | .mailbox => 0
    conn := w.conn
    stored := c.slot
    order := s.newOrder c }

/-- A refused cue ends REJECTED. -/
def SideState.refuseCue (s : SideState) (w : WaitingCue) (e reason detail : Nat) : SideState :=
  let s := if reason = 1 then s.safetyFails w e detail else if reason = 2 then s.bump CQ_CNT.POLICY 1 else s
  (s.setTrk e { s.trk e with detail := detail }).closeCue e .rejected reason

/-- A change or recall cue is admitted: its target goes to a working slot, for a recall with the CELLS of the stored one (R73),
and its admission record to the stage watch (R204). DESIGN CHOICE (log 110): a rehearsal's 64 waiting beats count from the beat of
this check (R84). Its transfers into the slot count for the cue checker (R365), how many the manual does not say. -/
def SideState.admitScene (s : SideState) (w : WaitingCue) (e : Nat) (pred target : List Conn) : SideState :=
  let t := s.trk e
  let kept (c : Conn) : Bool := pred.any (fun d => d.input == c.input && d.output == c.output) && s.carried t.order c
  let target := target.map (fun (c : Conn) => if s.policyPins c && kept c then { c with pin := true } else c)
  match s.takeSlot with
  | (s, none) => s.refuseCue w e 4 0
  | (s, some n) =>
    let s := if w.cue.kind = .recall then
        (s.wrBytes (slotBase n + 0x1010) (s.rdBytes (slotBase w.cue.slot + 0x1010) 1280)).emitMem (slotBase n + 0x1010) 1280
      else s
    let s := s.countDiag (2 * Master.cueChecker.code) (Config.engineTransfers Master.cueChecker.code 0x2000)
    let s := (s.writeScene n w.cue.sceneId flagVALID target).emitMem (slotBase n) 0x1010
    let t := s.trk e
    let s := if t.rehearse then { s with pipe := { s.pipe with orderCount := s.pipe.orderCount + 1 } }
      else { s with
        pipe := { s.pipe with orderCount := t.order }
        watch := { s.watch with digests := Tab.put s.watch.digests t.eff (digestOf target) } }
    s.setTrk e { t with
      state := .solving
      slot := some n
      order := s.pipe.orderCount
      nextBeat := s.beatNo + 1
      waitFrom := s.produced
      admission := some ⟨t.kind, t.eff, digestOf target⟩ }

/-- A curtain cue is admitted: it waits for the curtain's effective beat (R215), and takes its place in the ordering. -/
def SideState.admitCurtain (s : SideState) (e : Nat) : SideState :=
  let held := s.watch.curtainAt.isSome && s.watch.curtainHeld
  let s := s.askCurtain false
  let s := { s with
    watch := { s.watch with curtainHeld := held }
    pipe := { s.pipe with orderCount := (s.trk e).order } }
  s.setTrk e { s.trk e with state := .ready, eff := s.watch.curtainAt.getD (s.beatNo + 2) }

/-- A cue passes every check (R203, R286). -/
def SideState.takeIn (s : SideState) (w : WaitingCue) (e : Nat) (pred target : List Conn) : SideState :=
  let s := (s.bump CQ_CNT.ADMIT 1).count 65 1
  match w.cue.kind with
  | .keepAlive => s.closeCue e .kept 0
  | .curtain => s.admitCurtain e
  | .change => s.admitScene w e pred target
  | .recall => s.admitScene w e pred target
  | .abort => s

/-- The check stage of a cue in its tracking entry. While the rig map's voted registers are lost every cue is refused with POLICY
(R344). -/
def SideState.checkEntry (s : SideState) (w : WaitingCue) (e : Nat) : SideState :=
  let t := s.entryOfCue w
  let s := s.setTrk e t
  let pred := s.predictedConns t.order
  let d := s.sequenceFailure w
  if s.pipe.rigLost then (if d = 0 then s.acceptSeq w else s).refuseCue w e 2 0
  else if d ≠ 0 then s.refuseCue w e 1 d
  else
    let s := s.acceptSeq w
    let d := s.contentFailure w pred
    if d ≠ 0 then s.refuseCue w e 1 d
    else
      let target := s.target w.cue pred
      let r := s.policyFailure w t.order pred target
      let free := s.freeSlot.isSome || s.oldestRehearsed.isSome
      let r := if r = 0 then s.orderFailure w t.rehearse free t.eff else r
      if r ≠ 0 then s.refuseCue w e r 0 else s.takeIn w e pred target

/-- The entry that an abort cue names: CHECKING to ARMED with the same CONN_ID and the SEQ of AUX (R288). -/
def SideState.abortTarget (s : SideState) (c : Cue) : Option Nat :=
  (s.tracks.find? (fun p => (p.2.state.inFlight || p.2.state == .armed) && p.2.connId == c.connId && p.2.seq == c.aux)).map Prod.fst

/-- The check of an abort cue, which takes no entry (R288). -/
def SideState.checkAbort (s : SideState) (w : WaitingCue) : SideState :=
  let d := s.sequenceFailure w
  if s.pipe.rigLost then (if d = 0 then s.acceptSeq w else s).bump CQ_CNT.POLICY 1
  else if d ≠ 0 then s.safetyFails w 0x1F d
  else
    let s := s.acceptSeq w
    let d := s.contentFailure w []
    if d ≠ 0 then s.safetyFails w 0x1F d
    else
      let r := s.policyFailure w 0 [] []
      if r ≠ 0 then (if r = 2 then s.bump CQ_CNT.POLICY 1 else s)
      else
        let s := (s.bump CQ_CNT.ADMIT 1).count 65 1
        let s := match s.abortTarget w.cue with
          | some e => s.abortEntry e
          | none => s.set SC_ABORT_STAT.RESULT 0
        s.replyWithout w (s.get SC_ABORT_STAT.RESULT * 2 ^ 24)

/-- The next cue whose check beat has come. -/
def SideState.nextCheck (s : SideState) : Option WaitingCue :=
  s.pipe.waiting.find? (fun (w : WaitingCue) => Nat.ble (w.checkBeat + (if w.repeated then 1 else 0)) s.beatNo)

/-- A cue without a free tracking entry while the rig map's voted registers are lost: refused with POLICY as every other (R344). -/
def SideState.policyWithout (s : SideState) (w : WaitingCue) : SideState :=
  let s := if s.sequenceFailure w = 0 then s.acceptSeq w else s
  ((s.bump CQ_CNT.POLICY 1).replyWithout w (8 * 2 ^ 28 + 2 * 2 ^ 24)).count 66 1

/-- CUE_CHECK (R26, R203): the lead's cue checker, before the cutoff of the beat. -/
def execCueCheck (sd : Side) (s : State) : Host.Outcome State Fault Refusal :=
  .next (s.side sd (fun x => x.live (fun x =>
    if !x.leads || x.stopped || !x.beforeCutoff then x
    else
      match x.nextCheck with
      | none => x
      | some w =>
        let x := { x with pipe := { x.pipe with waiting := x.pipe.waiting.erase w } }
        let x := x.count 64 1
        if w.cue.kind = .abort then (x.checkAbort w).mailboxTaken w 0x1F
        else
          match x.openEntry with
          | none =>
            if x.pipe.rigLost then (x.policyWithout w).mailboxTaken w 0x1F
            else ((x.replyWithout w (8 * 2 ^ 28 + 4 * 2 ^ 24)).count 66 1).mailboxTaken w 0x1F
          | some e => (x.checkEntry w e).mailboxTaken w e)))

/-! ### The host mailbox (R294) -/

/-- MAILBOX_CUE: a write of CQ_MBX_GO. -/
def execMailboxCue (sd : Side) (m : Master) (off : Nat) (v : Word) (s : State) : Host.Outcome State Fault Refusal :=
  .next (s.side sd (fun x => x.live (fun x => (x.atOffset off).regWrite 0x0A0B8 m (fun x =>
    if x.get CQ_MBX_STAT.RESULT = 1 then x.ignored 0x0A0B8 m
    else if v.toNat % 2 = 0 then x
    else if !x.leads then x.mailboxDone 3 0 0x16
    else if !x.is SC_CUE_CTRL.MBX_EN then x
    else
      let p := x.rdBytes (x.get CQ_MBX_ADDR.ADDR / 4 * 4) (x.get CQ_MBX_LEN.LEN)
      let x := x.set CQ_MBX_STAT.RESULT 1
      match x.intake .mailbox p x.netNow with
      | (x, .discarded d) => x.mailboxDone 3 0 d
      | (x, .held) => x.mailboxDone 2 0 0
      | (x, .complete) => x))))

/-! ### Keys (R292) -/

/-- Why a key load is refused: TEMP, IN_USE, BUSY; 0 for none. -/
def SideState.keyRefusal (s : SideState) (slot : Nat) (isOpen : Bool) : Nat :=
  let used := (List.range 64).any (fun i =>
    s.is (CQ_CONN_CFG.EN.bank i) && s.is (CQ_CONN_CFG.AUTH.bank i) && s.get (CQ_CONN_CFG.KEY.bank i) == slot)
  if !isOpen then 1 else if used then 2 else if s.recordBusy .keys || !s.nvm.keyPending.isEmpty then 3 else 0

/-- The key bytes written, byte 0 in KY_KDATA0[7:0]. -/
def SideState.keyData (s : SideState) : List Byte :=
  ((List.range 8).map (fun i => leBytes 4 (s.get (KY_KDATA.DATA.nth i)))).flatten

/-- KY_KDATA0 to 7 are cleared. -/
def SideState.clearKeyData (s : SideState) : SideState :=
  let s := (List.range 8).foldl (fun (s : SideState) i => s.set (KY_KDATA.DATA.nth i) 0) s
  { s with nvm := { s.nvm with keyDataAt := none } }

/-- A completed pair on KY_KLOAD: KY_KDATA is cleared whatever the outcome. -/
def SideState.keyCommand (s : SideState) (v : Nat) (isOpen : Bool) : SideState :=
  let data := s.keyData
  let s := s.clearKeyData
  if !bitAt v 31 || !s.leads then s
  else
    let slot := v % 16
    let r := s.keyRefusal slot isOpen
    if r ≠ 0 then (((s.set KY_KSTAT.RESULT 3).set KY_KSTAT.REASON r).evt 0x1F 0).raise 0x6E
    else
      let s := (s.set KY_KSTAT.RESULT 1).set KY_KSTAT.REASON 0
      s.startRecord ⟨.keys, if bitAt v 4 then [] else data, slot, bitAt v 4, false⟩ true

/-- KEY_LOAD (R292). -/
def execKeyLoad (sd : Side) (m : Master) (w : PairWrite) (s : State) : Host.Outcome State Fault Refusal :=
  .next (s.side sd (fun x => x.live (fun x => x.onPair 0x1F060 m w (fun v x => x.keyCommand v.toNat (s.bothNvmOpen sd)))))

/-- KEY_ERASE (R292): the same pair, with ERASE at 1. -/
def execKeyErase (sd : Side) (m : Master) (w : PairWrite) (s : State) : Host.Outcome State Fault Refusal :=
  .next (s.side sd (fun x => x.live (fun x => x.onPair 0x1F060 m w (fun v x => x.keyCommand v.toNat (s.bothNvmOpen sd)))))

/-- KEY_DATA_TIMEOUT (R292): no pair has followed within 16 beats. -/
def execKeyDataTimeout (sd : Side) (s : State) : Host.Outcome State Fault Refusal :=
  .next (s.side sd (fun x => x.live (fun x =>
    match x.nvm.keyDataAt with
    | none => x
    | some b => if x.produced < b + 16 then x else x.clearKeyData)))

end Sys2Proof.Machine
end

