-- ==== Sys2Proof/Machine/Startup.lean ====
section
/-! DEFINITION. Cold-start arbitration, the start of the firmware, and start of service (R362, R382, R393 to R397). -/

namespace Sys2Proof.Machine

/-! ### Cold-start arbitration (R393 to R395) -/

/-- Do the side's own figures let it lead (R393)? DEDUCED (log 109): a supplied side's VIN is within range unless CK_VIN shows HIGH. -/
def SideState.mayLead (s : SideState) : Bool :=
  s.is CK_STAT.RAILS_OK && s.is CK_STAT.PLL_CORE && s.is CK_STAT.PLL_SYS && s.is CK_STAT.PLL_TIME && !s.is CK_VIN.HIGH
    && !s.is TH_STAT.SHUTDOWN

/-- Is the peer eligible, as its arbitration message says it (R393)? -/
def SideState.reportsEligible (p : SideState) (v : ArbView) : Bool :=
  v.peerEligible && p.alive && p.mayLead && p.get CK_ARB.ROW != 1

/-- Had the peer role NONE as the messages were exchanged: it has no role, or it has just become a cold understudy by row 3 itself? -/
def SideState.undecided (p : SideState) : Bool :=
  p.get TW_ROLE.ROLE == 0 || (p.isUnderstudy && p.get CK_ARB.ROW == 3 && p.get TW_ROLE.WARMTH == 0)

/-- Is the window of the side over, counted from the start of its beat generator (R393)? -/
def SideState.windowOver (s : SideState) : Bool := Nat.ble (if s.preferred then 200 else 300) s.produced

/-- Does the side count as preferred: by its strap, or Side A where the straps differ (R394)? -/
def SideState.preferredOf (s p : SideState) : Bool :=
  if s.is ID_STRAP.ROLE_PREF = p.is ID_STRAP.ROLE_PREF then s.preferred else s.side == .A

/-- The row of R394 that applies, and the role it gives; none while no row applies yet. `eligible` is what the boot ROM found of itself and
of the NVM. -/
def SideState.arbRow (s p : SideState) (eligible : Bool) (v : ArbView) : Option (Nat × Nat) :=
  if !(eligible && s.mayLead) then some (1, 0)
  else if v.markerLead then some (2, 2)
  else if v.message && p.undecided then
    (if !p.reportsEligible v then some (3, 1)
     else if p.rank < s.rank then some (3, 1)
     else if s.rank < p.rank then some (3, 2)
     else some (3, if s.preferredOf p then 1 else 2))
  else if !s.windowOver then none
  else if v.pulseSeen && !v.linkSeen then some (4, if s.preferred then 1 else 0)
  else if !v.pulseSeen && !v.linkSeen then some (5, 1)
  else none

/-- The side takes network time and BEATNO from a peer whose pulses it sees, unless it is preferred and the peer is not. -/
def SideState.alignTo (s p : SideState) (v : ArbView) : SideState :=
  if !v.pulseSeen || !v.linkSeen || (s.preferred && !p.preferred) then s
  else { s with
    beatNo := v.peerBeat
    time := { s.time with sec := v.peerTime / 1000000000, ns := v.peerTime % 1000000000, frac := 0 } }

/-- The decision of arbitration. A side that is to lead asserts its fence request (R395); one that is not eligible is fenced. DESIGN CHOICE (log 109): R391, R394
and R397 give the role at arbitration and R3 and R227 say NONE before start of service; the role is entered here. -/
def SideState.decideRole (s : SideState) (row role : Nat) : SideState :=
  let s := (s.set CK_ARB.ROW row).set CK_ARB.DECISION (if role = 0 then 3 else role)
  let s := s.enterRole role
  match role with
  | 1 =>
    { s.set CK_STAT.STAGE 2 with
      twin := { s.twin with fenceRequest := true }
      power := { s.power with leadAlone := some s.produced } }
  | 2 => s.padsDone
  | _ =>
    let s := if row = 1 then s.fenceSelf else s
    { s with power := { s.power with retryFrom := s.produced } }

/-- One look of a side at its peer in arbitration; it decides at a boundary (R227). -/
def SideState.arbitrate (s p : SideState) (eligible : Bool) (v : ArbView) : SideState :=
  let s := s.alignTo p v
  let s := (s.setB CK_ARB.PULSE_SEEN v.pulseSeen).setB CK_ARB.LINK_SEEN v.linkSeen
  let s := if v.linkSeen then s.set TW_LINK.LANES 0xFF else s
  let s := if v.message then (s.setB CK_ARB.PEER_ELIG (p.reportsEligible v)).set CK_ARB.PEER_RANK p.rank else s
  let differ := s.is ID_STRAP.ROLE_PREF != p.is ID_STRAP.ROLE_PREF || s.is ID_STRAP.COMPAT != p.is ID_STRAP.COMPAT
  let s := s.raiseIf (v.message && differ) 0x08
  match (if s.win == .edge then s.arbRow p eligible v else none) with
  | none => s
  | some r =>
    let s := s.decideRole r.1 r.2
    if r.2 = 2 then { s with power := { s.power with leadCompat := some (p.is ID_STRAP.COMPAT) } } else s

/-- The request of a side that leads too takes this lead's stage from its supply (R395): until the request is withdrawn its fence is set,
and the 100 beats of the dispute begin. -/
def SideState.unsupply (s : SideState) : SideState :=
  let pads := s.power.pads
  let supplied := !s.is TW_ROLE.FENCED
  let s := s.fenceSelf
  { s with
    power := { s.power with pads := pads.map (fun _ => false), leadAlone := some s.produced }
    twin := { s.twin with unfencePending := supplied && pads.isNone && s.get CK_STAT.STAGE != 2 } }

/-- What follows a decision of a side to lead: while both sides request the other's fence neither stage is supplied (R395). -/
def State.decided (s : State) (sd : Side) (led : Bool) : State :=
  if !led && (s.on sd).leads && (s.on sd.peer).alive && (s.on sd.peer).leads && (s.on sd.peer).twin.fenceRequest then
    (s.side sd (fun x => x.unsupply)).side sd.peer (fun y => y.unsupply)
  else s

/-- ARBITRATION (R394): in the window of a side that has not decided. A side in its safe state takes no role (R306). -/
def execArbitration (sd : Side) (eligible : Bool) (view : ArbView) (s : State) : Host.Outcome State Fault Refusal :=
  .next ((s.side sd (fun x => x.live (fun x =>
    if x.get CK_STAT.STAGE == 1 && x.get CK_ARB.DECISION == 0 && !x.is FC_STAT.SAFE then x.arbitrate (s.on sd.peer) eligible view
    else x))).decided sd (s.on sd).leads)

/-- ARBITRATION_RETRY (R394): every 100 beats on a side left with role NONE. -/
def execArbitrationRetry (sd : Side) (eligible : Bool) (view : ArbView) (s : State) : Host.Outcome State Fault Refusal :=
  .next ((s.side sd (fun x => x.live (fun x =>
    if x.get CK_ARB.DECISION == 3 && x.get TW_ROLE.ROLE == 0 && !x.is FC_STAT.SAFE && Nat.ble (x.power.retryFrom + 100) x.produced then
      ({ x with power := { x.power with retryFrom := x.produced } }).arbitrate (s.on sd.peer) eligible view
    else x))).decided sd (s.on sd).leads)

/-- FENCE_INTERLOCK_TIMEOUT (R395): both sides led alone, and neither stage is supplied. -/
def execFenceInterlockTimeout (sd : Side) (s : State) : Host.Outcome State Fault Refusal :=
  let peer := s.on sd.peer
  .next (s.side sd (fun x => x.live (fun x =>
    match x.power.leadAlone with
    | none => x
    | some b =>
      if x.leads && x.is TW_ROLE.FENCED && !x.preferredOf peer && x.twin.fenceRequest && peer.twin.fenceRequest
          && Nat.ble (b + 100) x.produced then
        let x := (x.enterRole 0).set CK_ARB.DECISION 3
        ({ x with
          twin := { x.twin with fenceRequest := false, unfencePending := false }
          power := { x.power with leadAlone := none, pads := none, retryFrom := x.produced } }).raise 0x09
      else x)))

/-! ### The slot directory and the start of the firmware (R382) -/

/-- What the slot directory holds: the slot to boot, the trial and its failure, and FW_VER, SVN and CRC of both slots. -/
structure SlotDirectory where
  active : Nat
  trial : Bool
  failed : Bool
  fwVer : List Nat
  svn : List Nat
  crc : List Nat
  deriving DecidableEq, Repr

/-- The directory as the payload of its record. -/
def SlotDirectory.bytes (d : SlotDirectory) : List Byte :=
  leBytes 1 d.active ++ leBytes 1 (if d.trial then 1 else 0) ++ leBytes 1 (if d.failed then 1 else 0) ++ leBytes 1 0
    ++ ((List.range 2).map (fun i => leBytes 2 (d.fwVer.getD i 0) ++ leBytes 2 (d.svn.getD i 0) ++ leBytes 4 (d.crc.getD i 0))).flatten

/-- A directory from its payload. -/
def SlotDirectory.of (b : List Byte) : SlotDirectory :=
  { active := leNat (slice b 0 1) % 2
    trial := leNat (slice b 1 1) == 1
    failed := leNat (slice b 2 1) == 1
    fwVer := (List.range 2).map (fun i => leNat (slice b (4 + 8 * i) 2))
    svn := (List.range 2).map (fun i => leNat (slice b (6 + 8 * i) 2))
    crc := (List.range 2).map (fun i => leNat (slice b (8 + 8 * i) 4)) }

/-- The slot directory of a side, one that waits for the window first; without a record it names slot 0. -/
def SideState.directory (s : SideState) : SlotDirectory :=
  match s.nvm.directoryDue <|> s.record directoryArea with
  | some b => .of b
  | none => ⟨0, false, false, [0, 0], [0, 0], [0, 0]⟩

/-- Writes the slot directory, or leaves it to the window (R323, R376). One that waits is lost with the RAM at a reset (R398). -/
def SideState.writeDirectory (s : SideState) (d : SlotDirectory) : SideState :=
  let s := { s with nvm := { s.nvm with directoryDue := some d.bytes } }
  if s.nvmOpen then s.directoryWritten else s

/-- Base of a firmware slot in the NVM window (R375). -/
def slotImage (slot : Nat) : Nat := 0x40010000 + slot * 0x800000

/-- Does the stored image of the booted slot have the CRC that the slot directory holds of it (R241, R382)? DESIGN CHOICE (log 132):
without a directory record there is none to compare with. -/
def SideState.slotStored (s : SideState) : Bool :=
  match s.nvm.directoryDue <|> s.record directoryArea with
  | none => true
  | some b =>
    let a := s.get NV_STAT.ACTIVE
    let body := s.rd (slotImage a + 0x0C) 4
    Nat.ble body 8388352 && crc32c (s.rdBytes (slotImage a) (256 + body)) == (SlotDirectory.of b).crc.getD a 0

/-- FW_VER, SVN and COPY_VER of the image a slot holds (R380). -/
def SideState.imageFw (s : SideState) (slot : Nat) : Nat := s.rd (slotImage slot + 6) 2
def SideState.imageSvn (s : SideState) (slot : Nat) : Nat := s.rd (slotImage slot + 8) 2
def SideState.imageCopy (s : SideState) (slot : Nat) : Nat := s.rd (slotImage slot + 0x0A) 1

/-- The side identity record: the MAC address (R263, R375). -/
def SideState.loadMac (s : SideState) : SideState :=
  let b := s.rdBytes 0x40008000 6
  (s.set QS_MAC_HI.MAC (beNat (b.take 2))).set QS_MAC_LO.MAC (beNat (b.drop 2))

/-- The curtain scene comes from NVM into slot 255, which carries ACTIVE. It is owed a solve, and until the first curtain takes
effect the active scene is the empty one (R22, R85, R397). -/
def SideState.loadCurtain (s : SideState) : SideState :=
  let r := s.record curtainArea
  let s := match r with
    | some b => s.wrBytes (slotBase 255) (b.take 0x2000)
    | none => s.raise 0xA3
  let s := (s.setFlag 255 flagSOLVED false).setFlag 255 flagACTIVE true
  { s with
    power := { s.power with curtainLoaded := r.isSome }
    pipe := { s.pipe with curtainOwed := true }
    scene := { s.scene with emptyActive := true }
    watch := { s.watch with currentDigest := digestOf [] } }

/-- The understudy takes its own records: rig map, park table and calibration (R57, R63). -/
def SideState.understudyRecords (s : SideState) : SideState :=
  if s.leads || s.rigged then s
  else
    match s.record RecordKind.rigMap.area with
    | some img => (((s.rigInForce img).setSerial RG_NVSER.SERIAL (rigSerial img)).parkAtStart).calAtStart
    | none => s.raise 0xA3

/-- The stage manager finds no valid copy of the forecast record, or of the key record (R376). -/
def SideState.recordsAtStart (s : SideState) : SideState :=
  (s.raiseIf (s.record RecordKind.forecast.area).isNone 0xA3).raiseIf (s.nvm.keyGen == 0) 0xA3

/-- The firmware of a slot runs: the zero region shows working SRAM, the remap is locked, and stage manager and cue checker
start, and the converters run in every role (R131, R206, R362, R391). DESIGN CHOICE (log 120): the converters of a side that has
driven no pads yet start here, those of a lead with boundary b. -/
def SideState.runFirmware (s : SideState) (slot : Nat) (fallback : Bool) (trial : Bool) : SideState :=
  let s := ((s.set BX_REMAP.SRAM 1).set BX_STAT.REMAPPED 1).set BX_CTRL.REMAP_LOCK 1
  let s := ((s.set NV_STAT.ACTIVE slot).setB NV_STAT.TRIAL trial).setB NV_STAT.FALLBACK fallback
  let s := (s.set NV_STAT.FW_VER (s.imageFw slot)).set KY_SVN.RUN (s.imageSvn slot)
  let s := s.set TW_COPY_STAT.COPY_VER (s.imageCopy slot)
  let s := ((s.set HM_STAT.RUN 1).set HM_STAT.WDOG_OK 1).set CQ_STAT.RUN 1 |>.runConverters true
  let s := (s.set CK_STAT.STAGE 5).loadMac
  let s := { s with power := { s.power with firmware := true }, fault := { s.fault with watchdog := s.produced } }
  let s := s.log 2 0x01 s.sideRole 0 (leBytes 1 slot ++ leBytes 2 (s.imageFw slot) ++ leBytes 1 (if fallback then 1 else 0))
  (s.loadCurtain.understudyRecords).recordsAtStart

/-- No slot passes: the side stays in the boot ROM with role NONE, fenced (R382). -/
def SideState.stayInRom (s : SideState) : SideState :=
  let s := if s.leads then s.fenceSelf else s
  let s := s.enterRole 0
  { s with nvm := { s.nvm with bootRom := true } }

/-- KEY_ID of an image; the signatures know four keys. -/
def imageKey (img : List Byte) : Nat := leNat (slice img 0x0B 1)

/-- The first check of R381 that an image fails, as KY_SIG_STAT.REASON; 0 if it passes. `keys` are the vendor's public keys of the boot
ROM (R380). -/
def imageReject (keys : List (Nat × Nat)) (img : List Byte) (min revoked : Nat) : Nat :=
  let key := imageKey img
  let body := leNat (slice img 0x0C 4)
  let revoke := leNat (slice img 0x1C 1)
  let q := keys.getD key (0, 0)
  if slice img 0 4 ≠ [0x43, 0x5A, 0x46, 0x57] ∨ leNat (slice img 4 2) ≠ 1 then 1
  else if img.length ≠ 256 + body ∨ 8388352 < body then 2
  else if 3 < key ∨ bitAt revoked key ∨ bitAt revoke key then 3
  else if leNat (slice img 8 2) < min then 4
  else if slice img 0x40 32 ≠ sha256 (img.drop 256) then 5
  else if !ecdsaValid q.1 q.2 (sha256 (img.take 0x80)) (beNat (slice img 0x80 32)) (beNat (slice img 0xA0 32)) then 6
  else 0

/-- The image that a slot holds: its header and as many bytes as BODY_LEN says, up to the largest that a slot takes (R380). -/
def SideState.slotBytes (s : SideState) (slot : Nat) : List Byte :=
  let body := s.rd (slotImage slot + 0x0C) 4
  s.rdBytes (slotImage slot) (if body ≤ 8388352 then 256 + body else 256)

/-- A check of an image is shown in KY_SIG_STAT (R381, R389): the first failure, 0 for none, and KEY_ID. -/
def SideState.showCheck (s : SideState) (reason key : Nat) : SideState :=
  let s := if reason = 0 then s else s.evt 0x1F 1
  ((s.set KY_SIG_STAT.RESULT (if reason = 0 then 2 else 3)).set KY_SIG_STAT.REASON reason).set KY_SIG_STAT.KEY_ID key

/-- The first check of R381 that the image of a slot fails; 0 if it passes. The checks are made on the bytes the slot holds; a reading of
the slot that goes wrong fails one more (log 141). -/
def SideState.slotReason (s : SideState) (slot : Nat) (c : SlotCheck) : Nat :=
  let r := imageReject s.nvm.romKeys (s.slotBytes slot) s.nvm.fuseMin s.nvm.fuseRevoked
  match c with
  | .pass => r
  | .fail k => if r = 0 then clampNat 1 6 k else min r (clampNat 1 6 k)

/-- The boot ROM checks a slot: a failure is source 0xA0 (R382). -/
def SideState.checkSlot (s : SideState) (slot : Nat) (c : SlotCheck) : SideState × Bool :=
  let r := s.slotReason slot c
  ((s.showCheck r (s.rd (slotImage slot + 0x0B) 1)).raiseIf (r != 0) 0xA0, r == 0)

/-- The boot ROM's choice of slot (R382). -/
def SideState.bootSlots (s : SideState) (slot0 slot1 : SlotCheck) : SideState :=
  let d := s.directory
  let check (i : Nat) : SlotCheck := if i = 0 then slot0 else slot1
  let a := d.active
  let b := 1 - a
  let s := s.raiseIf (s.nvm.directoryDue <|> s.record directoryArea).isNone 0xA3
  match s.checkSlot a (check a) with
  | (s, passA) =>
    if passA && !(d.trial && d.failed) then s.runFirmware a false d.trial
    else
      match s.checkSlot b (check b) with
      | (s, true) =>
        ((s.writeDirectory { d with active := b, trial := false, failed := false }).evt 0x05 2 |>.raise 0xA1).runFirmware b true false
      | (s, false) =>
        if passA then (s.showCheck 0 (s.rd (slotImage a + 0x0B) 1)).runFirmware a false d.trial else s.stayInRom

/-- FIRMWARE_START (R382, R391): once the role is settled and, on a lead, the steps of its tile are complete. -/
def execFirmwareStart (sd : Side) (slot0 slot1 : SlotCheck) (s : State) : Host.Outcome State Fault Refusal :=
  .next (s.side sd (fun x => x.live (fun x =>
    if x.power.firmware || x.nvm.bootRom || x.get CK_ARB.DECISION == 0 || (x.leads && Nat.blt (x.get CK_STAT.STAGE) 4) then x
    else x.bootSlots slot0 slot1)))

/-! ### Start of service (R397) -/

/-- Do the conditions of R397 hold on the lead? The steps of R391 that come before the start of service, the pads among them, are
complete. -/
def SideState.serviceReady (s : SideState) : Bool :=
  s.power.firmware && s.rigged && s.power.tablesExpanded && s.power.calLoaded && s.power.curtainLoaded
    && !s.pipe.curtainOwed && !s.pipe.curtainFailed && s.hasFlag 255 flagSOLVED && s.is SW_STAT.CURTAIN_TRACED
    && !s.is TW_ROLE.FENCED && s.power.pads.isNone

/-- The milliseconds since t0: the boundaries, and the 1.3 ms before the first (R391, R402). -/
def SideState.serviceMs (s : SideState) : Nat := min 65535 ((130 + s.produced) / 100)

/-- Calibration was rejected (R62, R192): a SURVEY of every element that awaits it, then a round. -/
def SideState.surveyTrigger (s : SideState) : SideState :=
  if !s.is RG_STAT.CURTAIN_ONLY || !s.managed then s
  else
    let s := (s.loopDos.filter (fun d => !s.cal.surveyed.contains d)).foldl
      (fun (s : SideState) d => s.queueJob ⟨d, .survey, false, false, false⟩) s
    s.queueRound

/-- Start of service of the lead: loops wait for their samples, and output attenuators without a loop are the scene
controller's (R138, R397). -/
def SideState.service (s : SideState) : SideState :=
  let s := ((s.set CK_STAT.SERVICE 1).set CK_STAT.STAGE 6).set CK_START_T.SERVICE_MS s.serviceMs
  let s := s.evt 0x01 3
  let s := if s.is FC_STAT.MAJOR || s.is FC_STAT.SAFE then s else s.set SW_STAT.ALIVE_RUN 1
  let s := (List.range s.loopCount).foldl (fun (s : SideState) l => if s.tis LT.EN l then s.loopEnabled l else s) s
  let bare := (s.outAttenuators.map Prod.snd).filter (fun d => (s.loopOf d).isNone && s.own d == .none)
  let s := bare.foldl (fun (s : SideState) d => s.toOwn d .scene) s
  s.surveyTrigger.requestCurtain false

/-- START_OF_SERVICE (R397): at the first boundary at which every condition holds. An understudy passes the same self-test and
starts its ALIVE after it. -/
def execStartOfService (sd : Side) (selfTestOk : Bool) (s : State) : Host.Outcome State Fault Refusal :=
  .next (s.side sd (fun x => x.live (fun x =>
    if !selfTestOk || x.is CK_STAT.SERVICE || x.win != .edge then x
    else
      let x := { x with power := { x.power with selfTested := true } }
      if x.leads then (if x.serviceReady then x.service else x)
      else if x.isUnderstudy && x.power.firmware then
        (if x.is FC_STAT.MAJOR || x.is FC_STAT.SAFE then x else x.set SW_STAT.ALIVE_RUN 1)
      else x)))

end Sys2Proof.Machine
end

