-- ==== Sys2Proof/Machine/Twin.lean ====
section
/-! DEFINITION. The twin link (R231 to R236): the copy of the lead's state, its markers and the heartbeats. -/

namespace Sys2Proof.Machine

/-! ### The marker (R235) -/

/-- The limit of a beat's copy in bytes (R234). -/
def copyLimit : Nat := 73728

/-- A marker. -/
def markerBytes (complete resign swap carry : Bool) (copyVer count check beat : Nat) : List Byte :=
  let b (v : Bool) (n : Nat) : Nat := if v then n else 0
  leBytes 4 (0xF + b complete 0x10 + b resign 0x20 + b swap 0x40 + b carry 0x80 + copyVer % 256 * 0x100 + min 65535 count * 0x10000)
    ++ leBytes 4 check ++ leBytes 8 beat

/-- LOOP: words 5 to 7 of a loop. -/
def SideState.recLoop (s : SideState) (l : Nat) : List Byte := leBytes 4 (0x6 + l * 0x10) ++ s.rdBytes (LT.LOWEST.addr l) 12

/-- The LOOP records of a beat, in rotation. -/
def SideState.emitLoops (s : SideState) : SideState :=
  (List.range s.loopCount).foldl (fun (s : SideState) l => if l % 16 = s.beatNo % 16 then
    let s := s.scrubRange (LT.LOWEST.addr l) 12
    s.emit (s.recLoop l) else s) s

/-- One block of 4 KiB of a running bulk copy, 512 transfers (R358, R365), with ten DO (R94, R243), while the link has time to spare; after the last one the
blocks of regions that differed. -/
def SideState.bulkBlock (s : SideState) : SideState :=
  if s.get TW_BULK.STATE ≠ 1 ∨ copyLimit < s.twin.recordBytes + 4304 then s
  else if 1024 ≤ s.twin.bulkNext then
    match s.twin.bulkAgain with
    | [] => s.set TW_BULK.STATE 2
    | i :: t =>
      let s := (s.scrubRange (0x30000000 + 4096 * i) 4096).countDiag (2 * Master.twinCopy.code) 512
      let s := { s.emitMem (0x30000000 + 4096 * i) 4096 with twin := { (s.emitMem (0x30000000 + 4096 * i) 4096).twin with bulkAgain := t } }
      if t.isEmpty then s.set TW_BULK.STATE 2 else s
  else
    let i := s.twin.bulkNext
    let s := (s.scrubRange (0x30000000 + 4096 * i) 4096).countDiag (2 * Master.twinCopy.code) 512
    let s := s.emitMem (0x30000000 + 4096 * i) 4096
    let s := (List.range 10).foldl (fun (s : SideState) j =>
      let d := 10 * i + j
      if s.named d then (s.emit (recDo d (s.base d))).emit (recOwn d (s.own d) 0 (s.mode d)) else s) s
    let s := { s with twin := { s.twin with bulkNext := i + 1 } }
    let s := s.set TW_BULK.REGIONS (i + 1)
    if 1024 ≤ i + 1 then s.set TW_BULK.STATE 2 else s

/-- The records of a beat that the link carries within the limit, and those left for the next beat. -/
def fitRecords : Nat → List (List Byte) → List (List Byte) × List (List Byte)
  | _, [] => ([], [])
  | room, r :: t =>
    if room < r.length then ([], r :: t)
    else
      let p := fitRecords (room - r.length) t
      (r :: p.1, p.2)

/-- Does the lead resign to its FIT peer with this beat's marker (R230)? -/
def SideState.resigns (s : SideState) : Bool :=
  match s.twin.resignFrom with
  | some b => s.leads && s.peerFit && Nat.ble b s.produced
  | none => false

/-- Is a cue between CHECKING and ARMED? -/
def SideState.cueBusy (s : SideState) : Bool := s.tracks.any (fun p => p.2.state.inFlight || p.2.state == .armed)

/-- The entries of a list whose places are named, and the others. -/
def splitPlaces {α : Type} (places : List Nat) (l : List α) : List α × List α :=
  ((l.zipIdx.filter (fun p => places.contains p.2)).map Prod.fst, (l.zipIdx.filter (fun p => !places.contains p.2)).map Prod.fst)

/-- The lead closes the copy of its beat: its marker tells of the records that went over, and those that a lost flit held, or
that the limit kept back, go first in the next beat (R231, R234). An understudy in intermission is sent no records (R329). -/
def SideState.closeCopy (s : SideState) (quiet : Bool) : SideState :=
  let s := s.emitLoops.bulkBlock
  let carry := !s.twin.late.isEmpty
  let all := if quiet then [] else s.twin.late ++ s.twin.records
  let fit := fitRecords copyLimit all
  let parts := splitPlaces s.twin.lostRecords fit.1
  let complete := fit.2.isEmpty && parts.1.isEmpty && (quiet || !s.twin.flitLost)
  let s := if complete then s else (s.bump SC_OVR_CNT.COPY 1).evt 0x0B 1
  let s := s.raiseIf (!fit.2.isEmpty) 0x5F
  let sent := parts.2.flatten
  let resign := s.resigns
  let swap := complete && s.twin.swapPending && !s.cueBusy && !resign && !s.twin.resignLine
  let m := markerBytes complete resign swap carry (s.get TW_COPY_STAT.COPY_VER) parts.2.length (crc32c sent) s.beatNo
  let first := resign && !s.twin.resignSent
  let s := { s with twin := { s.twin with
    marker := m, sent := parts.2, records := [], recordBytes := 0, flitLost := false, lostRecords := []
    resignSent := s.twin.resignSent || resign
    late := parts.1 ++ fit.2
    swapAt := if swap then some (s.produced + 1) else s.twin.swapAt } }
  let s := (s.set TW_COPY_BYTES.BYTES (min 131071 sent.length)).count 113 sent.length
  let s := if complete then
      (((s.set TW_COPY_STAT.LAST_COMMIT s.beatNo).set TW_COPY_STAT.NOCOMMIT 0).count 114 1)
    else ((s.set TW_COPY_STAT.NOCOMMIT (min 16 (s.get TW_COPY_STAT.NOCOMMIT + 1))).count 115 1)
  s.raiseIf first 0x8A

/-- COMMIT_MARKER (R234, R235): at 9.6 µs of the beat. The understudy's marker carries no records (R231). -/
def execCommitMarker (sd : Side) (s : State) : Host.Outcome State Fault Refusal :=
  let quiet := (s.on sd.peer).get TH_INT_STAT.STATE == 1
  .next (s.side sd (fun x => x.live (fun x =>
    if x.win == .marked || x.win == .judged then x
    else
      let x := { x with win := .marked, off := max x.off 9600 }
      if x.leads then x.closeCopy quiet
      else
        let m := markerBytes true false false false (x.get TW_COPY_STAT.COPY_VER) 0 (crc32c []) x.beatNo
        { x with twin := { x.twin with marker := m } })))

/-! ### Receiving (R231 to R234) -/

/-- COPY_RECORD (R234, R235): the understudy stages a record of the beat. -/
def execCopyRecord (sd : Side) (bytes : List Byte) (s : State) : Host.Outcome State Fault Refusal :=
  .next (s.side sd (fun x => x.live (fun x =>
    if x.isUnderstudy then
      ({ x with twin := { x.twin with beatStaged := x.twin.beatStaged ++ [bytes] } }).count 113 bytes.length
    else x)))

/-- Is the understudy FIT now (R228, R229)? -/
def SideState.fitNow (s : SideState) : Bool :=
  s.isUnderstudy && s.get TW_ROLE.WARMTH == 3 && s.twin.report.getD 1 0 == 0x7FF && !s.is FC_STAT.MAJOR && !s.is FC_STAT.SAFE
    && !s.is TW_ROLE.FENCED && s.get TH_INT_STAT.STATE == 0

/-- A planned swap that waits ends with a takeover: refused, since a takeover is made (R244, R246). DESIGN CHOICE (log 126). -/
def SideState.dropSwap (s : SideState) : SideState :=
  if s.get TW_SWAP_STAT.RESULT = 1 then
    let s := ((s.set TW_SWAP_STAT.RESULT 3).set TW_SWAP_STAT.REASON 4).raise 0x8B
    { s with twin := { s.twin with swapPending := false, swapAt := none } }
  else s

/-- A resigning side at a boundary. A lead that a Grave reaction halts, that is in its safe state or has shut down leaves the role to a
peer that is FIT, and is fenced by itself where the peer is not (R3, R230, R325); a side in its safe state takes role NONE once it is
fenced, at a boundary (R227, R306). A swap that waits goes with the role. -/
def SideState.leaveAtBoundary (s : SideState) (peerFit : Bool) : SideState :=
  let ends := s.is FC_STAT.SAFE || s.stopped
  let s := if s.leads && (ends || s.twin.haltDue) && !(s.peerFit && peerFit) then s.fenceSelf else s
  if ends && s.is TW_ROLE.FENCED && !s.fault.halted && s.get TW_ROLE.ROLE != 0 then s.dropSwap.enterRole 0 else s

/-- TW_ROLE.FIT follows. -/
def SideState.showFit (s : SideState) : SideState := if s.isUnderstudy then s.setB TW_ROLE.FIT s.fitNow else s

/-- A takeover is decided for a boundary by an understudy that is FIT; one that is not stays understudy (R229, R233). One that is
decided for an earlier boundary stands. -/
def SideState.decideTakeover (s : SideState) (boundary cause : Nat) (again : Bool) : SideState :=
  let stands := match s.twin.takeoverDue with
    | some b => Nat.ble b boundary
    | none => false
  if !s.isUnderstudy then s
  else if s.fitNow && stands then s
  else if s.fitNow then { s with twin := { s.twin with takeoverDue := some boundary, takeoverCause := cause } }
  else if again then s
  else (s.raise 0x82).set TW_TAKE_STAT.CAUSE 4

/-- A record that ends a beat whose marker did not commit it: it only holds the beats apart. -/
def beatEnd : List Byte := [0x0F]

/-- The copy is discarded after 16 markers without commit (R234). -/
def SideState.discardCopy (s : SideState) : SideState :=
  let s := { s with twin := { s.twin with staging := [], beatStaged := [], committed := [] } }
  (((s.set TW_ROLE.WARMTH 0).evt 0x08 2).raise 0x84).showFit

/-- A present marker of the lead commits, or not; one of another BEATNO counts as COMPLETE 0 (R274). -/
def SideState.takeMarker (s : SideState) (w0 beat : Nat) : SideState :=
  let all := s.twin.staging ++ s.twin.beatStaged
  let s := if bitAt w0 4 && beat == s.beatNo then
      let s := { s with twin := { s.twin with committed := s.twin.committed ++ all ++ [beatEnd], staging := [], beatStaged := [] } }
      (((s.set TW_COPY_STAT.LAST_COMMIT beat).set TW_COPY_STAT.NOCOMMIT 0).count 114 1)
    else
      let s := { s with twin := { s.twin with staging := all ++ [beatEnd], beatStaged := [] } }
      let was := s.get TW_COPY_STAT.NOCOMMIT
      let s := (s.set TW_COPY_STAT.NOCOMMIT (min 16 (was + 1))).count 115 1
      if was = 15 then s.discardCopy else s
  let s := { s with twin := { s.twin with markerResign := bitAt w0 5, markerSwap := bitAt w0 6 } }
  if bitAt w0 5 then (s.set TW_HB_STAT.RESIGN_IN 1).decideTakeover (s.produced + 1) 2 false else s

/-- PEER_PULSE (R232): a pulse of `width` ns that starts `offset` ns from the side's own boundary. A present pulse shows that the
peer's line does not carry a resignation. -/
def execPeerPulse (sd : Side) (offset : Int) (width : Nat) (s : State) : Host.Outcome State Fault Refusal :=
  .next (s.side sd (fun x => x.live (fun x =>
    if width < 30 ∨ 60 < width then x
    else
      let x := x.set TW_HB_STAT.SKEW (unsignedOf (clampInt (-32768) 32767 offset) 16)
      if 100 < offset.natAbs then x
      else
        let x : SideState := { x.setB TW_HB_STAT.RESIGN_IN (x.is TW_HB_STAT.RESIGN_IN && x.twin.markerResign) with twin := { x.twin with
          pulseSeen := true } }
        if offset.natAbs ≤ 25 then { x with twin := { x.twin with pulseSkewAt := 0 } }
        else if x.twin.pulseSkewAt = 0 ∨ x.twin.pulseSkewAt + 100000 ≤ x.produced + 1 then
          ({ x with twin := { x.twin with pulseSkewAt := x.produced + 1 } }).raise 0x8C
        else x)))

/-- RESIGNATION_PULSE (R232, R233): the peer's line has been high for 200 ns. A lead whose peer resigns treats it as not FIT; an
understudy takes over at the next boundary, or one beat later once the beat has been judged at 9.9 µs. -/
def execResignationPulse (sd : Side) (s : State) : Host.Outcome State Fault Refusal :=
  .next (s.side sd (fun x => x.live (fun x =>
    let x := x.set TW_HB_STAT.RESIGN_IN 1
    if x.leads then (if x.peerFit then ((x.set TW_ROLE.PEER_FIT 0).evt 0x08 4).raise 0x87 else x)
    else x.decideTakeover (if x.win = .judged then x.produced + 2 else x.produced + 1) 2 false)))

/-- The judgement of a beat (R233). -/
def SideState.judgeBeat (s : SideState) : SideState :=
  let m := s.twin.markerSeen
  let p := s.twin.pulseSeen
  let was := s.get TW_HB_STAT.SILENT
  let n := if m || p then 0 else min 3 (was + 1)
  let s := ((s.setB TW_HB_STAT.MARKER_OK m).setB TW_HB_STAT.PULSE_OK p).set TW_HB_STAT.SILENT n
  let s := if m == p then s else (s.evt 0x08 1).raise (if m then 0x81 else 0x80)
  let s := { s with twin := { s.twin with
    markerSeen := false, pulseSeen := false
    staging := if m || !s.isUnderstudy || s.twin.beatStaged.isEmpty then s.twin.staging else s.twin.staging ++ s.twin.beatStaged ++ [beatEnd]
    beatStaged := [] } }
  if n < 3 then s
  else if s.leads then
    (if was = 3 then s else ((s.set TW_ROLE.PEER_FIT 0).evt 0x08 4).raise 0x87)
  else s.decideTakeover (s.produced + 1) 1 (was == 3)

/-- HEARTBEAT_JUDGE (R233): at 9.9 µs of the beat, on a side that leads or is understudy. -/
def execHeartbeatJudge (sd : Side) (s : State) : Host.Outcome State Fault Refusal :=
  .next (s.side sd (fun x => x.live (fun x =>
    if x.win == .judged then x
    else
      let x := { x with win := .judged, off := max x.off 9900 }
      if x.get TW_ROLE.ROLE == 0 then { x with twin := { x.twin with markerSeen := false, pulseSeen := false } } else x.judgeBeat)))

/-! ### Applying the copy (R234, R235) -/

/-- The ownership state of a code. -/
def ownOf (n : Nat) : Own :=
  (Tab.get? [(1, Own.loop), (2, .loopWait), (3, .tune), (4, .eoHold), (5, .scene), (6, .cal), (7, .man)] n).getD .none

/-- The tracking state of a code. -/
def cueStateOf (n : Nat) : CueState :=
  (Tab.get? [(1, CueState.checking), (2, .solving), (3, .tracing), (4, .ready), (5, .armed), (6, .settling), (7, .settled),
    (8, .rejected), (9, .unsolved), (10, .traceFail), (11, .aborted), (12, .missed), (13, .cancelled), (14, .rehearsed),
    (15, .kept)] n).getD .free

/-- A REG record: the masked fields take their value. The tone generators' registers are those of the generator that the
selector in the record before names; its control word commits them as the lead has judged them (R110, R247). -/
def SideState.applyReg (s : SideState) (key value mask : Nat) : SideState :=
  let merge (s : SideState) (k : Nat) : SideState :=
    s.set (wholeReg k) (Nat.lor (Nat.land (s.word k).toNat (0xFFFFFFFF - mask)) (Nat.land value mask))
  let s := s.countDiag (2 * Master.twinCopy.code) 1
  if 0x12044 ≤ key ∧ key ≤ 0x12050 then
    let g := s.get DO_TG_SEL.GEN
    let s := merge s (key + g * bankUnit)
    if key = 0x12044 then s.takeTone g else s
  else merge s key

/-- The working slot of a copied entry: a cue enters SOLVING with the record that follows its slot's header, and keeps the slot
until it fires or ends, a rehearsal beyond its end (R20). -/
def SideState.copiedEntrySlot (s : SideState) (e : Nat) (st : CueState) : Option Nat :=
  let old := s.trk e
  match st with
  | .solving => if old.state == .solving then old.slot else s.twin.slotSeen
  | .tracing => old.slot
  | .ready => old.slot
  | .armed => old.slot
  | .rehearsed => old.slot
  | _ => none

/-- The phase of a generator as the copy tells it (R110): that of the commit that waits here, or of the settings in force. -/
def SideState.applyPhase (s : SideState) (g : Nat) (data : List Byte) : SideState :=
  let w := leNat (slice data 8 4)
  let since := s.beatNo - (s.beatNo + 2 ^ 32 - leNat (slice data 0 4)) % 2 ^ 32
  let p : TonePhase := ⟨since, leNat (slice data 4 4), bits w 0 8, bits w 8 8⟩
  let waits (q : TonePending) : Bool := q.gen == g && q.phase.isNone
  if bitAt w 16 && s.drive.tonePending.any waits then
    { s with drive := { s.drive with
      tonePending := s.drive.tonePending.map (fun (q : TonePending) => if waits q then { q with phase := some p } else q) } }
  else
    { s with drive := { s.drive with
      tones := s.drive.tones.map (fun (q : Nat × ToneGen) => if q.1 = g then (g, q.2.withPhase p s.beatNo) else q) } }

/-- A MEM record, written by the copy engine where it may (R357); the header of a working slot is noted for the TRK record after it. -/
def SideState.applyMem (s : SideState) (addr : Nat) (data : List Byte) : SideState :=
  if tonePhaseBase ≤ addr ∧ addr < tonePhaseBase + 0x4000 then s.applyPhase ((addr - tonePhaseBase) / 16) data
  else
  let s := s.engineWrite .twinCopy addr data
  let n := (addr - 0x30100000) / 0x2000
  if addr = slotBase n ∧ 240 ≤ n ∧ n < 255 then { s with twin := { s.twin with slotSeen := some n } } else s

/-- A TRK record: SC_TRK_STAT and E of an entry. -/
def SideState.applyTrk (s : SideState) (e stat eff : Nat) : SideState :=
  let sid := stat / 0x10000
  let t : TrkEntry := { state := cueStateOf (stat % 16), reason := bits stat 4 4, bkResult := bits stat 8 8, sceneId := sid, eff := eff,
                        kind := if sid = 0xFFFF then .curtain else .change
                        slot := s.copiedEntrySlot e (cueStateOf (stat % 16)), order := s.pipe.orderCount + 1, ended := s.pipe.endCount + 1 }
  let s := { s with pipe := { s.pipe with orderCount := t.order, endCount := t.ended } }
  ({ s with pipe := { s.pipe with trk := Tab.put s.pipe.trk e t } }).showPipe

/-- A CONN record. One without a deadline for an entry that keeps its SEQ says that the lead's deadline has passed: the side's own
passes at its own boundary (R291). A new deadline clears EXPIRED. -/
def SideState.applyConn (s : SideState) (b : List Byte) : SideState :=
  let w0 := leNat (slice b 0 4)
  let i := bits w0 4 6
  let held := Tab.get? s.pipe.deadlines i
  let s := (s.agree (CQ_CONN_ID.ID.bank i).key).agree (CQ_CONN_CFG.EN.bank i).key
  let s := (s.set (CQ_CONN_ID.ID.bank i) (leNat (slice b 4 4))).set (wholeReg (CQ_CONN_CFG.EN.bank i).key) (leNat (slice b 8 4))
  let s := (s.set (CQ_CONN_SEQ.SEQ.bank i) (leNat (slice b 12 4))).set (CQ_CONN_STAT.HAS_SEQ.bank i) (bits w0 10 1)
  let d := leNat (slice b 16 8)
  if d = 0 then (if bitAt w0 10 then s else s.setDeadline i none)
  else if held = some d then s
  else (s.set (CQ_CONN_STAT.EXPIRED.bank i) 0).setDeadline i (some d)

/-- A MEM record that changes POL of a loop: its cell owes a TRIM once its handover has ended (R185). -/
def SideState.applyPol (old s : SideState) (addr : Nat) : SideState :=
  let l := (addr - LT.POL.addr 0) / 32
  let d := s.t LT.DO l
  if addr = LT.POL.addr l ∧ l < s.loopCount ∧ old.t LT.POL l ≠ s.t LT.POL l ∧ s.t DT.KIND d = 1 then
    { s with cal := { s.cal with polTrims := insertNat (s.t DT.ELEM d) s.cal.polTrims } }
  else s

/-- An HO record that ends a handover: its E_DO is on E_MID, and the lead has queued the TRIM that the cell owed (R185). -/
def SideState.applyHoEnd (s : SideState) (c ho : Nat) : SideState :=
  match s.eDo c with
  | some e =>
    if ho = 0 ∧ s.base e = s.t ET.E_MID c then { s with cal := { s.cal with polTrims := dropNat c s.cal.polTrims } } else s
  | none => s

/-- The transfers of the copy engine that a record takes beside those of a MEM or a REG record, which count their own (R365). DEDUCED
(log 19): one for each 8-byte word of the element tables that an OWN record with MODE, an EDGE, HO or LOOP record rewrites, and one for
each register of a TRK or CONN record; values and owners of drive outputs are no addressed memory (R350). -/
def recordTransfers (b : List Byte) : Nat :=
  match leNat (slice b 0 4) % 16 with
  | 0x3 => if bitAt (leNat (slice b 0 4)) 22 then 1 else 0
  | 0x4 => 2
  | 0x5 => 2
  | 0x6 => 2
  | 0x7 => 3
  | 0xA => 4
  | _ => 0

/-- One record, but for DO_STAGED, applied on the understudy. -/
def SideState.applyRecord (s : SideState) (b : List Byte) : SideState :=
  let w0 := leNat (slice b 0 4)
  let w1 := leNat (slice b 4 4)
  let c := bits w0 4 13
  let s := s.countDiag (2 * Master.twinCopy.code) (recordTransfers b)
  match w0 % 16 with
  | 0x1 => s.putBase (bits w0 4 14) (bits w0 18 14)
  | 0x3 =>
    let d := bits w0 4 14
    let o := ownOf (bits w0 18 4)
    let s := if o = .tune ∧ s.own d ≠ .tune then
        { s with loops := { s.loops with tuneBases := Tab.put s.loops.tuneBases d (s.base d) } } else s
    let s := { s with drive := { s.drive with own := Tab.put s.drive.own d o } }
    if bitAt w0 22 then s.tset DT.MODE d (bits w0 23 2) else s
  | 0x4 => (((s.tset ET.PHYS c (bits w0 17 2)).tset ET.MISS c (bits w0 19 2)).tset ET.E_EDGE c (bits w1 0 14)).tset ET.E_BEAT c (bits w1 16 16)
  | 0x5 =>
    let s := (((s.tset ET.HO c (bits w0 17 2)).tset ET.PAUSED c (bits w0 19 1)).tset ET.RAMP_STEP c (bits w1 0 14)).tset ET.PAUSE c (bits w1 16 16)
    s.applyHoEnd c (bits w0 17 2)
  | 0x6 => s.wrBytes (LT.LOWEST.addr c) (slice b 4 12)
  | 0x7 => s.applyTrk (bits w0 4 5) w1 (leNat (slice b 8 8))
  | 0x8 => s.applyPol (s.applyMem w1 (b.drop 8)) w1
  | 0x9 => s.applyReg (bits w0 4 8 * 0x1000 + bits w0 12 12) w1 (leNat (slice b 8 4))
  | 0xA => s.applyConn b
  | _ => s

/-- The values staged in a beat take effect at its end, after its other records; an off DO takes none (R88). -/
def SideState.applyStagedRecords (s : SideState) (l : List (List Byte)) : SideState :=
  l.foldl (fun (s : SideState) b =>
    let w0 := leNat (slice b 0 4)
    if s.mode (bits w0 4 14) = 0 then s else s.putBase (bits w0 4 14) (bits w0 18 14)) s

/-- The committed records of whole beats, in the order sent; `staged` holds the DO_STAGED records of the beat. -/
def SideState.applyAll : SideState → List (List Byte) → List (List Byte) → SideState
  | s, staged, [] => s.applyStagedRecords staged
  | s, staged, b :: t =>
    match leNat (slice b 0 4) % 16 with
    | 0x2 => s.applyAll (staged ++ [b]) t
    | 0xF => (s.applyStagedRecords staged).applyAll [] t
    | _ => (s.applyRecord b).applyAll staged t

/-- A policy record that has arrived with the copy comes into force on a side that holds another (R204). -/
def SideState.takeCopiedPolicy (s : SideState) (l : List (List Byte)) : SideState :=
  match l.find? (fun b => leNat (slice b 0 4) % 16 == 8 && slice b 8 4 == [0x43, 0x5A, 0x50, 0x4C] && Nat.ble 0x10000000 (leNat (slice b 4 4))
      && Nat.blt (leNat (slice b 4 4)) 0x10800000) with
  | none => s
  | some b =>
    let a := leNat (slice b 4 4)
    let p := s.rdBytes a (0x6C + 4 * min 512 (s.rd (a + 4) 2))
    if policyReject p = 0 then { s with watch := { s.watch with policyAt := a } }.takePolicy p else s

/-- The committed copy is applied at the boundary that follows its commit (R234). -/
def SideState.applyCopy (s : SideState) : SideState :=
  if s.twin.committed.isEmpty then s
  else
    let l := s.twin.committed
    (({ s with twin := { s.twin with committed := [] } }).applyAll [] l).takeCopiedPolicy l

end Sys2Proof.Machine
end

