-- ==== Sys2Proof/Machine/Takeover.lean ====
section
/-! DEFINITION. The takeover (R34, R175, R237 to R239, R151): what the new lead makes of its committed copy, the fence, and
how the old lead steps down. -/

namespace Sys2Proof.Machine

/-! ### The new lead's cues (R34, R175) -/

/-- Can a working slot hold the scene of an armed cue? -/
def SideState.slotFits (s : SideState) (sceneId n : Nat) : Bool :=
  s.hasFlag n flagVALID && s.hasFlag n flagSOLVED && !s.hasFlag n flagACTIVE && s.slotId n == sceneId

/-- Does the committed edge table stand as arming the scene of a slot leaves it: PHYS of every cell it lights is its setting? -/
def SideState.slotArmed (s : SideState) (n : Nat) : Bool :=
  (List.range s.cells).all (fun c => !isLit (s.slotCell n c) || (s.eDo c).isNone || s.t ET.PHYS c == s.slotCell n c)

/-- The working slot of an armed cue in the copy: the one the copy has shown with its entry, or, for an entry that came with a
bulk copy, the one that no other entry holds and the committed edge table was armed for. -/
def SideState.copiedSlot (s : SideState) (t : TrkEntry) : Option Nat :=
  if t.sceneId = 0xFFFF then some 255
  else
    match t.slot.filter (s.slotFits t.sceneId) with
    | some n => some n
    | none => ((List.range 15).map (fun i => 240 + i)).find? (fun n =>
        s.slotFits t.sceneId n && s.slotArmed n && !s.tracks.any (fun p => p.2.slot == some n))

/-- The cells of an armed cue: those its scene changes, with the edge values of the committed edge table. -/
def SideState.copiedCells (s : SideState) (v : SceneView) (eff : Nat) : List CellPlan :=
  let f := s.fabric
  (List.range s.cells).filterMap (fun c =>
    let b := v.cell c
    if b = s.activeCell c then none
    else some {
      cell := c, setting := b
      edge := if isLit b && (s.eDo c).isSome && s.t ET.E_BEAT c == eff % 65536 && s.t ET.PHYS c == b then some (s.t ET.E_EDGE c) else none
      clamped := false, dev := 0
      pol := if isLit b then s.polFor f v c else none
      saved := s.rdBytes (ET.PHYS.addr c) 12, ramp := none })

/-- The outputs of an armed cue; the level of one that the old lead had blanked already is not in the copy. -/
def SideState.copiedOuts (s : SideState) (v : SceneView) (cells : List CellPlan) (curtain dark : Bool) : List OutPlan :=
  (s.stagedOuts v cells curtain dark).map (fun (o : OutPlan) =>
    match s.attOf o.out with
    | some d => { o with wasLit := o.wasLit && s.own d != .scene }
    | none => o)

/-- An ARMED entry of the copy is staged again. -/
def SideState.restage (s : SideState) (e : Nat) : SideState :=
  let t := s.trk e
  match s.copiedSlot t with
  | none => s.closeCue e .cancelled 3
  | some n =>
    let dark := n == 255 && !s.is SW_STAT.CURTAIN_TRACED
    let v := if dark then s.emptyView else s.slotView n
    let cells := s.copiedCells v t.eff
    let g : Staged := ⟨some e, t.eff, n, dark, cells, s.copiedOuts v cells (n == 255) dark⟩
    let s := s.setTrk e { t with slot := if n = 255 then none else some n }
    { s with
      scene := { s.scene with staged := s.scene.staged ++ [g] }
      watch := { s.watch with
        curtainAt := if n = 255 then some t.eff else s.watch.curtainAt
        curtainArmed := s.watch.curtainArmed || n == 255
        curtainDigest := if n = 255 then digestOf (s.slotConns 255) else s.watch.curtainDigest
        digests := if n = 255 then s.watch.digests else Tab.put s.watch.digests t.eff (digestOf (s.slotConns n)) } }

/-- The slot that carries ACTIVE in the copy. -/
def SideState.takeActive (s : SideState) : SideState :=
  let n := (((List.range 16).map (fun i => 240 + i)).find? (fun n => s.hasFlag n flagACTIVE)).getD 255
  let s := (s.set SC_ACTIVE.SLOT n).setB SC_ACTIVE.CURTAIN (n == 255)
  let s := s.set SC_ACTIVE.SCENE_ID (if n = 255 then 0xFFFF else s.slotId n)
  let s := { s with scene := { s.scene with emptyActive := n == 255 && !s.is SW_STAT.CURTAIN_TRACED } }
  { s with watch := { s.watch with digests := [], currentDigest := digestOf s.activeConns } }

/-- Outputs that the old lead had darkened after a second miss (R174): connected, their attenuator at DARK with the scene
controller, and a cell on their path missed twice. -/
def SideState.takeMisses (s : SideState) : SideState :=
  let f := s.fabric
  let v := s.activeView
  let dark (q : Nat) : Bool :=
    match s.attOf q with
    | some d => s.own d == .scene && s.base d == s.t PT.DARK (s.ports + q) && (f.pathTo v q).any (fun h => s.t ET.MISS h.cell == 2)
    | none => false
  { s with scene := { s.scene with missDark := (v.conns.map (fun k => k.output)).filter dark } }

/-- The cues of the copy, by their state. -/
def SideState.takeCues (s : SideState) : SideState :=
  let s := s.takeActive.takeMisses
  let l := s.tracks
  let s := l.foldl (fun (s : SideState) p => if p.2.state.inFlight then s.closeCue p.1 .cancelled 3 else s) s
  l.foldl (fun (s : SideState) p => if p.2.state == .armed then s.restage p.1 else s) s

/-! ### Handovers and ownership (R151, R171, R239) -/

/-- Boundaries since an effective beat whose low 16 bits are known. -/
def SideState.since (s : SideState) (beat16 : Nat) : Nat := (s.beatNo % 65536 + 65536 - beat16 % 65536) % 65536

/-- The boundaries since the latest edge of a cue in SETTLING. -/
def SideState.lastSettling (s : SideState) : Option Nat :=
  (s.tracks.filter (fun p => p.2.state == .settling)).foldl (fun (best : Option Nat) p =>
    let n := s.beatNo - p.2.eff
    some (min n (best.getD n))) none

/-- Of a cell that the copy shows as missed, the boundaries since the edge of its cue in SETTLING: the latest before its re-fire. -/
def SideState.refireCue (s : SideState) (c : Nat) : Option Nat :=
  if s.t ET.MISS c = 0 then none
  else
    ((s.tracks.filter (fun p => p.2.state == .settling)).map (fun p => s.beatNo - p.2.eff)).foldl (fun (best : Option Nat) n =>
      if s.since (s.t ET.E_BEAT c) < n then some (min n (best.getD n)) else best) none

/-- The handover of a cell as the committed edge table shows it; its residual counts for nothing (R189). One that has been re-fired
runs from the boundary of its re-fire (R173). -/
def SideState.copiedHandover (s : SideState) (c : Nat) : Option Handover :=
  let n := s.since (s.t ET.E_BEAT c)
  let cue (ago : Nat) : Handover :=
    { cell := c, ref := s.produced - ago, edge := some (s.produced - ago), retry := false, up := false, tainted := true }
  let retry : Handover :=
    { cell := c, ref := s.produced - s.holdoff, edge := none, retry := true, up := false, tainted := true }
  let mine := s.tracks.any (fun p => p.2.state == .settling && p.2.eff % 65536 == s.t ET.E_BEAT c)
  if s.t ET.HO c = 3 ∨ !s.cellLit c ∨ s.eDo c = none then none
  else if let some l := s.refireCue c then
    if s.inHandover c || Nat.ble n s.holdoff then some { cue l with ref := s.produced - n } else none
  else if s.inHandover c then
    (match mine, s.lastSettling with
     | true, _ => some (cue n)
     | false, some l => some (cue l)
     | false, none => some retry)
  else
    match mine, s.lastSettling with
    | true, _ => if n ≤ s.holdoff then some (cue n) else none
    | false, some l =>
      let waits := match s.tDo c with
        | some t => s.own t == .loopWait && !s.tis LT.ACT ((s.loopOf t).getD 0)
        | none => false
      if l ≤ s.holdoff && waits then some (cue l) else none
    | false, none => none

/-- A re-fire that the old lead had staged takes effect at the takeover boundary: its value has come with the copy, and its DO are the
scene controller's (R173). -/
def SideState.takeRefire (s : SideState) (c : Nat) : SideState :=
  if s.t ET.MISS c ≠ 0 ∧ s.t ET.HO c = 0 then (s.sceneHolds c none).loopWaits c else s

/-- A handover that had stalled in the beat before goes to electro-optic hold at the takeover boundary (R172): its E_DO is still with the
scene controller and its T_DO with the loop. -/
def SideState.takeStall (s : SideState) (c : Nat) : SideState :=
  match s.eDo c, s.cellLoop c with
  | some e, some l =>
    if s.t ET.HO c = 3 ∧ s.t ET.MISS c ≠ 2 ∧ s.own e = .scene ∧ s.own (s.t LT.DO l) = .loop ∧ s.loopCan l then s.toEoHold c else s
  | _, _ => s

/-- The handovers and the cues in SETTLING of the copy. -/
def SideState.takeHandovers (s : SideState) : SideState :=
  let l := (List.range s.cells).filterMap s.copiedHandover
  let settling := (s.tracks.filter (fun p => p.2.state == .settling)).map (fun p =>
    let mine := (List.range s.cells).filter (fun c => s.t ET.E_BEAT c == p.2.eff % 65536 && s.cellLit c)
    let missed := (List.range s.cells).filter (fun c => s.refireCue c == some (s.beatNo - p.2.eff) && s.cellLit c)
    let all := (l.filter (fun h => h.edge == some (s.produced - (s.beatNo - p.2.eff)))).foldl (fun a h => insertNat h.cell a) (missed.foldl (fun a c => insertNat c a) mine)
    (⟨p.1, s.produced - (s.beatNo - p.2.eff), all, mine⟩ : Settling))
  let at' := settling.foldl (fun (a : List (Nat × Nat)) g => g.cells.foldl (fun a c => Tab.put a c g.edge) a) s.scene.edgeAt
  let s := { s with scene := { s.scene with handovers := l, settling := settling, edgeAt := at' } }
  let s := (l.map (fun h => h.cell)).foldl SideState.takeRefire s
  (List.range s.cells).foldl SideState.takeStall s

/-- Ownership of one DO on the new lead (R151). A tuning run of the old lead ends ABORTED, with the BASE from before it (R156). -/
def SideState.takeOwner (s : SideState) (d : Nat) (o : Own) : SideState :=
  match o with
  | .loop => s.waitSample d
  | .tune =>
    let b := Tab.getD s.loops.tuneBases d (s.base d)
    let s := (s.waitSample d).writeBase d b
    let s := (s.set HL_AT_STAT.LOOP ((s.loopOf d).getD 0)).set HL_AT_STAT.RESULT 3
    (s.set HL_AT_STAT.REASON 7).evt 0x17 1
  | .cal => if s.t DT.KIND d = 2 then s.toOwn d .scene else s.waitSample d
  | .loopWait =>
    let held := match s.loopOf d with
      | some l => s.tis LT.ACT l
      | none => true
    let stays := match s.doCell d with
      | some c => s.scene.handovers.any (fun h => h.cell == c) || !s.cellLit c || s.t ET.HO c == 3
      | none => false
    if held || stays then s else s.waitSample d
  | _ => s

/-- Ownership on the new lead. -/
def SideState.takeOwners (s : SideState) : SideState :=
  let s := s.drive.own.foldl (fun (s : SideState) p => s.takeOwner p.1 p.2) s
  { s with loops := { s.loops with openWaits := s.loops.awaitSample } }

/-! ### The new lead -/

/-- The sequence, the measurement and the queues of a side end with its role, and their status shows it (R94, R113 to R116). DESIGN
CHOICE (log 123): a change of mode that a takeover or the loss of the role cuts off ends with RESULT idle, the DO keeping its mode
and its owner. -/
def SideState.dropDrive (s : SideState) : SideState :=
  let s := s.drive.fifo.foldl (fun (s : SideState) p => s.set (DG_STAT.FIFO_LVL.inDriveGroup p.1) 0) s
  let s := if s.drive.range.isSome then s.set DO_RANGE_STAT.RESULT 0 else s
  if s.drive.rmeas.isSome then s.set DO_RMEAS.BUSY 0 else s

/-- What the new lead starts with beside its copy: no queues, no timers, no samples, no runs (R94, R183, R236, R239). The changes of POL
that its copy has seen stand. -/
def SideState.freshLead (s : SideState) : SideState :=
  let s := s.dropDrive
  { s with
    drive := { s.drive with timers := [], fifo := [], staged := [], overrides := [], range := none, rmeas := none, hsupRead := [] }
    mon := { s.mon with last := s.mon.last.map (fun p => (p.1, noSample p.2)), readable := [], filling := [] }
    loops := { s.loops with tunes := [], toLoopAt := [], awaitSample := [], deferred := [], lastEval := [], fresh := [], openSince := some s.produced }
    scene := { s.scene with
      staged := [], blanked := [], handovers := [], settling := [], refires := [], rampStaged := [], retries := [], residuals := []
      darkReleases := [], darkStaged := [], stallPending := [], missDark := [], edgesNow := [] }
    pipe := { s.pipe with assemblies := [], waiting := [], solving := none }
    cal := { s.cal with
      queue := [], runs := [], results := [], releases := [], round := none, trimRound := none, rampStart := []
      darkRuns := [] }
    watch := { s.watch with
      misses := [], declared := [], series := [], seriesLast := [], invalid := [], curtainAt := none, curtainArmed := false
      curtainHeld := false
      degPending := 0, policyPending := none }
    twin := { s.twin with
      takeoverDue := none, staging := [], beatStaged := [], committed := [], records := [], recordBytes := 0, late := [], flitLost := false
      lostRecords := [], slotSeen := none, bulkAgain := []
      markerResign := false, swapPending := false, swapAt := none, fencePending := true, reportSlots := 0, report := [] } }

/-- The causes of degraded mode that lie in the side's own keys, as DEG_CAUSE bits: the last self-test of a key failed, or the cue
checker's heartbeat has been missing for 3 beats (R206, R220, R221). -/
def SideState.keysFailing (s : SideState) : Nat :=
  let failed (item : Nat) : Bool := s.twin.stDone.contains item && !s.twin.stPassed.contains item
  (if failed 0 then 1 else 0) + (if Nat.ble 3 s.watch.keyMisses then 2 else 0) + (if failed 1 then 4 else 0)

/-- A new lead starts out of degraded mode unless its own keys fail (R220). -/
def SideState.freshDegraded (s : SideState) : SideState :=
  let s := ((s.set SW_STAT.DEGRADED 0).set SW_STAT.DEG_CAUSE 0).set SW_DEG_LEFT.LEFT 0
  let cause := s.keysFailing
  let s := { s with watch := { s.watch with degDeadline := none, degPending := Nat.lor s.watch.degPending cause } }
  s.degradedAtBoundary (Nat.land s.watch.degPending cause)

/-- The understudy becomes lead at the takeover boundary, from its committed copy (R34, R239). -/
def SideState.takeLead (s : SideState) (cause : Nat) : SideState :=
  let s := (if s.rigged && !s.cal.surveyed.isEmpty then s.surveysDone else s).freshLead.showCal.restoreAges
  let s := ((s.set TW_TAKE_STAT.BEAT s.beatNo).set TW_TAKE_STAT.CAUSE cause).enterRole 1
  let s := ((s.set CK_STAT.SERVICE 1).set CK_STAT.STAGE 6).set TW_ROLE.PEER_FIT 0
  let s := (s.set DO_STAT.STAGE_EN 1).set DO_STAT.TIMED_LOST 1
  let s := (s.evt 0x10 4).set HL_STAT.OPEN 1
  let s := s.set TW_BULK.STATE 0
  (((((s.takeCues.takeHandovers.takeOwners).voidBlock).surveyTrigger).showHandovers).freshDegraded).sceneBoundary

/-- A step of the update is shown and logged (R245, R378). -/
def SideState.showStep (s : SideState) (step reason : Nat) : SideState :=
  let s := ((s.set TW_UPD_STAT.STEP step).set TW_UPD_STAT.REASON reason).evt 0x08 6
  s.log 2 0x02 s.sideRole 0 (leBytes 1 step ++ leBytes 1 reason)

/-- The update ends FAILED (R245). -/
def SideState.failUpdate (s : SideState) (reason : Nat) : SideState :=
  ({ s with twin := { s.twin with update := none } }.showStep 15 reason).raise 0x8B

/-- The booted slot has failed its trial: the boot ROM takes the other one at the next start (R245, R382). -/
def SideState.markFailed (s : SideState) : SideState :=
  if s.directory.trial then s.writeDirectory { s.directory with failed := true } else s

/-- A takeover ends the old lead's update: in TRIAL its image has failed, in any other step the update has lost its lead. Its own slot,
if it is on trial, has failed with it (R382). -/
def SideState.loseUpdate (s : SideState) : SideState :=
  match s.twin.update with
  | none => s
  | some u => (s.failUpdate (if u.step = 5 then 4 else 2)).markFailed

/-- The other side of an update that is lost: its slot on trial has failed too, and it restarts from its previous slot unless it leads or
can take over (R245, R382). -/
def SideState.lostPeer (s : SideState) : SideState :=
  if !s.alive || !s.directory.trial then s
  else
    let s := s.markFailed
    if s.leads || s.fitNow || s.fault.halted then s else s.restart 3

/-- The update that a side of `old` carried has been lost on the way to this state. -/
def State.lost (s old : State) (sd : Side) : State :=
  if (old.on sd).twin.update.isSome && (s.on sd).twin.update.isNone then s.side sd.peer SideState.lostPeer else s

/-- The old lead leaves the role at the takeover boundary: at most one side leads (R3). A side in its safe state, in
shutdown, or that a Grave reaction halts, takes role NONE. -/
def SideState.yieldRole (s : SideState) : SideState :=
  if !s.leads then s else s.loseUpdate.dropSwap.enterRole (if s.is FC_STAT.SAFE || s.twin.haltDue || s.is TH_STAT.SHUTDOWN then 0 else 2)

/-- An understudy that is no more FIT at the boundary of its takeover stays understudy (R229). -/
def SideState.refuseTakeover (s : SideState) : SideState :=
  (({ s with twin := { s.twin with takeoverDue := none } }).raise 0x82).set TW_TAKE_STAT.CAUSE 4

/-- TAKEOVER (R237, R239): at the boundary for which the understudy decided it. Only a FIT understudy takes over (R229); where it is
not, its peer leaves the role by itself (R230). -/
def execTakeover (sd : Side) (s : State) : Host.Outcome State Fault Refusal :=
  let x := s.on sd
  let due := match x.twin.takeoverDue with
    | some b => Nat.ble b x.produced
    | none => false
  if !x.alive || !x.isUnderstudy || x.win != .edge || !due then .next s
  else if !x.fitNow then
    .next ((s.side sd (fun x => x.refuseTakeover)).side sd.peer (fun y => y.live (fun y => y.leaveAtBoundary false)))
  else
    let old := s
    let s := s.side sd.peer (fun (y : SideState) => { y.yieldRole with twin := { y.yieldRole.twin with wasLead := y.leads || y.twin.wasLead } })
    let s := s.side sd (fun x =>
      let x := (x.takeLead x.twin.takeoverCause).bump TW_CNT.TAKEOVER 1
      let x := { x with twin := { x.twin with fenceRequest := true } }
      ((x.count 117 1).evt 0x08 0).raise 0x83)
    .next (s.lost old sd.peer)

/-! ### The fence (R237, R238) -/

/-- The old lead's engines stop with its role: it goes on from the copy that the new lead streams. -/
def SideState.stepDown (s : SideState) : SideState :=
  let s := (s.dropPolicy.dropDrive.abortTunes 7).yieldRuns
  let s := if s.get CQ_MBX_STAT.RESULT = 1 then s.mailboxDone 3 0 0x16 else s
  { (((((s.set SW_DECL.COUNT 0).set SW_STAT.CURTAIN_PEND 0).set SW_STAT.DEGRADED 0).set SW_STAT.DEG_CAUSE 0).set SW_DEG_LEFT.LEFT 0).set TW_BULK.STATE 0 with
    drive := { s.drive with timers := [], fifo := [], staged := [], overrides := [], range := none, rmeas := none }
    loops := { s.loops with tunes := [], toLoopAt := [], awaitSample := [], deferred := [], openSince := none }
    scene := { s.scene with
      staged := [], blanked := [], handovers := [], settling := [], refires := [], rampStaged := [], retries := []
      darkReleases := [], darkStaged := [], stallPending := [] }
    pipe := { s.pipe with assemblies := [], waiting := [], solving := none }
    net := { s.net with cueInbox := [], imageInbox := [] }
    therm := { s.therm with channels := s.therm.channels.filter (fun p => Nat.blt p.1 32 || Nat.ble 64 p.1) }
    cal := { s.cal with results := [], releases := [], darkRuns := [] }
    watch := { s.watch with
      misses := [], declared := [], series := [], curtainAt := none, curtainArmed := false, curtainHeld := false
      degPending := 0, degDeadline := none }
    twin := { s.twin with
      records := [], recordBytes := 0, late := [], bulkAgain := [], fenceRequest := false, swapPending := false, swapAt := none, wasLead := false, report := [] } }

/-- The new lead's voltage-mode stages, bias and front ends are on. -/
def SideState.fenceDone (s : SideState) (t10ns : Nat) : SideState :=
  let s := { s with twin := { s.twin with fencePending := false } }
  (((s.set TW_TAKE_STAT.FENCE_T (min 255 t10ns)).set TW_ROLE.PEER_FENCED 1).connectFrontEnds).runConverters true

/-- FENCE_SENSED (R237): the rail of the other side is below its threshold. A side whose trial has failed restarts (R245). In a planned swap the other side has disabled its
stage itself and is not fenced (R244). -/
def execFenceSensed (sd : Side) (t10ns : Nat) (s : State) : Host.Outcome State Fault Refusal :=
  let x := s.on sd
  if !x.alive || !x.leads || !x.twin.fencePending then .next s
  else
    let swap := x.get TW_TAKE_STAT.CAUSE == 3
    let s := s.side sd.peer (fun (y : SideState) =>
      if swap then y
      else
        let y := if y.twin.wasLead then y.stepDown else y
        let y := (y.fenceSelf).set TW_ROLE.WARMTH 0
        if y.alive && y.directory.trial && y.directory.failed then y.restart 3 else y)
    .next (s.side sd (fun x => if swap then (x.fenceDone t10ns).set TW_ROLE.PEER_FENCED 0 else x.fenceDone t10ns))

/-- FENCE_TIMEOUT (R238): the fence is not complete by 2.0 µs after T; the other side still holds the pads and its role, and
this side gives the role back at the next boundary. -/
def execFenceTimeout (sd : Side) (s : State) : Host.Outcome State Fault Refusal :=
  let x := s.on sd
  if !x.alive || !x.leads || !x.twin.fencePending || x.get TW_TAKE_STAT.CAUSE == 3 then .next s
  else
    .next (s.side sd (fun x =>
      let x := { x with twin := { x.twin with fencePending := false, fenceRequest := false, abandonDue := true } }
      let x := ((x.set DO_STAT.STAGE_EN 0).set TW_TAKE_STAT.CAUSE 5).evt 0x08 7
      x.raise 0x86))

/-- At the boundary after an abandoned takeover the side is understudy again, and takes over again while its peer stays silent;
the peer has its role back. -/
def State.abandon (s : State) (sd : Side) : State :=
  if !(s.on sd).twin.abandonDue then s
  else
    let y := s.on sd.peer
    let s := if y.twin.wasLead && y.isUnderstudy && !y.is FC_STAT.SAFE then
        s.side sd.peer (fun y => y.live (fun y => { (y.enterRole 1) with twin := { (y.enterRole 1).twin with wasLead := false } }))
      else s
    let x := ((s.on sd).enterRole (if (s.on sd).is FC_STAT.SAFE then 0 else 2)).set TW_ROLE.WARMTH 3
    let x := { x with twin := { x.twin with
      abandonDue := false
      report := [0, 0x7FF]
      takeoverDue := none } }
    let x := if x.get TW_HB_STAT.SILENT = 3 then x.decideTakeover x.produced 1 true else x
    s.put sd (x.showFit)

/-! ### Power failure, pin reset and analogue trip of a side (R326, R392, R399) -/

/-- POWER_FAIL (R392): VIN falls through 8.3 V; the side resigns and takes role NONE. A lead with a FIT peer is fenced by its takeover, its
rails kept until then, and any other side at once (R230). DESIGN CHOICE (log 134): the rails that are kept stand up to the third
boundary of the peer, the first at least 20 µs later. -/
def execPowerFail (sd : Side) (s : State) : Host.Outcome State Fault Refusal :=
  let t := s.side sd (fun x =>
    if !x.power.powered then x
    else
      let keeps := x.alive && x.leads && x.peerFit
      let x := if x.alive then x.loseUpdate.resign else x
      let x := if keeps then x else x.fenceSelf
      let x := x.leaveRole
      { x with
        power := { x.power with powered := false, holdUp := if keeps then 3 else 0 }
        twin := { x.twin with fenceRequest := false, graveLatch := false, wasLead := keeps } })
  .next (t.lost s sd)

/-- PIN_RESET (R398, R399): RESET_N low for 1 µs; a lead first resigns and takes role NONE. A side after a Grave halt, or held
in reset by its power die, stays as it is. -/
def execPinReset (sd : Side) (s : State) : Host.Outcome State Fault Refusal :=
  let resigned (x : SideState) : SideState := if x.leads then x.loseUpdate.resign.leaveRole else x
  let t := (s.side sd (fun x => x.live resigned)).lost s sd
  .next (t.side sd (fun x => x.live (fun x => if x.fault.halted then x else x.restart 2)))

/-- ANALOGUE_TRIP (R326): the power die fences the side at once, without a log entry, and holds its controller die in reset. -/
def execAnalogueTrip (sd : Side) (s : State) : Host.Outcome State Fault Refusal :=
  let runs := (s.on sd).get TH_INT_STAT.STATE == 0
  if !(s.on sd).alive then .next s
  else
    let t := (s.side sd (fun x =>
      let x := x.loseUpdate
      let log := x.fault.log
      let seq := x.fault.logSeq
      let x := ((x.raise 0x2A).resign).fenceSelf.leaveRole
      let x := { x with fault := { x.fault with log := log, logSeq := seq } }
      { x.set NV_LOG_STAT.BUF log.length with power := { x.power with tripped := true } })).side sd.peer (fun y =>
      y.live (fun y => y.peerWake runs))
    .next (t.lost s sd)

end Sys2Proof.Machine
end

