-- ==== Sys2Proof/Machine/Health.lean ====
section
/-! DEFINITION. Health reports, the self-test, the bulk copy, fences and the planned swap's request (R240 to R244). -/

namespace Sys2Proof.Machine

/-! ### Health (R241, R242) -/

/-- The items of R241. -/
def selfTestItems : Nat := 11

/-- The items whose last cycle passed, as bits. -/
def SideState.selfTestBits (s : SideState) : Nat := s.twin.stPassed.foldl (fun a i => a + 2 ^ i) 0

/-- An understudy in TESTING becomes WARM once every item has passed a cycle (R243). -/
def SideState.warmUp (s : SideState) : SideState :=
  if s.isUnderstudy && s.get TW_ROLE.WARMTH == 2 && (List.range selfTestItems).all (fun i => s.twin.stPassed.contains i) then
    s.set TW_ROLE.WARMTH 3
  else s

/-- The health report of an understudy, at BEATNO mod 100 = 50: four words. -/
def SideState.makeReport (s : SideState) : SideState :=
  if !s.isUnderstudy || s.beatNo % 100 != 50 then s
  else
    let s := { s with twin := { s.twin with report := [0, s.selfTestBits] } }
    let s := s.showFit
    let w0 := s.get TW_ROLE.WARMTH + s.get TW_ROLE.FIT * 4 + s.get TW_ROLE.FENCED * 8 + s.get TW_COPY_STAT.COPY_VER * 0x100
      + s.get NV_STAT.FW_VER * 0x10000
    let tmax := unsignedOf (divTrunc (signed (s.get TH_STAT.TMAX) 16) 8) 16
    let w2 := s.get TW_COPY_STAT.LAST_COMMIT + tmax * 0x10000
    let w3 := s.get CK_VIN.VIN + min 65535 s.twin.minorCount * 0x10000
    { s with twin := { s.twin with report := [w0, s.selfTestBits, w2, w3], minorCount := 0 } }

/-- The lead counts a report slot at BEATNO mod 100 = 50; three slots without a report make the peer not FIT. -/
def SideState.countSlot (s : SideState) : SideState :=
  if !s.leads || s.beatNo % 100 != 50 then s
  else
    let n := s.twin.reportSlots
    let s := { s with twin := { s.twin with reportSlots := n + 1 } }
    if n = 3 then ((s.set TW_ROLE.PEER_FIT 0).evt 0x08 4).raise 0x87 else s

/-- HEALTH_REPORT (R230, R242, R395). -/
def execHealthReport (sd : Side) (w0 w1 w2 w3 : Word) (s : State) : Host.Outcome State Fault Refusal :=
  .next (s.side sd (fun x => x.live (fun x =>
    if !x.leads then x
    else
      let x := (x.set (wholeReg 0x08070) w0.toNat).set (wholeReg 0x08074) w1.toNat
      let x := (x.set (wholeReg 0x08078) w2.toNat).set (wholeReg 0x0807C) w3.toNat
      let x := { x with twin := { x.twin with reportSlots := 0 } }
      let fit := bitAt w0.toNat 2
      let was := x.peerFit
      let x := x.setB TW_ROLE.PEER_FIT fit
      let x := if !fit then (x.evt 0x08 4).raise 0x87
        else
          let x := if was then x else x.evt 0x08 3
          if x.twin.resignWait then
            { x.set FC_STAT.RESIGN_PEND 0 with twin := { x.twin with
              resignWait := false, resignFrom := some (if x.off ≤ 9500 then x.produced else x.produced + 1) } }
          else x
      if Nat.ble 2 (w0.toNat % 4) then { x with twin := { x.twin with fenceRequest := false } } else x)))

/-- Does an item pass: what the test found, and what the side's own state shows of it (R241)? -/
def SideState.itemPasses (s : SideState) (item : Nat) (found : Bool) : Bool :=
  found && (match item with
    | 2 => (List.range 96).all (fun g => !s.is (MG_STAT.ZERO_ERR.inMonGroup g) && !s.is (MG_STAT.REF_ERR.inMonGroup g))
    | 6 => s.eccHard.isEmpty
    | 7 => (s.record RecordKind.rigMap.area).isSome && s.slotStored
    | 8 => (s.is NT_STAT.LOCKED || s.is NT_STAT.HOLDOVER) && s.is NT_STAT.REFCLK_OK
        && Nat.ble (signed (s.get TW_HB_STAT.SKEW) 16).natAbs 25
    | 9 => s.is CK_STAT.RAILS_OK && !s.is CK_VIN.HIGH
    | 10 => s.get TH_FAIL0.SENSOR == 0 && !s.is TH_STAT.WARN
    | _ => true)

/-- The scrub of item MEM, in every role: every correctable word of the element-table memory is put right, and every uncorrectable one
is reported (R422). -/
def SideState.scrub (s : SideState) : SideState := (({ s with eccSoft := [] }).owe s.eccHard).count 124 s.eccSoft.length

/-- SELF_TEST_CYCLE (R241): an item of CONV to THERMAL completes its cycle; MEM scrubs. K1 and K2 come with their own tests (R206,
R221). -/
def execSelfTestCycle (sd : Side) (item : Nat) (pass : Bool) (s : State) : Host.Outcome State Fault Refusal :=
  .next (s.side sd (fun x => x.live (fun x =>
    let x := if item = 6 then x.scrub else x
    if item < 2 ∨ selfTestItems ≤ item ∨ x.get TW_ROLE.ROLE = 0 then x
    else
      ((x.selfItem item (x.itemPasses item pass)).warmUp).showFit)))

/-! ### Fences (R242) -/

/-- May the side clear its own fence: an understudy in TESTING or WARM? -/
def SideState.mayUnfence (s : SideState) : Bool := s.isUnderstudy && Nat.ble 2 (s.get TW_ROLE.WARMTH) && s.is TW_ROLE.FENCED

/-- A clear of the fence is accepted; the power die releases it at a boundary without the peer's request. -/
def SideState.unfence (s : SideState) : SideState := { s with twin := { s.twin with unfencePending := true } }

/-- A pending clear at a boundary: of an understudy's fence, or of a lead whose stage its peer's request had put off (R242, R395). -/
def SideState.unfenceAtBoundary (s : SideState) (peerRequest : Bool) : SideState :=
  if s.twin.unfencePending && !peerRequest && (s.isUnderstudy || s.leads) then
    let s := { s.set TW_ROLE.FENCED 0 with twin := { s.twin with unfencePending := false } }
    if s.leads then (s.set DO_STAT.STAGE_EN 1).connectFrontEnds else s.showFit
  else s

/-- A completed pair on TW_FENCE (R242): the lead fences its peer, an understudy clears its own fence. -/
def State.fenceWrite (s : State) (sd : Side) (m : Master) (w : PairWrite) : State :=
  let x := s.on sd
  if !x.alive then s
  else
    match x.pairWrite 0x08054 m w with
    | (x, none) => s.put sd x.interrupt
    | (x, some v) =>
      let x := x.takePair 0x08054 v
      let peer := bitAt v.toNat 0 && x.leads
      let x := if peer then { x.set TW_ROLE.PEER_FENCED 1 with twin := { x.twin with fenceRequest := true } } else x
      let x := if bitAt v.toNat 1 && x.mayUnfence then x.unfence else x
      let s := s.put sd x.interrupt
      if peer then s.side sd.peer (fun y => y.fenceSelf.showFit) else s

/-- FENCE_PEER (R242). -/
def execFencePeer (sd : Side) (m : Master) (w : PairWrite) (s : State) : Host.Outcome State Fault Refusal := .next (s.fenceWrite sd m w)

/-- UNFENCE_SELF (R242). -/
def execUnfenceSelf (sd : Side) (m : Master) (w : PairWrite) (s : State) : Host.Outcome State Fault Refusal := .next (s.fenceWrite sd m w)

/-! ### The bulk copy (R243) -/

/-- What the lead sends at the start of a bulk copy beside the element-table memory: the copied registers with the generators,
the connection table, the tracking entries and the policy record. -/
def SideState.emitBulkHead (s : SideState) : SideState :=
  let s := copiedRegs.foldl (fun (s : SideState) p => s.emit (recReg p.1 (Nat.land (s.word p.1).toNat p.2) p.2)) s
  let s := s.drive.tones.foldl (fun (s : SideState) p => ((s.emitTone p.1 p.2).emitPhase p.1 p.2 true).emitStaged p.1) s
  let s := s.drive.tonePending.foldl (fun (s : SideState) p => (s.emitTone p.gen p.settings).emitStaged p.gen) s
  let s := (List.range 64).foldl (fun (s : SideState) i => s.emitConn i) s
  let s := s.pipe.trk.foldl (fun (s : SideState) p => s.emit (recTrk p.1 p.2.stat p.2.eff)) s
  if s.watch.policyBytes.isEmpty then s else s.emitPolicy s.watch.policyBytes

/-- The bulk copy begins, or begins again. -/
def SideState.beginBulk (s : SideState) : SideState :=
  let s := ((s.set TW_BULK.STATE 1).set TW_BULK.REGIONS 0).set TW_BULK.RESENT 0
  ({ s with twin := { s.twin with bulkStart := s.produced, bulkNext := 0, bulkAgain := [] } }).emitBulkHead

/-- The lead's rig-map record: the one that is being written, that of its NVM, or while neither is there the map in force. -/
def SideState.leadRig (s : SideState) : List Byte :=
  match s.nvm.writes.find? (fun w => w.kind == .rigMap) with
  | some w => w.payload
  | none => (s.record RecordKind.rigMap.area).getD s.rigImage

/-- Do the rig-map records of the lead and of the returning side agree in serial and IMG_CRC (R63)? -/
def sameRig (x y : SideState) : Bool :=
  match y.record RecordKind.rigMap.area with
  | none => false
  | some img => rigSerial img == rigSerial x.leadRig && rigCrc img == rigCrc x.leadRig

/-- May the lead start a bulk copy of its peer: a cold understudy whose firmware runs, of the same COMPAT, not in intermission
(R243, R394, R397)? -/
def bulkMayStart (x y : SideState) : Bool :=
  x.alive && x.leads && x.is CK_STAT.SERVICE && x.rigged && y.alive && y.isUnderstudy && y.get TW_ROLE.WARMTH == 0
    && y.power.firmware && x.is ID_STRAP.COMPAT == y.is ID_STRAP.COMPAT && y.get TH_INT_STAT.STATE == 0

/-- The returning side holds the rig map of its lead (R63): one that has no map takes it into force with the copy. A map in force
does not change while the side is powered; after its next start it is that of the record (log 75). -/
def SideState.takeLeadRig (s : SideState) (img : List Byte) : SideState :=
  if s.rigged then s else ((s.rigInForce img).parkAtStart).calAtStart

/-- Is the map that a powered side has in force, if it has one, that of the lead (R63)? One that has another keeps it while it is
powered, and stays cold (log 75). -/
def mapAgrees (x y : SideState) : Bool :=
  !y.rigged || (rigSerial y.rigImage == rigSerial x.rigImage && rigCrc y.rigImage == rigCrc x.rigImage)

/-- A bulk copy starts from the lead `sd` to its peer (R63, R243): of a side whose rig-map record differs only the record is
sent, and it stays cold until that is written. -/
def State.startBulk (s : State) (sd : Side) : State :=
  let x := s.on sd
  let y := s.on sd.peer
  if !bulkMayStart x y then s
  else if !sameRig x y then
    s.side sd.peer (fun y =>
      if y.recordBusy .rigMap then y else y.startRecord ⟨.rigMap, x.leadRig, 0, false, false⟩ y.nvmOpen)
  else if !mapAgrees x y then s
  else
    (s.side sd (fun x => x.beginBulk)).side sd.peer (fun y => (y.takeLeadRig x.rigImage).set TW_ROLE.WARMTH 1)

/-- BULK_COPY_START (R63, R243). -/
def execBulkCopyStart (sd : Side) (s : State) : Host.Outcome State Fault Refusal := .next (s.startBulk sd)

/-- The 64 KiB region of the element-table memory that an address lies in, 64 for another address. -/
def regionOf (a : Nat) : Nat := if 0x30000000 ≤ a ∧ a < 0x30400000 then (a - 0x30000000) / 0x10000 else 64

/-- Is a byte of the element-table memory one that the copy refreshes by itself (R235): words 5 to 7 of a loop, in rotation? -/
def rotates (a : Nat) : Bool := Nat.ble 0x30058000 a && Nat.blt a 0x30088000 && Nat.ble 20 (a % 32)

/-- Does a record that is still on its way write this address, or an entry that its fields stand in? -/
def recordCovers (b : List Byte) (a : Nat) : Bool :=
  let w0 := leNat (slice b 0 4)
  let at' := leNat (slice b 4 4)
  let entry (f : TFld) (i : Nat) : Bool := Nat.ble (f.base + f.stride * i) a && Nat.blt a (f.base + f.stride * (i + 1))
  match w0 % 16 with
  | 0x3 => entry DT.MODE (bits w0 4 14)
  | 0x4 => entry ET.PHYS (bits w0 4 13)
  | 0x5 => entry ET.PHYS (bits w0 4 13)
  | 0x8 => Nat.ble at' a && Nat.blt a (at' + (b.length - 8))
  | _ => false

/-- The records that the lead `x` has not committed on the understudy `y` yet. -/
def onTheWay (x y : SideState) : List (List Byte) :=
  x.twin.records ++ x.twin.late ++ y.twin.beatStaged ++ y.twin.staging ++ y.twin.committed

/-- The regions of 64 KiB in which the element-table memories of the sides differ, but for what the copy still carries (R243). -/
def differingRegions (x y : SideState) : List Nat :=
  let way := onTheWay x y
  let cells := (x.mem.filter (fun c => !y.mem.contains c)) ++ (y.mem.filter (fun c => !x.mem.contains c))
  (cells.filter (fun c => Nat.blt (regionOf c.1) 64 && !rotates c.1 && !way.any (fun b => recordCovers b c.1))).foldl
    (fun l c => insertNat (regionOf c.1) l) []

/-- Regions that differ are sent again, 16 blocks of 4 KiB each. -/
def SideState.resendRegions (s : SideState) (l : List Nat) : SideState :=
  let s := (s.set TW_BULK.STATE 1).set TW_BULK.RESENT (min 127 (s.get TW_BULK.RESENT + l.length))
  { s with twin := { s.twin with bulkAgain := (l.map (fun r => (List.range 16).map (fun i => 16 * r + i))).flatten } }

/-- BULK_COPY_VERIFIED (R242, R243): the comparison of the regions after the last one; where every region matches, the side goes
to TESTING, and a region that differs is sent again. -/
def execBulkCopyVerified (sd : Side) (s : State) : Host.Outcome State Fault Refusal :=
  let x := s.on sd
  let y := s.on sd.peer
  if !(x.alive && x.leads && x.get TW_BULK.STATE == 2 && y.alive && y.isUnderstudy && y.get TW_ROLE.WARMTH == 1) then .next s
  else if !(differingRegions x y).isEmpty then .next (s.side sd (fun x => x.resendRegions (differingRegions x y)))
  else
    .next ((s.side sd (fun x => x.set TW_BULK.STATE 3)).side sd.peer (fun y =>
      let y := y.set TW_ROLE.WARMTH 2
      let y := if y.is TW_CTRL.AUTO_UNFENCE && y.mayUnfence then y.unfence else y
      y.warmUp.showFit))

/-- The understudy's receipt of the lead's marker: a flit that was lost, a marker that is not present, or a present one. -/
def SideState.receiveMarker (s : SideState) (bytes : List Byte) (crcOk : Bool) : SideState :=
  let s := s.checkAt 0x06 crcOk
  if !crcOk then s.lostFlit
  else
    let w0 := leNat (slice bytes 0 4)
    let ok := bytes.length == 16 && w0 % 16 == 15 && leNat (slice bytes 4 4) == crc32c s.twin.beatStaged.flatten
    if !ok || s.win == .judged then s
    else
      let s := { s.set TW_LINK.LANES 0xFF with twin := { s.twin with markerSeen := true } }
      if s.isUnderstudy then s.takeMarker w0 (leNat (slice bytes 8 8)) else s

/-- MARKER_RECEIVED (R231, R234): a marker with a correct CHECK by 9.9 µs is present; `crcOk` tells whether its flit came
through. An understudy that discards its copy with it gets a new bulk copy at once. -/
def execMarkerReceived (sd : Side) (bytes : List Byte) (crcOk : Bool) (s : State) : Host.Outcome State Fault Refusal :=
  let x := s.on sd
  let t := s.side sd (fun x => x.live (fun x => x.receiveMarker bytes crcOk))
  .next (if x.isUnderstudy && x.get TW_ROLE.WARMTH != 0 && (t.on sd).get TW_ROLE.WARMTH == 0 then t.startBulk sd.peer else t)

/-- BULK_COPY_TIMEOUT (R243): 2,000 beats without verification. -/
def execBulkCopyTimeout (sd : Side) (s : State) : Host.Outcome State Fault Refusal :=
  .next (s.side sd (fun x => x.live (fun x =>
    if x.leads && (x.get TW_BULK.STATE == 1 || x.get TW_BULK.STATE == 2) && Nat.ble (x.twin.bulkStart + 2000) x.produced then
      (x.raise 0x88).beginBulk
    else x)))

/-! ### The request of a planned swap (R244) -/

/-- COPY_VER of the peer, from its last health report. -/
def SideState.peerCopyVer (s : SideState) : Nat := bits (s.word 0x08070).toNat 8 8

/-- The copy versions that the running image of a side reads (R380). -/
def SideState.readVers (s : SideState) : List Nat := (s.rdBytes (slotImage (s.get NV_STAT.ACTIVE) + 0x14) 8).map (fun b => b.toNat)

/-- Why a planned swap is refused, 0 for none. -/
def swapRefusal (x y : SideState) : Nat :=
  if !x.peerFit then 1
  else if x.cueBusy then 2
  else if x.cal.results.any (fun r => r.due.isSome) then 3
  else if x.twin.swapPending || y.twin.takeoverDue.isSome || x.twin.resignFrom.isSome then 4
  else if x.peerCopyVer ≠ x.get TW_COPY_STAT.COPY_VER ∧ !y.readVers.contains (x.get TW_COPY_STAT.COPY_VER) then 5
  else 0

/-- The lead is asked for a planned swap. -/
def SideState.askSwap (x y : SideState) : SideState :=
  let r := swapRefusal x y
  if r ≠ 0 then ((x.set TW_SWAP_STAT.RESULT 3).set TW_SWAP_STAT.REASON r).raise 0x8B
  else
    { (x.set TW_SWAP_STAT.RESULT 1).set TW_SWAP_STAT.REASON 0 with twin := { x.twin with swapPending := true } }

/-- SWAP_REQUEST (R244): on the lead. -/
def execSwapRequest (sd : Side) (m : Master) (w : PairWrite) (s : State) : Host.Outcome State Fault Refusal :=
  let y := s.on sd.peer
  .next (s.side sd (fun x => x.live (fun x => x.onPair 0x08048 m w (fun v x =>
    if v.toNat % 2 = 1 ∧ x.leads then x.askSwap y else x))))

end Sys2Proof.Machine
end

