-- ==== Sys2Proof/Machine/Update.lean ====
section
/-! DEFINITION. The planned swap and the firmware update (R244, R245, R380 to R384). -/

namespace Sys2Proof.Machine

/-! ### The planned swap (R244) -/

/-- The lead hands the role over by itself: its stage, front ends and bias are off, and it goes on as a WARM understudy. -/
def SideState.handOver (s : SideState) : SideState :=
  let s := ((s.stepDown.set DO_STAT.STAGE_EN 0).set MI_STAT.FE_CONN 0).enterRole 2
  let s := ((s.set TW_ROLE.WARMTH 3).set TW_SWAP_STAT.RESULT 2).evt 0x08 5
  ({ s with twin := { s.twin with update := none, report := [0, 0x7FF] } }).showFit

/-- The update that brought a swap about, if one did, goes on with the new lead (R245). -/
def SideState.takeUpdate (s : SideState) (o : Option Update) : SideState :=
  match o with
  | none => s
  | some u =>
    let u : Update := if u.step = 4 then { u with step := 5, since := s.produced } else u
    ({ s with twin := { s.twin with update := some u } }).showStep u.step 0

/-- The understudy takes the role in a planned swap, with the update if one brought the swap about. -/
def SideState.takeSwap (s old : SideState) : SideState :=
  (((s.takeLead 3).bump TW_CNT.SWAP 1).evt 0x08 5).takeUpdate old.twin.update

/-- SWAP_EXECUTE (R244): at the boundary after the complete beat whose marker carried SWAP. A lead that resigns meanwhile leaves its
role as R230 states. -/
def execSwapExecute (sd : Side) (s : State) : Host.Outcome State Fault Refusal :=
  let x := s.on sd
  let y := s.on sd.peer
  let due := match x.twin.swapAt with
    | some b => Nat.ble b x.produced
    | none => false
  if !x.alive || !x.leads || x.twin.resignLine || x.win != .edge || !due || !y.alive || !y.isUnderstudy || y.win != .edge then .next s
  else .next ((s.side sd (fun x => x.handOver)).side sd.peer (fun y => y.takeSwap x))

/-! ### The image (R380, R381) -/

/-- The update image in working SRAM: NV_IMG_LEN bytes from NV_IMG_ADDR (R387). -/
def SideState.updateImage (s : SideState) : List Byte := s.rdBytes (s.get NV_IMG_ADDR.ADDR / 256 * 256) (s.get NV_IMG_LEN.LEN)

/-- The check of an image, shown in KY_SIG_STAT. -/
def SideState.checkImage (s : SideState) (img : List Byte) : SideState × Nat :=
  let r := imageReject s.nvm.romKeys img s.nvm.fuseMin s.nvm.fuseRevoked
  (s.showCheck r (imageKey img), r)

/-- An image is written into a firmware slot. -/
def SideState.writeSlot (s : SideState) (slot : Nat) (img : List Byte) : SideState :=
  ((s.eraseNvm (slotImage slot) 0x800000).wrBytes (slotImage slot) img).count 125 ((img.length + 255) / 256)

/-- The directory names a newly written slot. -/
def SideState.nameSlot (s : SideState) (slot : Nat) (trial : Bool) (img : List Byte) : SideState :=
  let d := s.directory
  s.writeDirectory {
    active := slot
    trial := trial
    failed := false
    fwVer := d.fwVer.set slot (leNat (slice img 6 2))
    svn := d.svn.set slot (leNat (slice img 8 2))
    crc := d.crc.set slot (crc32c img) }

/-- A side takes the new image into its inactive slot. -/
def SideState.loadInactive (s : SideState) (img : List Byte) : SideState := s.writeSlot (1 - s.get NV_STAT.ACTIVE) img

/-- A side resets into the image of its inactive slot (steps 2 and 7). -/
def SideState.restartInto (s : SideState) (img : List Byte) : SideState :=
  if s.alive then (s.nameSlot (1 - s.get NV_STAT.ACTIVE) true img).restart 3 else s

/-! ### The update (R245) -/

/-- The update goes on with a step. -/
def SideState.toStep (s : SideState) (u : Update) (step : Nat) : SideState :=
  ({ s with twin := { s.twin with update := some { u with step := step, since := s.produced } } }).showStep step 0

/-- A side in the boot ROM takes an image into slot 0, and can start again (R382). -/
def SideState.romUpdate (s : SideState) : SideState :=
  let img := s.updateImage
  let c := s.checkImage img
  if c.2 ≠ 0 then (c.1.raise 0xA6).failUpdate 1
  else
    let s := (c.1.writeSlot 0 img).nameSlot 0 false img
    { s with nvm := { s.nvm with bootRom := false } }

/-- The update starts: the checks of step 1, on the lead with an understudy whose firmware runs. -/
def SideState.startUpdate (s peer : SideState) : SideState :=
  if s.nvm.bootRom then s.romUpdate
  else if s.twin.update.isSome then s.raise 0x8B
  else if !s.leads || !peer.alive || !peer.isUnderstudy || !peer.power.firmware then s.failUpdate 2
  else
    let img := s.updateImage
    let c := s.checkImage img
    if c.2 ≠ 0 then (c.1.raise 0xA6).failUpdate 1
    else c.1.toStep ⟨0, 0, img, max 1 (s.get TW_UPD.TRIAL)⟩ 1

/-- FIRMWARE_UPDATE (R245): a completed pair on TW_UPD with GO. -/
def execFirmwareUpdate (sd : Side) (m : Master) (w : PairWrite) (s : State) : Host.Outcome State Fault Refusal :=
  let y := s.on sd.peer
  .next (s.side sd (fun x => x.live (fun x => x.onPair 0x08088 m w (fun v x => if v.toNat % 2 = 1 then x.startUpdate y else x))))

/-- A side burns the fuses of the new image, and its trial is over (R382, R383). -/
def SideState.burn (s : SideState) (img : List Byte) : SideState :=
  let s := { s with nvm := { s.nvm with
    fuseMin := max s.nvm.fuseMin (leNat (slice img 8 2) % 64)
    fuseRevoked := Nat.lor s.nvm.fuseRevoked (leNat (slice img 0x1C 1) % 16) } }
  let s := (s.set KY_SVN.MIN s.nvm.fuseMin).set KY_SVN.REVOKED s.nvm.fuseRevoked
  (s.writeDirectory { s.directory with trial := false, failed := false }).set NV_STAT.TRIAL 0

/-- A failed update: a side that has run the new image, or was to, restarts from its previous slot (R245, R382). -/
def SideState.fallBack (s : SideState) : SideState :=
  if !s.alive || !s.directory.trial then s
  else
    let s := s.markFailed
    let s := if s.leads then s.resign.leaveRole else s
    if s.fault.halted then s else s.restart 3

/-- The update ends FAILED, on both sides. -/
def State.failUpdate (s : State) (sd : Side) (reason : Nat) : State :=
  (s.side sd (fun x => (x.failUpdate reason).fallBack)).side sd.peer (fun y => y.fallBack)

/-- A step that came to its end without success: the warm-up after 2,000 beats, the trial by a resignation, any other refused. -/
def State.stepFails (s : State) (sd : Side) (u : Update) : State :=
  let x := s.on sd
  match u.step with
  | 3 => if u.since + 2000 ≤ x.produced then s.failUpdate sd 3 else s
  | 5 => if x.twin.resignLine || x.twin.resignFrom.isSome then s.failUpdate sd 4 else s
  | 4 => if x.twin.swapPending then s else s.failUpdate sd 2
  | _ => s.failUpdate sd 2

/-- A step that has come to its end: the next one begins. Steps 4 and 5 end by the swap and by UPDATE_TRIAL_END. -/
def State.stepEnds (s : State) (sd : Side) (u : Update) : State :=
  let y := s.on sd.peer
  match u.step with
  | 1 => if y.alive && y.nvmOpen then (s.side sd (fun x => x.toStep u 2)).side sd.peer (fun y => (y.loadInactive u.image).restartInto u.image) else s
  | 2 => if y.alive && y.power.firmware then s.side sd (fun x => x.toStep u 3) else s
  | 3 =>
    if !(s.on sd).peerFit then s
    else if swapRefusal (s.on sd) y ≠ 0 then (s.side sd (fun x => x.askSwap y)).failUpdate sd 2
    else s.side sd (fun x => (x.toStep u 4).askSwap y)
  | 6 => if y.alive && y.nvmOpen then (s.side sd (fun x => x.toStep u 7)).side sd.peer (fun y => (y.loadInactive u.image).restartInto u.image) else s
  | 7 =>
    if !(s.on sd).peerFit then s
    else
      (s.side sd (fun x =>
        ({ x with twin := { x.twin with update := none } }.showStep 8 0).burn u.image)).side sd.peer (fun y => y.live (fun y => y.burn u.image))
  | _ => s

/-- UPDATE_STEP_DONE (R245): on the lead that carries the update. -/
def execUpdateStepDone (sd : Side) (ok : Bool) (s : State) : Host.Outcome State Fault Refusal :=
  let x := s.on sd
  if !x.alive || !x.leads then .next s
  else
    match x.twin.update with
    | none => .next s
    | some u => .next (if ok then s.stepEnds sd u else s.stepFails sd u)

/-- The boundary from which the trial time counts: that of the step, or after a Major reaction the next one. DESIGN CHOICE (log
125): a trial with a major fault that is released again runs its whole time anew from that fault. -/
def SideState.trialFrom (s : SideState) (u : Update) : Nat :=
  match s.fault.majorAt with
  | some t => max u.since ((t + 9999) / 10000)
  | none => u.since

/-- UPDATE_TRIAL_END (R245): the trial time is over, with no major or grave fault in it. -/
def execUpdateTrialEnd (sd : Side) (s : State) : Host.Outcome State Fault Refusal :=
  .next (s.side sd (fun x => x.live (fun x =>
    match x.twin.update with
    | none => x
    | some u =>
      if x.leads && u.step == 5 && Nat.ble (x.trialFrom u + u.trial * 100000) x.produced && !x.is FC_STAT.MAJOR && !x.is FC_STAT.SAFE then
        x.toStep u 6
      else x)))

/-- The stage manager's own writes for AUTO: NV_IMG_ADDR and NV_IMG_LEN, then the pair TW_UPD and TW_UPD_N with the TRIAL value last
written, under the rules of every other master (R340, R373, R384). -/
def SideState.autoUpdate (s peer : SideState) : SideState :=
  let s := s.regWrite 0x05080 .stageManager (fun x => x.set NV_IMG_ADDR.ADDR (x.imageAddr 0))
  let s := s.regWrite 0x05084 .stageManager (fun x => x.set NV_IMG_LEN.LEN (x.net.imageEnd.getD 0))
  let v : Word := BitVec.ofNat 32 (Nat.lor (s.word 0x08088).toNat 1)
  ((s.transfer .stageManager).firstHalf 0x08088 .stageManager v).onPair 0x08088 .stageManager (.complement (~~~v)) (fun _ x => x.startUpdate peer)

/-- An image frame's payload is taken; with AUTO, a complete image starts the update. -/
def SideState.imageFrame (s peer : SideState) (payload : List Byte) : SideState :=
  match s.takeImageFrame payload with
  | (s, false) => s
  | (s, true) =>
    if s.is HM_NET.AUTO then s.autoUpdate peer else s

/-- IMAGE_FRAME (R384): the lead's stage manager takes an image frame that P0 has handed to it; without such a frame there is
nothing to take. -/
def execImageFrame (sd : Side) (payload : List Byte) (s : State) : Host.Outcome State Fault Refusal :=
  let y := s.on sd.peer
  .next (s.side sd (fun x =>
    match (if x.managed then x.net.imageInbox.findIdx? (fun b => carries b payload) else none) with
    | none => x
    | some i =>
      let x := { x with net := { x.net with imageInbox := x.net.imageInbox.eraseIdx i } }
      if x.leads && x.is HM_NET.EN then x.imageFrame y payload else x))

end Sys2Proof.Machine
end

