-- ==== Sys2Proof/Machine/Thermal.lean ====
section
/-! DEFINITION. Temperature, housekeeping and intermission (R315 to R333), with the headroom tracking of the heater supplies
that follows the housekeeping round (R107, R108). -/

namespace Sys2Proof.Machine

/-! ### The readings of a round (R315, R316) -/

/-- A housekeeping channel. -/
def SideState.hk (s : SideState) (n : Nat) : HkChannel := Tab.getD s.therm.channels n {}

/-- Changes a housekeeping channel. -/
def SideState.setHk (s : SideState) (n : Nat) (c : HkChannel) : SideState :=
  { s with therm := { s.therm with channels := Tab.put s.therm.channels n c } }

/-- What a round brought of a channel: none where it was not read, and no value where the conversion gave no result. -/
def hkFound (r : List HkReading) (n : Nat) : Option (Option Int) :=
  (r.find? (fun x => x.channel == n)).map (fun x => if x.present then some x.value else none)

/-- The neighbours of a die sensor (R317): orthogonal in the 4 × 6 grid, or the other three of the power die. -/
def dieNeighbours (n : Nat) : List Nat :=
  if n < 24 then
    (if n < 6 then [] else [n - 6]) ++ (if n < 18 then [n + 6] else []) ++ (if n % 6 = 0 then [] else [n - 1])
      ++ (if n % 6 = 5 then [] else [n + 1])
  else [24, 25, 26, 27].filter (fun k => k != n)

/-- The sensors of the die of a sensor. -/
def dieSensors (n : Nat) : List Nat := if n < 24 then List.range 24 else [24, 25, 26, 27]

/-- Twelve times the distance of a value from the mean of a sensor's valid neighbours; 0 where it has none. -/
def deviation12 (vals : List (Nat × Int)) (n : Nat) (v : Int) : Nat :=
  let l := (dieNeighbours n).filterMap (Tab.get? vals)
  if l.isEmpty then 0 else (12 * v - l.foldl (fun a b => a + b) 0 * ((12 / l.length : Nat) : Int)).natAbs

/-- 25 °C in the unit of `deviation12`. -/
def deviationLimit : Nat := 25 * 16 * 12

/-- The sensors left when the one furthest from its neighbours has failed, again and again while one is beyond 25 °C. -/
def dropOutliers : Nat → List (Nat × Int) → List (Nat × Int)
  | 0, l => l
  | k + 1, l =>
    let worst := l.foldl (fun (w : Nat × Nat) p => if w.2 < deviation12 l p.1 p.2 then (p.1, deviation12 l p.1 p.2) else w) (0, 0)
    if deviationLimit < worst.2 then dropOutliers k (Tab.del l worst.1) else l

/-- The plausible value of a die sensor in a round: its reading from −60 °C to +160 °C, or for one that was valid and is missed for the
first time its value of the round before (R316). -/
def SideState.dieValue (s : SideState) (r : List HkReading) (n : Nat) : Option Int :=
  match hkFound r n with
  | none => if (s.hk n).valid && (s.hk n).missed == 0 then some (s.hk n).value else none
  | some none => none
  | some (some v) => if -960 ≤ v ∧ v ≤ 2560 then some v else none

/-- The sensors valid before that are plausible now. -/
def SideState.diePlausible (s : SideState) (r : List HkReading) : List (Nat × Int) :=
  dropOutliers 28 ((List.range 28).filterMap (fun n =>
    if (s.hk n).good < 4 then none else (s.dieValue r n).map (fun v => (n, v))))

/-- A die sensor after a round, before its substitute is known. -/
def SideState.dieChannel (s : SideState) (r : List HkReading) (ok : List (Nat × Int)) (n : Nat) : HkChannel :=
  let c := s.hk n
  let miss := (hkFound r n).isNone
  let m := if miss then c.missed + 1 else 0
  if miss && m < 2 && !c.valid then { c with missed := m }
  else
    let bad := (miss && Nat.ble 2 m) || (match s.dieValue r n with
      | none => true
      | some v => if c.good < 4 then decide (deviationLimit < deviation12 ok n v) else !Tab.has ok n)
    let good := if bad then 0 else if miss then c.good else min 4 (c.good + 1)
    { value := (s.dieValue r n).getD c.value, valid := decide (4 ≤ good), subst := decide (good < 4), good := good, missed := m }

/-- The substitute of a failed sensor: 8 °C above the highest of its valid neighbours, or else of its die. With none left the
value is not stated. -/
def SideState.dieSubstitute (s : SideState) (n : Nat) : SideState :=
  let highest (l : List Nat) : Option Int :=
    (l.filter (fun k => (s.hk k).valid)).foldl (fun (a : Option Int) k =>
      match a with
      | none => some (s.hk k).value
      | some v => some (max v (s.hk k).value)) none
  match highest (dieNeighbours n), highest (dieSensors n) with
  | some v, _ => s.setHk n { s.hk n with value := v + 128 }
  | none, some v => s.setHk n { s.hk n with value := v + 128 }
  | none, none =>
    let f := s.fresh 16
    f.1.setHk n { s.hk n with value := signed f.2 16 }

/-- A failure or a recovery of a die sensor (R317, R321). -/
def SideState.dieEvents (s old : SideState) (n : Nat) : SideState :=
  let was := (old.hk n).subst
  let now := (s.hk n).subst
  let s := s.set ⟨0x04050, n, 1⟩ (if now then 1 else 0)
  if now && !was then
    let s := ((s.evt 0x04 2).bump TH_CNT.FAILS 1).raise 0x23
    if old.get TH_STAT.STEP != 0 && old.therm.tmaxHolder == n then
      { s.set TH_STAT.HOLD 1 with therm := { s.therm with holdSensors := insertNat n s.therm.holdSensors } }
    else s
  else if was && !now then
    let s := s.evt 0x04 2
    let left := dropNat n s.therm.holdSensors
    { s.setB TH_STAT.HOLD (!left.isEmpty) with therm := { s.therm with holdSensors := left } }
  else s

/-- The die sensors of a round. -/
def SideState.dieRound (s : SideState) (r : List HkReading) : SideState :=
  let old := s
  let ok := s.diePlausible r
  let s := (List.range 28).foldl (fun (s : SideState) n => s.setHk n (old.dieChannel r ok n)) s
  let s := (List.range 28).foldl (fun (s : SideState) n => if (s.hk n).subst then s.dieSubstitute n else s) s
  (List.range 28).foldl (fun (s : SideState) n => s.dieEvents old n) s

/-- A channel that is neither a die sensor nor a tile line. -/
def SideState.plainChannel (s : SideState) (r : List HkReading) (n : Nat) : SideState :=
  match hkFound r n with
  | none => s
  | some none => s.setHk n { s.hk n with valid := false }
  | some (some v) => s.setHk n { s.hk n with value := v, valid := true }

/-! ### Tile lines (R51, R317, R322) -/

/-- The sense lines of the rig map: line and record. -/
def SideState.senseLines (s : SideState) : List (Nat × List Byte) :=
  if s.rigged then (RigMap.of s.rigImage).sense.map (fun b => (leNat (slice b 0 1), b)) else []

/-- The temperature of a code in 1/16 °C, toward zero. -/
def senseTemp (b : List Byte) (code : Int) : Int :=
  let milli := signed (leNat (slice b 2 2)) 16 * 10 + (code - (leNat (slice b 4 2) : Int)) * signed (leNat (slice b 6 2)) 16
  divTrunc (milli * 16) 1000

/-- A tile line of a round: codes 0 and 4,095 are invalid. -/
def SideState.tileLine (s : SideState) (r : List HkReading) (line : Nat) (b : List Byte) : SideState :=
  let n := 32 + line
  match hkFound r n with
  | none => s
  | some v =>
    let code := v.getD 0
    if code ≤ 0 ∨ 4095 ≤ code then ((s.setHk n { s.hk n with valid := false }).set ⟨0x04054, line, 1⟩ 1).raise 0x27
    else (s.setHk n { s.hk n with value := senseTemp b code, valid := true }).set ⟨0x04054, line, 1⟩ 0

/-- A tile threshold with its 5 °C of hysteresis. -/
def SideState.tileLimit (s : SideState) (flag : Fld) (limit : Int) (max : Int) (src : Nat) : SideState :=
  if limit * 16 < max then (if s.is flag then s else ((s.set flag 1).evt 0x04 3).raise src)
  else if max < (limit - 5) * 16 && s.is flag then (s.set flag 0).evt 0x04 3
  else s

/-- The tile lines of a round, which only the lead reads and sends on. -/
def SideState.tileRound (s : SideState) (r : List HkReading) : SideState :=
  if !s.leads then s
  else
    let s := s.senseLines.foldl (fun (s : SideState) p => s.tileLine r p.1 p.2) s
    let valid := (s.senseLines.map (fun p => s.hk (32 + p.1))).filter (fun c => c.valid)
    let s := s.set TH_TILE_T.MEAN (unsignedOf s.tileMean 16)
    let s := match valid.head? with
      | none => s
      | some c =>
        let m := valid.foldl (fun (a : Int) (x : HkChannel) => max a x.value) c.value
        let s := s.set TH_TILE_T.MAX (unsignedOf m 16)
        if s.is TH_TILE.EN then
          (s.tileLimit TH_STAT.TILE_WARN (signed (s.get TH_TILE.WARN) 8) m 0x25).tileLimit TH_STAT.TILE_LIM
            (signed (s.get TH_TILE.LIM) 8) m 0x26
        else s
    let send (s : SideState) (key mask : Nat) : SideState := s.emit (recReg key (Nat.land (s.word key).toNat mask) mask)
    send (send (send s 0x04060 0xFFFFFFFF) 0x04054 0xFFFFFFFF) 0x04048 0x60

/-! ### Thresholds and throttle steps (R318 to R321) -/

/-- TH_LIM as it acts, in 1/16 °C. -/
def SideState.warnAt (s : SideState) : Int := (clampNat 60 105 (s.get TH_LIM.WARN) * 16 : Nat)
def SideState.shutAt (s : SideState) : Int := (clampNat 60 125 (s.get TH_LIM.SHUT) * 16 : Nat)

/-- Entry temperature of throttle step 1, 2 or 3: never above its value at reset. -/
def SideState.stepAt (s : SideState) (k : Nat) : Int :=
  (min (clampNat 60 115 (s.get TH_LIM.THROTTLE) + (k - 1) * max 1 (s.get TH_LIM.STEP_DT)) (115 + 3 * (k - 1)) * 16 : Nat)

/-- Tmax and its channel: the highest die value, substitutes included. -/
def SideState.tMax (s : SideState) : Option (Nat × Int) :=
  ((List.range 28).filter (fun n => (s.hk n).valid || (s.hk n).subst)).foldl (fun (a : Option (Nat × Int)) n =>
    match a with
    | none => some (n, (s.hk n).value)
    | some p => if p.2 < (s.hk n).value then some (n, (s.hk n).value) else some p) none

/-- FORCED_T3: two failed sensors of one die (R321). -/
def SideState.forceT3 (s : SideState) : SideState :=
  let bad (l : List Nat) : Bool := Nat.ble 2 (l.countP (fun n => (s.hk n).subst))
  let f := bad (List.range 24) || bad [24, 25, 26, 27]
  let was := s.is TH_STAT.FORCED_T3
  (s.setB TH_STAT.FORCED_T3 f).raiseIf (f && !was) 0x24

/-- The throttle step of a round (R319); at T1 calibration and tuning end (R320). -/
def SideState.throttle (s : SideState) (t : Int) : SideState :=
  let up := if s.is TH_STAT.FORCED_T3 || decide (s.stepAt 3 ≤ t) then 3
    else if s.stepAt 2 ≤ t then 2 else if s.stepAt 1 ≤ t then 1 else 0
  let old := s.get TH_STAT.STEP
  if old < up then
    let s := ((s.set TH_STAT.STEP up).evt 0x04 1).raise 0x21
    if old = 0 then s.abortRuns.abortTunes 4 else s
  else if old ≠ 0 ∧ t < s.stepAt old - 80 ∧ !s.is TH_STAT.HOLD then (s.set TH_STAT.STEP (old - 1)).evt 0x04 1
  else s

/-- The warning of a round (R318). -/
def SideState.warning (s : SideState) (t : Int) : SideState :=
  if s.warnAt ≤ t then (if s.is TH_STAT.WARN then s else ((s.set TH_STAT.WARN 1).evt 0x04 0).raise 0x20)
  else if t < s.warnAt - 80 && s.is TH_STAT.WARN then (s.set TH_STAT.WARN 0).evt 0x04 0
  else s

/-- Warning and step by Tmax. -/
def SideState.thresholds (s : SideState) : SideState :=
  let s := s.forceT3
  match s.tMax with
  | none => s
  | some (n, t) =>
    let s := (s.set TH_STAT.TMAX (unsignedOf t 16)).set TH_HOT.CHANNEL n
    let s := s.setB TH_HOT.SUBST (s.hk n).subst
    let s := (s.warning t).throttle t
    { s with therm := { s.therm with tmaxHolder := n } }

/-! ### NVM window, VIN and heater supplies -/

/-- The NVM write window at a round end (R323): a write that it closes upon waits; a run of NV_PROG finishes its current page first. -/
def SideState.nvmWindow (s : SideState) : SideState :=
  let c := s.hk 28
  let bad := c.value < -960 ∨ 2560 < c.value ∨ !c.valid
  let w := !decide bad && decide (-400 ≤ c.value) && decide (c.value ≤ 1600)
  let s := s.setB TH_FAIL0.NVM (decide bad)
  if w = s.is TH_STAT.NVM_OK then s
  else
    let s := (s.setB TH_STAT.NVM_OK w).evt 0x04 6
    if w then s
    else
      let s := { s with nvm := { s.nvm with writes := s.nvm.writes.map (fun (x : RecordWrite) => { x with waiting := true }) } }
      (if s.nvm.writes.any (fun w => w.kind == .rigMap) then s.set RG_STAT.NVM_PENDING 1 else s).pauseProgram

/-- VIN of the side (R392, R402). -/
def SideState.vinRound (s : SideState) : SideState :=
  let c := s.hk 68
  if !c.valid then s
  else
    let low := decide (c.value < 9000)
    let high := decide (62000 < c.value)
    let newLow := low && !s.is CK_VIN.LOW
    let newHigh := high && !s.is CK_VIN.HIGH
    let s := ((s.set CK_VIN.VIN (min 65535 (c.value.toNat / 10))).setB CK_VIN.LOW low).setB CK_VIN.HIGH high
    let s := if newLow || newHigh then s.evt 0x01 2 else s
    (s.raiseIf newLow 0x00).raiseIf newHigh 0x01

/-- Where the readings of a round carry the pin voltages, as codes of the sense converters, and the answer of a regulator. -/
def pinChannel (d : Nat) : Nat := 0x1000 + d
def pmbusChannel (d : Nat) : Nat := 0x800 + d

/-- Lowest V_pin, as a sense code, among the current-mode DO of a domain (R107). -/
def SideState.vMin (s : SideState) (r : List HkReading) (dom : Nat) : Option Nat :=
  r.foldl (fun (a : Option Nat) x =>
    let d := x.channel - 0x1000
    if x.present && Nat.ble 0x1000 x.channel && s.mode d == 2 && s.t DT.HSUP d == dom then
      (match a with
       | none => some x.value.toNat
       | some v => some (min v x.value.toNat))
    else a) none

/-- One step of the headroom tracking of a domain, whose regulator answered (R107, R108). DESIGN CHOICE (log 93): source 0x38
and its flag come when the domain reaches MAX below TARGET, not again in each round that it stays there. -/
def SideState.trackStep (s : SideState) (dom v0 code : Nat) : SideState :=
  let f := DO_HR_STAT.VOUT.nth dom
  let target := max 250 (s.get DO_HR_TARGET.TARGET)
  let low := decide (code * 6000 < target * 1024)
  let high := decide ((target + s.get DO_HR_CTRL.BAND * 10) * 1024 < code * 6000)
  let v := s.hsupClamp (if low then v0 + 10 else if high then v0 - 10 else v0)
  let atMax := low && v == s.hsupClamp 5500
  let g := DO_HR_STAT.AT_MAX.nth dom
  let new := atMax && !s.is g
  let s := ((s.set f v).set (DO_HR_STAT.VMIN.nth dom) (min 1023 code)).setB g atMax
  if new then (s.evt 0x13 1).raise 0x38 else s

/-- The headroom tracking of a domain in a round. A regulator that did not answer twice keeps its voltage; a new lead tracks from
its first answer to READ_VOUT. -/
def SideState.trackDomain (s : SideState) (r : List HkReading) (dom : Nat) : SideState :=
  if !bitAt (s.get DO_HR_CTRL.EN) dom then s
  else
    let h := s.hk (64 + dom)
    let s := s.raiseIf (h.valid && (decide (h.value < 1200) || decide (5500 < h.value))) 0x0A
    let s := s.count 94 1
    if hkFound r (pmbusChannel dom) = some none then
      (((s.count 95 1).set (DO_HR_STAT.PMB_ERR.nth dom) 1).evt 0x13 0).raise 0x37
    else
      let s := s.set (DO_HR_STAT.PMB_ERR.nth dom) 0
      let track (s : SideState) (v0 : Nat) : SideState :=
        match s.vMin r dom with
        | none => s.set (DO_HR_STAT.VOUT.nth dom) v0
        | some code => s.trackStep dom v0 code
      if s.drive.hsupRead.contains dom then track s (s.get (DO_HR_STAT.VOUT.nth dom))
      else
        match hkFound r (pmbusChannel dom) with
        | some (some v) => track { s with drive := { s.drive with hsupRead := insertNat dom s.drive.hsupRead } } v.toNat
        | _ => s

/-- The heater supplies in a round, on the lead. -/
def SideState.supplyRound (s : SideState) (r : List HkReading) : SideState :=
  if s.leads && s.rigged then (List.range 4).foldl (fun (s : SideState) d => s.trackDomain r d) s else s

/-! ### Thermal shutdown (R324, R325, R327) -/

/-- The valid readings of the dies. -/
def SideState.validDies (s : SideState) : List Int := ((List.range 28).filter (fun n => (s.hk n).valid)).map (fun n => (s.hk n).value)

/-- A shutdown is decided: the side asserts resignation, and an understudy takes role NONE. A lead is fenced at the next boundary, by
its peer or by itself. -/
def SideState.shutDown (s : SideState) : SideState :=
  let s := { s.set TH_STAT.SHUTDOWN 1 with therm := { s.therm with shutdownAt := some s.produced, coolRounds := 0 } }
  let s := s.raise 0x22
  let s := if s.twin.resignLine then s else s.resignPulse.raise 0x8A
  if s.isUnderstudy then s.enterRole 0 else s

/-- From the boundary after the decision the side's engines stop (R325). -/
def SideState.shutdownBoundary (s : SideState) : SideState :=
  match s.therm.shutdownAt with
  | none => s
  | some b =>
    if s.produced ≠ b + 1 then s
    else
      ((s.runConverters false).set CQ_STAT.RUN 0).set SW_STAT.ALIVE_RUN 0

/-- Rounds below SHUT − 5 °C: after 10 the side makes a reset. -/
def SideState.coolDown (s : SideState) : SideState :=
  if s.validDies.all (fun v => decide (v < s.shutAt - 80)) then
    (if s.therm.coolRounds + 1 < 10 then { s with therm := { s.therm with coolRounds := s.therm.coolRounds + 1 } } else s.restart 4)
  else { s with therm := { s.therm with coolRounds := 0 } }

/-- Shutdown and its end. -/
def SideState.shutdownRound (s : SideState) : SideState :=
  if s.is TH_STAT.SHUTDOWN then s.coolDown
  else if s.validDies.any (fun v => decide (s.shutAt < v)) then s.shutDown
  else s

/-! ### The round (R316) -/

/-- Was a channel that the round should bring not read? -/
def SideState.incomplete (s : SideState) (r : List HkReading) : Bool :=
  let lines := if s.leads then s.senseLines.map (fun p => 32 + p.1) else []
  (List.range 29 ++ lines ++ (List.range 9).map (fun i => 64 + i)).any (fun n => (hkFound r n).isNone)

/-- The end of a housekeeping round. -/
def SideState.housekeeping (s : SideState) (r : List HkReading) : SideState :=
  let s := { s with therm := { s.therm with roundAt := some s.produced } }
  let s := s.raiseIf (s.incomplete r) 0x29
  let s := (28 :: (List.range 9).map (fun i => 64 + i)).foldl (fun (s : SideState) n => s.plainChannel r n) (s.dieRound r)
  let s := (s.tileRound r).thresholds
  let s := ((s.nvmWindow).vinRound).supplyRound r
  let s := if s.get TH_STAT.STEP = 0 then s else (s.bump TH_CNT.THR_ROUNDS 1).count 126 1
  (s.temperatureTrigger.ageSamples.shutdownRound).showFit

/-- HOUSEKEEPING_ROUND (R316): at the boundary that ends the round, while the stage manager works. -/
def execHousekeepingRound (sd : Side) (readings : List HkReading) (s : State) : Host.Outcome State Fault Refusal :=
  let x := s.on sd
  if !x.managed || x.win != .edge || x.beatNo % 100 != 0 || x.therm.roundAt == some x.produced then .next s
  else
    let runs := x.get TH_INT_STAT.STATE == 0
    let s := s.side sd (fun x => x.housekeeping readings)
    if (s.on sd).therm.shutdownAt = some x.produced then .next (s.side sd.peer (fun y => y.live (fun y => y.peerWake runs)))
    else .next s

/-! ### Intermission (R328 to R331) -/

/-- Why an intermission is refused, 0 for none: on the side that was asked, with the lead's cue intake. -/
def SideState.intRefusal (s lead : SideState) : Nat :=
  let busy (x : SideState) : Bool :=
    !x.cal.runs.isEmpty || !x.loops.tunes.isEmpty || x.drive.range.isSome || x.get TW_BULK.STATE == 1 || x.get TW_BULK.STATE == 2
      || x.twin.swapPending || x.twin.swapAt.isSome || x.twin.update.isSome
  if lead.is SC_CUE_CTRL.NET_EN || lead.is SC_CUE_CTRL.MBX_EN then 1
  else if s.tracks.any (fun p => p.2.state.inFlight || p.2.state == .armed || p.2.state == .settling) then 2
  else if s.get SH_STAT.HO_ACTIVE ≠ 0 then 3
  else if busy s || busy lead then 4
  else if s.is SW_STAT.DEGRADED || s.is FC_STAT.MAJOR || s.is TH_STAT.SHUTDOWN then 5
  else 0

/-- A request is accepted, for the next boundary. -/
def SideState.askIntermission (s : SideState) : SideState :=
  { (s.set TH_INT_STAT.RESULT 1).set TH_INT_STAT.REASON 0 with therm := { s.therm with intPending := true } }

/-- INTERMISSION_ENTER (R328): a request on the lead is for both sides. -/
def execIntermissionEnter (sd : Side) (m : Master) (v : Word) (s : State) : Host.Outcome State Fault Refusal :=
  let x := s.on sd
  let lead := if x.leads then x else s.on sd.peer
  let go := x.alive && mayWritePage m 0x04 && bitAt v.toNat 31 && bitAt v.toNat 0
  let r := x.intRefusal lead
  let s := s.side sd (fun x => x.live (fun x => x.regWrite 0x04070 m (fun x =>
    if !(bitAt v.toNat 31 && bitAt v.toNat 0) then x
    else if r ≠ 0 then (((x.set TH_INT_STAT.RESULT 3).set TH_INT_STAT.REASON r).evt 0x04 5).raise 0x2B
    else x.askIntermission)))
  if go && r == 0 && x.leads then
    .next (s.side sd.peer (fun y => y.live (fun y => if y.isUnderstudy then y.askIntermission else y)))
  else .next s

/-- A side enters intermission at a boundary (R151, R329), from its wake too (R328). -/
def SideState.enterIntermission (s : SideState) : SideState :=
  if !s.therm.intPending then s
  else
    let s := { s.set TH_INT_STAT.RESULT 2 with therm := { s.therm with intPending := false } }
    if s.get TH_INT_STAT.STATE = 1 then s
    else
      let s := { s with therm := { s.therm with wakeAt := none } }
      let s := ((s.set TH_INT_STAT.STATE 1).set TH_INT_STAT.WAKE_CAUSE 0).evt 0x04 4
      let s := ((s.runConverters false).set MI_STAT.FE_CONN 0).set HL_STAT.OPEN 1
      let s := s.drive.own.foldl (fun (s : SideState) p => if p.2 = .loop ∨ p.2 = .tune then s.waitSample p.1 else s) s
      ({ s with loops := { s.loops with openSince := none }, mon := { s.mon with last := s.mon.last.map (fun (p : Nat × Nat) => (p.1, noSample p.2)) } }.voidBlock).showFit

/-- INTERMISSION_WAKE (R330): a host's WAKE (cause 1), or a curtain request (2) or the peer's shutdown or trip (3) that has
reached the side. Wake starts at the next boundary. -/
def execIntermissionWake (sd : Side) (m : Master) (v : Word) (cause : Nat) (s : State) : Host.Outcome State Fault Refusal :=
  let y := s.on sd.peer
  .next (s.side sd (fun x => x.live (fun x =>
    let ask (x : SideState) : SideState :=
      if x.get TH_INT_STAT.STATE = 1 then { x with therm := { x.therm with wakePending := some cause } } else x
    match cause with
    | 1 => x.regWrite 0x04070 m (fun x => if bitAt v.toNat 31 && bitAt v.toNat 1 then ask x else x)
    | 2 => if x.is SW_STAT.CURTAIN_PEND then ask x else x
    | 3 => if x.isUnderstudy && (y.power.tripped || y.is TH_STAT.SHUTDOWN) && y.get TH_INT_STAT.STATE == 0 then ask x else x
    | _ => x)))

/-- Wake starts at a boundary: supplies and bias are on; an understudy is COLD. -/
def SideState.startWake (s : SideState) : SideState :=
  match s.therm.wakePending with
  | none => s
  | some cause =>
    if s.get TH_INT_STAT.STATE ≠ 1 then { s with therm := { s.therm with wakePending := none } }
    else
      let s := { s with therm := { s.therm with wakePending := none, wakeAt := some s.produced } }
      let s := ((s.set TH_INT_STAT.STATE 2).set TH_INT_STAT.WAKE_CAUSE cause).set TH_INT_STAT.WAKE_BEATS 0
      let s := (s.runConverters true).evt 0x04 4
      if s.isUnderstudy then (s.set TW_ROLE.WARMTH 0).showFit else s

/-- The loops may run again: they wait for their samples, and those that stay outside their band are trimmed (R192). -/
def SideState.wakeLoops (s : SideState) : SideState :=
  if !s.leads then s
  else
    let on := (List.range s.loopCount).filter (fun l => s.tis LT.EN l)
    { s with
      loops := { s.loops with openSince := some s.produced }
      cal := { s.cal with wakeOob := on.foldl (fun t l => Tab.put t l 0) s.cal.wakeOob } }

/-- WAKE_STEP (R330): the step of wake that falls on the present boundary. -/
def execWakeStep (sd : Side) (s : State) : Host.Outcome State Fault Refusal :=
  .next (s.side sd (fun x => x.live (fun x =>
    if x.get TH_INT_STAT.STATE != 2 || x.win != .edge then x
    else
      match x.wakeBeats with
      | 17 => if x.leads then x.connectFrontEnds else x
      | 21 => x.wakeLoops
      | 40 => ((({ x with therm := { x.therm with wakeAt := none } }).set TH_INT_STAT.STATE 0).set TH_INT_STAT.WAKE_BEATS 40).evt 0x04 4
      | _ => x)))

end Sys2Proof.Machine
end

