-- ==== Sys2Proof/Machine/Records.lean ====
section
/-! DEFINITION. The end of a record write in NVM, and what follows from it (R62 to R64, R102, R194, R198, R292, R376). -/

namespace Sys2Proof.Machine

/-- A side's NVM takes a record; a key slot's new content waits for the next boundary (R292, R376). DESIGN CHOICE (log 131): the
key record has the header and 16 keys of 32 bytes, 3 pages. -/
def SideState.storeRecord (s : SideState) (w : RecordWrite) : SideState :=
  if w.kind = .keys then
    ({ s with nvm := { s.nvm with
      keyGen := s.nvm.keyGen + 1
      keyPending := Tab.put s.nvm.keyPending w.slot (if w.erase then none else some w.payload) } }).count 125 3
  else s.writeRecord w.kind.area w.payload

/-- A rig-map record has been written: the end of a commit, with the tile's image to follow if that was asked (R64), or the
record of a replaced tile or of an understudy (R62, R63). It changes no map in force. -/
def SideState.rigRecordDone (s : SideState) (w : RecordWrite) : SideState :=
  let s := (s.setSerial RG_NVSER.SERIAL (rigSerial w.payload)).set RG_STAT.NVM_PENDING 0
  if s.nvm.rigCommit then
    let s := (s.set RG_COMMIT_STAT.RESULT 2).evt 0x0F 4
    if s.is RG_COMMIT.TILE_WR then
      let s := s.set RG_COMMIT_STAT.TILE_BUSY 1
      if s.nvm.tileWrite.isSome then { s with nvm := { s.nvm with tileNext := some w.payload } }
      else { s with nvm := { s.nvm with tileWrite := some w.payload, tileCommit := true } }
    else { s with nvm := { s.nvm with rigCommit := false } }
  else s

/-- A calibration record has been written: it is in force, with the elements it shows surveyed (R62, R194). -/
def SideState.calRecordDone (s : SideState) (w : RecordWrite) : SideState :=
  let done := (List.range 10240).filter (fun d => bitAt (leNat (slice w.payload (20 + d) 1)) 7)
  let s := { s with cal := { s.cal with recordValid := true, surveyed := done.foldl (fun a d => insertNat d a) s.cal.surveyed } }
  if s.rigged then s.surveysDone else s

/-- What follows the end of a record write on a side. -/
def SideState.recordDone (s : SideState) (w : RecordWrite) : SideState :=
  match w.kind with
  | .rigMap => s.rigRecordDone w
  | .park => { s with drive := { s.drive with parkPending := true } }
  | .calibration => s.calRecordDone w
  | .forecast => s
  | .keys => (s.set KY_KSTAT.RESULT 2).evt 0x1F 0

/-- The first write of a side that does not wait for the window, and the rest. -/
def firstWrite : List RecordWrite → Option (RecordWrite × List RecordWrite)
  | [] => none
  | w :: t => if w.waiting then (firstWrite t).map (fun p => (p.1, w :: p.2)) else some (w, t)

/-- Does the lead's record go to the understudy too? That of a replaced tile goes with the bulk copy (R62, R63). -/
def SideState.forBoth (s : SideState) (w : RecordWrite) : Bool :=
  s.leads && (w.kind != .rigMap || s.nvm.rigCommit)

/-- Is the side an understudy that takes the lead's records? -/
def SideState.takesRecords (s : SideState) : Bool := s.alive && s.isUnderstudy

/-- The understudy's part of a write of the lead: at once, or when its window opens (R323). -/
def SideState.peerRecord (s : SideState) (w : RecordWrite) : SideState :=
  if s.nvmOpen then (s.storeRecord w).recordDone w
  else s.startRecord w false

/-- The lead's own NVM holds a record; what follows from it waits for the understudy's write where that cannot be made at once
(R64, R102). -/
def SideState.ownRecord (s : SideState) (w : RecordWrite) (waits : Bool) : SideState :=
  let s := s.storeRecord w
  if waits then { s with nvm := { s.nvm with awaitPeer := s.nvm.awaitPeer ++ [w] } } else s.recordDone w

/-- The records of a kind that waited for the understudy's write are complete. -/
def SideState.peerDone (s : SideState) (which : RecordWrite → Bool) : SideState :=
  (s.nvm.awaitPeer.filter which).foldl SideState.recordDone
    { s with nvm := { s.nvm with awaitPeer := s.nvm.awaitPeer.filter (fun w => !which w) } }

/-- At a boundary of the lead, records whose understudy is gone are complete without it. -/
def State.settleRecords (s : State) (sd : Side) : State :=
  if (s.on sd).nvm.awaitPeer.isEmpty || (s.on sd.peer).takesRecords then s
  else s.put sd ((s.on sd).peerDone (fun _ => true))

/-- RECORD_WRITE_DONE (R376): the lead's write is complete, and after it the understudy's. -/
def execRecordWriteDone (sd : Side) (s : State) : Host.Outcome State Fault Refusal :=
  let x := s.on sd
  if !x.managed then .next s
  else
    match firstWrite x.nvm.writes with
    | none => .next s
    | some (w, rest) =>
      let y := s.on sd.peer
      let both := x.forBoth w && y.takesRecords
      let s := s.side sd (fun x => ({ x with nvm := { x.nvm with writes := rest } }).ownRecord w (both && !y.nvmOpen))
      .next (s.side sd.peer (fun y =>
        if both then y.peerRecord w
        else if x.isUnderstudy then y.peerDone (fun u => u.kind == w.kind && u.slot == w.slot) else y))

/-- Key slots written since the last boundary take effect, on the lead once the understudy's write is complete too (R292). -/
def SideState.keysAtBoundary (s : SideState) : SideState :=
  if s.nvm.keyPending.isEmpty || s.nvm.awaitPeer.any (fun w => w.kind == .keys) then s
  else
    let keys := s.storedKeys
    ({ s with nvm := { s.nvm with keys := keys, keyPending := [] } }).set KY_KSTAT.VALID (keys.foldl (fun (a : Nat) (p : Nat × List Byte) => a + 2 ^ p.1) 0)

end Sys2Proof.Machine
end

