-- ==== Sys2Proof/Machine/Time.lean ====
section
/-! DEFINITION. Network time (R266 to R278): the clock, the servo, holdover, the PPS pins, and the choice of a master. -/

namespace Sys2Proof.Machine

/-! ### The clock -/

/-- The limit of NT_RATE (R266). -/
def rateLimit : Int := 17179869

/-- NT_RATE as it acts. -/
def SideState.rate (s : SideState) : Int := clampInt (-rateLimit) rateLimit (signed (s.get NT_RATE.RATE) 32)

/-- Sets the clock reading of the last boundary; the seconds count has 48 bits. -/
def SideState.setClock (s : SideState) (t : Nat) : SideState :=
  { s with time := { s.time with sec := t / 1000000000 % 2 ^ 48, ns := t % 1000000000 } }

/-- Clears LOCKED. -/
def SideState.unlock (s : SideState) : SideState :=
  if s.is NT_STAT.LOCKED then (s.set NT_STAT.LOCKED 0).evt 0x1E 0 else s

/-- The servo restarts (R271): NT_RATE stays, a slew in progress is dropped, sums and counts go to 0. -/
def SideState.restartServo (s : SideState) : SideState :=
  { s with time := { s.time with slew := 0, sumOffset := 0, lockCount := 0, overCount := 0 } }

/-- A pending sheet change whose instant the clock has passed takes place at the next cycle start of the new bank (R260). -/
def SideState.recheckSheets (s : SideState) : SideState :=
  let s := { s with net := { s.net with changeAt := s.net.changeAt.map (fun p =>
    (p.1, if p.2 < s.netNow then s.cycleStart p.1 (1 - s.operBank p.1) s.netNow else p.2)) } }
  [1, 2, 3].foldl (fun (s : SideState) n => if s.gatesOn n then s.markHeads n else s) s

/-- A step of the clock (R268, R271, R274, R277): at once, with the call sheets; the beat grid waits for its realignment. A
step below 0 wraps the 48-bit seconds (DEDUCED, log 114). -/
def SideState.stepClock (s : SideState) (d : Int) : SideState :=
  let was := s.netNow
  let s := ((s.setClock (((s.clockNs : Int) + d) % (2 ^ 48 * 1000000000 : Int)).toNat).unlock).restartServo
  let s := { s with time := { s.time with stepOpen := true, crossed := s.time.crossed ++ [(min was s.clockNs, max was s.netNow)] } }
  let s := ((s.evt 0x1E 2).bump NT_CNT.STEPS 1).count 119 1
  (s.recheckSheets).raise 0x9A

/-- What one tick adds to the clock, in 2^−32 ns: 8 ns and NT_RATE (R266). -/
def SideState.tickStep (s : SideState) : Int := 8 * 2 ^ 32 + s.rate

/-- How far the last tick lies before the reading at the last boundary, in 2^−32 ns. -/
def SideState.sinceTick (s : SideState) : Int :=
  2 ^ 32 * (s.time.tickNs : Int) - ((s.time.frac * 65536 + s.time.residue : Nat) : Int)

/-- The clock at the next boundary: the beat generator places it where the clock reaches the end of the beat, between ticks
(R273); as many ticks have passed as reach no further, each adding 8 ns and NT_RATE, beside up to 2 ns of a slew in progress
(R266, R268). -/
def SideState.advanceClock (s : SideState) : SideState :=
  let slewed := clampInt (-2) 2 s.time.slew
  let back := (s.sinceTick + 2 ^ 32 * ((s.beatLength : Int) - slewed)) % s.tickStep
  let sub := ((-back) % 2 ^ 32).toNat
  let s := s.setClock (s.clockNs + s.beatLength)
  { s with time := { s.time with
    frac := sub / 65536
    residue := sub % 65536
    tickNs := ((back + sub) / 2 ^ 32).toNat
    slew := s.time.slew - slewed
    crossed := s.time.crossed.filter (fun (p : Nat × Nat) => Nat.ble s.clockNs p.2) } }

/-- The clock of the last tick before the present instant, in 2^−32 ns (R266, R272). -/
def SideState.tickTime (s : SideState) : Nat :=
  ((2 ^ 32 * (s.netNow : Int) - (s.sinceTick + 2 ^ 32 * (s.off : Int)) % s.tickStep) % (2 ^ 80 * 1000000000 : Int)).toNat

/-- LOCKED is set once 16 consecutive offsets have been within LOCK_TH and the grid is aligned (R271); never in holdover or on
the ring oscillator (R267, R275). -/
def SideState.tryLock (s : SideState) : SideState :=
  if s.time.lockCount < 16 || !s.is NT_STAT.ALIGNED || s.is NT_STAT.HOLDOVER || !s.is NT_STAT.REFCLK_OK || s.is NT_STAT.LOCKED then s
  else (s.set NT_STAT.LOCKED 1).evt 0x1E 0

/-- The grid phase at a produced boundary, with ALIGNED (R273). -/
def SideState.showPhase (s : SideState) : SideState :=
  let nearest := (s.clockNs + 4999) / 10000 * 10000
  let phi : Int := (s.clockNs : Int) - nearest
  let s := s.set NT_PHASE.PHI (unsignedOf phi 16)
  (s.setB NT_STAT.ALIGNED (decide (-25 ≤ phi) && decide (phi ≤ 25))).tryLock

/-! ### The servo (R271) -/

/-- logSyncInterval as a shift: T_SYNC is 10^9 / 2^LOG_SYNC ns. -/
def SideState.logSync (s : SideState) : Nat := min 4 (s.get NT_PTP.LOG_SYNC)

/-- T_SYNC in ns. -/
def SideState.syncInterval (s : SideState) : Nat := 1000000000 / 2 ^ s.logSync

/-- The rate that would remove `x` ns in one sync interval. -/
def SideState.rateFor (s : SideState) (x : Int) : Int := divNearest (x * 2 ^ (35 + s.logSync)) 1000000000

/-- The PI update, once the offset is part of the sum. -/
def SideState.piUpdate (s : SideState) (o : Int) : SideState :=
  let next := s.rate - s.rateFor o / 2 ^ s.get NT_SERVO.KP - s.rateFor s.time.sumOffset / 2 ^ s.get NT_SERVO.KI
  s.set NT_RATE.RATE (unsignedOf (clampInt (-rateLimit) rateLimit next) 32)

/-- The counts toward LOCKED and toward its loss. -/
def SideState.countLock (s : SideState) (o : Int) : SideState :=
  let th : Int := (max 1 (s.get NT_SERVO.LOCK_TH) : Nat)
  let beyond := if 2 * th < (o.natAbs : Int) then s.time.overCount + 1 else 0
  let s := { s with time := { s.time with
    lockCount := if (o.natAbs : Int) ≤ th then min 16 (s.time.lockCount + 1) else 0
    overCount := beyond } }
  if 4 ≤ beyond && s.is NT_STAT.LOCKED then s.unlock.raise 0x98 else s.tryLock

/-- What the servo does with one offset; `ptp` tells a Sync from an edge of PPS_IN, which does not bring it into LOCKED. -/
def SideState.servo (s : SideState) (o : Int) (ptp : Bool) : SideState :=
  let s := s.set NT_OFFSET.OFFSET (unsignedOf (clampInt (-2147483648) 2147483647 o) 32)
  let th := max 100 (s.get NT_SERVO.STEP_TH)
  if !s.is NT_CTRL.SERVO_EN then s
  else if th < o.natAbs ∧ s.is NT_CTRL.STEP_EN then s.stepClock (-o)
  else
    let s := { s with time := { s.time with sumOffset := s.time.sumOffset + o, slew := -o } }
    let s := if th < o.natAbs then s else s.piUpdate o
    if ptp then s.countLock o else s

/-- SYNC_RECEIVED (R271): a Sync of the selected master gives an offset; the first one ends holdover (R275). -/
def execSyncReceived (sd : Side) (info : SyncInfo) (s : State) : Host.Outcome State Fault Refusal :=
  .next (s.side sd (fun x =>
    if !x.managed then x
    else
      let x := x.count 118 1
      if info.port = 0 ∨ 2 < info.port ∨ info.port ≠ x.get NT_STAT.PORT ∨ info.domain ≠ x.get NT_PTP.DOMAIN then x
      else
        let x := { x with time := { x.time with lastSync := x.tick } }
        let x := x.set NT_STAT.HOLDOVER 0
        x.servo (info.ingress - (info.origin + info.correction + (x.get (NT_PDELAY.DELAY.nth (info.port - 1)) : Int))) true))

/-! ### The master (R269) -/

/-- The order of the best master clock algorithm, better first: the clock's attributes, then steps removed and port. -/
def announceRank (a : AnnounceInfo) : List Nat :=
  [a.priority1, a.clockClass, a.accuracy, a.variance, a.priority2, a.identity, a.stepsRemoved, a.port]

/-- Does one list of numbers come before another? -/
def before : List Nat → List Nat → Bool
  | [], _ => false
  | _ :: _, [] => false
  | a :: l, b :: m => Nat.blt a b || (a == b && before l m)

/-- The best of the data sets heard. -/
def bestMaster : List AnnounceInfo → Option AnnounceInfo
  | [] => none
  | a :: t =>
    match bestMaster t with
    | none => some a
    | some b => if before (announceRank b) (announceRank a) then some b else some a

/-- The identity the NT_GM registers hold. -/
def SideState.shownMaster (s : SideState) : Nat := s.get NT_GM.ID + s.get (NT_GM.ID.nth 1) * 2 ^ 32

/-- The choice of port and master, with NT_GM; another grandmaster identity is source 0x9F and restarts the count of 16
(R271). -/
def SideState.selectMaster (s : SideState) : SideState :=
  match bestMaster s.time.announces with
  | none => { s.set NT_STAT.PORT 0 with time := { s.time with master := none } }
  | some a =>
    let id := beBytes 8 a.identity
    let old := s.shownMaster
    let s := (s.set NT_GM.ID (leNat (id.take 4))).set (NT_GM.ID.nth 1) (leNat (id.drop 4))
    let s := (s.set NT_GM2.INACC (a.inaccuracy.getD 0xFFFFFFFF)).set NT_STAT.PORT a.port
    let s := { s with time := { s.time with master := some a } }
    if old = 0 ∨ old = s.shownMaster then s
    else
      let s := { s with time := { s.time with lockCount := 0 } }
      (s.evt 0x1E 5).raise 0x9F

/-- ANNOUNCE_RECEIVED (R269). -/
def execAnnounceReceived (sd : Side) (info : AnnounceInfo) (s : State) : Host.Outcome State Fault Refusal :=
  .next (s.side sd (fun x =>
    if !x.managed || info.port == 0 || Nat.blt 2 info.port || info.domain != x.get NT_PTP.DOMAIN then x
    else
      let rest := x.time.announces.filter (fun (a : AnnounceInfo) => !(a.port == info.port && a.identity == info.identity))
      ({ x with time := { x.time with announces := rest ++ [info] } }).selectMaster))

/-- ANNOUNCE_TIMEOUT (R269): three announce intervals passed without an Announce of the selected master. -/
def execAnnounceTimeout (sd : Side) (s : State) : Host.Outcome State Fault Refusal :=
  .next (s.side sd (fun x =>
    if !x.managed then x
    else
      match x.time.master with
      | none => x
      | some a => ({ x with time := { x.time with announces := x.time.announces.filter (fun (b : AnnounceInfo) => b != a) } }).selectMaster))

/-! ### Peer delay -/

/-- PDELAY_RESPONSE (R269): the peer delay of the link, half of the round trip less the partner's residence; a response of another
domain is none of the side's. -/
def execPdelayResponse (sd : Side) (info : PdelayInfo) (s : State) : Host.Outcome State Fault Refusal :=
  .next (s.side sd (fun x =>
    if !x.managed || info.port == 0 || Nat.blt 2 info.port || info.domain != x.get NT_PTP.DOMAIN then x
    else
      let d := ((info.t4 - info.t1) - (info.t3 - info.t2) - info.correction) / 2
      x.set (NT_PDELAY.DELAY.nth (info.port - 1)) (clampInt 0 0xFFFFFF d).toNat))

/-- A Pdelay_Req of a port (layout of IEEE 1588-2019). -/
def SideState.pdelayReq (s : SideState) (port : Nat) : List Byte := s.ptpFrame 2 0 0 port s.time.pdelaySeq (beBytes 20 0)

/-- PDELAY_REQUEST (R269): the side sends a Pdelay_Req on P1 and P2, in PRP or HSR mode with the trailer or tag of R253. -/
def execPdelayRequest (sd : Side) (s : State) : Host.Outcome State Fault Refusal :=
  .next (s.side sd (fun x =>
    if !x.managed then x
    else
      let seq := x.net.redunSeq
      let x := [1, 2].foldl (fun (x : SideState) n => if x.portUp n then x.sendPtp n 0 (16 * (x.netNow : Int)) seq (x.pdelayReq n) else x)
        x.nextRedun
      { x with time := { x.time with pdelaySeq := (x.time.pdelaySeq + 1) % 65536 } }))

/-! ### Holdover and the PPS pins (R275, R276) -/

/-- HOLDOVER_ENTRY (R275): no Sync for LOSS sync intervals by the end of the present beat. -/
def execHoldoverEntry (sd : Side) (s : State) : Host.Outcome State Fault Refusal :=
  .next (s.side sd (fun x =>
    if !x.managed || !x.is NT_STAT.LOCKED || Nat.blt ((x.produced + 1) * 10000) (x.time.lastSync + max 1 (x.get NT_PTP.LOSS) * x.syncInterval) then x
    else
      let x := (x.unlock.set NT_STAT.HOLDOVER 1).evt 0x1E 1
      ({ x with time := { x.time with slew := 0 } }).raise 0x99))

/-- PPS_IN_EDGE (R275, R276): the edge is timestamped; in holdover with PPS_REF it takes the place of a PTP offset, while the stage
manager works (R374). -/
def execPpsInEdge (sd : Side) (off : Nat) (s : State) : Host.Outcome State Fault Refusal :=
  .next (s.side sd (fun x => x.live (fun x =>
    let x := x.atOffset off
    let ns := x.netNow % 1000000000
    let x := (x.set NT_PPS_IN.NS ns).evt 0x1E 4
    if !x.is NT_CTRL.PPS_REF || !x.is NT_STAT.HOLDOVER || !x.managed then x
    else
      let d : Int := if ns ≤ 500000000 then (ns : Int) else (ns : Int) - 1000000000
      if 100000 < d.natAbs then x.raise 0x9D else x.servo d false)))

/-- PPS_OUT_EDGE (R276): the lead's PPS_OUT rises where the clock reaches a whole second plus OFFSET in the present beat; not for
an instant that a step has crossed. -/
def execPpsOutEdge (sd : Side) (s : State) : Host.Outcome State Fault Refusal :=
  .next (s.side sd (fun x => x.live (fun x =>
    let offset := clampInt (-500000) 500000 (signed (x.get NT_PPS.OFFSET) 20)
    let d := ((offset - (x.clockNs : Int)) % (1000000000 : Int)).toNat
    let due := x.clockNs + d
    if !x.is NT_CTRL.PPS_OUT_EN || !x.leads || Nat.ble x.beatLength d
      || x.time.crossed.any (fun (p : Nat × Nat) => Nat.blt p.1 due && Nat.ble due p.2) then x
    else
      let x := x.atOffset d
      { x with time := { x.time with ppsLevel := true, ppsAt := x.tick } })))

/-- What a side drives on PPS_OUT: the lead's level while PPS_OUT_EN is 1, else high impedance (R276). -/
def SideState.ppsDrive (s : SideState) : Option Bool :=
  if s.alive && s.leads && s.is NT_CTRL.PPS_OUT_EN then some s.time.ppsLevel else none

/-- The PPS_OUT pin of the package: none where nobody drives it (R276). -/
def State.ppsPad (s : State) : Option Bool := s.a.ppsDrive <|> s.b.ppsDrive

/-- PPS_OUT_END (R276): WIDTH ms have passed since PPS_OUT rose, at the latest in the present beat. -/
def execPpsOutEnd (sd : Side) (s : State) : Host.Outcome State Fault Refusal :=
  .next (s.side sd (fun x => x.live (fun x =>
    let due := x.time.ppsAt + clampNat 1 500 (x.get NT_PPS.WIDTH) * 1000000
    if !x.time.ppsLevel || Nat.ble ((x.produced + 1) * 10000) due then x
    else { x.atOffset (due - x.produced * 10000) with time := { x.time with ppsLevel := false } })))

/-! ### Steps by the host, snapshots and the reference clock -/

/-- CLOCK_STEP (R268): a completed pair on NT_STEP. -/
def execClockStep (sd : Side) (m : Master) (w : PairWrite) (s : State) : Host.Outcome State Fault Refusal :=
  .next (s.side sd (fun x => x.live (fun x => x.onPair 0x1E070 m w (fun v x => x.stepClock (signed v.toNat 32)))))

/-- TIME_SNAPSHOT (R272): one tick's time and BEATNO are latched. -/
def execTimeSnapshot (sd : Side) (m : Master) (v : Word) (s : State) : Host.Outcome State Fault Refusal :=
  .next (s.side sd (fun x => x.live (fun x => x.regWrite 0x1E048 m (fun x =>
    if v.toNat % 2 = 0 then x
    else
      let t := x.tickTime / 2 ^ 32
      let x := ((x.set NT_RD_SEC_LO.SEC (t / 1000000000)).set NT_RD_SEC_HI.SEC (t / 1000000000 / 2 ^ 32)).set
        NT_RD_SEC_HI.FRAC (x.tickTime / 2 ^ 16)
      let x := x.set NT_RD_NS.NS (t % 1000000000)
      (x.set NT_BEAT_LO.BEATNO x.beatNo).set NT_BEAT_HI.BEATNO (x.beatNo / 2 ^ 32)))))

/-- REFCLK_FAIL (R267): the side runs on its ring oscillator, neither LOCKED nor in holdover. -/
def execRefclkFail (sd : Side) (s : State) : Host.Outcome State Fault Refusal :=
  .next (s.side sd (fun x => x.live (fun x =>
    if x.time.onRing then x
    else
      let x := (x.unlock.set NT_STAT.HOLDOVER 0).set NT_STAT.REFCLK_OK 0
      ({ x with time := { x.time with onRing := true } }).raise 0x9C)))

/-- REFCLK_RESTORED (R267): the reference is back within its tolerance. -/
def execRefclkRestored (sd : Side) (s : State) : Host.Outcome State Fault Refusal :=
  .next (s.side sd (fun x => x.live (fun x => { x.set NT_STAT.REFCLK_OK 1 with time := { x.time with onRing := false } })))

/-- Since which boundary NT_RATE has stood at its limit (R277). -/
def SideState.watchRate (s : SideState) : SideState :=
  { s with time := { s.time with limitSince := if s.rate.natAbs = 17179869 then some (s.time.limitSince.getD s.produced) else none } }

/-- RATE_LIMIT_HELD (R277): by the end of the present beat NT_RATE has stood at its limit for 1 s, 100,000 boundaries; it is
reported again after a further 1 s (DESIGN CHOICE, log 114). -/
def execRateLimitHeld (sd : Side) (s : State) : Host.Outcome State Fault Refusal :=
  .next (s.side sd (fun x => x.live (fun x =>
    match x.time.limitSince with
    | none => x
    | some b =>
      if x.rate.natAbs ≠ 17179869 ∨ x.produced + 1 < b + 100000 then x
      else { x with time := { x.time with limitSince := some (x.produced + 1) } }.raise 0x9E)))

end Sys2Proof.Machine
end

