-- ==== Sys2Proof/Machine/Beat.lean ====
section
/-! DEFINITION. The beat (R11 to R16, R27): the boundary with everything that takes effect at it, the loop and scene windows,
and the arming cutoff. -/

namespace Sys2Proof.Machine

/-! ### The boundary's number (R11, R13, R274) -/

/-- A requested curtain that is still to come keeps its distance in boundaries, and with it the cues that wait for it. -/
def SideState.moveCurtain (s : SideState) (c j : Nat) : SideState :=
  let s := { s with watch := { s.watch with curtainAt := some (c + j) } }
  (s.tracks.filter (fun p => p.2.kind == .curtain && p.2.state == .ready && p.2.eff == c)).foldl
    (fun (s : SideState) p => s.setTrk p.1 { s.trk p.1 with eff := c + j }) s

/-- Beat numbers from `first` up to `last` are skipped: cues in flight with such an E end CANCELLED, SKIPPED, the latest first,
and later-ordered ones CHAIN (R13, R24); timers are discarded; a curtain that something else than a cue asked for keeps its
distance in boundaries. -/
def SideState.skipBeats (s : SideState) (first last : Nat) : SideState :=
  let j := last - first
  let gone := byOrder (s.flying.filter (fun p => Nat.ble first p.2.eff && Nat.blt p.2.eff last))
  let s := gone.reverse.foldl (fun (s : SideState) p => s.endCue p.1 .cancelled 4) s
  let lost := s.drive.timers.filter (fun (t : Timer) => (t.beat + 65536 - first % 65536) % 65536 < j)
  let s := { s with drive := { s.drive with timers := s.drive.timers.filter (fun (t : Timer) => !lost.contains t) } }
  let s := lost.foldl (fun (s : SideState) (t : Timer) =>
    (s.bump (DG_CNT.LATE.inDriveGroup (driveGroup t.dout)) 1).groupEvt (driveGroup t.dout)) s
  match s.watch.curtainAt with
  | some c => if c ≤ last ∧ first ≤ c then s.moveCurtain c j else s
  | none => s

/-- The realignment boundary: BEATNO is the index of the nearest grid point. -/
def SideState.realign (s : SideState) (next : Nat) : SideState :=
  let idx := (s.clockNs + 4999) / 10000
  let j : Int := (idx : Int) - (next : Int)
  let s := { s with beatNo := idx, time := { s.time with stepOpen := false } }
  let s := ((s.set NT_REALIGN.J (unsignedOf (clampInt (-32768) 32767 j) 16)).set NT_REALIGN.BEAT idx).evt 0x1E 3
  let s := if j = 0 then s else (s.bump NT_CNT.REALIGN 1).raise 0x9B
  (if next < idx then s.skipBeats next idx else s).voidBlock

/-- A beat begins: its number, the clock, and the grid phase. -/
def SideState.openBeat (s : SideState) : SideState :=
  let s := s.advanceClock
  let s := { s with produced := s.produced + 1, win := .edge, off := 0, fault := { s.fault with top := 0 } }
  let next := (s.beatNo + 1) % 2 ^ 64
  let s := if s.time.stepOpen && !s.tracks.any (fun p => p.2.state == .armed) then s.realign next else { s with beatNo := next }
  s.watchRate.showPhase.count 112 1

/-! ### Loops that lose their entry, and host writes of the tables -/

/-- A loop whose entry could not be read (R146): its DO waits, for its sample alone if the entry has been rewritten since; an E_DO at
electro-optic hold is the scene controller's, and a running handover of its cell ends stalled, the E_DO holding in SCENE. -/
def SideState.entryLost (s : SideState) (l : Nat) : SideState :=
  let d := s.t LT.DO l
  let s := if s.own d = .loop ∨ s.own d = .loopWait ∨ s.own d = .tune then
      (if s.entryBad l then s.toOwn d .loopWait else s.waitSample d) else s
  match s.loopCell l with
  | none => s
  | some c =>
    let s := match s.eDo c with
      | some e => if s.own e = .eoHold then s.toOwn e .scene else s
      | none => s
    if s.inHandover c || s.scene.handovers.any (fun h => h.cell == c) then
      let s := s.stall c
      { s with scene := { s.scene with stallPending := dropNat c s.scene.stallPending } }
    else s

/-- The loops whose entries were found uncorrectable since the last boundary. -/
def SideState.entriesLost (s : SideState) : SideState :=
  s.loops.eccPending.foldl SideState.entryLost { s with loops := { s.loops with eccPending := [] } }

/-- The DO of the entry that holds an element-table word. -/
def SideState.wordDos (s : SideState) (a : Nat) : List Nat :=
  if a < 0x30028000 then [(a - 0x30000000) / 16]
  else if 0x30058000 ≤ a ∧ a < 0x30088000 then
    let l := (a - 0x30058000) / 32
    s.t LT.DO l :: (match s.loopCell l with
      | some c => (s.eDo c).toList
      | none => [])
  else []

/-- The bits of a loop-table word that a calibration commit has just written (R140). -/
def calBits (a : Nat) : Nat :=
  let w := a % 32 / 4
  if w = 0 then 0x40000000 else if w = 1 ∨ w = 2 then 0x3FFFFF else if w = 6 then 0x3FFF else 0

/-- EN of a loop follows a write of its word 0 (R151, R183). -/
def SideState.enFollows (s : SideState) (l : Nat) (was : Bool) : SideState :=
  let on := s.tis LT.EN l
  if on = was then s
  else if on then s.loopEnabled l
  else
    let cell := match s.loopCell l with
      | some c => (s.eDo c).toList
      | none => []
    let s := (s.t LT.DO l :: cell).foldl (fun (s : SideState) d =>
      match s.runOf d with
      | some r => s.abortRun r []
      | none => s) s
    s.loopDisabled l

/-- One host write of table fields takes effect (R60): a beat later if a DO of its entry fires a cue edge now; a field that a
calibration commit writes at the same boundary keeps that value (R140, R194). -/
def SideState.applyHostWrite (s : SideState) (w : TableWrite) : SideState :=
  if (s.wordDos w.addr).any (fun d => s.scene.edgesNow.contains d) then
    let later : TableWrite := { w with due := s.produced + 1 }
    { s with hostWrites := s.hostWrites ++ [later] }
  else
    let lost := if s.loops.wrote.contains w.addr then Nat.land w.mask (calBits w.addr) else 0
    let s := if lost = 0 then s else s.evt 0x16 4
    let mask := w.mask - lost
    let l := (w.addr - 0x30058000) / 32
    let isLoop := Nat.ble 0x30058000 w.addr && Nat.blt w.addr 0x30088000 && w.addr % 32 == 0
    let was := s.tis LT.EN l
    let v := Nat.lor (Nat.land (s.rd w.addr 4) (0xFFFFFFFF - mask)) (Nat.land w.value mask)
    let s := (s.wr w.addr 4 v).emitMem w.addr 4
    if isLoop then s.enFollows l was else s

/-- The host writes of this boundary. -/
def SideState.applyHostWrites (s : SideState) : SideState :=
  let now := s.hostWrites.filter (fun (w : TableWrite) => w.due ≤ s.produced)
  let s := { s with hostWrites := s.hostWrites.filter (fun (w : TableWrite) => s.produced < w.due) }
  let s := now.foldl SideState.applyHostWrite s
  { s with loops := { s.loops with wrote := [] } }

/-! ### The rest of a boundary -/

/-- After a takeover or a wake all loops run again once every enabled loop has a valid sample, within 12 beats (R151). A loop of a new
lead that has none by then runs without (R141, R239). -/
def SideState.loopsReopen (s : SideState) : SideState :=
  match s.loops.openSince with
  | none => s
  | some b =>
    if Nat.ble (b + 12) s.produced || (List.range s.loopCount).all (fun l => !s.tis LT.EN l || s.lastValid l) then
      let late := s.loops.openWaits.filter (fun d => s.loops.awaitSample.contains d && s.own d == .loopWait)
      let s := { s.set HL_STAT.OPEN 0 with loops := { s.loops with openSince := none, openWaits := [] } }
      late.foldl (fun (s : SideState) d => s.toLoop d) s
    else s

/-- ALIVE at a toggle boundary (R218): it runs after start of service, or on another side after its self-test, while the side
has no major or grave fault. -/
def SideState.aliveToggle (s : SideState) : SideState :=
  if s.beatNo % 100 ≠ 0 then s
  else
    let runs := s.power.selfTested && (s.is CK_STAT.SERVICE || !s.leads) && !s.is FC_STAT.MAJOR && !s.is FC_STAT.SAFE && !s.stopped && !s.twin.graveLatch
    let s := s.setB SW_STAT.ALIVE_RUN runs
    if runs then { s with watch := { s.watch with aliveLevel := s.beatNo / 100 % 2 == 1 } } else s

/-- What a side's stage watch drives on ALIVE (R219, R397): its waveform while the side leads, from start of service on, else
high impedance. -/
def SideState.aliveDrive (s : SideState) : Option Bool :=
  if s.alive && s.leads && s.is CK_STAT.SERVICE then some s.watch.aliveLevel else none

/-- The pin ALIVE: the lead's waveform; without a lead nobody drives it (R219). -/
def State.alivePad (s : State) : Option Bool := s.a.aliveDrive <|> s.b.aliveDrive

/-- Intermission and wake at a boundary (R212, R329, R330). -/
def SideState.intermissionBoundary (s : SideState) : SideState :=
  let s := s.enterIntermission.startWake
  let s := if s.get TH_INT_STAT.STATE = 2 then s.set TH_INT_STAT.WAKE_BEATS s.wakeBeats else s
  if s.get TH_INT_STAT.STATE = 0 then s else s.voidBlock

/-- The collector, the pairs and the copy at a boundary, before any change of role. A window of the collector that an event of the
boundary itself opens loses nothing at it (R300). -/
def SideState.boundaryFirst (s : SideState) : SideState :=
  s.ageWindows.openBeat.endMajor.classMapInForce.agePairs.applyCopy

/-- Drive outputs, scene, calibration, overrides and tables at a boundary, in the order of R152. -/
def SideState.boundaryEngines (s : SideState) : SideState :=
  let cause := s.watch.degPending
  let s := s.pilotBoundary.entriesLost.tonePhases.schemesInForce.tonesAtBoundary.parkInForce.rangeStep
  let s := if s.leads then s.sceneBoundary else s.sceneAtBoundary
  let s := s.applyStaged.calAtBoundary.overridesAtBoundary.tunesAtBoundary.applyHostWrites
  s.waitsEnd.loopsReopen.monitorsAtBoundary.degradedAtBoundary cause

/-- The update of a side that has resigned, or has lost the lead without a takeover, ends FAILED; a side that was to try the image
without the role any more restarts from its previous slot (R245). -/
def SideState.updateLost (s : SideState) : SideState :=
  if s.twin.update.isNone || (s.leads && !s.twin.resignLine) then s
  else
    let s := s.loseUpdate
    if !s.leads && s.directory.trial && s.directory.failed then s.restart 3 else s

/-- Everything else of a boundary, once roles are settled. -/
def SideState.boundaryRest (s : SideState) (peerRequest bothOpen : Bool) : SideState :=
  let s := ((s.unfenceAtBoundary peerRequest).padsAtBoundary peerRequest).warmUp.showFit.makeReport.countSlot
  let s := s.keysAtBoundary.shutdownBoundary.intermissionBoundary
  let s := if s.stopped then s else s.boundaryEngines
  ((s.aliveToggle.isumCheck.scanPins.reloadRig).calRecordStart bothOpen).updateLost.reportDrops

/-- EXTEST and CLAMP give way to BYPASS as the side takes a role (R419). -/
def SideState.tapAtBoundary (s : SideState) : SideState := { s with tap := s.tapFor s.tap }

/-- A boundary of the peer passes for a side that has lost its VIN (R392). -/
def SideState.holdUpEnds (s : SideState) : SideState :=
  if s.power.powered then s else { s with power := { s.power with holdUp := s.power.holdUp - 1 } }

/-- Step 3 of an update that has not reached FIT within 2,000 beats ends it (R245). -/
def State.warmTimeout (s : State) (sd : Side) : State :=
  let x := s.on sd
  match x.twin.update with
  | none => s
  | some u => if x.alive && x.leads && u.step == 3 && Nat.ble (u.since + 2000) x.produced && !x.peerFit then s.failUpdate sd 3 else s

/-- BEAT_BOUNDARY (R11). -/
def execBeatBoundary (sd : Side) (s : State) : Host.Outcome State Fault Refusal :=
  if !(s.on sd).alive then .next s
  else
    let request := (s.on sd.peer).twin.fenceRequest
    let bothOpen := s.bothNvmOpen sd
    let s := s.put sd.peer (s.on sd.peer).holdUpEnds
    let low := (s.on sd.peer).railLow
    let s := s.settleRecords sd
    let x := (s.on sd).boundaryFirst.tapAtBoundary.compareAtBoundary (low && !(s.on sd).twin.fencePending)
    let s := s.put sd ((x.setB TW_ROLE.PEER_FENCED low).curtainPin s.curtainN)
    let s := s.abandon sd
    let t := s.side sd (fun x => (x.leaveAtBoundary (s.on sd.peer).fitNow).live (fun x => x.boundaryRest request bothOpen))
    .next ((t.lost s sd).warmTimeout sd)

/-! ### The windows (R14) -/

/-- LOOP_WINDOW (R14, R144): loops, calibration's samples, the pilot series and the cell check. -/
def execLoopWindow (sd : Side) (capacity : Nat) (s : State) : Host.Outcome State Fault Refusal :=
  .next (s.side sd (fun x => x.live (fun x =>
    if x.win != .edge then x
    else
      let x := { x with win := .loop, off := max x.off 200 }
      if x.stopped then x
      else
        let x := (if x.awake then x.runLoops capacity else x.idleLanes).calWindow.pilotCollect
        if x.awake then x.cellCheck else x)))

/-- SCENE_WINDOW (R14): overruns of the lanes, the cue checker's heartbeat, the comparison of PHYS, pre-checks and ramps. -/
def execSceneWindow (sd : Side) (heartbeat : Bool) (s : State) : Host.Outcome State Fault Refusal :=
  .next (s.side sd (fun x => x.live (fun x =>
    if x.win != .loop then x
    else
      let x := { x with win := .scene, off := max x.off 6600 }
      if x.stopped then x
      else
        let x := (x.loopOverrun.heartbeat heartbeat).physCompare
        (if x.leads then x.preChecks else x).rampWindow)))

/-! ### The arming cutoff (R15, R27) -/

/-- A pipeline or arming overrun is counted and reported. -/
def SideState.overrun (s : SideState) (f : Fld) : SideState := ((s.bump f 1).evt 0x0B 1).raise 0x5E

/-- A cue whose check stage has overrun twice ends MISSED in an entry of its own. -/
def SideState.checkMissed (s : SideState) (w : WaitingCue) : SideState :=
  if w.cue.kind = .abort then s.mailboxTaken w 0x1F
  else
    match s.openEntry with
    | none => ((s.replyWithout w (12 * 2 ^ 28 + 1 * 2 ^ 24)).count 74 1).mailboxTaken w 0x1F
    | some e => ((s.setTrk e (s.entryOfCue w)).closeCue e .missed 1).mailboxTaken w e

/-- A cue whose check stage should have run in this beat. -/
def SideState.checkOverrun (s : SideState) (w : WaitingCue) : SideState :=
  let first := !w.repeated
  if Nat.blt s.beatNo (w.checkBeat + (if first then 0 else 1)) then s
  else
    let s := { s with pipe := { s.pipe with waiting := s.pipe.waiting.erase w } }
    let s := s.overrun SC_OVR_CNT.PIPE
    if first then
      let again : WaitingCue := { w with repeated := true }
      { s with pipe := { s.pipe with waiting := again :: s.pipe.waiting } }
    else s.checkMissed w

/-- The stage of an entry is abandoned: repeated in the next beat, or the cue ends MISSED. -/
def SideState.stageOverrun (s : SideState) (e : Nat) : SideState :=
  let s := if s.pipe.solving = some (.entry e) then s.engineAbort e else s
  let s := s.overrun SC_OVR_CNT.PIPE
  let t := s.trk e
  if t.repeated then s.endCue e .missed 1
  else s.setTrk e { t with repeated := true, traced := false, nextBeat := s.beatNo + 1 }

/-- Can the cue still reach its E: a solve in the next beat at the earliest, its trace by E − 2 (R27)? -/
def SideState.reachable (s : SideState) (t : TrkEntry) : Bool :=
  t.rehearse || (match t.state with
    | .solving => Nat.ble (s.beatNo + 4) t.eff
    | .tracing => Nat.ble (s.beatNo + 3) t.eff
    | _ => true)

/-- One entry at the arming cutoff. A READY cue whose beat of arming a realignment has skipped cannot reach its E any more (R29). -/
def SideState.cutoffEntry (s : SideState) (e : Nat) : SideState :=
  let t := s.trk e
  match t.state with
  | .solving =>
    let s := if s.pipe.solving = some (.entry e) then s.stageOverrun e else s
    let t := s.trk e
    if t.state == .solving && !s.reachable t then s.endCue e .missed 1 else s
  | .tracing =>
    let s := if t.nextBeat ≤ s.beatNo then s.stageOverrun e else s
    let t := s.trk e
    if t.state == .tracing && !s.reachable t then s.endCue e .missed 1 else s
  | .ready =>
    if t.eff ≤ s.beatNo then s.endCue e .missed 1
    else if t.eff = s.beatNo + 1 then (s.overrun SC_OVR_CNT.ARM).endCue e .missed 2 else s
  | _ => s

/-- A requested curtain that was not armed in its scene window is armed in the next one. -/
def SideState.curtainOverrun (s : SideState) : SideState :=
  if s.watch.curtainAt = some (s.beatNo + 1) ∧ !s.watch.curtainArmed then
    let s := s.overrun SC_OVR_CNT.ARM
    { s with watch := { s.watch with curtainAt := some (s.beatNo + 2) } }
  else s

/-- PIPELINE_OVERRUN at the cutoff, the earliest cue first. -/
def SideState.pipelineCutoff (s : SideState) : SideState :=
  let s := s.pipe.waiting.foldl SideState.checkOverrun s
  let s := (byOrder s.flying).foldl (fun (s : SideState) p => s.cutoffEntry p.1) s
  s.curtainOverrun

/-- ARMING_CUTOFF (R14, R27, R221): overruns, then the copy window with the stage watch's self-test. -/
def execArmingCutoff (sd : Side) (selfTestOk : Bool) (s : State) : Host.Outcome State Fault Refusal :=
  .next (s.side sd (fun x => x.live (fun x =>
    if x.win != .scene then x
    else
      let x := { x with off := max x.off 8500 }
      let x := if x.leads then x.pipelineCutoff else x
      let x := { x with win := .copy }
      if x.stopped then x else x.keyTwoTest selfTestOk)))

end Sys2Proof.Machine
end

