-- ==== Sys2Proof/Machine/Pins.lean ====
section
/-! DEFINITION. The top attach field and the pins of the package (R408 to R411, R419): which pad is which drive output, monitor
input or supply, what the lead drives on the pads of the tile's service, and the IDCODE of a die. -/

namespace Sys2Proof.Machine

/-! ### The attach field (R409, R410) -/

/-- What a pad of the attach field is. -/
inductive PadKind where
  /-- D: the pad of a drive output. -/
  | drive (dout : Nat)
  /-- M: the pad of a monitor input. -/
  | monitor (mi : Nat)
  /-- H: a heater-supply pad of a domain. -/
  | heater (domain : Nat)
  /-- B: a monitor-bias pad. -/
  | bias
  /-- U: a guard pad. -/
  | guard
  /-- G: ground. -/
  | ground
  /-- TSJ: a temperature-sense line of the tile. -/
  | sense (line : Nat)
  /-- TSCL, TSDA, TVDD and TSRET: the tile service bus. -/
  | tscl
  | tsda
  | tvdd
  | tsret
  deriving DecidableEq, Repr

/-- The number of the cell (I, J), with its quadrant. -/
def padCell (i j : Nat) : Nat := 256 * (2 * (i / 16) + j / 16) + 16 * (i % 16) + j % 16

/-- The place (I, J) of a cell by its number. -/
def cellPlace (k : Nat) : Nat × Nat :=
  let q := k / 256
  (16 * (q / 2) + k % 256 / 16, 16 * (q % 2) + k % 16)

/-- Position (2, 1) of a cell: ground, or tile service (R411). -/
def servicePad (i j : Nat) : PadKind :=
  if i = 0 then .sense j
  else if i = 31 then (match j with
    | 0 => .tscl
    | 1 => .tsda
    | 2 => .tvdd
    | 3 => .tsret
    | _ => .ground)
  else .ground

/-- The pad t r:c of the attach field, by the template of its cell (R409). -/
def padKind (r c : Nat) : PadKind :=
  let i := r / 5
  let j := c / 5
  let k := padCell i j
  let h : PadKind := .heater ((i + j) % 4)
  let d (n : Nat) : PadKind := .drive (10 * k + n)
  let m (n : Nat) : PadKind := .monitor (6 * k + n)
  let row : List PadKind := match r % 5 with
    | 0 => [d 0, d 1, h, d 2, d 3]
    | 1 => [m 0, .bias, m 1, .guard, m 2]
    | 2 => [d 4, servicePad i j, h, .ground, d 5]
    | 3 => [m 3, .bias, m 4, .guard, m 5]
    | _ => [d 6, d 7, h, d 8, d 9]
  row.getD (c % 5) .ground

/-- The pad of a place in the template of cell `k`. -/
def cellPad (k : Nat) (at_ : Nat × Nat) : Nat × Nat :=
  let p := cellPlace k
  (5 * p.1 + at_.1, 5 * p.2 + at_.2)

/-- The pad t r:c of a drive output. -/
def drivePad (dout : Nat) : Nat × Nat :=
  cellPad (dout / 10) ([(0, 0), (0, 1), (0, 3), (0, 4), (2, 0), (2, 4), (4, 0), (4, 1), (4, 3), (4, 4)].getD (dout % 10) (0, 0))

/-- The pad t r:c of a monitor input. -/
def monitorPad (mi : Nat) : Nat × Nat :=
  cellPad (mi / 6) ([(1, 0), (1, 2), (1, 4), (3, 0), (3, 2), (3, 4)].getD (mi % 6) (0, 0))

/-! ### What a side drives on its pads and balls -/

/-- Does the side supply the tile's service: TVDD, the pull-ups of its bus and the sense sources (R411)? -/
def SideState.suppliesTile (s : SideState) : Bool := s.alive && s.leads

/-- The code on a bias pad, and whether the guard pads are driven to the monitor pads' voltage (R117, R409). -/
def State.biasPads (s : State) : Option Nat := s.a.biasPad <|> s.b.biasPad

/-- Are the digital balls of a side driven: it is powered, not fenced after a Grave halt, and out of power-up reset (R408)? -/
def SideState.ballsDriven (s : SideState) : Bool := s.power.powered && !s.power.inReset && !(s.fault.halted && s.is TW_ROLE.FENCED)

/-- Does the boundary register stand for the side's balls: EXTEST or CLAMP acts (R419)? -/
def SideState.scanDrives (s : SideState) : Bool := s.ballsDriven && (s.tapFor s.tap == .extest || s.tapFor s.tap == .clamp)

/-- ALIVE_A or ALIVE_B: the level of the side's waveform (R218, R406). -/
def SideState.ownAlivePad (s : SideState) : Option Bool :=
  if s.scanDrives then some (if s.side = .A then s.boundary.aliveA else s.boundary.aliveB) else if s.ballsDriven then some s.watch.aliveLevel else none

/-- INT_N, an open drain: does the side pull it low? A ball at high impedance does not (R408). -/
def SideState.intPad (s : SideState) : Bool := if s.scanDrives then !s.boundary.intN else s.ballsDriven && s.fault.intLow

/-- PPS_OUT and ALIVE as a side under boundary scan drives them, none of one that is not. -/
def SideState.scannedPps (s : SideState) : Option Bool := if s.scanDrives then some s.boundary.ppsOut else none
def SideState.scannedAlive (s : SideState) : Option Bool := if s.scanDrives then some s.boundary.alive else none

/-- The balls PPS_OUT and ALIVE of the package. -/
def State.ppsBall (s : State) : Option Bool := s.ppsPad <|> s.a.scannedPps <|> s.b.scannedPps
def State.aliveBall (s : State) : Option Bool := s.alivePad <|> s.a.scannedAlive <|> s.b.scannedAlive

/-- What a side's balls show to its boundary register (R419): the levels that the side drives, and the world's on the others. -/
def State.captured (s : State) (sd : Side) (w : BallLevels) : BallLevels :=
  let x := s.on sd
  { w with
    ppsOut := (x.ppsDrive <|> x.scannedPps).getD w.ppsOut
    intN := w.intN && !x.intPad
    aliveA := s.a.ownAlivePad.getD w.aliveA
    aliveB := s.b.ownAlivePad.getD w.aliveB
    alive := s.aliveBall.getD w.alive }

/-- The boundary register after a use of the port (R419): SAMPLE/PRELOAD takes what the balls show, or the levels shifted in; EXTEST, where
it acts, takes levels shifted in; the others select another register. -/
def SideState.boundaryAfter (s : SideState) (op : TapOp) (captured : BallLevels) : BallLevels :=
  match s.tapFor op.instr with
  | .samplePreload => op.shift.getD captured
  | .extest => op.shift.getD s.boundary
  | _ => s.boundary

/-- TAP_INSTRUCTION (R419): EXTEST and CLAMP load only on a die whose side has role NONE and is fenced, else BYPASS; the die of
an unpowered side is bypassed by the package. TRST_N resets the test logic. -/
def execTapInstruction (sd : Side) (op : TapOp) (s : State) : Host.Outcome State Fault Refusal :=
  .next (s.side sd (fun x =>
    if !x.power.powered then x
    else if op.trst then { x with tap := .idcode }
    else { x with tap := x.tapFor op.instr, boundary := x.boundaryAfter op (s.captured sd op.balls) }))

/-- The IDCODE of a die (R419). -/
def SideState.idcode (s : SideState) : Word :=
  BitVec.ofNat 32 ((Config.fuseWord s.side 1).toNat % 16 * 2 ^ 28 + 0x9512 * 2 ^ 12 + 0x4B5 * 2 + 1)

end Sys2Proof.Machine
end

