-- ==== Sys2Proof/Machine/Registers.lean ====
section
/-! DEFINITION. Reads and writes over the interconnect (R334 to R348, R350 to R355): a write at any target, the aliases of the
register pages, and 32-bit reads with what they show and clear. -/

namespace Sys2Proof.Machine

/-! ### Which register an address names -/

/-- Pages 0x0B and 0x0C under COMPAT: the offset of the CZT7256 and the register it names (R348). -/
def compatKeys : List (Nat × Nat) := [
  (0x0B040, 0x0B040), (0x0B044, 0x0B048), (0x0B048, 0x0B050), (0x0B04C, 0x0B054), (0x0B050, 0x0B058), (0x0B058, 0x0B060),
  (0x0B05C, 0x0B064), (0x0B060, 0x0B044), (0x0B064, 0x0B070), (0x0C040, 0x0C040), (0x0C044, 0x0C044), (0x0C048, 0x0C04C),
  (0x0C04C, 0x0C048), (0x0C050, 0x0C050), (0x0C054, 0x0C058), (0x0C060, 0x0C054)]

/-- The register at a page address, none at an offset that names none under COMPAT and on unimplemented pages (R334, R348). -/
def SideState.regKey (s : SideState) (key : Nat) : Option Nat :=
  let page := key / 0x1000
  if 0x32 ≤ page then none
  else if s.is ID_STRAP.COMPAT && (page == 0x0B || page == 0x0C) && Nat.ble headerEnd (key % 0x1000) then Tab.get? compatKeys key
  else some key

/-- A register that a selector register banks, in the bank selected (R110, R135, R262 to R265, R298, R314). -/
def SideState.bankKey (s : SideState) (key : Nat) : Nat :=
  let sel (n : Nat) : Nat := key + n * bankUnit
  if 0x12044 ≤ key ∧ key ≤ 0x12054 then sel (s.get DO_TG_SEL.GEN)
  else if 0x0A088 ≤ key ∧ key ≤ 0x0A098 then sel (s.get CQ_CONN_SEL.CONN)
  else if key = 0x03054 ∨ key = 0x0305C ∨ key = 0x03060 then sel (s.get FC_SEL.SOURCE)
  else if 0x1B064 ≤ key ∧ key ≤ 0x1B07C then sel s.selectedQueue
  else if key = 0x1B094 then sel (s.get QS_VLAN_SEL.ENTRY)
  else if 0x1C044 ≤ key ∧ key ≤ 0x1C058 then sel (s.get PL_SEL.POL)
  else if key = 0x1D048 then sel (sheetBank s.sheetPort (s.get GT_ADDR.BANK) * 128 + s.get GT_ADDR.INDEX)
  else if 0x1D04C ≤ key ∧ key ≤ 0x1D054 then sel (sheetBank s.sheetPort (s.get GT_ADDR.BANK))
  else key

/-! ### Writes of registers without a row of their own (R338) -/

/-- The pages marked "User" (R335). -/
def userPages : List Nat := [0x04, 0x06, 0x09, 0x0B, 0x0D, 0x18, 0x19, 0x1A, 0x1E]

/-- A written 1 clears a w1c field. -/
def SideState.writeW1c (s : SideState) (key v : Nat) : SideState :=
  let m := w1cMask key
  if m = 0 then s
  else s.set (wholeReg key) (Nat.land (s.word key).toNat (0xFFFFFFFF - Nat.land v m))

/-- SC_CUE_CTRL: ignored and logged before start of service; in intermission NET_EN and MBX_EN keep their values, and the write
is logged (R329, R401). -/
def SideState.writeCueCtrl (s : SideState) (m : Master) (v : Nat) : SideState :=
  if !s.is CK_STAT.SERVICE then s.ignored 0x0B040 m
  else if s.get TH_INT_STAT.STATE ≠ 0 then (s.set SC_CUE_CTRL.ARM v).ignored 0x0B040 m
  else s.writeRw 0x0B040 v

/-- The bit that shows whether a bit of the two registers above it is set: DG_STAT.COMP, MG_STAT.SUSPECT. -/
def SideState.showAny (s : SideState) (f : Fld) (lo : Nat) : SideState :=
  s.setB f (s.word lo != 0 || s.word (lo + 4) != 0)

/-- What a write of a register changes beside the register: the block's own state follows. -/
def SideState.afterWrite (s old : SideState) (m : Master) (key : Nat) : SideState :=
  let c := canonKey key
  if c = 0x20054 then s.showAny ⟨key - 0x10, 9, 1⟩ key
  else if c = 0x20058 then s.showAny ⟨key - 0x14, 9, 1⟩ (key - 4)
  else if c = 0x2A054 then s.showAny ⟨key - 0x14, 3, 1⟩ key
  else if c = 0x2A058 then s.showAny ⟨key - 0x18, 3, 1⟩ (key - 4)
  else if key = 0x1000C then (if s.is ⟨0x1000C, 4, 1⟩ then s else s.set DO_STAT.TIMED_LOST 0)
  else if key = 0x07060 then
    (if s.is HM_NET.EN && !old.is HM_NET.EN then
      let s := s.set (wholeReg HM_NET_STAT.BYTES.key) 0
      { s with net := { s.net with imageBlocks := [], imageEnd := none } }
    else s)
  else if key = 0x0A080 ∧ m = .host then { s with pipe := { s.pipe with nodeLost := false } }
  else if key = 0x18040 ∨ key = 0x19040 then
    let n := key / 0x1000 - 0x17
    s.setB (NP_STAT.SPEED.onPort n) (s.fastPort n)
  else if key = 0x1D040 then
    [1, 2, 3].foldl (fun (s : SideState) n =>
      if s.gatesOn n && !old.gatesOn n then (s.checkHeads n).markHeads n else s) s
  else if key = 0x12048 ∨ key = 0x1204C ∨ key = 0x12050 then
    let g := s.get DO_TG_SEL.GEN
    let k := key + g * bankUnit
    if s.word k = old.word k then s
    else (s.emit (recReg 0x12040 g 0x3FF)).emit (recReg key (s.word k).toNat (rwMask key))
  else s

/-- A 32-bit write of a register without a row of its own, beside the w1c fields: rw fields take the value, wo fields act, ro and reserved
fields ignore the data (R7, R338). -/
def SideState.plainWrite (s : SideState) (m : Master) (key v : Nat) : SideState :=
  if key % 0x1000 = PAGE_CTRL.USER_OK.key then (if userPages.contains (key / 0x1000) then s.writeRw key v else s)
  else if key = 0x0B040 then (s.writeCueCtrl m v).emitReg s key
  else if key = 0x02048 then s.writeRw key (Nat.lor v (s.get BX_CTRL.REMAP_LOCK))
  else if key = 0x0C040 ∧ s.is ID_STRAP.COMPAT then s.writeRw key (putBits v 16 1 (s.get BK_CTRL.ATTEMPT2_EN))
  else if key = 0x1E060 ∧ s.is NT_CTRL.SERVO_EN then s
  else if 0x15080 ≤ key ∧ key < 0x150C0 ∧ 96 ≤ s.get MI_SMAP_SEL.GROUP then s
  else if 0x1D04C ≤ key ∧ key ≤ 0x1D054 ∧ s.selectsOperating then s.ignored key m
  else if 0x1F040 ≤ key ∧ key < 0x1F060 then
    { s.set (wholeReg key) v with nvm := { s.nvm with keyDataAt := some s.produced } }
  else
    let s := if key = 0x1C04C ∨ key = 0x1C050 then s.refreshPolicer (s.get PL_SEL.POL) else s
    let k := s.bankKey key
    (((s.agree k).writeRw k v).afterWrite s m key).emitReg s key

/-- A write of the twin copy engine applies committed state: rw and pw fields take the value, w1c fields are cleared where 1 is written,
and no pair is touched (R338). USER_OK of a page without "User" stays 0 (R336), REMAP_LOCK can only be set (R362), and ATTEMPT2_EN keeps its
value under COMPAT (R348). -/
def SideState.copyWrite (s : SideState) (key v : Nat) : SideState :=
  let k := s.bankKey key
  let mask := if key % 0x1000 = PAGE_CTRL.USER_OK.key ∧ userPages.contains (key / 0x1000) = false then 0 else Nat.lor (rwMask k) (pwMask k)
  let v := if key = BX_CTRL.REMAP_LOCK.key then Nat.lor v (s.get BX_CTRL.REMAP_LOCK) else v
  let v := if key = 0x0C040 ∧ s.is ID_STRAP.COMPAT then putBits v 16 1 (s.get BK_CTRL.ATTEMPT2_EN) else v
  let s := ((s.transfer .twinCopy).agree k).writeW1c k v
  (s.set (wholeReg k) (Nat.lor (Nat.land (s.word k).toNat (0xFFFFFFFF - mask)) (Nat.land v mask))).afterWrite s .twinCopy key

/-- A 32-bit write by another master of a register without a row of its own; the first half of a pair waits for its
complement (R338, R340). The w1c fields are cleared first: an event of the write itself keeps its bit at 1 (R337). -/
def SideState.writeReg (s : SideState) (m : Master) (key v : Nat) : SideState :=
  if m = .twinCopy then s.copyWrite key v
  else if pairedKeys.contains key then
    let s := s.transfer m
    if !s.answers key then s
    else if mayWritePage m (key / 0x1000) then s.firstHalf key m (BitVec.ofNat 32 v) else s.denied (regAddr key) m true
  else
    let s := if s.answers key && mayWritePage m (key / 0x1000) then s.writeW1c (s.bankKey key) v else s
    s.regWrite key m (fun x => x.plainWrite m key v)

/-! ### Registers with rows of their own -/

/-- The state a command leads to. -/
def nextOf (s : State) : Host.Outcome State Fault Refusal → State
  | .next t => t
  | .fault _ => s
  | .refused _ => s

/-- A write of V to a complement register, for the pairs of R342. -/
def complementWrite (sd : Side) (m : Master) (key : Nat) (v : Word) (s : State) : Option (Host.Outcome State Fault Refusal) :=
  let w := PairWrite.complement v
  let passed := (s.on sd).twin.stPassed
  if key = 0x02044 then some (execRemap sd m w s)
  else if key = 0x03058 then some (execClassMapWrite sd m w s)
  else if key = 0x0306C then some (execMajorRelease sd m w s)
  else if key = 0x0504C then some (execNvmWriteEnable sd m w s)
  else if key = 0x0804C then some (execSwapRequest sd m w s)
  else if key = 0x08058 then some (execFencePeer sd m w s)
  else if key = 0x0808C then some (execFirmwareUpdate sd m w s)
  else if key = 0x09054 then some (execDegradedRelease sd m w (passed.contains 0) (passed.contains 1) s)
  else if key = 0x09060 then some (execCurtainRelease sd m w s)
  else if key = 0x0A050 then some (execPolicyCommit sd m w s)
  else if key = 0x0F08C then some (execRigMapCommit sd m w s)
  else if key = 0x11044 then some (execParkCommit sd m w s)
  else if key = 0x1E074 then some (execClockStep sd m w s)
  else if key = 0x1F064 then some (execKeyLoad sd m w s)
  else none

/-- A write of V to a register of the pages below 0x0E that has a row of its own. -/
def rowWriteLow (sd : Side) (m : Master) (key : Nat) (v : Word) (s : State) : Option (Host.Outcome State Fault Refusal) :=
  let n := v.toNat
  if key = 0x03090 then some (execInjectionArm sd m v s)
  else if key = 0x04070 then
    some (if bitAt n 1 && !bitAt n 0 then execIntermissionWake sd m v 1 s else execIntermissionEnter sd m v s)
  else if key = 0x0505C then some (if bitAt n 1 && !bitAt n 0 then execNvmProgramAbort sd m v s else execNvmProgram sd m v s)
  else if key = 0x06040 then some (execCounterClear sd m v s)
  else if key = 0x06044 then some (execCounterSnapshot sd m v s)
  else if key = 0x06080 then some (execDumpEnable sd m v s)
  else if key = 0x07044 then some (execHostNote sd m v s)
  else if key = 0x09058 then some (execSwCurtainReq sd m v s)
  else if key = 0x0A088 then some (execConnConfig sd m true v s)
  else if key = 0x0A08C then some (execConnConfig sd m false v s)
  else if key = 0x0A0B8 then some (execMailboxCue sd m (s.on sd).off v s)
  else if key = 0x0B060 then some (execScAbort sd m v s)
  else if key = 0x0D070 then some (execHandoverRetry sd m v s)
  else if key = 0x0D078 then some (execMissRelease sd m v s)
  else none

/-- A write of V to a register from page 0x0E on that has a row of its own. -/
def rowWriteHigh (sd : Side) (m : Master) (key : Nat) (v : Word) (s : State) : Option (Host.Outcome State Fault Refusal) :=
  let n := v.toNat
  if key = 0x0E054 then
    some (match bits n 14 2 with
      | 0 => execCalReqTrim sd m v s
      | 1 => execCalReqSurvey sd m v s
      | 2 => execCalReqProbe sd m v s
      | _ => execCalReqRound sd m v s)
  else if key = 0x10054 then some (execManualWrite sd m v s)
  else if key = 0x11050 then some (execRangeChange sd m v s)
  else if key = 0x12044 then some (execToneCommit sd m v s)
  else if key = 0x13070 then some (execRmeasStart sd m v s)
  else if key = 0x14054 then some (execChannelSet sd m v s)
  else if key = 0x15040 then some (execSlotMapSelect sd m v s)
  else if key = 0x150C0 then some (execSlotMapCommit sd m v s)
  else if key = 0x16058 then some (if bits n 16 2 = 2 then execOverrideRelease sd m v s else execOverrideTake sd m v s)
  else if key = 0x17044 then some (execAutotuneStart sd m v s)
  else if key = 0x1B064 then some (execShaperConfig sd m false v s)
  else if key = 0x1B068 then some (execShaperConfig sd m true v s)
  else if key = 0x1C044 then some (execPolicerEnable sd m v s)
  else if key = 0x1D048 then some (execCallSheetData sd m (some v) s)
  else if key = 0x1D064 then some (execCallSheetChange sd m v s)
  else if key = 0x1E048 then some (execTimeSnapshot sd m v s)
  else none

/-- A write of V to a register of a drive group that has a row of its own. -/
def groupWrite (sd : Side) (m : Master) (key : Nat) (v : Word) (s : State) : Option (Host.Outcome State Fault Refusal) :=
  let g := (key / 0x1000 - 0x20) * 16 + (key % 0x1000 - 0x40) / 0x20
  let c := canonKey key
  if c = 0x20040 then some (execSchemeChange sd m g v s)
  else if c = 0x20048 then some (execFifoWrite sd m g v s)
  else if c = 0x20050 then some (execTimerArm sd m g v s)
  else none

/-- What a write of V to a register does where the register has a row of its own. -/
def rowWrite (sd : Side) (m : Master) (key : Nat) (v : Word) (s : State) : Option (Host.Outcome State Fault Refusal) :=
  match (if m = .twinCopy then none else complementWrite sd m key v s) with
    | some r => some r
    | none =>
      match rowWriteLow sd m key v s with
      | some r => some r
      | none =>
        match rowWriteHigh sd m key v s with
        | some r => some r
        | none => groupWrite sd m key v s

/-- A 32-bit write of a register of a side (R338). -/
def writeKey (sd : Side) (m : Master) (key : Nat) (v : Word) (s : State) : State :=
  match (s.on sd).regKey key with
  | none => s.side sd (fun x => x.live (fun x =>
      let x := x.transfer m
      if 0x32 ≤ key / 0x1000 then x else x.intervene key m))
  | some k =>
    match rowWrite sd m k v s with
    | some r => nextOf s r
    | none => s.side sd (fun x => x.live (fun x => x.writeReg m k v.toNat))

/-- A write through an alias: the rw fields act as a 32-bit write of the resulting value, every other field is untouched and
the write counts as one to its page (R339). -/
def aliasKey (sd : Side) (m : Master) (kind : AliasKind) (key : Nat) (v : Word) (s : State) : State :=
  let x := s.on sd
  let k := x.bankKey ((x.regKey key).getD key)
  let mask := rwMask k
  if (x.regKey key).isNone || mask = 0 || key / 0x1000 ≥ 0x32 then
    s.side sd (fun x => x.live (fun x => x.regWrite key m (fun x => x)))
  else writeKey sd m key (BitVec.ofNat 32 (aliasValue kind (x.word k).toNat mask v.toNat)) s

/-- A 32-bit write at the register pages, or through one of their aliases. -/
def writePages (sd : Side) (m : Master) (addr : Nat) (v : Word) (s : State) : State :=
  let key := addr % 0x100000
  if !(s.on sd).answers key then s
  else
    match aliasOf addr with
    | none => writeKey sd m key v s
    | some k => aliasKey sd m k key v s

/-! ### Writes at every target -/

/-- A write outside the register pages that gets no error response: working SRAM (at address 0 after the remap, R362), the
element tables word by word, the NVM window (ignored and logged outside NV_PROG, R375), the network buffer and the twin
mailbox. -/
def SideState.writeMemory (s : SideState) (m : Master) (addr width : Nat) (v hi : Word) : SideState :=
  let b := leBytes width (v.toNat + hi.toNat * 2 ^ 32)
  match targetOf addr with
  | 0 => s.wrBytes (0x10000000 + addr) b
  | 3 =>
    let s := s.writeTableWord m addr v.toNat
    if width = 8 then s.writeTableWord m (addr + 4) hi.toNat else s
  | 4 => s.accessEvent addr m
  | 5 => (s.writeFrames (addr % 0x100000) b).wrBytes addr b
  | _ => s.wrBytes addr b

/-- REGISTER_WRITE (R338): a write of a master at any target. The register pages and the element tables take a 64-bit write as two 32-bit
writes, the lower address first. -/
def execRegisterWrite (sd : Side) (m : Master) (addr width : Nat) (v : BusData) (s : State) : Host.Outcome State Fault Refusal :=
  let x := s.on sd
  if !x.alive || !isWidth width then .next s
  else if (accessReason x.remapped m addr width true false 1).isSome then
    .next (s.side sd (fun x => x.live (fun x => (x.transfer m).accessError m addr width true false 1)))
  else if targetOf addr = 2 then
    let s := writePages sd m addr v.low s
    .next (if width = 8 then writePages sd m (addr + 4) v.high s else s)
  else .next (s.side sd (fun x => x.live (fun x => (x.transfer m).writeMemory m addr width v.low v.high)))

/-- ALIAS_WRITE (R339): a 32-bit write of D to the register at `addr` of the pages, through the alias. -/
def execAliasWrite (sd : Side) (m : Master) (kind : AliasKind) (addr : Nat) (v : Word) (s : State) :
    Host.Outcome State Fault Refusal :=
  let x := s.on sd
  let key := addr % 0x100000
  if !x.alive || targetOf addr != 2 then .next s
  else if (accessReason x.remapped m addr 4 true false 1).isSome then
    .next (s.side sd (fun x => x.live (fun x => (x.transfer m).accessError m addr 4 true false 1)))
  else if !x.answers key then .next s
  else .next (aliasKey sd m kind key v s)

/-! ### What a register shows -/

/-- The pages with a pending event, as a bit vector from a page on (R314). -/
def SideState.pendingPages (s : SideState) (first n : Nat) : Nat :=
  (List.range n).foldl (fun a p => if s.pend (first + p) != 0 then a + 2 ^ p else a) 0

/-- The CRC over the class map as stored (R314). -/
def SideState.mapCrc (s : SideState) : Nat :=
  crc32c ((List.range 256).map (fun i => leBytes 4 (s.word (FC_MAP.CLASS.bank i).key).toNat)).flatten

/-- The fuse bits of the identity page (R347). -/
def SideState.identity (s : SideState) (key w : Nat) : Nat :=
  let fuse (i : Nat) : Nat := (Config.fuseWord s.side i).toNat
  if key = 0x00040 then w % 0x10000 + fuse 0 % 2 * 0x10000
  else if key = 0x00044 then fuse 1 % 0x10000
  else if key = 0x0004C then fuse 2
  else fuse 3

/-- One of the three words of a rehearsal's plan (R176). -/
def planWord (p : Plan) (i : Nat) : Nat :=
  match i with
  | 0 => p.cells + p.toggles * 0x10000
  | 1 => p.outs + p.blanks * 0x10000
  | _ => p.clamps + p.maxDev * 0x10000 + 0x40000000

/-- ms to the deadline of the selected connection, rounded up; 0xFFFF for none (R298). -/
def SideState.connLeft (s : SideState) : Nat :=
  match Tab.get? s.pipe.deadlines (s.get CQ_CONN_SEL.CONN) with
  | none => 0xFFFF
  | some d => min 0xFFFF ((d - s.netNow + 999999) / 1000000)

/-- The bytes held of the module that RG_MB_SEL selects (R390). -/
def SideState.moduleBytes (s : SideState) : List Byte := Tab.getD s.nvm.modules (s.get RG_MB_SEL.MODULE) []

/-- MI_CH_STAT of the selected channel (R135). -/
def SideState.channelStat (s : SideState) : Nat :=
  let mi := s.get MI_CH_SEL.MI
  let c := s.chan mi
  c.range + (if c.wide then 4 else 0) + s.t MT.AUTORANGE mi * 8 + min 3 c.settle * 16 + Tab.getD s.mon.last mi 0 * 0x10000

/-- HL_OWN_STAT of the selected DO (R150). -/
def SideState.ownStat (s : SideState) : Nat :=
  let d := s.get HL_OWN_SEL.DO
  (s.own d).code + (match s.loopOf d with | some l => l * 16 + 0x20000 | none => 0)

/-- HL_STAT with the throttle step and the number of loops with EN at 1 (R158). -/
def SideState.loopStat (s : SideState) (w : Nat) : Nat :=
  let n := (List.range s.loopCount).countP (fun l => s.tis LT.EN l)
  putBits (putBits w 1 2 (s.get TH_STAT.STEP)) 4 13 n

/-- A queue's fill, whether its head is held, its credit in bytes and its longest window (R264). -/
def SideState.queueView (s : SideState) (key : Nat) : Nat :=
  let k := s.selectedQueue
  let port := k / 8
  let q := k % 8
  if key = 0x1B070 then
    s.queueLevel port q + (if (s.queue port q).head?.any (fun f => !s.admits port q (lengthOf f.bytes)) then 0x2000 else 0)
  else if key = 0x1B074 then unsignedOf (Tab.getD (s.refreshShaper k).net.credit k 0 / 1000000) 32
  else s.longestWindow port q

/-- The counters that PC_SEL selects, as held and as a reader's shadow holds them (R366, R371). -/
def SideState.counterView (s : SideState) (shadow key : Nat) : Nat :=
  let k := s.get PC_SEL.COUNTER
  let diag := s.is PC_SEL.DIAG
  let held := if diag then Tab.getD s.perf.holdDiag (k % 16) 0 else Tab.getD s.perf.hold k 0
  let live := s.selectedCounter
  let sh := Tab.getD s.perf.shadow shadow (0, false)
  if key = 0x0604C then held % 2 ^ 32
  else if key = 0x06050 then held / 2 ^ 32 + (if !diag && Tab.getD s.perf.holdOvf k false then 0x10000 else 0)
  else if key = 0x06054 then live.1 % 2 ^ 32
  else sh.1 + (if sh.2 then 0x10000 else 0)

/-- TH_VAL of the selected channel (R315); a tile line is valid on the lead alone (R322). -/
def SideState.channelView (s : SideState) : Nat :=
  let n := s.get TH_SEL.CHANNEL
  let h := s.hk n
  let tile := Nat.ble 32 n && Nat.blt n 64
  unsignedOf h.value 16 + (if h.valid && (s.leads || !tile) then 0x10000 else 0) + (if h.subst then 0x20000 else 0)

/-- The registers that show the present state of their blocks, in pages below 0x0E; none for a register that holds its word. -/
def SideState.viewLow (s : SideState) (shadow key w : Nat) : Option Nat :=
  if key = 0x00040 ∨ key = 0x00044 ∨ key = 0x0004C ∨ key = 0x00050 then some (s.identity key w)
  else if key = 0x0305C then
    let src := s.get FC_SEL.SOURCE
    some (s.countOf src + min 65535 (Tab.getD s.fault.windows src 0) * 0x10000)
  else if key = 0x03064 then some s.mapCrc
  else if key = 0x03080 then some (s.pendingPages 0 32)
  else if key = 0x03084 then some (s.pendingPages 32 18)
  else if key = 0x0405C then some s.channelView
  else if key = 0x0604C ∨ key = 0x06050 ∨ key = 0x06054 ∨ key = 0x06058 then some (s.counterView shadow key)
  else if key = 0x0A098 then some s.connLeft
  else if key = 0x0B054 then some (s.trk (s.get SC_TRK_SEL.ENTRY)).stat
  else if key = 0x0B058 then some ((s.trk (s.get SC_TRK_SEL.ENTRY)).eff % 2 ^ 32)
  else if key = 0x0B05C then some ((s.trk (s.get SC_TRK_SEL.ENTRY)).eff / 2 ^ 32)
  else if key = 0x0C040 ∧ s.is ID_STRAP.COMPAT then some (putBits w 16 1 0)
  else if key = 0x0C048 then some (s.engineView w)
  else if key = 0x0C04C ∧ s.is ID_STRAP.COMPAT then some (putBits w 23 2 0)
  else if key = 0x0D064 ∨ key = 0x0D068 ∨ key = 0x0D06C then
    some (match (s.trk (s.get SH_REH_SEL.ENTRY)).plan with
      | some p => planWord p ((key - 0x0D064) / 4)
      | none => 0)
  else none

/-- The same from page 0x0E on. -/
def SideState.viewHigh (s : SideState) (key w : Nat) : Option Nat :=
  if key = 0x0F110 then some (if s.moduleBytes.isEmpty then 0 else crc32c s.moduleBytes)
  else if 0x0F140 ≤ key ∧ key < 0x0F180 then
    some (leNat (slice s.moduleBytes (64 * s.get RG_MB_SEL.QUARTER + (key - 0x0F140)) 4))
  else if key = 0x14058 then some s.channelStat
  else if key = 0x16044 then some (s.loopStat w)
  else if key = 0x16054 then some s.ownStat
  else if key = 0x1B070 ∨ key = 0x1B074 ∨ key = 0x1B07C then some (s.queueView key)
  else if key = 0x1C054 then
    let i := s.get PL_SEL.POL
    some (Tab.getD (s.refreshPolicer i).net.tokens i 0 / 1000000)
  else if canonKey key = 0x30040 ∧ 0x30000 ≤ key then
    let lane := (key / 0x1000 - 0x30) * 16 + (key % 0x1000 - 0x40) / 0x10
    some (putBits w 0 8 ((s.loopCount + 31 - lane) / 32))
  else none

/-- What a 32-bit read of a register returns (R7, R336, R338): wo fields read zero. `shadow` names the reader's shadow of the
live counters. -/
def SideState.view (s : SideState) (shadow key : Nat) : Nat :=
  let page := key / 0x1000
  let k := s.bankKey key
  let w := (s.word k).toNat
  if key % 0x1000 = EVT_PEND.PEND.key then (s.pend page).toNat
  else if key % 0x1000 = PAGE_ID.PAGE.key ∧ s.is ID_STRAP.COMPAT ∧ (page = 0x0B ∨ page = 0x0C) then putBits w 16 8 1
  else
    let v := match s.viewLow shadow key w with
      | some v => v
      | none => (s.viewHigh key w).getD w
    Nat.land v (0xFFFFFFFF - woMask k)

/-- Is a page visible through BAR2 (R345)? -/
def SideState.userPage (s : SideState) (key : Nat) : Bool :=
  userPages.contains (key / 0x1000) && s.is (PAGE_CTRL.USER_OK.onPage (key / 0x1000))

/-- What a BAR2 read at a register key returns (R345): on a page that carries "User" with USER_OK at 1 what a 32-bit read would,
with pw fields zero and nothing cleared; else zero. -/
def SideState.userView (s : SideState) (key : Nat) : Nat :=
  if s.userPage key then
    match s.regKey key with
    | none => 0
    | some r => Nat.land (s.view 7 r) (0xFFFFFFFF - pwMask (s.bankKey r))
  else 0

/-! ### Reads (R7, R338) -/

/-- The lanes that a narrow read addresses in a word. -/
def lanes (v at_ width : Nat) : Word := BitVec.ofNat 32 (v / 2 ^ (8 * at_) % 2 ^ (8 * width))

/-- A read of `width` bytes at an address, made of 32-bit reads: `word` is the 32-bit read of an address, and `peek` what a narrow one makes
of its word. A 64-bit read takes the lower address first (R338). -/
def SideState.readWide (s : SideState) (addr width : Nat) (word peek : SideState → Nat → SideState) : SideState :=
  if width = 8 then
    let s := word s addr
    let low := s.readBack
    let s := word s (addr + 4)
    { s with readBack := low, readHigh := s.readBack }
  else if width = 4 then { word s addr with readHigh := 0 }
  else
    let s := peek s (addr / 4 * 4)
    { s with readBack := lanes s.readBack.toNat (addr % 4) width, readHigh := 0 }

/-- The reads that change something beside rc fields: GT_DATA and PC_LIVE_LO (R265, R366). -/
def SideState.readEffects (s : SideState) (m : Master) (key : Nat) : SideState :=
  if key = 0x1D048 then s.set GT_ADDR.INDEX ((s.get GT_ADDR.INDEX + 1) % 128)
  else if key = 0x06054 then s.readLive m.code
  else s

/-- The rc fields of a register are cleared. -/
def SideState.clearRc (s : SideState) (key : Nat) : SideState :=
  let m := rcMask key
  if m = 0 then s else s.set (wholeReg key) (Nat.land (s.word key).toNat (0xFFFFFFFF - m))

/-- A 32-bit read of a register; through an alias it has no side effect (R339). -/
def SideState.readWord (s : SideState) (m : Master) (key : Nat) (direct : Bool) : SideState :=
  match s.regKey key with
  | none => { s with readBack := 0 }
  | some r =>
    let k := s.bankKey r
    let s := { s with readBack := BitVec.ofNat 32 (s.view m.code r) }
    if direct then (s.clearRc k).readEffects m r else s

/-- A narrow read of a register: no rc field is cleared and nothing is latched (R338, R366), but it is an access to GT_DATA (R265). -/
def SideState.peekWord (s : SideState) (m : Master) (key : Nat) (direct : Bool) : SideState :=
  let t := s.readWord m key false
  if direct && s.regKey key == some 0x1D048 then t.readEffects m 0x1D048 else t

/-- A read of a register key with its width. -/
def SideState.readRegister (s : SideState) (m : Master) (key width : Nat) (direct : Bool) : SideState :=
  s.readWide key width (fun x k => x.readWord m k direct) (fun x k => x.peekWord m k direct)

/-- A 32-bit read through BAR2: PC_LIVE_LO latches the shadow of the BAR2 reads (R345, R366). -/
def SideState.userWord (s : SideState) (key : Nat) : SideState :=
  let t := { s with readBack := BitVec.ofNat 32 (s.userView key) }
  if key = 0x06054 && s.userPage key then t.readLive 7 else t

/-- A read through BAR2 with its width. -/
def SideState.readUser (s : SideState) (key width : Nat) : SideState :=
  s.readWide key width (fun x k => x.userWord k) (fun x k => { x with readBack := BitVec.ofNat 32 (x.userView k) })

/-- The register fields that REG records carry (R247): those sent when they change, the tone generators', and those of the
housekeeping round. -/
def copiedFields : List (Nat × Nat) := copiedRegs ++ [
  (0x12040, 0x3FF), (0x12044, 0x3FFF0003), (0x12048, 0xFFFFFFFF), (0x1204C, 0xFF), (0x12050, 0xFFFF0FFF),
  (0x04060, 0xFFFFFFFF), (0x04054, 0xFFFFFFFF), (0x04048, 0x60)]

/-- A word of the copied-field list (R354). -/
def copiedListWord (off : Nat) : Nat :=
  if off = 0 then copiedFields.length
  else
    match copiedFields[(off - 4) / 8]? with
    | none => 0
    | some p => if (off - 4) % 8 = 0 then p.1 / 0x1000 + p.1 % 0x1000 * 0x100 else p.2

/-- A word of the element-table target: the status windows show their blocks' own storage (R353). -/
def SideState.tableWord (s : SideState) (a : Nat) : Nat :=
  if 0x30400000 ≤ a ∧ a < 0x30403000 then
    let mi := (a - 0x30400000) / 2
    s.sample mi + s.sample (mi + 1) * 0x10000
  else if 0x30405000 ≤ a ∧ a < 0x30406000 then copiedListWord (a - 0x30405000)
  else s.rd a 4

/-- A read of an element-table word: an uncorrectable word gives an error response, a correctable one is corrected and written
back (R422). -/
def SideState.readTable (s : SideState) (m : Master) (a : Nat) : SideState :=
  if s.eccHard.contains a then (s.owe [a]).eccError BX_ECC_ET.UNCORR 0x1C a m.code
  else
    let s := { s with readBack := BitVec.ofNat 32 (s.tableWord a) }
    if s.eccSoft.contains a then
      ({ s with eccSoft := dropNat a s.eccSoft }).eccCorrected BX_ECC_ET.CORR
    else s

/-- A word of the boot ROM. -/
def bootRomWord (a : Nat) : Nat := leNat ((List.range 4).map (fun i => Config.bootRomByte (a % 0x20000 + i)))

/-- A word of a target whose reads change nothing. -/
def SideState.plainWord (s : SideState) (addr : Nat) : Nat :=
  match targetOf addr with
  | 0 => if s.remapped && decide (addr < 0x20000) then s.rd (0x10000000 + addr) 4 else bootRomWord addr
  | 5 => leNat ((List.range 4).map (fun i => s.bufferByte (addr % 0x100000 + i)))
  | _ => s.rd addr 4

/-- A read at any target. A 64-bit read of the element tables of which a word is uncorrectable gets one error response. -/
def SideState.readTarget (s : SideState) (m : Master) (addr width : Nat) : SideState :=
  match targetOf addr with
  | 2 =>
    let key := addr % 0x100000
    if s.answers key then s.readRegister m key width (aliasOf addr).isNone else s
  | 3 =>
    if width = 8 ∧ s.eccHard.contains addr = false ∧ s.eccHard.contains (addr + 4) = true then s.readTable m (addr + 4)
    else if width = 8 ∧ s.eccHard.contains addr = true then s.readTable m addr
    else if width < 4 ∧ s.eccHard.contains (addr / 4 * 4) = true then s.readTable m (addr / 4 * 4)
    else s.readWide addr width (fun x a => x.readTable m a) (fun x a => x.readTable m a)
  | _ =>
    let word (x : SideState) (a : Nat) : SideState := { x with readBack := BitVec.ofNat 32 (x.plainWord a) }
    s.readWide addr width word word

/-- A read of a register compares the copies of its voted fields, and a read of FC_MAP makes its vote (R310, R343); one of FC_MAP_CRC reads
every entry of the map. -/
def SideState.compareRead (s : SideState) (m : Master) (key : Nat) (peerLow : Bool) : SideState :=
  match s.regKey key with
  | none => s
  | some r =>
    if r = FC_MAP_CRC.CRC.key then s.compareCopies (fun k => k % bankUnit == FC_MAP.CLASS.key) peerLow 0xFF
    else if tvMask (s.bankKey r) = 0 then s
    else (if r = FC_MAP.CLASS.key then s.mapRead else s).compareCopies (fun k => k == s.bankKey r) peerLow m.code

/-- The compares of a read of the register pages, of one word or of two. -/
def SideState.compareReads (s : SideState) (m : Master) (key width : Nat) (peerLow : Bool) : SideState :=
  let s := s.compareRead m (key / 4 * 4) peerLow
  if width = 8 then s.compareRead m (key + 4) peerLow else s

/-- CLEARING_READ (R7): a read with its width, through BAR0 or another master's port, or through BAR2 (R345).
After a Grave halt the endpoint still answers reads of page 0x03 (R303). -/
def execClearingRead (sd : Side) (m : Master) (r : BusRead) (s : State) : Host.Outcome State Fault Refusal :=
  let ⟨addr, width, bar2⟩ := r
  let x := s.on sd
  let low := (s.on sd.peer).railLow && !x.twin.fencePending
  if !isWidth width then .next s
  else if x.fault.halted then
    .next (if bar2 = false ∧ m = .host ∧ targetOf addr = 2 ∧ addr % width = 0 ∧ addr % 0x100000 / 0x1000 = 0x03 ∧ x.power.powered ∧ !x.power.inReset
      then s.put sd (x.readRegister m (addr % 0x100000) width (aliasOf addr).isNone) else s)
  else
    .next (s.side sd (fun x => x.live (fun x =>
      if bar2 then
        let key := addr % 0x40000
        let x := x.transfer .host
        if key % width ≠ 0 then x.unaligned (regAddr key) .host false
        else if !x.answers key then x
        else (if x.userPage key then x.compareReads .host key width low else x).readUser key width
      else if (accessReason x.remapped m addr width false false 1).isSome then (x.transfer m).accessError m addr width false false 1
      else
        let x := x.transfer m
        ((if targetOf addr = 2 then x.compareReads m (addr % 0x100000) width low else x)).readTarget m addr width)))

end Sys2Proof.Machine
end

