-- ==== Sys2Proof/Machine/Dispatch.lean ====
section
/-! DEFINITION. The dispatch of commands to their meanings, one arm per constructor of Instr. -/

namespace Sys2Proof.Machine

open Sys2Proof

/-- What one command does to everything but the queue. -/
def exec (i : Instr) (s : State) : Host.Outcome State Fault Refusal :=
  match i with
  | .beatBoundary sd => Sys2Proof.Machine.execBeatBoundary sd s
  | .loopWindow sd capacity => Sys2Proof.Machine.execLoopWindow sd capacity s
  | .sceneWindow sd heartbeat => Sys2Proof.Machine.execSceneWindow sd heartbeat s
  | .armingCutoff sd selfTestOk => Sys2Proof.Machine.execArmingCutoff sd selfTestOk s
  | .commitMarker sd => Sys2Proof.Machine.execCommitMarker sd s
  | .heartbeatJudge sd => Sys2Proof.Machine.execHeartbeatJudge sd s
  | .cueFrame sd off port vid src payload => Sys2Proof.Machine.execCueFrame sd off port vid src payload s
  | .fragmentTimeout sd assembly => Sys2Proof.Machine.execFragmentTimeout sd assembly s
  | .cueCheck sd => Sys2Proof.Machine.execCueCheck sd s
  | .solve sd => Sys2Proof.Machine.execSolve sd s
  | .solveDone sd memoryFault => Sys2Proof.Machine.execSolveDone sd memoryFault s
  | .solveBudget sd => Sys2Proof.Machine.execSolveBudget sd s
  | .rehearsalWaitExpiry sd entry => Sys2Proof.Machine.execRehearsalWaitExpiry sd entry s
  | .curtainSolve sd memoryFault => Sys2Proof.Machine.execCurtainSolve sd memoryFault s
  | .trace sd entry => Sys2Proof.Machine.execTrace sd entry s
  | .arm sd entry => Sys2Proof.Machine.execArm sd entry s
  | .curtainArm sd => Sys2Proof.Machine.execCurtainArm sd s
  | .blankStart sd out => Sys2Proof.Machine.execBlankStart sd out s
  | .blankEnd sd out => Sys2Proof.Machine.execBlankEnd sd out s
  | .handoverStall sd cell => Sys2Proof.Machine.execHandoverStall sd cell s
  | .scAbort sd m v => Sys2Proof.Machine.execScAbort sd m v s
  | .swCurtainReq sd m v => Sys2Proof.Machine.execSwCurtainReq sd m v s
  | .curtainNAssert => Sys2Proof.Machine.execCurtainNAssert s
  | .tDegExpiry sd => Sys2Proof.Machine.execTDegExpiry sd s
  | .curtainRelease sd m w => Sys2Proof.Machine.execCurtainRelease sd m w s
  | .degradedRelease sd m w k1Ok k2Ok => Sys2Proof.Machine.execDegradedRelease sd m w k1Ok k2Ok s
  | .policyCommit sd m w => Sys2Proof.Machine.execPolicyCommit sd m w s
  | .policyInForce sd => Sys2Proof.Machine.execPolicyInForce sd s
  | .k1Selftest sd ok => Sys2Proof.Machine.execK1Selftest sd ok s
  | .pilotBlockEnd sd => Sys2Proof.Machine.execPilotBlockEnd sd s
  | .slotEnd sd conv slot raw overload => Sys2Proof.Machine.execSlotEnd sd conv slot raw overload s
  | .bankSwitch sd => Sys2Proof.Machine.execBankSwitch sd s
  | .slotMapSelect sd m v => Sys2Proof.Machine.execSlotMapSelect sd m v s
  | .slotMapCommit sd m v => Sys2Proof.Machine.execSlotMapCommit sd m v s
  | .channelSet sd m v => Sys2Proof.Machine.execChannelSet sd m v s
  | .manualWrite sd m v => Sys2Proof.Machine.execManualWrite sd m v s
  | .timerArm sd m group v => Sys2Proof.Machine.execTimerArm sd m group v s
  | .timerFire sd dout => Sys2Proof.Machine.execTimerFire sd dout s
  | .fifoWrite sd m group v => Sys2Proof.Machine.execFifoWrite sd m group v s
  | .queueTick sd group => Sys2Proof.Machine.execQueueTick sd group s
  | .schemeChange sd m group v => Sys2Proof.Machine.execSchemeChange sd m group v s
  | .parkCommit sd m w => Sys2Proof.Machine.execParkCommit sd m w s
  | .parkApply sd => Sys2Proof.Machine.execParkApply sd s
  | .rangeChange sd m v => Sys2Proof.Machine.execRangeChange sd m v s
  | .complianceLoss sd dout => Sys2Proof.Machine.execComplianceLoss sd dout s
  | .rmeasStart sd m v => Sys2Proof.Machine.execRmeasStart sd m v s
  | .rmeasDone sd readings => Sys2Proof.Machine.execRmeasDone sd readings s
  | .toneCommit sd m v => Sys2Proof.Machine.execToneCommit sd m v s
  | .overrideTake sd m v => Sys2Proof.Machine.execOverrideTake sd m v s
  | .overrideRelease sd m v => Sys2Proof.Machine.execOverrideRelease sd m v s
  | .autotuneStart sd m v => Sys2Proof.Machine.execAutotuneStart sd m v s
  | .autotuneTimeout sd loop => Sys2Proof.Machine.execAutotuneTimeout sd loop s
  | .handoverRetry sd m v => Sys2Proof.Machine.execHandoverRetry sd m v s
  | .missRelease sd m v => Sys2Proof.Machine.execMissRelease sd m v s
  | .calReqTrim sd m v => Sys2Proof.Machine.execCalReqTrim sd m v s
  | .calReqSurvey sd m v => Sys2Proof.Machine.execCalReqSurvey sd m v s
  | .calReqProbe sd m v => Sys2Proof.Machine.execCalReqProbe sd m v s
  | .calReqRound sd m v => Sys2Proof.Machine.execCalReqRound sd m v s
  | .calPeriod sd => Sys2Proof.Machine.execCalPeriod sd s
  | .calRunStart sd => Sys2Proof.Machine.execCalRunStart sd s
  | .calRunEnd sd dout => Sys2Proof.Machine.execCalRunEnd sd dout s
  | .calCommit sd => Sys2Proof.Machine.execCalCommit sd s
  | .calStageExpire sd => Sys2Proof.Machine.execCalStageExpire sd s
  | .ageingRecord sd => Sys2Proof.Machine.execAgeingRecord sd s
  | .rigMapCommit sd m w => Sys2Proof.Machine.execRigMapCommit sd m w s
  | .backgroundVerify sd => Sys2Proof.Machine.execBackgroundVerify sd s
  | .tileReadRetry sd => Sys2Proof.Machine.execTileReadRetry sd s
  | .elementTableWrite sd m addr v => Sys2Proof.Machine.execElementTableWrite sd m addr v s
  | .entryRewrite sd addr => Sys2Proof.Machine.execEntryRewrite sd addr s
  | .copyRecord sd bytes => Sys2Proof.Machine.execCopyRecord sd bytes s
  | .markerReceived sd bytes crcOk => Sys2Proof.Machine.execMarkerReceived sd bytes crcOk s
  | .peerPulse sd offset width => Sys2Proof.Machine.execPeerPulse sd offset width s
  | .resignationPulse sd => Sys2Proof.Machine.execResignationPulse sd s
  | .takeover sd => Sys2Proof.Machine.execTakeover sd s
  | .fenceSensed sd t10ns => Sys2Proof.Machine.execFenceSensed sd t10ns s
  | .fenceTimeout sd => Sys2Proof.Machine.execFenceTimeout sd s
  | .healthReport sd w0 w1 w2 w3 => Sys2Proof.Machine.execHealthReport sd w0 w1 w2 w3 s
  | .bulkCopyStart sd => Sys2Proof.Machine.execBulkCopyStart sd s
  | .bulkCopyVerified sd => Sys2Proof.Machine.execBulkCopyVerified sd s
  | .bulkCopyTimeout sd => Sys2Proof.Machine.execBulkCopyTimeout sd s
  | .fencePeer sd m w => Sys2Proof.Machine.execFencePeer sd m w s
  | .unfenceSelf sd m w => Sys2Proof.Machine.execUnfenceSelf sd m w s
  | .swapRequest sd m w => Sys2Proof.Machine.execSwapRequest sd m w s
  | .swapExecute sd => Sys2Proof.Machine.execSwapExecute sd s
  | .firmwareUpdate sd m w => Sys2Proof.Machine.execFirmwareUpdate sd m w s
  | .updateStepDone sd ok => Sys2Proof.Machine.execUpdateStepDone sd ok s
  | .updateTrialEnd sd => Sys2Proof.Machine.execUpdateTrialEnd sd s
  | .frameReceived sd off port fcsOk frame => Sys2Proof.Machine.execFrameReceived sd off port fcsOk frame s
  | .egressStart sd off port => Sys2Proof.Machine.execEgressStart sd off port s
  | .transmitDone sd port eccOk => Sys2Proof.Machine.execTransmitDone sd port eccOk s
  | .linkChange sd port up anDone pcsSync remoteFault => Sys2Proof.Machine.execLinkChange sd port up anDone pcsSync remoteFault s
  | .gateEntry sd port entry => Sys2Proof.Machine.execGateEntry sd port entry s
  | .callSheetData sd m write => Sys2Proof.Machine.execCallSheetData sd m write s
  | .callSheetChange sd m v => Sys2Proof.Machine.execCallSheetChange sd m v s
  | .callSheetSwitch sd port => Sys2Proof.Machine.execCallSheetSwitch sd port s
  | .shaperConfig sd m burst v => Sys2Proof.Machine.execShaperConfig sd m burst v s
  | .policerEnable sd m v => Sys2Proof.Machine.execPolicerEnable sd m v s
  | .addressAge sd index => Sys2Proof.Machine.execAddressAge sd index s
  | .nodeForget sd index => Sys2Proof.Machine.execNodeForget sd index s
  | .singlePathDetect sd index => Sys2Proof.Machine.execSinglePathDetect sd index s
  | .supervisionSend sd => Sys2Proof.Machine.execSupervisionSend sd s
  | .syncReceived sd info => Sys2Proof.Machine.execSyncReceived sd info s
  | .announceReceived sd info => Sys2Proof.Machine.execAnnounceReceived sd info s
  | .announceTimeout sd => Sys2Proof.Machine.execAnnounceTimeout sd s
  | .pdelayResponse sd info => Sys2Proof.Machine.execPdelayResponse sd info s
  | .holdoverEntry sd => Sys2Proof.Machine.execHoldoverEntry sd s
  | .ppsInEdge sd off => Sys2Proof.Machine.execPpsInEdge sd off s
  | .ppsOutEdge sd => Sys2Proof.Machine.execPpsOutEdge sd s
  | .ppsOutEnd sd => Sys2Proof.Machine.execPpsOutEnd sd s
  | .clockStep sd m w => Sys2Proof.Machine.execClockStep sd m w s
  | .timeSnapshot sd m v => Sys2Proof.Machine.execTimeSnapshot sd m v s
  | .refclkFail sd => Sys2Proof.Machine.execRefclkFail sd s
  | .rateLimitHeld sd => Sys2Proof.Machine.execRateLimitHeld sd s
  | .connConfig sd m isId v => Sys2Proof.Machine.execConnConfig sd m isId v s
  | .expectationExpiry sd conn => Sys2Proof.Machine.execExpectationExpiry sd conn s
  | .keyLoad sd m w => Sys2Proof.Machine.execKeyLoad sd m w s
  | .keyErase sd m w => Sys2Proof.Machine.execKeyErase sd m w s
  | .keyDataTimeout sd => Sys2Proof.Machine.execKeyDataTimeout sd s
  | .mailboxCue sd m off v => Sys2Proof.Machine.execMailboxCue sd m off v s
  | .faultEvent sd source point check => Sys2Proof.Machine.execFaultEvent sd source point check s
  | .faultWindowExpiry sd source => Sys2Proof.Machine.execFaultWindowExpiry sd source s
  | .classMapWrite sd m w => Sys2Proof.Machine.execClassMapWrite sd m w s
  | .majorRelease sd m w => Sys2Proof.Machine.execMajorRelease sd m w s
  | .injectionArm sd m v => Sys2Proof.Machine.execInjectionArm sd m v s
  | .injectionTimeout sd => Sys2Proof.Machine.execInjectionTimeout sd s
  | .watchdogExpiry sd => Sys2Proof.Machine.execWatchdogExpiry sd s
  | .housekeepingRound sd readings => Sys2Proof.Machine.execHousekeepingRound sd readings s
  | .pendingNvmWrite sd => Sys2Proof.Machine.execPendingNvmWrite sd s
  | .analogueTrip sd => Sys2Proof.Machine.execAnalogueTrip sd s
  | .intermissionEnter sd m v => Sys2Proof.Machine.execIntermissionEnter sd m v s
  | .intermissionWake sd m v cause => Sys2Proof.Machine.execIntermissionWake sd m v cause s
  | .wakeStep sd => Sys2Proof.Machine.execWakeStep sd s
  | .registerWrite sd m addr width v => Sys2Proof.Machine.execRegisterWrite sd m addr width v s
  | .pairTimeout sd page => Sys2Proof.Machine.execPairTimeout sd page s
  | .aliasWrite sd m kind addr v => Sys2Proof.Machine.execAliasWrite sd m kind addr v s
  | .clearingRead sd m addr => Sys2Proof.Machine.execClearingRead sd m addr s
  | .bar2Write sd offset v => Sys2Proof.Machine.execBar2Write sd offset v s
  | .busAccessError sd m addr width write locked burst => Sys2Proof.Machine.execBusAccessError sd m addr width write locked burst s
  | .targetTimeout sd m addr write => Sys2Proof.Machine.execTargetTimeout sd m addr write s
  | .remap sd m w => Sys2Proof.Machine.execRemap sd m w s
  | .counterSnapshot sd m v => Sys2Proof.Machine.execCounterSnapshot sd m v s
  | .counterClear sd m v => Sys2Proof.Machine.execCounterClear sd m v s
  | .liveCounterRead sd m bar2 => Sys2Proof.Machine.execLiveCounterRead sd m bar2 s
  | .dumpEnable sd m v => Sys2Proof.Machine.execDumpEnable sd m v s
  | .counterDump sd => Sys2Proof.Machine.execCounterDump sd s
  | .nvmWriteEnable sd m w => Sys2Proof.Machine.execNvmWriteEnable sd m w s
  | .nvmProgram sd m v => Sys2Proof.Machine.execNvmProgram sd m v s
  | .nvmProgramAbort sd m v => Sys2Proof.Machine.execNvmProgramAbort sd m v s
  | .nvmProgramDone sd ok pages => Sys2Proof.Machine.execNvmProgramDone sd ok pages s
  | .logProgram sd => Sys2Proof.Machine.execLogProgram sd s
  | .hostNote sd m v => Sys2Proof.Machine.execHostNote sd m v s
  | .moduleRescan sd m v reads => Sys2Proof.Machine.execModuleRescan sd m v reads s
  | .modulePoll sd reads => Sys2Proof.Machine.execModulePoll sd reads s
  | .imageFrame sd payload => Sys2Proof.Machine.execImageFrame sd payload s
  | .powerUp sd compat rolePref => Sys2Proof.Machine.execPowerUp sd compat rolePref s
  | .powerFail sd => Sys2Proof.Machine.execPowerFail sd s
  | .arbitration sd eligible view => Sys2Proof.Machine.execArbitration sd eligible view s
  | .arbitrationRetry sd eligible view => Sys2Proof.Machine.execArbitrationRetry sd eligible view s
  | .fenceInterlockTimeout sd => Sys2Proof.Machine.execFenceInterlockTimeout sd s
  | .firmwareStart sd slot0 slot1 => Sys2Proof.Machine.execFirmwareStart sd slot0 slot1 s
  | .startOfService sd selfTestOk => Sys2Proof.Machine.execStartOfService sd selfTestOk s
  | .pinReset sd => Sys2Proof.Machine.execPinReset sd s
  | .pcieReset sd => Sys2Proof.Machine.execPcieReset sd s
  | .curtainNDeassert => Sys2Proof.Machine.execCurtainNDeassert s
  | .refclkRestored sd => Sys2Proof.Machine.execRefclkRestored sd s
  | .selfTestCycle sd item pass => Sys2Proof.Machine.execSelfTestCycle sd item pass s
  | .heaterBackgroundReading sd dout readings => Sys2Proof.Machine.execHeaterBackgroundReading sd dout readings s
  | .tileWriteDone sd ok => Sys2Proof.Machine.execTileWriteDone sd ok s
  | .recordWriteDone sd => Sys2Proof.Machine.execRecordWriteDone sd s
  | .analogueTripRelease sd => Sys2Proof.Machine.execAnalogueTripRelease sd s
  | .dumpRecordDone sd => Sys2Proof.Machine.execDumpRecordDone sd s
  | .pdelayRequest sd => Sys2Proof.Machine.execPdelayRequest sd s
  | .tapInstruction sd op => Sys2Proof.Machine.execTapInstruction sd op s

end Sys2Proof.Machine
end

