-- ==== Sys2Proof/Safety.lean ====
section
/-! DEFINITION. The terms the claims are stated in: the canonical form of the stores, the interrupt lines, what a side keeps
over a command, and when an access of the interconnect goes through. -/

namespace Sys2Proof.Machine

/-! ### The parts of a side -/

/-- The parts of a side's state other than its registers. `mem` is memory with its uncorrectable words, `clock` is BEATNO, the
boundaries produced and the window; `lines` is the interrupt condition with INT_N and the count of MSIs, `fault` the rest of the collector. -/
inductive Part where
  | pairs
  | mem
  | ecc
  | hostWrites
  | readBack
  | clock
  | off
  | drive
  | mon
  | loops
  | scene
  | pipe
  | cal
  | watch
  | twin
  | net
  | time
  | fault
  | lines
  | therm
  | perf
  | nvm
  | power
  | rigImage
  | free
  | tap
  deriving DecidableEq, Repr

/-- The collector's state without the interrupt lines. -/
def FaultState.core (f : FaultState) : FaultState := { f with condition := false, intLow := false, msiSent := 0 }

/-- Does a part of the side hold in `t` what it holds in `s`? -/
def SideState.sameIn (s t : SideState) : Part → Prop
  | .pairs => t.pairs = s.pairs
  | .mem => (t.mem, t.eccHard) = (s.mem, s.eccHard)
  | .ecc => (t.eccSoft, t.eccOwed) = (s.eccSoft, s.eccOwed)
  | .hostWrites => t.hostWrites = s.hostWrites
  | .readBack => (t.readBack, t.readHigh) = (s.readBack, s.readHigh)
  | .clock => (t.beatNo, t.produced, t.win) = (s.beatNo, s.produced, s.win)
  | .off => t.off = s.off
  | .drive => t.drive = s.drive
  | .mon => t.mon = s.mon
  | .loops => t.loops = s.loops
  | .scene => t.scene = s.scene
  | .pipe => t.pipe = s.pipe
  | .cal => t.cal = s.cal
  | .watch => t.watch = s.watch
  | .twin => t.twin = s.twin
  | .net => t.net = s.net
  | .time => t.time = s.time
  | .fault => t.fault.core = s.fault.core
  | .lines => (t.fault.condition, t.fault.intLow, t.fault.msiSent) = (s.fault.condition, s.fault.intLow, s.fault.msiSent)
  | .therm => t.therm = s.therm
  | .perf => t.perf = s.perf
  | .nvm => t.nvm = s.nvm
  | .power => t.power = s.power
  | .rigImage => t.rigImage = s.rigImage
  | .free => t.free = s.free
  | .tap => (t.tap, t.boundary) = (s.tap, s.boundary)

/-- The page of a register key (R334); every bank of a register lies on its page. -/
def pageOf (key : Nat) : Nat := key % bankUnit / 0x1000

/-- The canonical form of a side's stores: keys rise, and nothing is listed that an unlisted key reads as. -/
def SideState.canonical (s : SideState) : Bool :=
  Store.wf (fun k => BitVec.ofNat 32 (resetWord s.side k)) s.regs && Store.wf memDefault s.mem

/-- Is a page among the pages of a list? `none` stands for all pages. -/
def onPages (P : Option (List Nat)) (page : Nat) : Bool :=
  match P with
  | none => true
  | some l => l.contains page

/-- What a side keeps: from `s` to `t` no register outside the pages `P` changes, no part outside `E` changes, and the stores
keep their canonical form. -/
structure Keeps (P : Option (List Nat)) (E : List Part) (s t : SideState) : Prop where
  side : t.side = s.side
  word : ∀ key, onPages P (pageOf key) = false → t.word key = s.word key
  part : ∀ p, E.contains p = false → s.sameIn t p
  canon : s.canonical = true → t.canonical = true

/-- The registers of a list, as a set of keys. -/
def keysOf (l : List Nat) (key : Nat) : Bool := l.contains key

/-- The registers of some pages, as a set of keys. -/
def keysOn (l : List Nat) (key : Nat) : Bool := l.contains (pageOf key)

/-- The pages that an event of the collector may change on its side, with the safe state it may lead to (R299 to R306): those of
the collector, the NVM log, the counters, the twin link, safety, the drive stage and the monitors. -/
def eventPages : List Nat := [0x03, 0x05, 0x06, 0x08, 0x09, 0x10, 0x14]

/-- The parts of a side that such an event may change. -/
def eventParts : List Part := [.fault, .lines, .twin, .perf]

/-- The registers that the count of a transfer may change: the event and overflow flags of the counters (R363, R364). -/
def accessKeys : List Nat := [0x0600C, 0x0606C]

/-- One event flag of a page: a bit of its EVT_RAW (R336). -/
def evtBit (page bit : Nat) : Fld := ⟨page * 0x1000 + 0x00C, bit, 1⟩

/-- The frame of a command on one side: nothing else of the device changes but that side, there no register outside `K`, and
of its other parts none outside `E` (so, where `E` is without `mem`, every byte of memory reads as before). -/
structure Within (K : Nat → Bool) (E : List Part) (sd : Side) (s t : State) : Prop where
  rest : t = s.put sd (t.on sd)
  word : ∀ key, K key = false → (t.on sd).word key = (s.on sd).word key
  part : ∀ p, E.contains p = false → (s.on sd).sameIn (t.on sd) p

/-- The frame of one side of a command that acts on both: no register outside `K` changes there and no part outside `E`. -/
structure Alike (K : Nat → Bool) (E : List Part) (x y : SideState) : Prop where
  word : ∀ key, K key = false → y.word key = x.word key
  part : ∀ p, E.contains p = false → x.sameIn y p

/-- No source of events has class Grave in force, and no copies of a class-map entry differ, whose comparison could bring a default back
(R303, R314, R344): an event then takes neither role nor drive stage from the side. -/
def SideState.mild (s : SideState) : Bool := s.fault.upsets.isEmpty && (List.range 256).all (fun src => s.classOf src != 3)

/-- May a command restart a side for the sake of an update: at a step of it, or where it is lost (R245, R382)? -/
def mayRestart : Instr → Bool
  | .beatBoundary _ | .takeover _ | .fenceSensed _ _ | .powerFail _ | .pinReset _ | .analogueTrip _ | .updateStepDone _ _ => true
  | _ => false

/-- Is a window command out of the order of a beat's windows, or a second one of its beat (log entry 97)? -/
def SideState.outOfOrder (s : SideState) : Instr → Bool
  | .loopWindow _ _ => s.win != .edge
  | .sceneWindow _ _ => s.win != .loop
  | .armingCutoff _ _ => s.win != .scene
  | .commitMarker _ => s.win == .marked || s.win == .judged
  | .heartbeatJudge _ => s.win == .judged
  | _ => false

/-- Has a source of events been raised between two states of a side? A side that is not halted counts each of its events (R299). -/
def SideState.raised (s t : SideState) (src : Nat) : Bool :=
  s.fault.halted || Nat.ble (min (2 ^ 32 - 1) (s.get (FC_STOTAL.EVENTS.bank src) + 1)) (t.get (FC_STOTAL.EVENTS.bank src))

/-! ### A boundary at which nothing else is due -/

/-- No drive value, setting, override, change of mode or park table waits for a boundary. -/
def DriveState.calm (d : DriveState) : Bool :=
  d.staged.isEmpty && d.schemeOld.isEmpty && d.tonePending.isEmpty && d.overrides.isEmpty && d.range.isNone && !d.parkPending

/-- No cue, handover, re-fire, retry or output of the scene controller waits for a boundary. -/
def SceneState.calm (c : SceneState) : Bool :=
  c.staged.isEmpty && c.handovers.isEmpty && c.settling.isEmpty && c.refires.isEmpty && c.retries.isEmpty && c.stallPending.isEmpty
    && c.darkStaged.isEmpty && c.darkReleases.isEmpty

/-- No slot map, channel setting or autorange step waits for a boundary. -/
def MonState.calm (m : MonState) : Bool :=
  m.mapPending.isEmpty && m.setPending.isEmpty && m.channels.all (fun p => p.2.step.isNone)

/-- No loop waits for a boundary, and no tuning run is in progress. -/
def LoopState.calm (l : LoopState) : Bool :=
  l.tunes.isEmpty && l.eccPending.isEmpty && l.toLoopAt.isEmpty && l.awaitSample.isEmpty && l.openSince.isNone

/-- Calibration has no run, result, release or round. -/
def CalState.calm (c : CalState) : Bool :=
  c.runs.isEmpty && c.results.isEmpty && c.releases.isEmpty && c.round.isNone && c.trimRound.isNone && !c.recordPending

/-- Degraded mode is neither to be entered nor to be released, nor the curtain latch. -/
def WatchState.calm (w : WatchState) : Bool := !w.relCurtain && !w.relDegraded && w.degPending == 0 && !w.degEntered

/-- No committed copy, fence, Grave halt, abandoned takeover or update waits for a boundary. -/
def TwinState.calm (w : TwinState) : Bool := w.committed.isEmpty && !w.haltDue && !w.unfencePending && !w.abandonDue && w.update.isNone

/-- The collector has no release, class-map entry, upset, injection or dropped log entry. -/
def FaultState.calm (f : FaultState) : Bool :=
  !f.relPending && f.mapPending.isEmpty && f.upsets.isEmpty && f.injection.isNone && !f.dropped

/-- The side runs, out of its safe state, no source is Grave, the next beat is none of those that a count of 64 or 100 beats picks out, and nothing of the
side waits for the boundary that begins it. -/
def SideState.calm (x : SideState) : Bool :=
  let n := (x.beatNo + 1) % 2 ^ 64
  x.alive && !x.is FC_STAT.SAFE && x.mild && n % 64 != 0 && n % 100 != 0 && n % 100 != 50 && !x.time.stepOpen && x.hostWrites.isEmpty && x.drive.calm && x.scene.calm
    && x.mon.calm && x.loops.calm && x.cal.calm && x.watch.calm && x.twin.calm && x.fault.calm && x.power.pads.isNone && !x.pipe.rigLost
    && x.therm.shutdownAt.isNone && !x.therm.intPending && x.therm.wakePending.isNone && x.get TH_INT_STAT.STATE == 0
    && x.nvm.keyPending.isEmpty && x.nvm.awaitPeer.isEmpty

/-- The device at a boundary of `sd` where nothing is due beside what a claim puts into the side: `y` is that side without it. -/
def State.calmBut (s : State) (sd : Side) (y : SideState) : Bool := y.calm && s.curtainN == (s.on sd).is SW_STAT.CURTAIN_N

/-- A tone generator; one never committed does not run. -/
def SideState.tone (x : SideState) (g : Nat) : ToneGen := Tab.getD x.drive.tones g {}

/-! ### One loop alone -/

/-- In the loop window that begins, the lanes have exactly the loop `l` to evaluate, they have the time, and neither an injection, a tuning
run nor a correction of its entry makes the evaluation another (R144 to R149). -/
def SideState.soleLoop (x : SideState) (capacity l : Nat) : Bool :=
  let z := { x with win := .loop, off := max x.off 200 }
  x.alive && x.win == .edge && !x.stopped && x.awake && x.loopsRun && x.mild && x.cal.runs.isEmpty && x.loops.tunes.isEmpty
    && x.fault.injection.isNone && !x.entryBad l && !(loopEntryWords l).any (fun a => x.eccSoft.contains a) && Nat.ble 24 (x.laneCycles capacity)
    && ((List.range 32).flatMap (fun k => (z.laneWork k).todo)) == [l]

/-! ### When an access goes through -/

/-- The side takes a 32-bit write of the register `key` by `m`: it runs, it answers the register, as it does but in the boot ROM and
after a thermal shutdown (R325, R382), the page lets the master write (R357), and the page holds no pair that the write would break
(R340). -/
def SideState.takes (s : SideState) (m : Master) (key : Nat) : Bool :=
  s.alive && s.answers key && mayWritePage m (key / 0x1000) && !Tab.has s.pairs (key / 0x1000)

/-- The side holds the first half `v` of a pair on the register `key`, in time, answers the register, and `m` may write the page
(R325, R340, R382), as every master but the twin copy engine completes pairs (R338). -/
def SideState.holds (s : SideState) (m : Master) (key : Nat) (v : Word) : Bool :=
  s.alive && s.answers key && mayWritePage m (key / 0x1000) && m != .twinCopy && Tab.get? s.pairs (key / 0x1000) == some v && s.pairKey (key / 0x1000) == key
    && s.get (PAGE_LOCK.LEFT.onPage (key / 0x1000)) != 0

/-- The side once the complement that `m` writes has completed its pair on `key`: the transfer is counted, the pair is over, and
the pw fields of the register hold the pair's value (R340). -/
def SideState.paired (s : SideState) (m : Master) (key : Nat) (v : Word) : SideState :=
  ((s.transfer m).completePair (key / 0x1000) m).takePair key v

/-- The registers of a side that a completed pair on `key` may change: the register and its page's PAGE_LOCK. -/
def pairKeys (key : Nat) : List Nat := accessKeys ++ [key, (PAGE_LOCK.STATE.onPage (key / 0x1000)).key]

/-! ### Names for groups of commands -/

/-- KIND of CA_REQ for a kind of run (R200). -/
def RunKind.code : RunKind → Nat
  | .trim => 0
  | .survey => 1
  | .probe => 2

/-- The command that asks for a kind of run. -/
def calRequestOf (k : RunKind) (sd : Side) (m : Master) (v : Word) : Instr :=
  match k with
  | .trim => .calReqTrim sd m v
  | .survey => .calReqSurvey sd m v
  | .probe => .calReqProbe sd m v

/-! ### Bytes that the end of a cue may write -/

/-- May the end of a cue write the byte: is it in an edge-table entry that a staged plan has saved (R32), or in the disturbance
areas of the tracking entries (R80, R83)? -/
def SideState.endByte (s : SideState) (a : Nat) : Bool :=
  s.scene.staged.any (fun g => g.cells.any (fun p => Nat.ble (ET.PHYS.addr p.cell) a && Nat.blt a (ET.PHYS.addr p.cell + p.saved.length)))
    || (s.get BK_DIST_ADDR.ADDR != 0 && Nat.ble (s.get BK_DIST_ADDR.ADDR * 4096) a && Nat.blt a (s.get BK_DIST_ADDR.ADDR * 4096 + 0x40000))

/-! ### A started stage -/

/-- Has the side the rig map `img` in force as case 3, with its pads to start at the boundaries that follow (R61, R391)? -/
def SideState.startedWith (t : SideState) (img : List Byte) : Prop :=
  t.get RG_STAT.CASE = 3 ∧ t.get RG_STAT.IN_FORCE = 1 ∧ t.rigImage = img ∧ t.power.pads = some false

/-- The pages of the registers that the decision of R61 may change. -/
def startPages : List Nat := [0x01, 0x0E, 0x0F] ++ eventPages

/-- The parts of a side that it may change. -/
def startParts : List Part := [.mem, .ecc, .drive, .mon, .pipe, .cal, .power, .rigImage, .nvm] ++ eventParts

/-! ### A change of lead -/

/-- The pages of the registers that may change on the side that takes the lead (R34, R151, R239). -/
def leadPages : List Nat :=
  [0x01, 0x0B, 0x0C, 0x0D, 0x0E, 0x0F, 0x11, 0x13, 0x16, 0x17, 0x18, 0x19, 0x1A, 0x1B, 0x1C, 0x20, 0x21, 0x22, 0x23, 0x24, 0x25, 0x26,
    0x27, 0x28, 0x29, 0x30, 0x31] ++ eventPages

/-- The pages of the registers that may change on a side whose engines stop as it leaves the lead (R237, R244). -/
def yieldPages : List Nat :=
  [0x06, 0x08, 0x09, 0x0A, 0x0E, 0x11, 0x13, 0x17, 0x20, 0x21, 0x22, 0x23, 0x24, 0x25, 0x26, 0x27, 0x28, 0x29, 0x30, 0x31]

/-- The parts of that side that may change. -/
def yieldParts : List Part := [.mem, .ecc, .drive, .mon, .loops, .scene, .pipe, .cal, .watch, .twin, .net, .therm, .perf, .free]

/-! ### Stated reset values (R9) -/

/-- The fields of one value other than 0 at reset, by the register tables of chapters 01 to 07. -/
def statedResets1 : List (Fld × Nat) :=
  [(SC_ACTIVE.SLOT, 255), (SC_ACTIVE.CURTAIN, 1), (SC_ACTIVE.SCENE_ID, 0xFFFF), (BK_CTRL.INCR_EN, 1), (BK_CTRL.INCR_MAX, 8),
   (BK_CTRL.ATTEMPT2_EN, 1), (BK_BUDGET.TOTAL, 3200), (BK_BUDGET.INCR, 600), (DO_ISUM_LIM.LIM, 10000), (DO_TG_FRAC.DEN, 1),
   (DO_HR_CTRL.BAND, 5), (DO_HR_TARGET.TARGET, 250), (DO_HR_LIM.MAX, 5500), (DO_HR_LIM.MIN, 1200), (MI_CTRL.BIAS, 4),
   (MI_AR.DN_CODE, 300), (MI_AR.DN_COUNT, 16), (MI_AR.HOLDOFF, 8), (MI_XCHK_CTRL.EN, 1), (MI_XCHK_CTRL.TOL, 48),
   (MI_XCHK_CTRL.STEADY, 48), (MI_XCHK_CTRL.SUSPECT_N, 3), (HL_CTRL.HOLDOFF, 2), (HL_CTRL.INV_MAX, 64),
   (HL_OOB_MAX.BEATS, 2000), (HL_AT_CTRL.CYCLES, 4), (HL_AT_CTRL.TMAX, 1000), (SH_CTRL.HO_EN, 1), (SH_CTRL.MISS_DARK, 1),
   (SH_HO_CTRL.LEN, 400), (SH_HO_CTRL.DWELL, 16)]

/-- The fields of one value other than 0 at reset, by the register tables of chapters 08 to 10. -/
def statedResets2 : List (Fld × Nat) :=
  [(CA_CTRL.AUTO_DT, 1), (CA_CTRL.AUTO_PERIOD, 1), (CA_CTRL.AUTO_OOB, 1), (CA_CTRL.PAR, 64), (CA_DT.DT, 30),
   (CA_PERIOD.PERIOD, 3600), (CA_SWEEP.HALF, 4), (CA_SWEEP.SKIP, 6), (CA_SWEEP.HOLD, 16), (CA_SWEEP.STEP, 8),
   (CA_LIM.EPI, 32), (CA_LIM.MARK_DIV, 2), (CA_BAND_MIN.MIN, 64), (CA_TAP.REPS, 64), (CA_TAP.DIV, 32), (CA_TAP.XLIM, 2),
   (CA_COMMIT.MAX, 128), (CA_AGE.PERIOD, 24), (CA_AGE.WARN, 8760), (CA_AGE2.ALARM, 720), (SW_CTRL.PILOT_EN, 1),
   (SW_CTRL.DARK_EN, 1), (SW_CTRL.CELL_K, 8), (SW_DEG_T.T_DEG, 60), (SW_PILOT_CTRL.INV_MAX, 16), (SW_PILOT_MIN.LEVEL, 2048),
   (SW_PILOT_DARK.LEVEL, 410), (TW_ROLE.FENCED, 1), (TW_CTRL.AUTO_UNFENCE, 1), (TW_UPD.TRIAL, 60)]

/-- The fields of one value other than 0 at reset, by the register tables of chapters 11 to 12. -/
def statedResets3 : List (Fld × Nat) :=
  [(NP_CTRL.AN_EN, 1), (NP_VLAN.PVID, 1), (NP_VLAN.UNTAG_OK, 1), (NP_MAXLEN.MAXLEN, 1522), (QS_CTRL.PTP_Q7, 1),
   (QS_CUE.ETYPE, 0x88B5), (QS_RATE.RATE, 2500000), (QS_BURST.BURST, 65535), (QS_QLIM.LIMIT, 512),
   (QS_LONGEST.WINDOW, 0x3FFFFFFF), (QS_SUP.LIFE, 2000), (QS_SUP.FORGET, 60), (QS_AGE.AGE, 300), (PL_MATCH.PCP, 0xFF),
   (PL_MATCH.ANY_VID, 1), (PL_ETYPE.ANY_ETYPE, 1), (PL_RATE.RATE, 2500000), (PL_BURST.BURST, 65535), (GT_ADDR.PORT, 0b01),
   (GT_COUNT.COUNT, 1), (GT_CYCLE.CYCLE, 1000000), (NT_CTRL.SERVO_EN, 1), (NT_CTRL.STEP_EN, 1), (NT_CTRL.TC_EN, 1),
   (NT_SERVO.STEP_TH, 10000), (NT_SERVO.LOCK_TH, 20), (NT_SERVO.KP, 2), (NT_SERVO.KI, 6), (NT_PTP.LOSS, 4),
   (NT_PPS.WIDTH, 100)]

/-- The fields of one value other than 0 at reset, by the register tables of chapters 13 to 19. -/
def statedResets4 : List (Fld × Nat) :=
  [(CQ_CONN_CFG.NET, 1), (CQ_CONN_LEFT.MS, 0xFFFF), (TH_LIM.WARN, 105), (TH_LIM.THROTTLE, 115), (TH_LIM.SHUT, 125),
   (TH_LIM.STEP_DT, 3), (TH_TILE.WARN, 70), (TH_TILE.LIM, 85), (PAGE_ID.VERSION, 0x02), (ID_PART.NUMBER, 0x9512),
   (BX_CTRL.AGE_EN, 1), (BX_CTRL.AGE_N, 8), (BX_PARK.MASTER, 0x04506220), (PC_DUMP_PERIOD.PERIOD, 100000),
   (PC_DUMP_COUNT.COUNT, 16), (HM_NET.ETYPE, 0x88B6), (RG_MB_CTRL.EN, 1), (RG_MB_CTRL.LEN, 256), (CK_RST_CAUSE.CAUSE, 1),
   (CK_CTRL.SSC_EN, 1)]

/-- All of them. -/
def statedResets : List (Fld × Nat) := statedResets1 ++ statedResets2 ++ statedResets3 ++ statedResets4

/-! ### Invariants -/

/-- The interrupt lines of a side follow its event flags (R312); a side that is unpowered or in power-up reset drives none (R405), and a
Grave halt of a powered side holds them. -/
def SideState.linesOk (s : SideState) : Bool :=
  let c := s.condition && s.power.powered && !s.power.inReset
  (s.fault.halted && s.power.powered) || (s.fault.condition == c && s.fault.intLow == (s.is FC_INT_CTRL.PIN_EN && c))

def State.linesOk (s : State) : Bool := s.a.linesOk && s.b.linesOk

/-- Every store of the device is in its canonical form: both sides' registers and memories, and the tile's memory. -/
def State.canonical (s : State) : Bool := s.a.canonical && s.b.canonical && Store.wf (fun _ => 0xFF) s.tile

end Sys2Proof.Machine
end

