-- ==== Sys2Proof/WellFormed.lean ====
section
/-! DEFINITION. Which commands are well formed: every operand within the range that the part of the device it names has. A
command out of range spells nothing that can happen to the device. -/

namespace Sys2Proof

/-- The fields of an Announce message have their widths (R269, IEEE 1588). -/
def AnnounceInfo.wf (i : AnnounceInfo) : Bool :=
  Nat.blt i.port 4 && Nat.blt i.identity 0x10000000000000000 && Nat.blt i.priority1 256 && Nat.blt i.clockClass 256
    && Nat.blt i.accuracy 256 && Nat.blt i.variance 65536 && Nat.blt i.priority2 256 && Nat.blt i.stepsRemoved 65536 && Nat.blt i.domain 256

/-- Are the operands in range: an instant within a beat in units of 10 ns (R11), a port (R248), a VLAN and an address of a
frame, an assembly (R280), a tracking entry (R80), an optical output, a switch cell and a group of drive outputs (R1, R110), a drive
output (R110), a loop (R139), a converter with its slot and its code (R126), a page, a width, an address of the interconnect (R334, R361),
a connection (R278), a fault source (R298), a self-test item (R241), a module (R388), an entry of a call sheet (R258), of the address
table or of the node table (R250, R254)? -/
def Instr.wf : Instr → Bool
  | .beatBoundary _ => true
  | .loopWindow _ _ => true
  | .sceneWindow _ _ => true
  | .armingCutoff _ _ => true
  | .commitMarker _ => true
  | .heartbeatJudge _ => true
  | .cueFrame _ off port vid src _ => Nat.blt off 10000 && Nat.blt port 4 && Nat.blt vid 4096 && Nat.blt src 0x1000000000000
  | .fragmentTimeout _ assembly => Nat.blt assembly 4
  | .cueCheck _ => true
  | .solve _ => true
  | .solveDone _ _ => true
  | .solveBudget _ => true
  | .rehearsalWaitExpiry _ entry => Nat.blt entry 32
  | .curtainSolve _ _ => true
  | .trace _ entry => Nat.blt entry 32
  | .arm _ entry => Nat.blt entry 32
  | .curtainArm _ => true
  | .blankStart _ out => Nat.blt out 512
  | .blankEnd _ out => Nat.blt out 512
  | .handoverStall _ cell => Nat.blt cell 5120
  | .scAbort _ _ _ => true
  | .swCurtainReq _ _ _ => true
  | .curtainNAssert => true
  | .tDegExpiry _ => true
  | .curtainRelease _ _ _ => true
  | .degradedRelease _ _ _ _ _ => true
  | .policyCommit _ _ _ => true
  | .policyInForce _ => true
  | .k1Selftest _ _ => true
  | .pilotBlockEnd _ => true
  | .slotEnd _ conv slot raw _ => Nat.blt conv 96 && Nat.blt slot 80 && raw.all (fun r => Nat.blt r 4096)
  | .bankSwitch _ => true
  | .slotMapSelect _ _ _ => true
  | .slotMapCommit _ _ _ => true
  | .channelSet _ _ _ => true
  | .manualWrite _ _ _ => true
  | .timerArm _ _ group _ => Nat.blt group 160
  | .timerFire _ dout => Nat.blt dout 10240
  | .fifoWrite _ _ group _ => Nat.blt group 160
  | .queueTick _ group => Nat.blt group 160
  | .schemeChange _ _ group _ => Nat.blt group 160
  | .parkCommit _ _ _ => true
  | .parkApply _ => true
  | .rangeChange _ _ _ => true
  | .complianceLoss _ dout => Nat.blt dout 10240
  | .rmeasStart _ _ _ => true
  | .rmeasDone _ readings => readings.length == 16 && readings.all (fun r => Nat.blt r.1 1024)
  | .toneCommit _ _ _ => true
  | .overrideTake _ _ _ => true
  | .overrideRelease _ _ _ => true
  | .autotuneStart _ _ _ => true
  | .autotuneTimeout _ loop => Nat.blt loop 6144
  | .handoverRetry _ _ _ => true
  | .missRelease _ _ _ => true
  | .calReqTrim _ _ _ => true
  | .calReqSurvey _ _ _ => true
  | .calReqProbe _ _ _ => true
  | .calReqRound _ _ _ => true
  | .calPeriod _ => true
  | .calRunStart _ => true
  | .calRunEnd _ dout => Nat.blt dout 10240
  | .calCommit _ => true
  | .calStageExpire _ => true
  | .ageingRecord _ => true
  | .rigMapCommit _ _ _ => true
  | .backgroundVerify _ => true
  | .tileReadRetry _ => true
  | .elementTableWrite _ _ addr _ => Nat.blt addr 0x100000000
  | .entryRewrite _ addr => Nat.blt addr 0x100000000
  | .copyRecord _ _ => true
  | .markerReceived _ _ _ => true
  | .peerPulse _ _ _ => true
  | .resignationPulse _ => true
  | .takeover _ => true
  | .fenceSensed _ _ => true
  | .fenceTimeout _ => true
  | .healthReport _ _ _ _ _ => true
  | .bulkCopyStart _ => true
  | .bulkCopyVerified _ => true
  | .bulkCopyTimeout _ => true
  | .fencePeer _ _ _ => true
  | .unfenceSelf _ _ _ => true
  | .swapRequest _ _ _ => true
  | .swapExecute _ => true
  | .firmwareUpdate _ _ _ => true
  | .updateStepDone _ _ => true
  | .updateTrialEnd _ => true
  | .frameReceived _ off port _ _ => Nat.blt off 10000 && Nat.blt port 4
  | .egressStart _ off port => Nat.blt off 10000 && Nat.blt port 4
  | .transmitDone _ port _ => Nat.blt port 4
  | .linkChange _ port _ _ _ _ => Nat.blt port 4
  | .gateEntry _ port entry => Nat.blt port 4 && Nat.blt entry 128
  | .callSheetData _ _ _ => true
  | .callSheetChange _ _ _ => true
  | .callSheetSwitch _ port => Nat.blt port 4
  | .shaperConfig _ _ _ _ => true
  | .policerEnable _ _ _ => true
  | .addressAge _ index => Nat.blt index 1024
  | .nodeForget _ index => Nat.blt index 512
  | .singlePathDetect _ index => Nat.blt index 512
  | .supervisionSend _ => true
  | .syncReceived _ info => Nat.blt info.port 4 && Nat.blt info.domain 256
  | .announceReceived _ info => info.wf
  | .announceTimeout _ => true
  | .pdelayResponse _ info => Nat.blt info.port 4 && Nat.blt info.domain 256
  | .holdoverEntry _ => true
  | .ppsInEdge _ off => Nat.blt off 10000
  | .ppsOutEdge _ => true
  | .ppsOutEnd _ => true
  | .clockStep _ _ _ => true
  | .timeSnapshot _ _ _ => true
  | .refclkFail _ => true
  | .rateLimitHeld _ => true
  | .connConfig _ _ _ _ => true
  | .expectationExpiry _ conn => Nat.blt conn 64
  | .keyLoad _ _ _ => true
  | .keyErase _ _ _ => true
  | .keyDataTimeout _ => true
  | .mailboxCue _ _ off _ => Nat.blt off 10000
  | .faultEvent _ source _ _ => Nat.blt source 256
  | .faultWindowExpiry _ source => Nat.blt source 256
  | .classMapWrite _ _ _ => true
  | .majorRelease _ _ _ => true
  | .injectionArm _ _ _ => true
  | .injectionTimeout _ => true
  | .watchdogExpiry _ => true
  | .housekeepingRound _ _ => true
  | .pendingNvmWrite _ => true
  | .analogueTrip _ => true
  | .intermissionEnter _ _ _ => true
  | .intermissionWake _ _ _ _ => true
  | .wakeStep _ => true
  | .registerWrite _ _ addr width _ => Nat.blt addr 0x100000000 && [1, 2, 4, 8].contains width
  | .pairTimeout _ page => Nat.blt page 256
  | .aliasWrite _ _ _ addr _ => Nat.blt addr 0x100000000
  | .clearingRead _ _ r => Nat.blt r.addr (if r.bar2 then 0x40000 else 0x100000000) && [1, 2, 4, 8].contains r.width
  | .bar2Write _ offset _ => Nat.blt offset 0x40000
  | .busAccessError _ _ addr width _ _ burst => Nat.blt addr 0x100000000 && [1, 2, 4, 8].contains width && Nat.blt 0 burst
  | .targetTimeout _ _ addr _ => Nat.blt addr 0x100000000
  | .remap _ _ _ => true
  | .counterSnapshot _ _ _ => true
  | .counterClear _ _ _ => true
  | .liveCounterRead _ _ _ => true
  | .dumpEnable _ _ _ => true
  | .counterDump _ => true
  | .nvmWriteEnable _ _ _ => true
  | .nvmProgram _ _ _ => true
  | .nvmProgramAbort _ _ _ => true
  | .nvmProgramDone _ _ _ => true
  | .logProgram _ => true
  | .hostNote _ _ _ => true
  | .moduleRescan _ _ _ reads => reads.all (fun r => Nat.blt r.module 16)
  | .modulePoll _ reads => reads.all (fun r => Nat.blt r.module 16)
  | .imageFrame _ _ => true
  | .powerUp _ _ _ => true
  | .powerFail _ => true
  | .arbitration _ _ _ => true
  | .arbitrationRetry _ _ _ => true
  | .fenceInterlockTimeout _ => true
  | .firmwareStart _ _ _ => true
  | .startOfService _ _ => true
  | .pinReset _ => true
  | .pcieReset _ => true
  | .curtainNDeassert => true
  | .refclkRestored _ => true
  | .selfTestCycle _ item _ => Nat.blt item 11
  | .heaterBackgroundReading _ dout readings => Nat.blt dout 10240 && readings.length == 16 && readings.all (fun r => Nat.blt r.1 1024)
  | .tileWriteDone _ _ => true
  | .recordWriteDone _ => true
  | .analogueTripRelease _ => true
  | .dumpRecordDone _ => true
  | .pdelayRequest _ => true
  | .tapInstruction _ _ => true

/-- The side a command happens on; none for the pin CURTAIN_N, which both sides see. -/
def Instr.side : Instr → Option Side
  | .beatBoundary sd => some sd
  | .loopWindow sd _ => some sd
  | .sceneWindow sd _ => some sd
  | .armingCutoff sd _ => some sd
  | .commitMarker sd => some sd
  | .heartbeatJudge sd => some sd
  | .cueFrame sd _ _ _ _ _ => some sd
  | .fragmentTimeout sd _ => some sd
  | .cueCheck sd => some sd
  | .solve sd => some sd
  | .solveDone sd _ => some sd
  | .solveBudget sd => some sd
  | .rehearsalWaitExpiry sd _ => some sd
  | .curtainSolve sd _ => some sd
  | .trace sd _ => some sd
  | .arm sd _ => some sd
  | .curtainArm sd => some sd
  | .blankStart sd _ => some sd
  | .blankEnd sd _ => some sd
  | .handoverStall sd _ => some sd
  | .scAbort sd _ _ => some sd
  | .swCurtainReq sd _ _ => some sd
  | .curtainNAssert => none
  | .tDegExpiry sd => some sd
  | .curtainRelease sd _ _ => some sd
  | .degradedRelease sd _ _ _ _ => some sd
  | .policyCommit sd _ _ => some sd
  | .policyInForce sd => some sd
  | .k1Selftest sd _ => some sd
  | .pilotBlockEnd sd => some sd
  | .slotEnd sd _ _ _ _ => some sd
  | .bankSwitch sd => some sd
  | .slotMapSelect sd _ _ => some sd
  | .slotMapCommit sd _ _ => some sd
  | .channelSet sd _ _ => some sd
  | .manualWrite sd _ _ => some sd
  | .timerArm sd _ _ _ => some sd
  | .timerFire sd _ => some sd
  | .fifoWrite sd _ _ _ => some sd
  | .queueTick sd _ => some sd
  | .schemeChange sd _ _ _ => some sd
  | .parkCommit sd _ _ => some sd
  | .parkApply sd => some sd
  | .rangeChange sd _ _ => some sd
  | .complianceLoss sd _ => some sd
  | .rmeasStart sd _ _ => some sd
  | .rmeasDone sd _ => some sd
  | .toneCommit sd _ _ => some sd
  | .overrideTake sd _ _ => some sd
  | .overrideRelease sd _ _ => some sd
  | .autotuneStart sd _ _ => some sd
  | .autotuneTimeout sd _ => some sd
  | .handoverRetry sd _ _ => some sd
  | .missRelease sd _ _ => some sd
  | .calReqTrim sd _ _ => some sd
  | .calReqSurvey sd _ _ => some sd
  | .calReqProbe sd _ _ => some sd
  | .calReqRound sd _ _ => some sd
  | .calPeriod sd => some sd
  | .calRunStart sd => some sd
  | .calRunEnd sd _ => some sd
  | .calCommit sd => some sd
  | .calStageExpire sd => some sd
  | .ageingRecord sd => some sd
  | .rigMapCommit sd _ _ => some sd
  | .backgroundVerify sd => some sd
  | .tileReadRetry sd => some sd
  | .elementTableWrite sd _ _ _ => some sd
  | .entryRewrite sd _ => some sd
  | .copyRecord sd _ => some sd
  | .markerReceived sd _ _ => some sd
  | .peerPulse sd _ _ => some sd
  | .resignationPulse sd => some sd
  | .takeover sd => some sd
  | .fenceSensed sd _ => some sd
  | .fenceTimeout sd => some sd
  | .healthReport sd _ _ _ _ => some sd
  | .bulkCopyStart sd => some sd
  | .bulkCopyVerified sd => some sd
  | .bulkCopyTimeout sd => some sd
  | .fencePeer sd _ _ => some sd
  | .unfenceSelf sd _ _ => some sd
  | .swapRequest sd _ _ => some sd
  | .swapExecute sd => some sd
  | .firmwareUpdate sd _ _ => some sd
  | .updateStepDone sd _ => some sd
  | .updateTrialEnd sd => some sd
  | .frameReceived sd _ _ _ _ => some sd
  | .egressStart sd _ _ => some sd
  | .transmitDone sd _ _ => some sd
  | .linkChange sd _ _ _ _ _ => some sd
  | .gateEntry sd _ _ => some sd
  | .callSheetData sd _ _ => some sd
  | .callSheetChange sd _ _ => some sd
  | .callSheetSwitch sd _ => some sd
  | .shaperConfig sd _ _ _ => some sd
  | .policerEnable sd _ _ => some sd
  | .addressAge sd _ => some sd
  | .nodeForget sd _ => some sd
  | .singlePathDetect sd _ => some sd
  | .supervisionSend sd => some sd
  | .syncReceived sd _ => some sd
  | .announceReceived sd _ => some sd
  | .announceTimeout sd => some sd
  | .pdelayResponse sd _ => some sd
  | .holdoverEntry sd => some sd
  | .ppsInEdge sd _ => some sd
  | .ppsOutEdge sd => some sd
  | .ppsOutEnd sd => some sd
  | .clockStep sd _ _ => some sd
  | .timeSnapshot sd _ _ => some sd
  | .refclkFail sd => some sd
  | .rateLimitHeld sd => some sd
  | .connConfig sd _ _ _ => some sd
  | .expectationExpiry sd _ => some sd
  | .keyLoad sd _ _ => some sd
  | .keyErase sd _ _ => some sd
  | .keyDataTimeout sd => some sd
  | .mailboxCue sd _ _ _ => some sd
  | .faultEvent sd _ _ _ => some sd
  | .faultWindowExpiry sd _ => some sd
  | .classMapWrite sd _ _ => some sd
  | .majorRelease sd _ _ => some sd
  | .injectionArm sd _ _ => some sd
  | .injectionTimeout sd => some sd
  | .watchdogExpiry sd => some sd
  | .housekeepingRound sd _ => some sd
  | .pendingNvmWrite sd => some sd
  | .analogueTrip sd => some sd
  | .intermissionEnter sd _ _ => some sd
  | .intermissionWake sd _ _ _ => some sd
  | .wakeStep sd => some sd
  | .registerWrite sd _ _ _ _ => some sd
  | .pairTimeout sd _ => some sd
  | .aliasWrite sd _ _ _ _ => some sd
  | .clearingRead sd _ _ => some sd
  | .bar2Write sd _ _ => some sd
  | .busAccessError sd _ _ _ _ _ _ => some sd
  | .targetTimeout sd _ _ _ => some sd
  | .remap sd _ _ => some sd
  | .counterSnapshot sd _ _ => some sd
  | .counterClear sd _ _ => some sd
  | .liveCounterRead sd _ _ => some sd
  | .dumpEnable sd _ _ => some sd
  | .counterDump sd => some sd
  | .nvmWriteEnable sd _ _ => some sd
  | .nvmProgram sd _ _ => some sd
  | .nvmProgramAbort sd _ _ => some sd
  | .nvmProgramDone sd _ _ => some sd
  | .logProgram sd => some sd
  | .hostNote sd _ _ => some sd
  | .moduleRescan sd _ _ _ => some sd
  | .modulePoll sd _ => some sd
  | .imageFrame sd _ => some sd
  | .powerUp sd _ _ => some sd
  | .powerFail sd => some sd
  | .arbitration sd _ _ => some sd
  | .arbitrationRetry sd _ _ => some sd
  | .fenceInterlockTimeout sd => some sd
  | .firmwareStart sd _ _ => some sd
  | .startOfService sd _ => some sd
  | .pinReset sd => some sd
  | .pcieReset sd => some sd
  | .curtainNDeassert => none
  | .refclkRestored sd => some sd
  | .selfTestCycle sd _ _ => some sd
  | .heaterBackgroundReading sd _ _ => some sd
  | .tileWriteDone sd _ => some sd
  | .recordWriteDone sd => some sd
  | .analogueTripRelease sd => some sd
  | .dumpRecordDone sd => some sd
  | .pdelayRequest sd => some sd
  | .tapInstruction sd _ => some sd

/-- The same command on a given side. -/
def Instr.toSide (sd : Side) : Instr → Instr
  | .beatBoundary _ => .beatBoundary sd
  | .loopWindow _ capacity => .loopWindow sd capacity
  | .sceneWindow _ heartbeat => .sceneWindow sd heartbeat
  | .armingCutoff _ selfTestOk => .armingCutoff sd selfTestOk
  | .commitMarker _ => .commitMarker sd
  | .heartbeatJudge _ => .heartbeatJudge sd
  | .cueFrame _ off port vid src payload => .cueFrame sd off port vid src payload
  | .fragmentTimeout _ assembly => .fragmentTimeout sd assembly
  | .cueCheck _ => .cueCheck sd
  | .solve _ => .solve sd
  | .solveDone _ memoryFault => .solveDone sd memoryFault
  | .solveBudget _ => .solveBudget sd
  | .rehearsalWaitExpiry _ entry => .rehearsalWaitExpiry sd entry
  | .curtainSolve _ memoryFault => .curtainSolve sd memoryFault
  | .trace _ entry => .trace sd entry
  | .arm _ entry => .arm sd entry
  | .curtainArm _ => .curtainArm sd
  | .blankStart _ out => .blankStart sd out
  | .blankEnd _ out => .blankEnd sd out
  | .handoverStall _ cell => .handoverStall sd cell
  | .scAbort _ m v => .scAbort sd m v
  | .swCurtainReq _ m v => .swCurtainReq sd m v
  | .curtainNAssert => .curtainNAssert
  | .tDegExpiry _ => .tDegExpiry sd
  | .curtainRelease _ m w => .curtainRelease sd m w
  | .degradedRelease _ m w k1Ok k2Ok => .degradedRelease sd m w k1Ok k2Ok
  | .policyCommit _ m w => .policyCommit sd m w
  | .policyInForce _ => .policyInForce sd
  | .k1Selftest _ ok => .k1Selftest sd ok
  | .pilotBlockEnd _ => .pilotBlockEnd sd
  | .slotEnd _ conv slot raw overload => .slotEnd sd conv slot raw overload
  | .bankSwitch _ => .bankSwitch sd
  | .slotMapSelect _ m v => .slotMapSelect sd m v
  | .slotMapCommit _ m v => .slotMapCommit sd m v
  | .channelSet _ m v => .channelSet sd m v
  | .manualWrite _ m v => .manualWrite sd m v
  | .timerArm _ m group v => .timerArm sd m group v
  | .timerFire _ dout => .timerFire sd dout
  | .fifoWrite _ m group v => .fifoWrite sd m group v
  | .queueTick _ group => .queueTick sd group
  | .schemeChange _ m group v => .schemeChange sd m group v
  | .parkCommit _ m w => .parkCommit sd m w
  | .parkApply _ => .parkApply sd
  | .rangeChange _ m v => .rangeChange sd m v
  | .complianceLoss _ dout => .complianceLoss sd dout
  | .rmeasStart _ m v => .rmeasStart sd m v
  | .rmeasDone _ readings => .rmeasDone sd readings
  | .toneCommit _ m v => .toneCommit sd m v
  | .overrideTake _ m v => .overrideTake sd m v
  | .overrideRelease _ m v => .overrideRelease sd m v
  | .autotuneStart _ m v => .autotuneStart sd m v
  | .autotuneTimeout _ loop => .autotuneTimeout sd loop
  | .handoverRetry _ m v => .handoverRetry sd m v
  | .missRelease _ m v => .missRelease sd m v
  | .calReqTrim _ m v => .calReqTrim sd m v
  | .calReqSurvey _ m v => .calReqSurvey sd m v
  | .calReqProbe _ m v => .calReqProbe sd m v
  | .calReqRound _ m v => .calReqRound sd m v
  | .calPeriod _ => .calPeriod sd
  | .calRunStart _ => .calRunStart sd
  | .calRunEnd _ dout => .calRunEnd sd dout
  | .calCommit _ => .calCommit sd
  | .calStageExpire _ => .calStageExpire sd
  | .ageingRecord _ => .ageingRecord sd
  | .rigMapCommit _ m w => .rigMapCommit sd m w
  | .backgroundVerify _ => .backgroundVerify sd
  | .tileReadRetry _ => .tileReadRetry sd
  | .elementTableWrite _ m addr v => .elementTableWrite sd m addr v
  | .entryRewrite _ addr => .entryRewrite sd addr
  | .copyRecord _ bytes => .copyRecord sd bytes
  | .markerReceived _ bytes crcOk => .markerReceived sd bytes crcOk
  | .peerPulse _ offset width => .peerPulse sd offset width
  | .resignationPulse _ => .resignationPulse sd
  | .takeover _ => .takeover sd
  | .fenceSensed _ t10ns => .fenceSensed sd t10ns
  | .fenceTimeout _ => .fenceTimeout sd
  | .healthReport _ w0 w1 w2 w3 => .healthReport sd w0 w1 w2 w3
  | .bulkCopyStart _ => .bulkCopyStart sd
  | .bulkCopyVerified _ => .bulkCopyVerified sd
  | .bulkCopyTimeout _ => .bulkCopyTimeout sd
  | .fencePeer _ m w => .fencePeer sd m w
  | .unfenceSelf _ m w => .unfenceSelf sd m w
  | .swapRequest _ m w => .swapRequest sd m w
  | .swapExecute _ => .swapExecute sd
  | .firmwareUpdate _ m w => .firmwareUpdate sd m w
  | .updateStepDone _ ok => .updateStepDone sd ok
  | .updateTrialEnd _ => .updateTrialEnd sd
  | .frameReceived _ off port fcsOk frame => .frameReceived sd off port fcsOk frame
  | .egressStart _ off port => .egressStart sd off port
  | .transmitDone _ port eccOk => .transmitDone sd port eccOk
  | .linkChange _ port up anDone pcsSync remoteFault => .linkChange sd port up anDone pcsSync remoteFault
  | .gateEntry _ port entry => .gateEntry sd port entry
  | .callSheetData _ m write => .callSheetData sd m write
  | .callSheetChange _ m v => .callSheetChange sd m v
  | .callSheetSwitch _ port => .callSheetSwitch sd port
  | .shaperConfig _ m burst v => .shaperConfig sd m burst v
  | .policerEnable _ m v => .policerEnable sd m v
  | .addressAge _ index => .addressAge sd index
  | .nodeForget _ index => .nodeForget sd index
  | .singlePathDetect _ index => .singlePathDetect sd index
  | .supervisionSend _ => .supervisionSend sd
  | .syncReceived _ info => .syncReceived sd info
  | .announceReceived _ info => .announceReceived sd info
  | .announceTimeout _ => .announceTimeout sd
  | .pdelayResponse _ info => .pdelayResponse sd info
  | .holdoverEntry _ => .holdoverEntry sd
  | .ppsInEdge _ off => .ppsInEdge sd off
  | .ppsOutEdge _ => .ppsOutEdge sd
  | .ppsOutEnd _ => .ppsOutEnd sd
  | .clockStep _ m w => .clockStep sd m w
  | .timeSnapshot _ m v => .timeSnapshot sd m v
  | .refclkFail _ => .refclkFail sd
  | .rateLimitHeld _ => .rateLimitHeld sd
  | .connConfig _ m isId v => .connConfig sd m isId v
  | .expectationExpiry _ conn => .expectationExpiry sd conn
  | .keyLoad _ m w => .keyLoad sd m w
  | .keyErase _ m w => .keyErase sd m w
  | .keyDataTimeout _ => .keyDataTimeout sd
  | .mailboxCue _ m off v => .mailboxCue sd m off v
  | .faultEvent _ source point check => .faultEvent sd source point check
  | .faultWindowExpiry _ source => .faultWindowExpiry sd source
  | .classMapWrite _ m w => .classMapWrite sd m w
  | .majorRelease _ m w => .majorRelease sd m w
  | .injectionArm _ m v => .injectionArm sd m v
  | .injectionTimeout _ => .injectionTimeout sd
  | .watchdogExpiry _ => .watchdogExpiry sd
  | .housekeepingRound _ readings => .housekeepingRound sd readings
  | .pendingNvmWrite _ => .pendingNvmWrite sd
  | .analogueTrip _ => .analogueTrip sd
  | .intermissionEnter _ m v => .intermissionEnter sd m v
  | .intermissionWake _ m v cause => .intermissionWake sd m v cause
  | .wakeStep _ => .wakeStep sd
  | .registerWrite _ m addr width v => .registerWrite sd m addr width v
  | .pairTimeout _ page => .pairTimeout sd page
  | .aliasWrite _ m kind addr v => .aliasWrite sd m kind addr v
  | .clearingRead _ m addr => .clearingRead sd m addr
  | .bar2Write _ offset v => .bar2Write sd offset v
  | .busAccessError _ m addr width write locked burst => .busAccessError sd m addr width write locked burst
  | .targetTimeout _ m addr write => .targetTimeout sd m addr write
  | .remap _ m w => .remap sd m w
  | .counterSnapshot _ m v => .counterSnapshot sd m v
  | .counterClear _ m v => .counterClear sd m v
  | .liveCounterRead _ m bar2 => .liveCounterRead sd m bar2
  | .dumpEnable _ m v => .dumpEnable sd m v
  | .counterDump _ => .counterDump sd
  | .nvmWriteEnable _ m w => .nvmWriteEnable sd m w
  | .nvmProgram _ m v => .nvmProgram sd m v
  | .nvmProgramAbort _ m v => .nvmProgramAbort sd m v
  | .nvmProgramDone _ ok pages => .nvmProgramDone sd ok pages
  | .logProgram _ => .logProgram sd
  | .hostNote _ m v => .hostNote sd m v
  | .moduleRescan _ m v reads => .moduleRescan sd m v reads
  | .modulePoll _ reads => .modulePoll sd reads
  | .imageFrame _ payload => .imageFrame sd payload
  | .powerUp _ compat rolePref => .powerUp sd compat rolePref
  | .powerFail _ => .powerFail sd
  | .arbitration _ eligible view => .arbitration sd eligible view
  | .arbitrationRetry _ eligible view => .arbitrationRetry sd eligible view
  | .fenceInterlockTimeout _ => .fenceInterlockTimeout sd
  | .firmwareStart _ slot0 slot1 => .firmwareStart sd slot0 slot1
  | .startOfService _ selfTestOk => .startOfService sd selfTestOk
  | .pinReset _ => .pinReset sd
  | .pcieReset _ => .pcieReset sd
  | .curtainNDeassert => .curtainNDeassert
  | .refclkRestored _ => .refclkRestored sd
  | .selfTestCycle _ item pass => .selfTestCycle sd item pass
  | .heaterBackgroundReading _ dout readings => .heaterBackgroundReading sd dout readings
  | .tileWriteDone _ ok => .tileWriteDone sd ok
  | .recordWriteDone _ => .recordWriteDone sd
  | .analogueTripRelease _ => .analogueTripRelease sd
  | .dumpRecordDone _ => .dumpRecordDone sd
  | .pdelayRequest _ => .pdelayRequest sd
  | .tapInstruction _ i => .tapInstruction sd i

/-- The commands that act on both sides, or on what the sides share: the pin and the tile (R217, R29, R53), a policy record that both
take into force (R57), a takeover with its fence (R236 to R242), the bulk copy (R235) and the marker whose copy is discarded, which asks
the peer for it (R234), a swap and an update (R244, R245), power that leaves the understudy (R322), intermission (R327), the analogue trip,
the boundary at which an abandoned takeover ends (R238), and the messages of arbitration (R393, R394). -/
def Instr.shared : Instr → Bool
  | .beatBoundary _ => true
  | .loopWindow _ _ => false
  | .sceneWindow _ _ => false
  | .armingCutoff _ _ => false
  | .commitMarker _ => false
  | .heartbeatJudge _ => false
  | .cueFrame _ _ _ _ _ _ => false
  | .fragmentTimeout _ _ => false
  | .cueCheck _ => false
  | .solve _ => false
  | .solveDone _ _ => false
  | .solveBudget _ => false
  | .rehearsalWaitExpiry _ _ => false
  | .curtainSolve _ _ => false
  | .trace _ _ => false
  | .arm _ _ => false
  | .curtainArm _ => false
  | .blankStart _ _ => false
  | .blankEnd _ _ => false
  | .handoverStall _ _ => false
  | .scAbort _ _ _ => false
  | .swCurtainReq _ _ _ => false
  | .curtainNAssert => true
  | .tDegExpiry _ => false
  | .curtainRelease _ _ _ => false
  | .degradedRelease _ _ _ _ _ => false
  | .policyCommit _ _ _ => false
  | .policyInForce _ => true
  | .k1Selftest _ _ => false
  | .pilotBlockEnd _ => false
  | .slotEnd _ _ _ _ _ => false
  | .bankSwitch _ => false
  | .slotMapSelect _ _ _ => false
  | .slotMapCommit _ _ _ => false
  | .channelSet _ _ _ => false
  | .manualWrite _ _ _ => false
  | .timerArm _ _ _ _ => false
  | .timerFire _ _ => false
  | .fifoWrite _ _ _ _ => false
  | .queueTick _ _ => false
  | .schemeChange _ _ _ _ => false
  | .parkCommit _ _ _ => false
  | .parkApply _ => false
  | .rangeChange _ _ _ => false
  | .complianceLoss _ _ => false
  | .rmeasStart _ _ _ => false
  | .rmeasDone _ _ => false
  | .toneCommit _ _ _ => false
  | .overrideTake _ _ _ => false
  | .overrideRelease _ _ _ => false
  | .autotuneStart _ _ _ => false
  | .autotuneTimeout _ _ => false
  | .handoverRetry _ _ _ => false
  | .missRelease _ _ _ => false
  | .calReqTrim _ _ _ => false
  | .calReqSurvey _ _ _ => false
  | .calReqProbe _ _ _ => false
  | .calReqRound _ _ _ => false
  | .calPeriod _ => false
  | .calRunStart _ => false
  | .calRunEnd _ _ => false
  | .calCommit _ => false
  | .calStageExpire _ => false
  | .ageingRecord _ => false
  | .rigMapCommit _ _ _ => false
  | .backgroundVerify _ => false
  | .tileReadRetry _ => false
  | .elementTableWrite _ _ _ _ => false
  | .entryRewrite _ _ => false
  | .copyRecord _ _ => false
  | .markerReceived _ _ _ => true
  | .peerPulse _ _ _ => false
  | .resignationPulse _ => false
  | .takeover _ => true
  | .fenceSensed _ _ => true
  | .fenceTimeout _ => false
  | .healthReport _ _ _ _ _ => false
  | .bulkCopyStart _ => true
  | .bulkCopyVerified _ => true
  | .bulkCopyTimeout _ => false
  | .fencePeer _ _ _ => true
  | .unfenceSelf _ _ _ => true
  | .swapRequest _ _ _ => false
  | .swapExecute _ => true
  | .firmwareUpdate _ _ _ => false
  | .updateStepDone _ _ => true
  | .updateTrialEnd _ => false
  | .frameReceived _ _ _ _ _ => false
  | .egressStart _ _ _ => false
  | .transmitDone _ _ _ => false
  | .linkChange _ _ _ _ _ _ => false
  | .gateEntry _ _ _ => false
  | .callSheetData _ _ _ => false
  | .callSheetChange _ _ _ => false
  | .callSheetSwitch _ _ => false
  | .shaperConfig _ _ _ _ => false
  | .policerEnable _ _ _ => false
  | .addressAge _ _ => false
  | .nodeForget _ _ => false
  | .singlePathDetect _ _ => false
  | .supervisionSend _ => false
  | .syncReceived _ _ => false
  | .announceReceived _ _ => false
  | .announceTimeout _ => false
  | .pdelayResponse _ _ => false
  | .holdoverEntry _ => false
  | .ppsInEdge _ _ => false
  | .ppsOutEdge _ => false
  | .ppsOutEnd _ => false
  | .clockStep _ _ _ => false
  | .timeSnapshot _ _ _ => false
  | .refclkFail _ => false
  | .rateLimitHeld _ => false
  | .connConfig _ _ _ _ => false
  | .expectationExpiry _ _ => false
  | .keyLoad _ _ _ => false
  | .keyErase _ _ _ => false
  | .keyDataTimeout _ => false
  | .mailboxCue _ _ _ _ => false
  | .faultEvent _ _ _ _ => false
  | .faultWindowExpiry _ _ => false
  | .classMapWrite _ _ _ => false
  | .majorRelease _ _ _ => false
  | .injectionArm _ _ _ => false
  | .injectionTimeout _ => false
  | .watchdogExpiry _ => false
  | .housekeepingRound _ _ => true
  | .pendingNvmWrite _ => false
  | .analogueTrip _ => true
  | .intermissionEnter _ _ _ => true
  | .intermissionWake _ _ _ _ => false
  | .wakeStep _ => false
  | .registerWrite _ _ _ _ _ => true
  | .pairTimeout _ _ => false
  | .aliasWrite _ _ _ _ _ => true
  | .clearingRead _ _ _ => false
  | .bar2Write _ _ _ => false
  | .busAccessError _ _ _ _ _ _ _ => false
  | .targetTimeout _ _ _ _ => false
  | .remap _ _ _ => false
  | .counterSnapshot _ _ _ => false
  | .counterClear _ _ _ => false
  | .liveCounterRead _ _ _ => false
  | .dumpEnable _ _ _ => false
  | .counterDump _ => false
  | .nvmWriteEnable _ _ _ => false
  | .nvmProgram _ _ _ => false
  | .nvmProgramAbort _ _ _ => false
  | .nvmProgramDone _ _ _ => false
  | .logProgram _ => false
  | .hostNote _ _ _ => false
  | .moduleRescan _ _ _ _ => false
  | .modulePoll _ _ => false
  | .imageFrame _ _ => false
  | .powerUp _ _ _ => false
  | .powerFail _ => false
  | .arbitration _ _ _ => true
  | .arbitrationRetry _ _ _ => true
  | .fenceInterlockTimeout _ => false
  | .firmwareStart _ _ _ => false
  | .startOfService _ _ => false
  | .pinReset _ => false
  | .pcieReset _ => false
  | .curtainNDeassert => true
  | .refclkRestored _ => false
  | .selfTestCycle _ _ _ => false
  | .heaterBackgroundReading _ _ _ => false
  | .tileWriteDone _ _ => true
  | .recordWriteDone _ => true
  | .analogueTripRelease _ => false
  | .dumpRecordDone _ => false
  | .pdelayRequest _ => false
  | .tapInstruction _ _ => false

end Sys2Proof
end

