-- ==== Sys2Proof/Certificates/Slice0/Obligations.lean ====
section
/-! DEFINITION. The statements for the provers. -/

open Sys2Proof Sys2Proof.Machine

/-- The counters (R363, R365, R366). A write of PC_SNAP with GO copies every counter, overflow bit and diagnostic counter, as the
access leaves them, into the hold bank with BEATNO; without GO it does nothing. A write of PC_CTRL sets FREEZE, and with CLEAR
every counter and overflow bit becomes 0. A read of the live low half returns it and latches the upper half for its reader alone. That the
hold bank counts PC_SNAP's own access is the model's choice (log entry 20). -/
def Obligations.CountersHeldClearedAndRead : Prop :=
  (∀ (sd : Side) (m : Master) (v : Word) (s : State), (s.on sd).takes m 0x06044 = true →
    ∃ t, exec (.counterSnapshot sd m v) s = .next t
      ∧ Within (keysOf (accessKeys ++ [0x06070, 0x06074])) [.perf, .lines] sd s t
      ∧ (v.toNat % 2 = 1 →
          (t.on sd).perf.hold = ((s.on sd).transfer m).perf.counters
          ∧ (t.on sd).perf.holdDiag = ((s.on sd).transfer m).perf.diag
          ∧ (t.on sd).perf.holdOvf = (List.range 128).map (fun k => (k, ((s.on sd).transfer m).overflow k))
          ∧ (t.on sd).perf.counters = ((s.on sd).transfer m).perf.counters
          ∧ (t.on sd).get PC_SNAP_BEAT_LO.BEATNO = (s.on sd).beatNo % 2 ^ 32
          ∧ (t.on sd).get PC_SNAP_BEAT_HI.BEATNO = (s.on sd).beatNo / 2 ^ 32 % 2 ^ 32
          ∧ (t.on sd).is (evtBit 0x06 0) = true)
      ∧ (v.toNat % 2 = 0 → (t.on sd).perf = ((s.on sd).transfer m).perf))
  ∧ (∀ (sd : Side) (m : Master) (v : Word) (s : State), (s.on sd).takes m 0x06040 = true →
    ∃ t, exec (.counterClear sd m v) s = .next t
      ∧ Within (keysOf (accessKeys ++ [0x06040, 0x06060, 0x06064, 0x06068])) [.perf, .lines] sd s t
      ∧ (t.on sd).get PC_CTRL.FREEZE = v.toNat % 2
      ∧ (bitAt v.toNat 1 = true → (∀ k, Tab.getD (t.on sd).perf.counters k 0 = 0) ∧ (∀ k, Tab.getD (t.on sd).perf.diag k 0 = 0)
          ∧ (∀ i, i < 4 → (t.on sd).get (PC_OVF.OVF.nth i) = 0)
          ∧ (t.on sd).perf.hold = (s.on sd).perf.hold)
      ∧ (bitAt v.toNat 1 = false → (t.on sd).perf = ((s.on sd).transfer m).perf))
  ∧ (∀ (sd : Side) (m : Master) (s : State), (s.on sd).alive = true → (s.on sd).answers 0x06054 = true →
    mayAccess (s.on sd).remapped m 0x20006054 false = true →
    ∃ t, exec (.liveCounterRead sd m false) s = .next t
      ∧ Within (keysOf accessKeys) [.readBack, .perf, .lines] sd s t
      ∧ (t.on sd).readBack = BitVec.ofNat 32 (((s.on sd).transfer m).selectedCounter.1 % 2 ^ 32)
      ∧ Tab.get? (t.on sd).perf.shadow m.code =
          some ((((s.on sd).transfer m).selectedCounter.1 / 2 ^ 32), ((s.on sd).transfer m).selectedCounter.2)
      ∧ (∀ k, k ≠ m.code → Tab.get? (t.on sd).perf.shadow k = Tab.get? (s.on sd).perf.shadow k)
      ∧ (t.on sd).perf.counters = ((s.on sd).transfer m).perf.counters)

/-- The dump engine (R367, R368). Setting EN checks the ring and restarts WIDX, WRAPPED and SEQ; a ring outside working SRAM sets
ERR, with an event of source 0x1F. A dump that is due is skipped, with an event, while the record before is open or the throttle step is
T1 or above, and the next record counts it in SKIPPED; else it takes the counters and opens the record with SEQ 0xFFFF_FFFF. The record's
last bytes complete it: it stands at its slot, and WIDX moves on. -/
def Obligations.CounterDumpWritesItsRing : Prop :=
  (∀ (sd : Side) (m : Master) (v : Word) (s : State), (s.on sd).takes m 0x06080 = true → (s.on sd).is PC_DUMP_CTRL.EN = false →
    bitAt v.toNat 0 = true → 0x10000000 ≤ (s.on sd).dumpBase → (s.on sd).dumpBase + 1120 * (s.on sd).dumpCount ≤ 0x10800000 →
    ∃ t, exec (.dumpEnable sd m v) s = .next t
      ∧ Within (keysOf (accessKeys ++ [0x06080, 0x06090, 0x06094])) [.perf, .lines] sd s t
      ∧ (t.on sd).get PC_DUMP_CTRL.EN = 1 ∧ (t.on sd).get PC_DUMP_STAT.WIDX = 0 ∧ (t.on sd).get PC_DUMP_STAT.WRAPPED = 0
      ∧ (t.on sd).get PC_DUMP_SEQ.SEQ = 0 ∧ (t.on sd).get PC_DUMP_STAT.ERR = 0 ∧ (t.on sd).perf.dump = {})
  ∧ (∀ (sd : Side) (m : Master) (v : Word) (s : State), (s.on sd).takes m 0x06080 = true → (s.on sd).is PC_DUMP_CTRL.EN = false →
    bitAt v.toNat 0 = true → (s.on sd).dumpBase < 0x10000000 ∨ 0x10800000 < (s.on sd).dumpBase + 1120 * (s.on sd).dumpCount →
    (s.on sd).get (FC_STOTAL.EVENTS.bank 0x1F) < 2 ^ 32 - 1 →
    ∃ t, exec (.dumpEnable sd m v) s = .next t
      ∧ Within (keysOn eventPages) eventParts sd s t
      ∧ (t.on sd).get PC_DUMP_CTRL.EN = 1 ∧ (t.on sd).get PC_DUMP_STAT.ERR = 1 ∧ (t.on sd).get PC_DUMP_STAT.WIDX = 0
      ∧ (t.on sd).get PC_DUMP_SEQ.SEQ = 0
      ∧ (t.on sd).get (FC_STOTAL.EVENTS.bank 0x1F) = (s.on sd).get (FC_STOTAL.EVENTS.bank 0x1F) + 1)
  ∧ (∀ (sd : Side) (s : State), (s.on sd).alive = true → (s.on sd).dumpDue = true →
    ((s.on sd).perf.dump.busy = true ∨ (s.on sd).get TH_STAT.STEP ≠ 0) →
    ∃ t, exec (.counterDump sd) s = .next t
      ∧ Within (keysOf [0x0600C]) [.perf, .lines] sd s t
      ∧ (t.on sd).perf = { (s.on sd).perf with
          dump := { (s.on sd).perf.dump with skippedNext := min 65535 ((s.on sd).perf.dump.skippedNext + 1) } }
      ∧ (t.on sd).is (evtBit 0x06 2) = true)
  ∧ (∀ (sd : Side) (s : State), (s.on sd).alive = true → (s.on sd).dumpDue = true → (s.on sd).perf.dump.busy = false →
    (s.on sd).get TH_STAT.STEP = 0 → 0x10000000 ≤ (s.on sd).dumpBase →
    (s.on sd).dumpBase + 1120 * (s.on sd).get PC_DUMP_STAT.WIDX + 1120 ≤ 0x10800000 →
    ∃ t, exec (.counterDump sd) s = .next t
      ∧ Within (keysOf [0x0600C, 0x0606C]) [.perf, .mem, .ecc, .lines] sd s t
      ∧ (t.on sd).perf.dump.busy = true ∧ (t.on sd).perf.dump.takenAt = (s.on sd).beatNo
      ∧ (t.on sd).perf.dump.taken = (List.range 128).map (fun k => Tab.getD (s.on sd).perf.counters k 0)
      ∧ (t.on sd).perf.dump.skipped = (s.on sd).perf.dump.skippedNext ∧ (t.on sd).perf.dump.skippedNext = 0
      ∧ (t.on sd).rdBytes ((s.on sd).dumpBase + 1120 * (s.on sd).get PC_DUMP_STAT.WIDX + 4) 4 = [0xFF, 0xFF, 0xFF, 0xFF]
      ∧ (∀ a, a < (s.on sd).dumpBase + 1120 * (s.on sd).get PC_DUMP_STAT.WIDX + 4
            ∨ (s.on sd).dumpBase + 1120 * (s.on sd).get PC_DUMP_STAT.WIDX + 8 ≤ a → (t.on sd).rd8 a = (s.on sd).rd8 a))
  ∧ (∀ (sd : Side) (s : State), (s.on sd).alive = true → (s.on sd).perf.dump.busy = true → 0x10000000 ≤ (s.on sd).dumpBase →
    (s.on sd).dumpBase + 1120 * (s.on sd).get PC_DUMP_STAT.WIDX + (s.on sd).dumpRecord.length ≤ 0x10800000 →
    ∃ t, exec (.dumpRecordDone sd) s = .next t
      ∧ Within (keysOf [0x06090, 0x06094, 0x0600C, 0x0606C]) [.perf, .mem, .ecc, .lines] sd s t
      ∧ (t.on sd).perf.dump.busy = false
      ∧ (t.on sd).get PC_DUMP_SEQ.SEQ = (s.on sd).perf.dump.seq % 2 ^ 32
      ∧ ((s.on sd).get PC_DUMP_STAT.WIDX + 1 < (s.on sd).dumpCount →
          (t.on sd).get PC_DUMP_STAT.WIDX = ((s.on sd).get PC_DUMP_STAT.WIDX + 1) % 2 ^ 10)
      ∧ ((s.on sd).dumpCount ≤ (s.on sd).get PC_DUMP_STAT.WIDX + 1 →
          (t.on sd).get PC_DUMP_STAT.WIDX = 0 ∧ (t.on sd).get PC_DUMP_STAT.WRAPPED = 1)
      ∧ (t.on sd).rdBytes ((s.on sd).dumpBase + 1120 * (s.on sd).get PC_DUMP_STAT.WIDX) (s.on sd).dumpRecord.length
          = (s.on sd).dumpRecord
      ∧ (∀ a, a < (s.on sd).dumpBase + 1120 * (s.on sd).get PC_DUMP_STAT.WIDX
            ∨ (s.on sd).dumpBase + 1120 * (s.on sd).get PC_DUMP_STAT.WIDX + (s.on sd).dumpRecord.length ≤ a →
          (t.on sd).rd8 a = (s.on sd).rd8 a))

/-- Error responses (R351, R357, R361, R370). An access that the interconnect refuses for a reason of R338 to R359 sets ERR in the
interconnect's EVT_RAW; the first since that flag was cleared is recorded in BX_ERR_ADDR and BX_ERR_INFO, but for a narrow write
to a page (KIND 0). A target's timeout does so with KIND 4; a write through BAR2 sets ERR alone. None of them reads or writes
memory. -/
def Obligations.RefusedAccessesAreRecorded : Prop :=
  (∀ (sd : Side) (m : Master) (addr width burst k : Nat) (write locked : Bool) (s : State), (s.on sd).alive = true →
    accessReason (s.on sd).remapped m addr width write locked burst = some k →
    ∃ t, exec (.busAccessError sd m addr width write locked burst) s = .next t
      ∧ Within (keysOn (addr % 0x100000 / 0x1000 :: 0x02 :: eventPages)) (.pairs :: eventParts) sd s t
      ∧ (t.on sd).is (evtBit 0x02 0) = true
      ∧ (k ≠ 0 → (s.on sd).is (evtBit 0x02 0) = false →
          (t.on sd).get BX_ERR_ADDR.ADDR = addr % 2 ^ 32 ∧ (t.on sd).get BX_ERR_INFO.MASTER = m.code
          ∧ (t.on sd).get BX_ERR_INFO.KIND = k % 8 ∧ (t.on sd).get BX_ERR_INFO.TARGET = targetOf addr
          ∧ (t.on sd).is BX_ERR_INFO.WRITE = write)
      ∧ (k = 0 ∨ ((s.on sd).is (evtBit 0x02 0) = true ∧ (s.on sd).perf.errHeld = true) →
          (t.on sd).get BX_ERR_ADDR.ADDR = (s.on sd).get BX_ERR_ADDR.ADDR ∧ (t.on sd).get BX_ERR_INFO.KIND = (s.on sd).get BX_ERR_INFO.KIND))
  ∧ (∀ (sd : Side) (m : Master) (addr : Nat) (write : Bool) (s : State), (s.on sd).alive = true →
    ∃ t, exec (.targetTimeout sd m addr write) s = .next t
      ∧ Within (keysOn (addr % 0x100000 / 0x1000 :: 0x02 :: eventPages)) eventParts sd s t
      ∧ (t.on sd).is (evtBit 0x02 0) = true
      ∧ ((s.on sd).is (evtBit 0x02 0) = false →
          (t.on sd).get BX_ERR_ADDR.ADDR = addr % 2 ^ 32 ∧ (t.on sd).get BX_ERR_INFO.KIND = 4))
  ∧ (∀ (sd : Side) (offset : Nat) (v : Word) (s : State), (s.on sd).alive = true →
    ∃ t, exec (.bar2Write sd offset v) s = .next t
      ∧ Within (keysOn ((0x20000000 + offset) % 0x100000 / 0x1000 :: 0x02 :: eventPages)) eventParts sd s t
      ∧ (t.on sd).is (evtBit 0x02 0) = true
      ∧ (t.on sd).get BX_ERR_ADDR.ADDR = (s.on sd).get BX_ERR_ADDR.ADDR)

/-- Paired writes (R338, R340, R341). A 32-bit write of V to a register that takes pairs starts one: PAGE_LOCK of its page shows it held, with the
register, the master and 16 boundaries left, and the register keeps its value. The complement that follows V on a register, in time and
from a master that may write the page, ends
the pair with STATE done, REASON 0 and LEFT 0, and the register's pw fields take V: NV_WEN takes its enable, REMAP shows the new
map where REMAP_LOCK does not hold it, and FC_MAP gives the selected source its entry, which acts from the next boundary (R307).
Another write to the page breaks the pair, REASON 2; a wrong complement breaks it, REASON 3, and without a pair it shows REASON 4; a pair
whose 16 boundaries have passed is broken, with REASON 1. One 64-bit write of the host with V below and its complement above completes
the pair of NV_WEN; an access of any master that is not aligned to its width has no effect on registers, pairs and memory, and raises
source 0x11 (R338, R341). -/
def Obligations.PairsCompleteAndLapse : Prop :=
  (∀ (sd : Side) (m : Master) (key : Nat) (v hi : Word) (s : State), let x := s.on sd
    m ≠ .twinCopy → pairedKeys.contains key = true → x.takes m key = true → accessReason x.remapped m (0x20000000 + key) 4 true false 1 = none →
    x.regKey key = some key →
    ∃ t, exec (.registerWrite sd m (0x20000000 + key) 4 ⟨v, hi⟩) s = .next t
      ∧ Within (keysOf (accessKeys ++ [(PAGE_LOCK.STATE.onPage (key / 0x1000)).key])) [.pairs, .perf, .lines] sd s t
      ∧ (t.on sd).get (PAGE_LOCK.STATE.onPage (key / 0x1000)) = 1 ∧ (t.on sd).get (PAGE_LOCK.OFFSET.onPage (key / 0x1000)) = key % 0x1000 / 4
      ∧ (t.on sd).get (PAGE_LOCK.MASTER.onPage (key / 0x1000)) = m.code ∧ (t.on sd).get (PAGE_LOCK.LEFT.onPage (key / 0x1000)) = 16
      ∧ (t.on sd).pairs = Tab.put x.pairs (key / 0x1000) v)
  ∧ (∀ (sd : Side) (m : Master) (page key : Nat) (p v hi : Word) (s : State), let x := s.on sd
    m ≠ .twinCopy → page < 0x32 → x.alive = true → x.answers (page * 0x1000 + 0x010) = true → mayWritePage m page = true →
    accessReason x.remapped m (0x20000010 + page * 0x1000) 4 true false 1 = none →
    Tab.get? x.pairs page = some p → x.get (PAGE_LOCK.LEFT.onPage page) ≠ 0 → x.pairKey page = key → key ≠ page * 0x1000 + 0x00C →
    ∃ t, exec (.registerWrite sd m (0x20000010 + page * 0x1000) 4 ⟨v, hi⟩) s = .next t
      ∧ Within (keysOn (page :: eventPages)) (.pairs :: eventParts) sd s t
      ∧ (t.on sd).get (PAGE_LOCK.STATE.onPage page) = 3 ∧ (t.on sd).get (PAGE_LOCK.REASON.onPage page) = 2
      ∧ (t.on sd).get (PAGE_LOCK.MASTER.onPage page) = m.code ∧ (t.on sd).get (PAGE_LOCK.LEFT.onPage page) = 0
      ∧ (t.on sd).get (PAGE_LOCK.OFFSET.onPage page) = key % 0x1000 / 4 ∧ (t.on sd).pairs = Tab.del x.pairs page)
  ∧ (∀ (sd : Side) (m : Master) (v c : Word) (s : State), (s.on sd).holds m 0x05048 v = true → c ≠ ~~~v →
    ∃ t, exec (.nvmWriteEnable sd m (.complement c)) s = .next t
      ∧ Within (keysOn eventPages) (.pairs :: eventParts) sd s t
      ∧ (t.on sd).get NV_WEN.EN = (s.on sd).get NV_WEN.EN ∧ (t.on sd).get (PAGE_LOCK.STATE.onPage 0x05) = 3
      ∧ (t.on sd).get (PAGE_LOCK.REASON.onPage 0x05) = 3 ∧ Tab.get? (t.on sd).pairs 0x05 = none)
  ∧ (∀ (sd : Side) (m : Master) (c : Word) (s : State), (s.on sd).takes m 0x05048 = true →
    ∃ t, exec (.nvmWriteEnable sd m (.complement c)) s = .next t
      ∧ Within (keysOn eventPages) (.pairs :: eventParts) sd s t
      ∧ (t.on sd).get NV_WEN.EN = (s.on sd).get NV_WEN.EN ∧ (t.on sd).get (PAGE_LOCK.STATE.onPage 0x05) = 3
      ∧ (t.on sd).get (PAGE_LOCK.REASON.onPage 0x05) = 4)
  ∧ (∀ (sd : Side) (m : Master) (v : Word) (s : State), (s.on sd).holds m 0x05048 v = true →
    ∃ t, exec (.nvmWriteEnable sd m (.complement (~~~v))) s = .next t
      ∧ Within (keysOf (pairKeys 0x05048)) [.pairs, .perf, .lines] sd s t
      ∧ (t.on sd).get NV_WEN.EN = v.toNat % 2
      ∧ (t.on sd).get (PAGE_LOCK.STATE.onPage 0x05) = 2 ∧ (t.on sd).get (PAGE_LOCK.REASON.onPage 0x05) = 0
      ∧ (t.on sd).get (PAGE_LOCK.LEFT.onPage 0x05) = 0 ∧ Tab.get? (t.on sd).pairs 0x05 = none)
  ∧ (∀ (sd : Side) (m : Master) (v : Word) (s : State), (s.on sd).holds m 0x02040 v = true → (s.on sd).is BX_CTRL.REMAP_LOCK = false →
    ∃ t, exec (.remap sd m (.complement (~~~v))) s = .next t
      ∧ Within (keysOf (0x0204C :: 0x0200C :: pairKeys 0x02040)) [.pairs, .perf, .lines] sd s t
      ∧ (t.on sd).get BX_STAT.REMAPPED = v.toNat % 2 ∧ (t.on sd).is (evtBit 0x02 3) = true)
  ∧ (∀ (sd : Side) (m : Master) (v : Word) (s : State), (s.on sd).holds m 0x02040 v = true → (s.on sd).is BX_CTRL.REMAP_LOCK = true →
    ∃ t, exec (.remap sd m (.complement (~~~v))) s = .next t
      ∧ Within (keysOn (0x02 :: eventPages)) (.pairs :: eventParts) sd s t
      ∧ (t.on sd).get BX_STAT.REMAPPED = (s.on sd).get BX_STAT.REMAPPED ∧ (t.on sd).is (evtBit 0x02 4) = true)
  ∧ (∀ (sd : Side) (m : Master) (v : Word) (s : State), (s.on sd).holds m 0x03054 v = true →
    let src := (s.on sd).get FC_SEL.SOURCE
    classMapped src = true →
    ∃ t, exec (.classMapWrite sd m (.complement (~~~v))) s = .next t
      ∧ Within (keysOf ((FC_MAP.CLASS.bank src).key :: pairKeys 0x03054)) [.pairs, .fault, .perf, .lines] sd s t
      ∧ (t.on sd).get (FC_MAP.CLASS.bank src) = v.toNat % 4 ∧ (t.on sd).get (FC_MAP.N.bank src) = bits v.toNat 8 8
      ∧ (t.on sd).get (FC_MAP.W.bank src) = bits v.toNat 16 16
      ∧ (t.on sd).classOf src = (s.on sd).classOf src)
  ∧ (∀ (sd : Side) (page : Nat) (s : State), page < 0x32 → (s.on sd).alive = true → Tab.has (s.on sd).pairs page = true →
    (s.on sd).get (PAGE_LOCK.LEFT.onPage page) = 0 →
    ∃ t, exec (.pairTimeout sd page) s = .next t
      ∧ Within (keysOn (page :: eventPages)) (.pairs :: eventParts) sd s t
      ∧ (t.on sd).get (PAGE_LOCK.STATE.onPage page) = 3 ∧ (t.on sd).get (PAGE_LOCK.REASON.onPage page) = 1
      ∧ Tab.get? (t.on sd).pairs page = none)
  ∧ (∀ (sd : Side) (v : Word) (s : State), let x := s.on sd
    x.takes .host 0x05048 = true → x.regKey 0x05048 = some 0x05048 → accessReason x.remapped .host 0x20005048 8 true false 1 = none →
    ∃ t, exec (.registerWrite sd .host 0x20005048 8 ⟨v, ~~~v⟩) s = .next t
      ∧ Within (keysOf (pairKeys 0x05048)) [.pairs, .perf, .lines] sd s t
      ∧ (t.on sd).get NV_WEN.EN = v.toNat % 2 ∧ (t.on sd).get (PAGE_LOCK.STATE.onPage 0x05) = 2
      ∧ (t.on sd).get (PAGE_LOCK.REASON.onPage 0x05) = 0 ∧ (t.on sd).get (PAGE_LOCK.LEFT.onPage 0x05) = 0
      ∧ Tab.get? (t.on sd).pairs 0x05 = none)
  ∧ (∀ (sd : Side) (m : Master) (addr width : Nat) (v : BusData) (s : State), let x := s.on sd
    x.alive = true → isWidth width = true → targetOf addr ≠ 7 → addr % width ≠ 0 →
    ∃ t, exec (.registerWrite sd m addr width v) s = .next t
      ∧ Within (fun key => keysOn (0x02 :: eventPages) key || key == (PAGE_STAT.ACC_ERR.onPage (addr % 0x100000 / 0x1000)).key) eventParts sd s t
      ∧ x.raised (t.on sd) 0x11 = true)

/-- Injection and counting windows (R300, R309, R314). FC_INJ with GO arms its point when no injection is armed, the point
exists and the source's class is not Grave with REACT set: FC_INJ_STAT shows it armed with LEFT the count, at least 1. An
injection that has run its time is disarmed with RESULT 0. A window whose LEFT is 0 closes, its count 0. The watchdog's expiry,
when no mark has come for 1,000 beats, clears WDOG_OK and raises source 0xA4; before then there is none. That an injection which has run
its time shows RESULT 0 and LEFT 0 is the model's choice (log entry 26). -/
def Obligations.InjectionArmsAndEnds : Prop :=
  (∀ (sd : Side) (m : Master) (v : Word) (src : Nat) (s : State), (s.on sd).takes m 0x03090 = true → bitAt v.toNat 31 = true →
    (s.on sd).fault.injection = none → injectionSource (bits v.toNat 0 8) = some src →
    (bitAt v.toNat 16 = false ∨ ((s.on sd).transfer m).classOf src ≠ 3) →
    ∃ t, exec (.injectionArm sd m v) s = .next t
      ∧ Within (keysOf (accessKeys ++ [0x03040, 0x03094])) [.fault, .perf, .lines] sd s t
      ∧ (t.on sd).fault.injection = some ⟨bits v.toNat 0 8, max 1 (bits v.toNat 8 8), bitAt v.toNat 16, (s.on sd).produced⟩
      ∧ (t.on sd).get FC_INJ_STAT.RESULT = 1 ∧ (t.on sd).get FC_INJ_STAT.LEFT = max 1 (bits v.toNat 8 8)
      ∧ (t.on sd).get FC_INJ_STAT.INJ = 0 ∧ (t.on sd).get FC_INJ_STAT.REAL = 0 ∧ (t.on sd).get FC_STAT.INJ_ARMED = 1)
  ∧ (∀ (sd : Side) (m : Master) (v : Word) (s : State), (s.on sd).takes m 0x03090 = true → bitAt v.toNat 31 = true →
    (s.on sd).fault.injection.isSome = true →
    ∃ t, exec (.injectionArm sd m v) s = .next t
      ∧ Within (keysOf (accessKeys ++ [0x03094])) [.perf, .lines] sd s t
      ∧ (t.on sd).get FC_INJ_STAT.RESULT = 3 ∧ (t.on sd).get FC_INJ_STAT.REASON = 1)
  ∧ (∀ (sd : Side) (i : Injection) (s : State), (s.on sd).alive = true → (s.on sd).fault.injection = some i →
    i.armedAt + 100000 ≤ (s.on sd).produced →
    ∃ t, exec (.injectionTimeout sd) s = .next t
      ∧ Within (keysOn eventPages) eventParts sd s t
      ∧ (t.on sd).fault.injection = none ∧ (t.on sd).get FC_INJ_STAT.LEFT = 0 ∧ (t.on sd).get FC_INJ_STAT.RESULT = 0
      ∧ (t.on sd).get FC_STAT.INJ_ARMED = 0)
  ∧ (∀ (sd : Side) (src : Nat) (s : State), (s.on sd).alive = true → Tab.get? (s.on sd).fault.windows src = some 0 →
    ∃ t, exec (.faultWindowExpiry sd src) s = .next t
      ∧ Within (keysOf [(FC_SCNT.COUNT.bank src).key]) [.fault, .lines] sd s t
      ∧ Tab.get? (t.on sd).fault.windows src = none ∧ (t.on sd).get (FC_SCNT.COUNT.bank src) = 0)
  ∧ (∀ (sd : Side) (s : State), (s.on sd).managed = true → (s.on sd).fault.watchdog + 1000 ≤ (s.on sd).produced →
    ∃ t, exec (.watchdogExpiry sd) s = .next t
      ∧ Within (keysOn (0x07 :: eventPages)) eventParts sd s t
      ∧ (t.on sd).get HM_STAT.WDOG_OK = 0 ∧ (s.on sd).raised (t.on sd) 0xA4 = true)
  ∧ (∀ (sd : Side) (s : State), (s.on sd).managed = false ∨ (s.on sd).produced < (s.on sd).fault.watchdog + 1000 →
    ∃ t, exec (.watchdogExpiry sd) s = .next t ∧ Within (keysOf []) [.lines] sd s t)

/-- The release of the Major state, and the class map (R305, R307). In the Major state, one millisecond or more after its last event, a completed pair on
FC_REL with GO is accepted and waits for the next boundary; with no Major state it is refused, REASON 1; sooner, REASON 2. At
the boundary the accepted release ends the state with its count, its pending resignation and the windows of its sources, and class-map
entries written in the beat come into force.
A boundary at which nothing else is due stands for every one. -/
def Obligations.MajorReleaseIsAcceptedOrRefused : Prop :=
  (∀ (sd : Side) (m : Master) (v : Word) (e : Nat) (s : State), (s.on sd).holds m 0x03068 v = true → bitAt v.toNat 0 = true →
    (s.on sd).is FC_STAT.MAJOR = true → (s.on sd).fault.majorAt = some e → e + 1000000 ≤ (s.on sd).tick →
    ∃ t, exec (.majorRelease sd m (.complement (~~~v))) s = .next t
      ∧ Within (keysOf (0x03070 :: pairKeys 0x03068)) [.pairs, .fault, .perf, .lines] sd s t
      ∧ (t.on sd).fault.relPending = true ∧ (t.on sd).get FC_REL_STAT.RESULT = 1 ∧ (t.on sd).get FC_REL_STAT.REASON = 0)
  ∧ (∀ (sd : Side) (m : Master) (v : Word) (s : State), (s.on sd).holds m 0x03068 v = true → bitAt v.toNat 0 = true →
    (s.on sd).is FC_STAT.MAJOR = false →
    ∃ t, exec (.majorRelease sd m (.complement (~~~v))) s = .next t
      ∧ Within (keysOf (0x03070 :: 0x0300C :: pairKeys 0x03068)) [.pairs, .perf, .lines] sd s t
      ∧ (t.on sd).get FC_REL_STAT.RESULT = 3 ∧ (t.on sd).get FC_REL_STAT.REASON = 1 ∧ (t.on sd).is (evtBit 0x03 5) = true)
  ∧ (∀ (sd : Side) (m : Master) (v : Word) (e : Nat) (s : State), (s.on sd).holds m 0x03068 v = true → bitAt v.toNat 0 = true →
    (s.on sd).is FC_STAT.MAJOR = true → (s.on sd).fault.majorAt = some e → (s.on sd).tick < e + 1000000 →
    ∃ t, exec (.majorRelease sd m (.complement (~~~v))) s = .next t
      ∧ Within (keysOf (0x03070 :: 0x0300C :: pairKeys 0x03068)) [.pairs, .perf, .lines] sd s t
      ∧ (t.on sd).get FC_REL_STAT.RESULT = 3 ∧ (t.on sd).get FC_REL_STAT.REASON = 2)
  ∧ (∀ (sd : Side) (s : State), let x := s.on sd; let y := { x with fault := { x.fault with relPending := false } }
    s.calmBut sd y = true → x.fault.relPending = true → x.classOf 0x33 ≤ 1 → x.classOf 0xA5 ≤ 1 →
    ∃ t, exec (.beatBoundary sd) s = .next t
      ∧ (t.on sd).get FC_STAT.MAJOR = 0 ∧ (t.on sd).get FC_STAT.RESIGN_PEND = 0 ∧ (t.on sd).get FC_MAJ.COUNT = 0
      ∧ (t.on sd).get FC_REL_STAT.RESULT = 2 ∧ (t.on sd).is (evtBit 0x03 5) = true ∧ (t.on sd).fault.relPending = false
      ∧ (t.on sd).twin.resignWait = false ∧ (t.on sd).twin.resignFrom = none
      ∧ (∀ src, x.classOf src = 2 → Tab.has (t.on sd).fault.windows src = false))
  ∧ (∀ (sd : Side) (s : State), let x := s.on sd; let y := { x with fault := { x.fault with mapPending := [] } }
    s.calmBut sd y = true → x.fault.mapPending ≠ [] →
    ∃ t, exec (.beatBoundary sd) s = .next t
      ∧ (t.on sd).fault.mapPending = [] ∧ (t.on sd).is (evtBit 0x03 4) = true
      ∧ (∀ src, (t.on sd).classOf src = bits (x.word (FC_MAP.CLASS.bank src).key).toNat 0 2))

/-- The reaction to an event whose source is mapped to Major with threshold 1 (R300 to R302), on a side with no higher class in
this beat, not in the Major state, with room in its log: the side enters the Major state with the source shown, its ALIVE output
stops, and a lead with a FIT peer sets its resignation for this beat's end, or the next's after 9.5 µs. -/
def Obligations.MajorEventEntersTheMajorState : Prop :=
  ∀ (sd : Side) (src : Nat) (s : State), let x := s.on sd
    x.alive = true → classMapped src = true → src ≠ 0x1B → src ≠ 0x1C → src ≠ 0x5D → src ≠ 0x85 → Nat.blt 6 src = true →
    x.fault.upsets = [] → x.fault.injection = none → x.fault.dropped = false → x.fault.log.length < 256 → x.fault.top ≤ 2 → x.is FC_STAT.MAJOR = false →
    x.classOf src = 2 → x.threshold src = 1 → x.countOf src = 0 →
    ∃ t, exec (.faultEvent sd src 0 .failsPrimaryOther) s = .next t
      ∧ Within (keysOn eventPages) eventParts sd s t
      ∧ (t.on sd).get FC_STAT.MAJOR = 1 ∧ (t.on sd).get FC_MAJ.SOURCE = src % 256 ∧ (t.on sd).get SW_STAT.ALIVE_RUN = 0
      ∧ (t.on sd).fault.log.length = x.fault.log.length + 1
      ∧ (x.leads = true → x.peerFit = true →
          (t.on sd).twin.resignFrom = some (if x.off ≤ 9500 then x.produced else x.produced + 1))
      ∧ (x.leads = true → x.peerFit = false → (t.on sd).get FC_STAT.RESIGN_PEND = 1)
      ∧ (x.leads = false → (t.on sd).get TW_ROLE.FIT = 0)

/-- NV_PROG (R377). GO with NV_WEN.EN, aligned and in range, with no run in progress, starts a run: the sectors of its destination are
erased and RESULT shows it running, or it waits while the write window is closed. Without NV_WEN.EN it is refused, REASON 1; misaligned or out
of range, REASON 2; with a run in progress, REASON 3. ABORT marks
the run to stop; it then ends with RESULT 4 and its pages programmed so far counted in DONE. A run that ends well has programmed its pages
of working SRAM into the NVM. A page that fails to program ends the run, RESULT 4 and REASON 4, with source 0xA2. -/
def Obligations.NvmProgramRuns : Prop :=
  (∀ (sd : Side) (m : Master) (v : Word) (s : State), let x := s.on sd
    x.takes m 0x0505C = true → bitAt v.toNat 0 = true → x.is NV_WEN.EN = true → x.nvm.run = none →
    x.get NV_PROG_SRC.ADDR % 256 = 0 → x.get NV_PROG_DST.OFFSET % 4096 = 0 → x.get NV_PROG_LEN.LEN % 256 = 0 →
    0x1470000 ≤ x.get NV_PROG_DST.OFFSET → x.get NV_PROG_DST.OFFSET + x.get NV_PROG_LEN.LEN ≤ 0x2000000 →
    0x10000000 ≤ x.get NV_PROG_SRC.ADDR → x.get NV_PROG_SRC.ADDR + x.get NV_PROG_LEN.LEN ≤ 0x10800000 →
    ∃ t, exec (.nvmProgram sd m v) s = .next t
      ∧ Within (keysOf (accessKeys ++ [0x05060])) [.mem, .ecc, .nvm, .perf, .lines] sd s t
      ∧ (t.on sd).nvm = { x.nvm with
          run := some ⟨x.get NV_PROG_SRC.ADDR, x.get NV_PROG_DST.OFFSET, x.get NV_PROG_LEN.LEN, 0, false, x.nvmOpen, !x.nvmOpen⟩ }
      ∧ (t.on sd).get NV_PROG_STAT.RESULT = (if x.nvmOpen then 1 else 5)
      ∧ (∀ a, (t.on sd).rd8 a = (if x.nvmOpen && Nat.ble (0x40000000 + x.get NV_PROG_DST.OFFSET) a
          && Nat.blt a (0x40000000 + x.get NV_PROG_DST.OFFSET + (x.get NV_PROG_LEN.LEN + 4095) / 4096 * 4096) then 0xFF else x.rd8 a))
      ∧ (t.on sd).get NV_PROG_STAT.REASON = 0 ∧ (t.on sd).get NV_PROG_STAT.DONE = 0)
  ∧ (∀ (sd : Side) (m : Master) (v : Word) (s : State), let x := s.on sd
    x.takes m 0x0505C = true → bitAt v.toNat 0 = true → x.is NV_WEN.EN = false →
    ∃ t, exec (.nvmProgram sd m v) s = .next t
      ∧ Within (keysOf (accessKeys ++ [0x05060])) [.perf, .lines] sd s t
      ∧ (t.on sd).nvm = x.nvm ∧ (t.on sd).get NV_PROG_STAT.RESULT = 3 ∧ (t.on sd).get NV_PROG_STAT.REASON = 1)
  ∧ (∀ (sd : Side) (m : Master) (v : Word) (r : NvmRun) (s : State), let x := s.on sd
    x.takes m 0x0505C = true → bitAt v.toNat 1 = true → x.nvm.run = some r →
    ∃ t, exec (.nvmProgramAbort sd m v) s = .next t
      ∧ Within (keysOf accessKeys) [.nvm, .perf, .lines] sd s t
      ∧ (t.on sd).nvm.run = some { r with stop := true })
  ∧ (∀ (sd : Side) (pages : Nat) (r : NvmRun) (s : State), let x := s.on sd
    x.alive = true → x.nvm.run = some r → r.paused = false → r.stop = false → r.len % 256 = 0 → 256 * r.done ≤ r.len →
    ∃ t, exec (.nvmProgramDone sd true pages) s = .next t
      ∧ Within (keysOn [0x05, 0x06]) [.mem, .ecc, .nvm, .perf, .lines] sd s t
      ∧ (t.on sd).nvm.run = none ∧ (t.on sd).get NV_PROG_STAT.RESULT = 2 ∧ (t.on sd).get NV_PROG_STAT.DONE = r.len / 256 % 2 ^ 25
      ∧ (t.on sd).is (evtBit 0x05 0) = true
      ∧ (t.on sd).rdBytes (0x40000000 + r.dst + 256 * r.done) (r.len - 256 * r.done) = x.rdBytes (r.src + 256 * r.done) (r.len - 256 * r.done)
      ∧ (∀ a, a < 0x40000000 + r.dst + 256 * r.done ∨ 0x40000000 + r.dst + r.len ≤ a → (t.on sd).rd8 a = x.rd8 a))
  ∧ (∀ (sd : Side) (pages : Nat) (r : NvmRun) (s : State), let x := s.on sd
    let n := if r.paused then r.done else max r.done (min pages (r.len / 256))
    x.alive = true → x.nvm.run = some r → r.stop = true →
    ∃ t, exec (.nvmProgramDone sd true pages) s = .next t
      ∧ Within (keysOn [0x05, 0x06]) [.mem, .ecc, .nvm, .perf, .lines] sd s t
      ∧ (t.on sd).nvm.run = none ∧ (t.on sd).get NV_PROG_STAT.RESULT = 4 ∧ (t.on sd).get NV_PROG_STAT.DONE = n % 2 ^ 25
      ∧ (t.on sd).is (evtBit 0x05 0) = true
      ∧ (t.on sd).rdBytes (0x40000000 + r.dst + 256 * r.done) (256 * (n - r.done)) = x.rdBytes (r.src + 256 * r.done) (256 * (n - r.done))
      ∧ (∀ a, a < 0x40000000 + r.dst + 256 * r.done ∨ 0x40000000 + r.dst + 256 * n ≤ a → (t.on sd).rd8 a = x.rd8 a))
  ∧ (∀ (sd : Side) (m : Master) (v : Word) (s : State), let x := s.on sd
    let out := x.get NV_PROG_DST.OFFSET < 0x1470000 ∨ 0x2000000 < x.get NV_PROG_DST.OFFSET + x.get NV_PROG_LEN.LEN
      ∨ x.get NV_PROG_SRC.ADDR < 0x10000000 ∨ 0x10800000 < x.get NV_PROG_SRC.ADDR + x.get NV_PROG_LEN.LEN
    x.takes m 0x0505C = true → bitAt v.toNat 0 = true → x.is NV_WEN.EN = true → x.nvm.run = none →
    out ∨ x.get NV_PROG_SRC.ADDR % 256 ≠ 0 ∨ x.get NV_PROG_DST.OFFSET % 4096 ≠ 0 ∨ x.get NV_PROG_LEN.LEN % 256 ≠ 0 →
    ∃ t, exec (.nvmProgram sd m v) s = .next t
      ∧ Within (keysOf (accessKeys ++ [0x05060])) [.perf, .lines] sd s t
      ∧ (t.on sd).nvm = x.nvm ∧ (t.on sd).get NV_PROG_STAT.RESULT = 3 ∧ (t.on sd).get NV_PROG_STAT.REASON = 2)
  ∧ (∀ (sd : Side) (m : Master) (v : Word) (s : State), let x := s.on sd
    x.takes m 0x0505C = true → bitAt v.toNat 0 = true → x.is NV_WEN.EN = true → x.nvm.run.isSome = true →
    x.get NV_PROG_SRC.ADDR % 256 = 0 → x.get NV_PROG_DST.OFFSET % 4096 = 0 → x.get NV_PROG_LEN.LEN % 256 = 0 →
    0x1470000 ≤ x.get NV_PROG_DST.OFFSET → x.get NV_PROG_DST.OFFSET + x.get NV_PROG_LEN.LEN ≤ 0x2000000 →
    0x10000000 ≤ x.get NV_PROG_SRC.ADDR → x.get NV_PROG_SRC.ADDR + x.get NV_PROG_LEN.LEN ≤ 0x10800000 →
    ∃ t, exec (.nvmProgram sd m v) s = .next t
      ∧ Within (keysOf (accessKeys ++ [0x05060])) [.perf, .lines] sd s t
      ∧ (t.on sd).nvm = x.nvm ∧ (t.on sd).get NV_PROG_STAT.RESULT = 3 ∧ (t.on sd).get NV_PROG_STAT.REASON = 3)
  ∧ (∀ (sd : Side) (pages : Nat) (r : NvmRun) (s : State), let x := s.on sd
    let n := max r.done (min pages (r.len / 256))
    x.alive = true → x.nvm.run = some r → r.paused = false →
    ∃ t, exec (.nvmProgramDone sd false pages) s = .next t
      ∧ Within (keysOn (0x05 :: eventPages)) (.mem :: .ecc :: .nvm :: eventParts) sd s t
      ∧ (t.on sd).nvm = { x.nvm with run := none } ∧ (t.on sd).get NV_PROG_STAT.RESULT = 4 ∧ (t.on sd).get NV_PROG_STAT.REASON = 4
      ∧ (t.on sd).get NV_PROG_STAT.DONE = n % 2 ^ 25 ∧ x.raised (t.on sd) 0xA2 = true ∧ (t.on sd).is (evtBit 0x05 0) = true
      ∧ (t.on sd).rdBytes (0x40000000 + r.dst + 256 * r.done) (256 * (n - r.done)) = x.rdBytes (r.src + 256 * r.done) (256 * (n - r.done))
      ∧ (∀ a, a < 0x40000000 + r.dst + 256 * r.done ∨ 0x40000000 + r.dst + 256 * n ≤ a → (t.on sd).rd8 a = x.rd8 a))

/-- The NVM's write window (R323, R376, R379). While it is open, entries of the log buffer are programmed, each of them at the place of its
SEQ in the ring, NV_LOG_WIDX and NV_LOG_SEQ follow the last, and the buffer is empty
after; while it opens, the record writes that waited wait no more, and RG_STAT and NV_PROG_STAT stop showing the wait. The first
record write that does not wait ends when its write is done: a key for the next boundary, a park table for the next boundary, a forecast
and every other record in its area; the other side changes only where a record of its own awaited it. A record of the lead that is
for both sides goes to its understudy too, at once where the understudy's window is open; else the understudy's write waits for its window,
and what follows from the lead's waits for that write (R62, R64, R102, R292). -/
def Obligations.NvmWindowLetsWritesThrough : Prop :=
  (∀ (sd : Side) (s : State), (s.on sd).managed = true → (s.on sd).nvmOpen = true →
    ∃ t, exec (.logProgram sd) s = .next t
      ∧ Within (keysOn [0x05, 0x06]) [.mem, .ecc, .fault, .perf, .lines] sd s t
      ∧ (t.on sd).fault.log = [] ∧ (t.on sd).get NV_LOG_STAT.BUF = 0)
  ∧ (∀ (sd : Side) (first : Nat) (s : State), let x := s.on sd
    x.managed = true → x.nvmOpen = true → x.fault.log ≠ [] → x.fault.log.length ≤ 256 → first + 256 < 2 ^ 32 →
    (x.fault.log.zipIdx.all (fun p => p.1.length == 32 && leNat (slice p.1 8 4) == first + p.2)) = true →
    ∃ t, exec (.logProgram sd) s = .next t
      ∧ (∀ k, k < x.fault.log.length → (t.on sd).rdBytes (logRing + 32 * ((first + k) % 65536)) 32 = x.fault.log.getD k [])
      ∧ (t.on sd).get NV_LOG_SEQ.SEQ = first + x.fault.log.length - 1
      ∧ (t.on sd).get NV_LOG_WIDX.WIDX = ((first + x.fault.log.length - 1) % 65536 + 1) % 65536
      ∧ (∀ a, a < logRing ∨ logRing + 32 * 65536 ≤ a → (t.on sd).rd8 a = x.rd8 a))
  ∧ (∀ (sd : Side) (s : State), (s.on sd).alive = true → (s.on sd).nvmOpen = true →
    ∃ t, exec (.pendingNvmWrite sd) s = .next t
      ∧ Within (keysOf [0x05060, 0x0600C, 0x0606C, RG_STAT.NVM_PENDING.key]) [.mem, .ecc, .nvm, .perf, .lines] sd s t
      ∧ (t.on sd).nvm.writes = (s.on sd).nvm.writes.map (fun (w : RecordWrite) => { w with waiting := false })
      ∧ (t.on sd).get RG_STAT.NVM_PENDING = 0 ∧ (t.on sd).nvm.directoryDue = none
      ∧ (∀ r, (s.on sd).nvm.run = some r → r.paused = true →
          (t.on sd).get NV_PROG_STAT.RESULT = 1 ∧ (t.on sd).nvm.run = some { r with erased := true, paused := false })
      ∧ ((s.on sd).nvm.run.all (fun r => !r.paused) = true → (t.on sd).get NV_PROG_STAT.RESULT = (s.on sd).get NV_PROG_STAT.RESULT
          ∧ (t.on sd).nvm.run = (s.on sd).nvm.run))
  ∧ (∀ (sd : Side) (w : RecordWrite) (rest : List RecordWrite) (s : State), (s.on sd).managed = true →
    firstWrite (s.on sd).nvm.writes = some (w, rest) → w.kind = .keys → (s.on sd).leads = false →
    ∃ t, exec (.recordWriteDone sd) s = .next t
      ∧ t = { s with a := t.a, b := t.b }
      ∧ Alike (keysOn [0x06, 0x1F]) [.nvm, .perf, .lines] (s.on sd) (t.on sd)
      ∧ ((s.on sd.peer).nvm.awaitPeer.all (fun (u : RecordWrite) => !(u.kind == w.kind && u.slot == w.slot)) = true →
          Alike (keysOf []) [.lines] (s.on sd.peer) (t.on sd.peer))
      ∧ (t.on sd).nvm.writes = rest ∧ (t.on sd).get KY_KSTAT.RESULT = 2 ∧ (t.on sd).is (evtBit 0x1F 0) = true
      ∧ (t.on sd).nvm.keyGen = (s.on sd).nvm.keyGen + 1
      ∧ Tab.get? (t.on sd).nvm.keyPending w.slot = some (if w.erase then none else some w.payload))
  ∧ (∀ (sd : Side) (w : RecordWrite) (rest : List RecordWrite) (s : State), let x := s.on sd
    x.managed = true → firstWrite x.nvm.writes = some (w, rest) → w.kind ≠ .keys → x.leads = false → w.payload.length + 16 ≤ w.kind.area.2 →
    (x.copyInForce w.kind.area).all (fun a => decide (x.rd (a + 4) 4 + 1 < 2 ^ 32)) = true →
    ∃ t, exec (.recordWriteDone sd) s = .next t
      ∧ t = { s with a := t.a, b := t.b }
      ∧ Alike (keysOn [0x06, 0x0E, 0x0F]) [.mem, .ecc, .drive, .cal, .nvm, .perf, .lines] x (t.on sd)
      ∧ (t.on sd).nvm.writes = rest ∧ (t.on sd).record w.kind.area = some w.payload
      ∧ (∀ a, a < w.kind.area.1 ∨ w.kind.area.1 + 2 * w.kind.area.2 ≤ a → (t.on sd).rd8 a = x.rd8 a)
      ∧ (w.kind = .park → (t.on sd).drive = { x.drive with parkPending := true })
      ∧ (w.kind = .calibration → (t.on sd).cal.recordValid = true)
      ∧ (w.kind = .rigMap → x.nvm.rigCommit = true → (t.on sd).get RG_COMMIT_STAT.RESULT = 2 ∧ (t.on sd).is (evtBit 0x0F 4) = true))
  ∧ (∀ (sd : Side) (w : RecordWrite) (rest : List RecordWrite) (s : State), let x := s.on sd; let y := s.on sd.peer
    let both := x.forBoth w && y.takesRecords
    x.managed = true → firstWrite x.nvm.writes = some (w, rest) → w.kind ≠ .keys → x.leads = true → w.payload.length + 16 ≤ w.kind.area.2 →
    (x.copyInForce w.kind.area).all (fun a => decide (x.rd (a + 4) 4 + 1 < 2 ^ 32)) = true →
    (y.copyInForce w.kind.area).all (fun a => decide (y.rd (a + 4) 4 + 1 < 2 ^ 32)) = true →
    ∃ t, exec (.recordWriteDone sd) s = .next t
      ∧ t = { s with a := t.a, b := t.b }
      ∧ Alike (keysOn [0x06, 0x0E, 0x0F]) [.mem, .ecc, .drive, .cal, .nvm, .perf, .lines] x (t.on sd)
      ∧ (t.on sd).nvm.writes = rest ∧ (t.on sd).record w.kind.area = some w.payload
      ∧ (∀ a, a < w.kind.area.1 ∨ w.kind.area.1 + 2 * w.kind.area.2 ≤ a → (t.on sd).rd8 a = x.rd8 a)
      ∧ (both = false ∨ y.nvmOpen = true → (t.on sd).nvm.awaitPeer = x.nvm.awaitPeer
          ∧ (w.kind = .park → (t.on sd).drive = { x.drive with parkPending := true })
          ∧ (w.kind = .calibration → (t.on sd).cal.recordValid = true)
          ∧ (w.kind = .rigMap → x.nvm.rigCommit = true → (t.on sd).get RG_COMMIT_STAT.RESULT = 2 ∧ (t.on sd).is (evtBit 0x0F 4) = true))
      ∧ (both = true → y.nvmOpen = false → (t.on sd).nvm.awaitPeer = x.nvm.awaitPeer ++ [w] ∧ (t.on sd).drive = x.drive ∧ (t.on sd).cal = x.cal
          ∧ (t.on sd).get RG_COMMIT_STAT.RESULT = x.get RG_COMMIT_STAT.RESULT)
      ∧ (both = false → Alike (keysOf []) [.lines] y (t.on sd.peer))
      ∧ (both = true → y.nvmOpen = true → Alike (keysOn [0x06, 0x0E, 0x0F]) [.mem, .ecc, .drive, .cal, .nvm, .perf, .lines] y (t.on sd.peer)
          ∧ (t.on sd.peer).record w.kind.area = some w.payload
          ∧ (w.kind = .park → (t.on sd.peer).drive = { y.drive with parkPending := true })
          ∧ (w.kind = .calibration → (t.on sd.peer).cal.recordValid = true))
      ∧ (both = true → y.nvmOpen = false → Alike (keysOf [RG_STAT.NVM_PENDING.key]) [.nvm, .lines] y (t.on sd.peer)
          ∧ (t.on sd.peer).nvm.writes = y.nvm.writes ++ [{ w with waiting := true }]))
  ∧ (∀ (sd : Side) (w : RecordWrite) (rest : List RecordWrite) (s : State), let x := s.on sd; let y := s.on sd.peer
    let content := if w.erase then none else some w.payload
    x.managed = true → firstWrite x.nvm.writes = some (w, rest) → w.kind = .keys → x.leads = true →
    ∃ t, exec (.recordWriteDone sd) s = .next t
      ∧ t = { s with a := t.a, b := t.b }
      ∧ Alike (keysOn [0x06, 0x1F]) [.nvm, .perf, .lines] x (t.on sd) ∧ Alike (keysOn [0x06, 0x1F]) [.nvm, .perf, .lines] y (t.on sd.peer)
      ∧ (t.on sd).nvm.writes = rest ∧ (t.on sd).nvm.keyGen = x.nvm.keyGen + 1 ∧ Tab.get? (t.on sd).nvm.keyPending w.slot = some content
      ∧ (y.takesRecords = false ∨ y.nvmOpen = true → (t.on sd).get KY_KSTAT.RESULT = 2 ∧ (t.on sd).is (evtBit 0x1F 0) = true)
      ∧ (y.takesRecords = true → y.nvmOpen = false → (t.on sd).nvm.awaitPeer = x.nvm.awaitPeer ++ [w]
          ∧ (t.on sd.peer).nvm.writes = y.nvm.writes ++ [{ w with waiting := true }])
      ∧ (y.takesRecords = true → y.nvmOpen = true → (t.on sd.peer).nvm.keyGen = y.nvm.keyGen + 1
          ∧ Tab.get? (t.on sd.peer).nvm.keyPending w.slot = some content)
      ∧ (y.takesRecords = false → Alike (keysOf []) [.lines] y (t.on sd.peer)))

/-- The console mailbox and the module bus (R384, R385, R388, R390). OP NOTE on a side with its firmware running and room in its log buffer
adds one entry and answers RESULT 2 with an event; another OP but RESCAN answers RESULT 3. A module that answered before and does
not now is no longer shown present; one that is new or whose bytes have changed is read in full: its LEN bytes are held and CHG
set, with source 0xA7 for a new one, and its CRC is shown where RG_MB_SEL selects it; one with the bytes held changes nothing; a read that fails three times sets FAIL and raises
0xA7; RESCAN answers RESULT 2 once every module has been read. A frame that P0
has handed to the network image path is taken: a data block stores its bytes at HM_NET_ADDR + OFFSET and no others, the end frame that
follows the last block sets DONE, a frame that is not well formed sets ERR and stores
nothing; a frame that was not handed over changes nothing. -/
def Obligations.ConsoleNotesModulesAndImages : Prop :=
  (∀ (sd : Side) (m : Master) (v : Word) (s : State), (s.on sd).takes m 0x07044 = true → (s.on sd).managed = true →
    bitAt v.toNat 31 = true → bits v.toNat 0 8 = 1 → (s.on sd).fault.log.length < 256 →
    ∃ t, exec (.hostNote sd m v) s = .next t
      ∧ Within (keysOf (accessKeys ++ [0x05078, 0x07054, 0x0700C])) [.fault, .perf, .lines] sd s t
      ∧ (t.on sd).fault.log.length = (s.on sd).fault.log.length + 1
      ∧ (t.on sd).get HM_RSP.RESULT = 2 ∧ (t.on sd).is (evtBit 0x07 0) = true)
  ∧ (∀ (sd : Side) (m : Master) (v : Word) (s : State), (s.on sd).takes m 0x07044 = true → (s.on sd).managed = true →
    bitAt v.toNat 31 = true → bits v.toNat 0 8 ≠ 1 → bits v.toNat 0 8 ≠ 2 →
    ∃ t, exec (.hostNote sd m v) s = .next t
      ∧ Within (keysOf (accessKeys ++ [0x07054, 0x0700C])) [.perf, .lines] sd s t
      ∧ (t.on sd).get HM_RSP.RESULT = 3 ∧ (t.on sd).is (evtBit 0x07 0) = true)
  ∧ (∀ (sd : Side) (m : Master) (v : Word) (reads : List ModuleRead) (s : State), (s.on sd).takes m 0x07044 = true →
    (s.on sd).managed = true → bitAt v.toNat 31 = true → bits v.toNat 0 8 = 2 →
    ∃ t, exec (.moduleRescan sd m v reads) s = .next t
      ∧ Within (keysOn (0x07 :: 0x0F :: eventPages)) (.nvm :: eventParts) sd s t
      ∧ (t.on sd).get HM_RSP.RESULT = 2 ∧ (t.on sd).is (evtBit 0x07 0) = true)
  ∧ (∀ (sd : Side) (k : Nat) (s : State), k < 16 → (s.on sd).managed = true → (s.on sd).is RG_MB_CTRL.EN = true →
    (∀ i ∈ List.range 16, i ≠ k → (s.on sd).is ⟨0x0F104, i, 1⟩ = false) → (s.on sd).is ⟨0x0F104, k, 1⟩ = true →
    ∃ t, exec (.modulePoll sd []) s = .next t
      ∧ Within (keysOn (0x0F :: eventPages)) (.nvm :: eventParts) sd s t
      ∧ (t.on sd).is ⟨0x0F104, k, 1⟩ = false ∧ (t.on sd).is ⟨0x0F108, k, 1⟩ = true)
  ∧ (∀ (sd : Side) (payload : List Byte) (i : Nat) (s : State), let x := s.on sd
    x.managed = true → x.leads = true → x.is HM_NET.EN = true →
    x.net.imageInbox.findIdx? (fun b => carries b payload) = some i → x.imageFrameOk payload = false →
    ∃ t, exec (.imageFrame sd payload) s = .next t
      ∧ Within (keysOf [HM_NET_STAT.ERR.key, 0x0700C]) [.net, .lines] sd s t
      ∧ (t.on sd).net = { x.net with imageInbox := x.net.imageInbox.eraseIdx i }
      ∧ (t.on sd).get HM_NET_STAT.ERR = 1 ∧ (t.on sd).is (evtBit 0x07 2) = true)
  ∧ (∀ (sd : Side) (payload : List Byte) (i : Nat) (s : State), let x := s.on sd
    x.managed = true → x.leads = true → x.is HM_NET.EN = true →
    x.net.imageInbox.findIdx? (fun b => carries b payload) = some i → x.imageFrameOk payload = true →
    (slice payload 1 1).headD 0 = 1 → x.net.imageEnd = none →
    ∃ t, exec (.imageFrame sd payload) s = .next t
      ∧ Within (keysOf [HM_NET_STAT.BYTES.key]) [.mem, .ecc, .net, .lines] sd s t
      ∧ t.on sd = (({ x with net := { x.net with imageInbox := x.net.imageInbox.eraseIdx i } }).storeBlock payload).interrupt
      ∧ (t.on sd).rdBytes (x.get HM_NET_ADDR.ADDR / 1024 * 1024 + beNat (slice payload 4 4)) (beNat (slice payload 8 2))
          = slice payload 12 (beNat (slice payload 8 2))
      ∧ (∀ a, a < x.get HM_NET_ADDR.ADDR / 1024 * 1024 + beNat (slice payload 4 4)
            ∨ x.get HM_NET_ADDR.ADDR / 1024 * 1024 + beNat (slice payload 4 4) + beNat (slice payload 8 2) ≤ a →
          (t.on sd).rd8 a = x.rd8 a)
      ∧ (t.on sd).net.imageBlocks.contains (beNat (slice payload 4 4) / 1024) = true)
  ∧ (∀ (sd : Side) (payload : List Byte) (i : Nat) (s : State), let x := s.on sd; let e := beNat (slice payload 4 4)
    x.managed = true → x.leads = true → x.is HM_NET.EN = true → x.is HM_NET.AUTO = false → x.is HM_NET_STAT.DONE = false →
    x.net.imageInbox.findIdx? (fun b => carries b payload) = some i → x.imageFrameOk payload = true →
    (slice payload 1 1).headD 0 = 2 → (List.range ((e + 1023) / 1024)).all (fun k => x.net.imageBlocks.contains k) = true →
    ∃ t, exec (.imageFrame sd payload) s = .next t
      ∧ Within (keysOf [HM_NET_STAT.DONE.key, 0x0700C]) [.net, .lines] sd s t
      ∧ (t.on sd).net = { x.net with imageInbox := x.net.imageInbox.eraseIdx i, imageEnd := some e }
      ∧ (t.on sd).get HM_NET_STAT.DONE = 1 ∧ (t.on sd).is (evtBit 0x07 1) = true)
  ∧ (∀ (sd : Side) (payload : List Byte) (s : State), let x := s.on sd
    x.net.imageInbox.findIdx? (fun b => carries b payload) = none →
    ∃ t, exec (.imageFrame sd payload) s = .next t ∧ Within (keysOf []) [.lines] sd s t)
  ∧ (∀ (sd : Side) (r : ModuleRead) (s : State), let x := s.on sd; let new := slice r.bytes 0 x.moduleLen
    r.module < 16 → x.managed = true → x.is RG_MB_CTRL.EN = true → r.failures < 3 → x.moduleLen ≤ r.bytes.length →
    (∀ i ∈ List.range 16, i ≠ r.module → x.is ⟨0x0F104, i, 1⟩ = false) →
    x.is ⟨0x0F104, r.module, 1⟩ = false ∨ Tab.get? x.nvm.modules r.module ≠ some new →
    ∃ t, exec (.modulePoll sd [r]) s = .next t
      ∧ Within (keysOn (0x0F :: eventPages)) (.nvm :: eventParts) sd s t
      ∧ (t.on sd).is ⟨0x0F104, r.module, 1⟩ = true ∧ (t.on sd).is ⟨0x0F108, r.module, 1⟩ = true
      ∧ (x.is ⟨0x0F104, r.module, 1⟩ = false → x.raised (t.on sd) 0xA7 = true)
      ∧ Tab.get? (t.on sd).nvm.modules r.module = some new
      ∧ (∀ i, i ≠ r.module → Tab.get? (t.on sd).nvm.modules i = Tab.get? x.nvm.modules i)
      ∧ (∀ sh, x.get RG_MB_SEL.MODULE = r.module → (t.on sd).view sh RG_MB_CRC.CRC.key = crc32c new))
  ∧ (∀ (sd : Side) (r : ModuleRead) (s : State), let x := s.on sd
    r.module < 16 → x.managed = true → x.is RG_MB_CTRL.EN = true → r.failures < 3 →
    (∀ i ∈ List.range 16, i ≠ r.module → x.is ⟨0x0F104, i, 1⟩ = false) →
    x.is ⟨0x0F104, r.module, 1⟩ = true → Tab.get? x.nvm.modules r.module = some (slice r.bytes 0 x.moduleLen) →
    ∃ t, exec (.modulePoll sd [r]) s = .next t ∧ Within (keysOf []) [.lines] sd s t)
  ∧ (∀ (sd : Side) (r : ModuleRead) (s : State), let x := s.on sd
    r.module < 16 → x.managed = true → x.is RG_MB_CTRL.EN = true → 3 ≤ r.failures →
    (∀ i ∈ List.range 16, i ≠ r.module → x.is ⟨0x0F104, i, 1⟩ = false) →
    ∃ t, exec (.modulePoll sd [r]) s = .next t
      ∧ Within (keysOn (0x0F :: eventPages)) (.nvm :: eventParts) sd s t
      ∧ (t.on sd).is ⟨0x0F108, 16 + r.module, 1⟩ = true ∧ x.raised (t.on sd) 0xA7 = true
      ∧ (t.on sd).nvm.modules = x.nvm.modules)

/-- Reads and writes over the interconnect (R338, R339, R340, R345). A 32-bit write that the interconnect lets through at a register
with a row of its own is that row's command. An aligned write of 8 to 64 bits to working SRAM stores its bytes and no others. A 1 written
to EVT_RAW clears that event, a 0 leaves it; the set alias of EVT_EN sets the bits it is given. A 32-bit read of NV_LOG_STAT shows LOST and
clears it; a narrow read, or one through an alias, does not clear it; a read of working SRAM returns its bytes and changes none. A read
through BAR2 of a page without USER_OK returns 0. -/
def Obligations.BusReadsAndWrites : Prop :=
  (∀ (sd : Side) (m : Master) (key : Nat) (v hi : Word) (s : State), let x := s.on sd
    x.alive = true → key < 0x32000 → accessReason x.remapped m (0x20000000 + key) 4 true false 1 = none →
    x.answers key = true → x.regKey key = some key → (rowWrite sd m key v s).isSome = true →
    exec (.registerWrite sd m (0x20000000 + key) 4 ⟨v, hi⟩) s = .next ((rowWrite sd m key v s).elim s (nextOf s)))
  ∧ (∀ (sd : Side) (m : Master) (addr width : Nat) (v hi : Word) (s : State), let x := s.on sd
    x.alive = true → isWidth width = true → 0x10000000 ≤ addr → addr + width ≤ 0x10800000 →
    accessReason x.remapped m addr width true false 1 = none →
    ∃ t, exec (.registerWrite sd m addr width ⟨v, hi⟩) s = .next t
      ∧ Within (keysOf accessKeys) [.mem, .ecc, .perf, .lines] sd s t
      ∧ (t.on sd).rdBytes addr width = leBytes width (v.toNat + hi.toNat * 2 ^ 32)
      ∧ (∀ a, a < addr ∨ addr + width ≤ a → (t.on sd).rd8 a = x.rd8 a))
  ∧ (∀ (sd : Side) (v hi : Word) (s : State), let x := s.on sd
    x.takes .host 0x0F00C = true → x.leads = false →
    ∃ t, exec (.registerWrite sd .host 0x2000F00C 4 ⟨v, hi⟩) s = .next t
      ∧ Within (keysOf (accessKeys ++ [0x0F00C])) [.fault, .perf, .lines] sd s t
      ∧ (t.on sd).fault.core = (x.agree 0x0F00C).fault.core
      ∧ (∀ i, i < 6 → (t.on sd).is (evtBit 0x0F i) = (x.is (evtBit 0x0F i) && !bitAt v.toNat i)))
  ∧ (∀ (sd : Side) (v : Word) (s : State), let x := s.on sd
    x.takes .host 0x0F010 = true → x.leads = false →
    ∃ t, exec (.aliasWrite sd .host .setBits 0x2010F010 v) s = .next t
      ∧ Within (keysOf (accessKeys ++ [0x0F010])) [.fault, .perf, .lines] sd s t
      ∧ (t.on sd).fault.core = (x.agree 0x0F010).fault.core
      ∧ (∀ i, i < 6 → (t.on sd).is ⟨0x0F010, i, 1⟩ = (x.is ⟨0x0F010, i, 1⟩ || bitAt v.toNat i)))
  ∧ (∀ (sd : Side) (s : State), let x := s.on sd
    x.alive = true → x.answers 0x05078 = true →
    ∃ t, exec (.clearingRead sd .host ⟨0x20005078, 4, false⟩) s = .next t
      ∧ Within (keysOf (accessKeys ++ [0x05078])) [.readBack, .perf, .lines] sd s t
      ∧ (t.on sd).readBack = x.word 0x05078
      ∧ (t.on sd).get NV_LOG_STAT.LOST = 0 ∧ (t.on sd).get NV_LOG_STAT.BUF = x.get NV_LOG_STAT.BUF)
  ∧ (∀ (sd : Side) (s : State), let x := s.on sd
    x.alive = true → x.answers 0x05078 = true →
    ∃ t, exec (.clearingRead sd .host ⟨0x20105078, 4, false⟩) s = .next t
      ∧ Within (keysOf accessKeys) [.readBack, .perf, .lines] sd s t
      ∧ (t.on sd).readBack = x.word 0x05078)
  ∧ (∀ (sd : Side) (s : State), let x := s.on sd
    x.alive = true → x.answers 0x05078 = true →
    ∃ t, exec (.clearingRead sd .host ⟨0x2000507A, 2, false⟩) s = .next t
      ∧ Within (keysOf accessKeys) [.readBack, .perf, .lines] sd s t
      ∧ (t.on sd).readBack = BitVec.ofNat 32 ((x.word 0x05078).toNat / 2 ^ 16 % 2 ^ 16))
  ∧ (∀ (sd : Side) (m : Master) (addr width : Nat) (s : State), let x := s.on sd
    x.alive = true → isWidth width = true → 0x10000000 ≤ addr → addr < 0x10800000 → accessReason x.remapped m addr width false false 1 = none →
    ∃ t, exec (.clearingRead sd m ⟨addr, width, false⟩) s = .next t
      ∧ Within (keysOf accessKeys) [.readBack, .perf, .lines] sd s t
      ∧ (t.on sd).readBack = BitVec.ofNat 32 (x.rd addr (min width 4))
      ∧ (t.on sd).readHigh = (if width = 8 then BitVec.ofNat 32 (x.rd (addr + 4) 4) else 0))
  ∧ (∀ (sd : Side) (key : Nat) (s : State), let x := s.on sd
    x.alive = true → key < 0x40000 → key % 4 = 0 → x.answers key = true → x.userPage key = false →
    ∃ t, exec (.clearingRead sd .host ⟨key, 4, true⟩) s = .next t
      ∧ Within (keysOf accessKeys) [.readBack, .perf, .lines] sd s t
      ∧ (t.on sd).readBack = 0)

/-- Values for drive outputs (R93, R95, R97 to R99). A write of DO_WR_VAL gives the DO of DO_WR_SEL its new BASE at once where host
software owns it, and stages it for the boundary where BEAT is set; to a DO of another owner it is not applied and counts as
FOREIGN. A timer with its fire time in the next 32,767 beats is armed, in place of the DO's earlier timer; at its fire time it
gives the DO its value and is gone. A staged value takes effect at its boundary, where its writer still owns the DO and it is not off. An entry joins a group's FIFO of 256; with no room it is dropped and counts as OVF. -/
def Obligations.DriveValuesReachTheirOutputs : Prop :=
  (∀ (sd : Side) (m : Master) (v : Word) (s : State), let y := (s.on sd).transfer m; let d := y.get DO_WR_SEL.DO
    (s.on sd).takes m 0x10054 = true → bitAt v.toNat 16 = false → y.mode d ≠ 0 → y.own d = .man → y.inRange d = false →
    ∃ t, exec (.manualWrite sd m v) s = .next t
      ∧ Within (keysOf accessKeys) [.drive, .twin, .perf, .lines] sd s t
      ∧ (t.on sd).base d = bits v.toNat 0 14
      ∧ (∀ e, e ≠ d → (t.on sd).base e = (s.on sd).base e)
      ∧ (t.on sd).drive = { (s.on sd).drive with base := (t.on sd).drive.base })
  ∧ (∀ (sd : Side) (m : Master) (v : Word) (s : State), let y := (s.on sd).transfer m; let d := y.get DO_WR_SEL.DO
    (s.on sd).takes m 0x10054 = true → bitAt v.toNat 16 = true →
    ∃ t, exec (.manualWrite sd m v) s = .next t
      ∧ Within (keysOf accessKeys) [.drive, .twin, .perf, .lines] sd s t
      ∧ (t.on sd).base d = (s.on sd).base d
      ∧ (⟨d, bits v.toNat 0 14, if y.beforeCutoff then y.produced + 1 else y.produced + 2, .man⟩ : StagedDo) ∈ (t.on sd).drive.staged)
  ∧ (∀ (sd : Side) (m : Master) (v : Word) (s : State), let y := (s.on sd).transfer m; let d := y.get DO_WR_SEL.DO
    (s.on sd).takes m 0x10054 = true → bitAt v.toNat 16 = false → y.mode d ≠ 0 → y.own d ≠ .man →
    y.get (DG_CNT.FOREIGN.inDriveGroup (driveGroup d)) < 255 →
    ∃ t, exec (.manualWrite sd m v) s = .next t
      ∧ Within (keysOn ((0x20 + driveGroup d % 160 / 16) :: eventPages)) eventParts sd s t
      ∧ (t.on sd).get (DG_CNT.FOREIGN.inDriveGroup (driveGroup d)) = y.get (DG_CNT.FOREIGN.inDriveGroup (driveGroup d)) + 1
      ∧ (t.on sd).is (evtBit (0x20 + driveGroup d % 160 / 16) (driveGroup d % 16)) = true)
  ∧ (∀ (sd : Side) (m : Master) (g : Nat) (v : Word) (s : State), g < 160 →
    let y := (s.on sd).transfer m
    let d := g * 64 + bits v.toNat 14 6
    let beat := y.get (DG_TMR_AT.BEAT.inDriveGroup g)
    let delta := (beat + 65536 - y.beatNo % 65536) % 65536
    (s.on sd).takes m (DG_TMR_VAL.VALUE.inDriveGroup g).key = true → y.scheme g = 1 → y.named d = true →
    delta ≠ 0 → delta ≤ 32767 →
    ∃ t, exec (.timerArm sd m g v) s = .next t
      ∧ Within (keysOf accessKeys) [.drive, .perf, .lines] sd s t
      ∧ (t.on sd).drive = { (s.on sd).drive with timers := ((s.on sd).drive.timers.filter (fun (x : Timer) => x.dout != d)
                  ++ [⟨d, beat, max 20 (y.get (DG_TMR_AT.OFFSET.inDriveGroup g)), bits v.toNat 0 14, bitAt v.toNat 20⟩]) })
  ∧ (∀ (sd : Side) (m : Master) (g : Nat) (v : Word) (s : State), g < 160 →
    let y := (s.on sd).transfer m
    let delta := (y.get (DG_TMR_AT.BEAT.inDriveGroup g) + 65536 - y.beatNo % 65536) % 65536
    (s.on sd).takes m (DG_TMR_VAL.VALUE.inDriveGroup g).key = true → y.scheme g = 1 →
    y.named (g * 64 + bits v.toNat 14 6) = true → delta = 0 ∨ 32767 < delta →
    y.get (DG_CNT.LATE.inDriveGroup g) < 255 →
    ∃ t, exec (.timerArm sd m g v) s = .next t
      ∧ Within (keysOn ((0x20 + g / 16) :: eventPages)) eventParts sd s t
      ∧ (t.on sd).get (DG_CNT.LATE.inDriveGroup g) = y.get (DG_CNT.LATE.inDriveGroup g) + 1)
  ∧ (∀ (sd : Side) (d : Nat) (tm : Timer) (s : State), let x := s.on sd
    x.alive = true → x.drive.timers.find? (fun (q : Timer) => q.dout == d && x.timerDue q) = some tm → x.mode d ≠ 0 →
    x.own d = (if tm.cal then .cal else .man) → x.inRange d = false →
    ∃ t, exec (.timerFire sd d) s = .next t
      ∧ Within (keysOf [0x0600C, 0x06068]) [.drive, .twin, .off, .perf, .lines] sd s t
      ∧ (t.on sd).base d = tm.value ∧ (∀ e, e ≠ d → (t.on sd).base e = x.base e)
      ∧ (t.on sd).drive.timers = x.drive.timers.filter (fun (q : Timer) => q.dout != d)
      ∧ (t.on sd).off = max x.off (min (tm.offset * 10) 9999))
  ∧ (∀ (sd : Side) (m : Master) (g : Nat) (v : Word) (s : State), g < 160 →
    let y := (s.on sd).transfer m
    let q := Tab.getD y.drive.fifo g []
    (s.on sd).takes m (DG_FIFO.ENTRY.inDriveGroup g).key = true → y.scheme g = 2 → q.length < 256 →
    ∃ t, exec (.fifoWrite sd m g v) s = .next t
      ∧ Within (keysOf (accessKeys ++ [(DG_STAT.FIFO_LVL.inDriveGroup g).key])) [.drive, .perf, .lines] sd s t
      ∧ (t.on sd).drive = { (s.on sd).drive with fifo := Tab.put (s.on sd).drive.fifo g (q ++ [v]) }
      ∧ (t.on sd).get (DG_STAT.FIFO_LVL.inDriveGroup g) = q.length + 1)
  ∧ (∀ (sd : Side) (m : Master) (g : Nat) (v : Word) (s : State), g < 160 →
    let y := (s.on sd).transfer m
    (s.on sd).takes m (DG_FIFO.ENTRY.inDriveGroup g).key = true → y.scheme g = 2 → 256 ≤ (Tab.getD y.drive.fifo g []).length →
    y.get (DG_CNT.OVF.inDriveGroup g) < 255 →
    ∃ t, exec (.fifoWrite sd m g v) s = .next t
      ∧ Within (keysOn ((0x20 + g / 16) :: eventPages)) eventParts sd s t
      ∧ (t.on sd).get (DG_CNT.OVF.inDriveGroup g) = y.get (DG_CNT.OVF.inDriveGroup g) + 1)
  ∧ (∀ (sd : Side) (r : StagedDo) (s : State), let x := s.on sd; let y := { x with drive := { x.drive with staged := [] } }
    s.calmBut sd y = true → x.drive.staged = [r] → r.due ≤ x.produced + 1 →
    ∃ t, exec (.beatBoundary sd) s = .next t
      ∧ (t.on sd).drive.staged = []
      ∧ (t.on sd).base r.dout = (if x.mode r.dout = 0 ∨ x.own r.dout ≠ r.writer then x.base r.dout else r.value)
      ∧ (∀ d, d ≠ r.dout → (t.on sd).base d = x.base d)
      ∧ (x.mode r.dout ≠ 0 → x.own r.dout ≠ r.writer → (t.on sd).is (evtBit 0x10 2) = true))
  ∧ (∀ (sd : Side) (r : StagedDo) (s : State), let x := s.on sd; let y := { x with drive := { x.drive with staged := [] } }
    s.calmBut sd y = true → x.drive.staged = [r] → x.produced + 1 < r.due →
    ∃ t, exec (.beatBoundary sd) s = .next t ∧ (t.on sd).drive.staged = [r] ∧ (∀ d, (t.on sd).base d = x.base d))

/-- One tick of scheme Q (R98, R99, R109). The oldest batch leaves the FIFO, and its values reach the outputs their writers own
(shown for a batch of one entry); a FIFO with no complete batch keeps its entries and counts as UNDER; each generator of the
group makes one sample. In the edge window, and past the ticks of a beat that RATE gives, there is no tick. -/
def Obligations.QueueTickAppliesOneBatch : Prop :=
  (∀ (sd : Side) (g : Nat) (w : Word) (rest : List Word) (s : State), g < 160 → let x := s.on sd
    let d := g * 64 + bits w.toNat 14 6
    x.alive = true → x.scheme g = 2 → x.win ≠ .edge → x.ticksDone g < x.ticksPerBeat g →
    Tab.getD x.drive.fifo g [] = w :: rest → bitAt w.toNat 20 = true → x.mode d ≠ 0 →
    x.own d = (if bitAt w.toNat 21 then .cal else .man) → x.inRange d = false →
    ∃ t, exec (.queueTick sd g) s = .next t
      ∧ Within (keysOf [(DG_STAT.FIFO_LVL.inDriveGroup g).key, 0x0600C, 0x06068]) [.drive, .twin, .off, .perf, .lines] sd s t
      ∧ (t.on sd).drive.ticks = Tab.put x.drive.ticks g (x.produced, x.ticksDone g + 1)
      ∧ (t.on sd).off = max x.off (min (250 + x.ticksDone g * 10000 / x.ticksPerBeat g) 9999)
      ∧ (t.on sd).base d = bits w.toNat 0 14 ∧ (∀ e, e ≠ d → (t.on sd).base e = x.base e)
      ∧ (t.on sd).drive.fifo = Tab.put x.drive.fifo g rest
      ∧ (t.on sd).get (DG_STAT.FIFO_LVL.inDriveGroup g) = rest.length % 512
      ∧ (t.on sd).drive.tones = x.drive.tones.map
          (fun (p : Nat × ToneGen) => if p.2.en && p.2.dout / 64 == g then (p.1, p.2.tick) else p))
  ∧ (∀ (sd : Side) (g : Nat) (s : State), g < 160 → let x := s.on sd
    x.alive = true → x.scheme g = 2 → x.win ≠ .edge → x.ticksDone g < x.ticksPerBeat g → Tab.getD x.drive.fifo g [] ≠ [] →
    (Tab.getD x.drive.fifo g []).all (fun w => !bitAt w.toNat 20) = true → x.get (DG_CNT.UNDER.inDriveGroup g) < 255 →
    ∃ t, exec (.queueTick sd g) s = .next t
      ∧ Within (keysOn ((0x20 + g / 16) :: eventPages)) (.drive :: .off :: eventParts) sd s t
      ∧ (t.on sd).get (DG_CNT.UNDER.inDriveGroup g) = x.get (DG_CNT.UNDER.inDriveGroup g) + 1
      ∧ (t.on sd).drive = { x.drive with
          tones := (t.on sd).drive.tones, ticks := Tab.put x.drive.ticks g (x.produced, x.ticksDone g + 1) })
  ∧ (∀ (sd : Side) (g : Nat) (s : State), let x := s.on sd
    x.win = .edge ∨ x.ticksPerBeat g ≤ x.ticksDone g →
    ∃ t, exec (.queueTick sd g) s = .next t ∧ Within (keysOf []) [.lines] sd s t)

/-- Settings of a group and of a generator (R96, R99, R110). A write of DG_CTRL shows the new SCHEME and RATE while the old ones
stay in force up to the boundary; scheme T with more than 1,152 DO used is refused and SCHEME keeps its value. A commit of
DO_TG_CTRL waits for its boundary with the generator's staged settings, or is refused with ERR set. At the boundary a new SCHEME or RATE
discards the group's FIFO and timers, and the settings come into force: a generator that ran on its DO and still does keeps its phase,
any other starts at PHASE0; a commit that asks for a block boundary waits for it. -/
def Obligations.SchemesAndTonesWaitForTheirBoundary : Prop :=
  (∀ (sd : Side) (m : Master) (g : Nat) (v : Word) (s : State), g < 160 → let y := (s.on sd).transfer m
    (s.on sd).takes m (DG_CTRL.SCHEME.inDriveGroup g).key = true → bits v.toNat 0 2 ≠ 1 ∨ y.tAvail = true →
    ∃ t, exec (.schemeChange sd m g v) s = .next t
      ∧ Within (keysOf (accessKeys ++ [(DG_CTRL.SCHEME.inDriveGroup g).key])) [.drive, .perf, .lines] sd s t
      ∧ (t.on sd).get (DG_CTRL.SCHEME.inDriveGroup g) = v.toNat % 4 ∧ (t.on sd).get (DG_CTRL.RATE.inDriveGroup g) = bits v.toNat 2 2
      ∧ (t.on sd).groupCtrl g = y.groupCtrl g)
  ∧ (∀ (sd : Side) (m : Master) (g : Nat) (v : Word) (s : State), g < 160 → let y := (s.on sd).transfer m
    (s.on sd).takes m (DG_CTRL.SCHEME.inDriveGroup g).key = true → bits v.toNat 0 2 = 1 → y.tAvail = false →
    ∃ t, exec (.schemeChange sd m g v) s = .next t
      ∧ Within (keysOf (accessKeys ++ [0x1000C, (DG_CTRL.SCHEME.inDriveGroup g).key])) [.drive, .perf, .lines] sd s t
      ∧ (t.on sd).get (DG_CTRL.SCHEME.inDriveGroup g) = y.get (DG_CTRL.SCHEME.inDriveGroup g)
      ∧ (t.on sd).is (evtBit 0x10 3) = true)
  ∧ (∀ (sd : Side) (m : Master) (v : Word) (s : State), let y := (s.on sd).transfer m
    let g := y.get DO_TG_SEL.GEN
    let w := ((y.set (DO_TG_CTRL.EN.bank g) v.toNat).set (DO_TG_CTRL.PILOT.bank g) (bits v.toNat 1 1)).set (DO_TG_CTRL.DO.bank g) (bits v.toNat 16 14)
    (s.on sd).takes m 0x12044 = true → w.toneRefused g (w.stagedTone g) = false →
    ∃ t, exec (.toneCommit sd m v) s = .next t
      ∧ Within (keysOf (accessKeys ++ [(DO_TG_CTRL.EN.bank g).key, (DO_TG_STAT.ERR.bank g).key])) [.drive, .twin, .perf, .lines] sd s t
      ∧ (t.on sd).get (DO_TG_STAT.ERR.bank g) = 0
      ∧ (t.on sd).drive = { (s.on sd).drive with tonePending := ((s.on sd).drive.tonePending.filter (fun (p : TonePending) => p.gen != g || p.phase.isSome)
                  ++ [⟨g, w.stagedTone g, bitAt v.toNat 1, none⟩]) }
      ∧ (w.stagedTone g).en = bitAt v.toNat 0 ∧ (w.stagedTone g).dout = bits v.toNat 16 14
      ∧ (w.stagedTone g).ftw = y.get (DO_TG_FTW.FTW.bank g) ∧ (w.stagedTone g).amp = y.get (DO_TG_AMP.AMP.bank g))
  ∧ (∀ (sd : Side) (m : Master) (v : Word) (s : State), let y := (s.on sd).transfer m
    let g := y.get DO_TG_SEL.GEN
    let w := ((y.set (DO_TG_CTRL.EN.bank g) v.toNat).set (DO_TG_CTRL.PILOT.bank g) (bits v.toNat 1 1)).set (DO_TG_CTRL.DO.bank g) (bits v.toNat 16 14)
    (s.on sd).takes m 0x12044 = true → w.toneRefused g (w.stagedTone g) = true →
    ∃ t, exec (.toneCommit sd m v) s = .next t
      ∧ Within (keysOn (0x12 :: eventPages)) eventParts sd s t
      ∧ (t.on sd).get (DO_TG_STAT.ERR.bank g) = 1 ∧ (t.on sd).is (evtBit 0x12 0) = true)
  ∧ (∀ (sd : Side) (g old : Nat) (s : State), let x := s.on sd; let y := { x with drive := { x.drive with schemeOld := [] } }
    s.calmBut sd y = true → x.drive.schemeOld = [(g, old)] → g < 160 →
    ∃ t, exec (.beatBoundary sd) s = .next t
      ∧ (t.on sd).drive.schemeOld = []
      ∧ (bits old 0 4 ≠ bits (y.groupCtrl g) 0 4 → Tab.get? (t.on sd).drive.fifo g = none ∧ (t.on sd).get (DG_STAT.FIFO_LVL.inDriveGroup g) = 0
        ∧ (t.on sd).drive.timers = x.drive.timers.filter (fun k => k.dout / 64 != g))
      ∧ (bits old 0 4 = bits (y.groupCtrl g) 0 4 → (t.on sd).drive.fifo = x.drive.fifo ∧ (t.on sd).drive.timers = x.drive.timers))
  ∧ (∀ (sd : Side) (p : TonePending) (s : State), let x := s.on sd; let y := { x with drive := { x.drive with tonePending := [] } }
    let old := x.tone p.gen; let runs := old.en && p.settings.en && old.dout == p.settings.dout
    s.calmBut sd y = true → x.leads = true → x.drive.tonePending = [p] → p.blockOnly = false → p.phase = none → p.gen < 1024 →
    ∃ t, exec (.beatBoundary sd) s = .next t
      ∧ (t.on sd).drive.tonePending = [] ∧ (t.on sd).get (DO_TG_STAT.ACTIVE.bank p.gen) = (if p.settings.en then 1 else 0)
      ∧ ((t.on sd).tone p.gen).en = p.settings.en ∧ ((t.on sd).tone p.gen).dout = p.settings.dout
      ∧ ((t.on sd).tone p.gen).amp = p.settings.amp ∧ ((t.on sd).tone p.gen).ftw = p.settings.ftw
      ∧ ((t.on sd).tone p.gen).num = p.settings.num ∧ ((t.on sd).tone p.gen).den = p.settings.den
      ∧ ((t.on sd).tone p.gen).pilot = p.settings.pilot
      ∧ ((t.on sd).tone p.gen).ph = (if runs then (old.step (t.on sd).beatNo (x.toneRate (driveGroup old.dout))).ph else p.settings.phase0 * 65536))
  ∧ (∀ (sd : Side) (p : TonePending) (s : State), let x := s.on sd; let y := { x with drive := { x.drive with tonePending := [] } }
    s.calmBut sd y = true → x.drive.tonePending = [p] → p.blockOnly = true → p.phase = none →
    ∃ t, exec (.beatBoundary sd) s = .next t ∧ (t.on sd).drive.tonePending = [p])

/-- The park table and changes of mode (R102, R103). A commit of the lead with GO starts the record of the park table in the
element-table memory, or is refused with its reason. DO_RANGE_REQ with GO starts the sequence from the DO's present value, at the
boundary the beat's cut-off allows; for an element with an enabled loop it is refused, REASON 1. -/
def Obligations.ParkCommitsAndModeChangesStart : Prop :=
  (∀ (sd : Side) (m : Master) (v : Word) (s : State), let y := (s.on sd).paired m 0x11040 v
    (s.on sd).holds m 0x11040 v = true → v.toNat % 2 = 1 → y.leads = true → y.parkReject (s.bothNvmOpen sd) = 0 →
    ∃ t, exec (.parkCommit sd m (.complement (~~~v))) s = .next t
      ∧ Within (keysOf (0x11048 :: RG_STAT.NVM_PENDING.key :: pairKeys 0x11040)) [.pairs, .nvm, .perf, .lines] sd s t
      ∧ (t.on sd).get DO_PARK_STAT.RESULT = 1 ∧ (t.on sd).get DO_PARK_STAT.REASON = 0
      ∧ (⟨.park, y.parkBytes, 0, false, false⟩ : RecordWrite) ∈ (t.on sd).nvm.writes)
  ∧ (∀ (sd : Side) (m : Master) (v : Word) (s : State), let y := (s.on sd).paired m 0x11040 v
    (s.on sd).holds m 0x11040 v = true → v.toNat % 2 = 1 → y.leads = true → y.parkReject (s.bothNvmOpen sd) ≠ 0 →
    ∃ t, exec (.parkCommit sd m (.complement (~~~v))) s = .next t
      ∧ Within (keysOf (0x11048 :: pairKeys 0x11040)) [.pairs, .perf, .lines] sd s t
      ∧ (t.on sd).get DO_PARK_STAT.RESULT = 3 ∧ (t.on sd).get DO_PARK_STAT.REASON = y.parkReject (s.bothNvmOpen sd))
  ∧ (∀ (sd : Side) (m : Master) (v : Word) (s : State), let y := (s.on sd).transfer m
    let d := bits v.toNat 0 14
    let w := ((y.set DO_RANGE_REQ.DO d).set DO_RANGE_REQ.MODE (bits v.toNat 16 2)).set DO_RANGE_STAT.DO d
    (s.on sd).takes m 0x11050 = true → bitAt v.toNat 31 = true → y.drive.range = none →
    (w.loopOf d).all (fun l => !w.tis LT.EN l) = true → w.elementUsed d = false → w.named d = true → w.toneOn d = none →
    ∃ t, exec (.rangeChange sd m v) s = .next t
      ∧ Within (keysOf (accessKeys ++ [0x11050, 0x11054])) [.drive, .perf, .lines] sd s t
      ∧ (t.on sd).get DO_RANGE_STAT.RESULT = 1 ∧ (t.on sd).get DO_RANGE_STAT.REASON = 0 ∧ (t.on sd).get DO_RANGE_STAT.DO = d
      ∧ (t.on sd).drive = { (s.on sd).drive with range := (
                  some ⟨d, bits v.toNat 16 2, ((s.on sd).current d).getD 0, if (s.on sd).beforeCutoff then (s.on sd).produced else (s.on sd).produced + 1⟩) })
  ∧ (∀ (sd : Side) (m : Master) (v : Word) (l : Nat) (s : State), let y := (s.on sd).transfer m
    let d := bits v.toNat 0 14
    let w := ((y.set DO_RANGE_REQ.DO d).set DO_RANGE_REQ.MODE (bits v.toNat 16 2)).set DO_RANGE_STAT.DO d
    (s.on sd).takes m 0x11050 = true → bitAt v.toNat 31 = true → w.loopOf d = some l → w.tis LT.EN l = true →
    ∃ t, exec (.rangeChange sd m v) s = .next t
      ∧ Within (keysOf (accessKeys ++ [0x1100C, 0x11050, 0x11054])) [.perf, .lines] sd s t
      ∧ (t.on sd).get DO_RANGE_STAT.RESULT = 3 ∧ (t.on sd).get DO_RANGE_STAT.REASON = 1 ∧ (t.on sd).get DO_RANGE_STAT.DO = d)

/-- Compliance and heater resistance (R104, R106). A lost compliance sets the DO's bit and COMP of its group. DO_RMEAS_SEL with GO
starts a measurement where the DO carries 1 mA, else it sets LOWI; 1,024 beats on, the measurement ends with the mean of its
16 readings. The stage manager's own reading joins the DO's background readings. -/
def Obligations.ComplianceAndHeaterReadings : Prop :=
  (∀ (sd : Side) (d : Nat) (s : State), let x := s.on sd
    let reg := if d % 64 < 32 then DG_COMP_LO.COMP else DG_COMP_HI.COMP
    x.alive = true → x.drives = true → x.mode d ≠ 0 →
    ∃ t, exec (.complianceLoss sd d) s = .next t
      ∧ Within (keysOn (0x13 :: (0x20 + driveGroup d % 160 / 16) :: eventPages)) (.drive :: .free :: eventParts) sd s t
      ∧ (t.on sd).get { reg.inDriveGroup (driveGroup d) with lo := d % 64 % 32, w := 1 } = 1
      ∧ (t.on sd).get (DG_STAT.COMP.inDriveGroup (driveGroup d)) = 1
      ∧ (x.mode d = 1 → (t.on sd).drive = x.drive)
      ∧ (∀ e, (t.on sd).base e = x.base e))
  ∧ (∀ (sd : Side) (m : Master) (v : Word) (s : State), let x := s.on sd
    let d := bits v.toNat 0 14
    x.takes m 0x13070 = true → bitAt v.toNat 31 = true → x.heaterCurrentOk d = true →
    ∃ t, exec (.rmeasStart sd m v) s = .next t
      ∧ Within (keysOf (accessKeys ++ [0x13070, 0x13074])) [.drive, .perf, .lines] sd s t
      ∧ (t.on sd).get DO_RMEAS.BUSY = 1 ∧ (t.on sd).get DO_RMEAS.VALID = 0 ∧ (t.on sd).get DO_RMEAS.LOWI = 0
      ∧ (t.on sd).drive = { x.drive with rmeas := some (d, x.produced) })
  ∧ (∀ (sd : Side) (m : Master) (v : Word) (s : State), let x := s.on sd
    x.takes m 0x13070 = true → bitAt v.toNat 31 = true → x.heaterCurrentOk (bits v.toNat 0 14) = false →
    ∃ t, exec (.rmeasStart sd m v) s = .next t
      ∧ Within (keysOf (accessKeys ++ [0x13070, 0x13074])) [.drive, .perf, .lines] sd s t
      ∧ (t.on sd).get DO_RMEAS.BUSY = 0 ∧ (t.on sd).get DO_RMEAS.VALID = 0 ∧ (t.on sd).get DO_RMEAS.LOWI = 1
      ∧ (t.on sd).drive = { x.drive with rmeas := none })
  ∧ (∀ (sd : Side) (readings : List (Nat × Nat)) (d start : Nat) (s : State), let x := s.on sd
    x.alive = true → x.drive.rmeas = some (d, start) → start + 1024 ≤ x.produced → readings.length = 16 → x.heaterRead d = true →
    ∃ t, exec (.rmeasDone sd readings) s = .next t
      ∧ Within (keysOn (0x13 :: eventPages)) (.drive :: eventParts) sd s t
      ∧ (t.on sd).get DO_RMEAS.R = min (x.heaterMean d readings) 65535 ∧ (t.on sd).get DO_RMEAS.VALID = 1
      ∧ (t.on sd).get DO_RMEAS.BUSY = 0 ∧ (t.on sd).drive = { x.drive with rmeas := none }
      ∧ (t.on sd).is (evtBit 0x13 2) = true)
  ∧ (∀ (sd : Side) (d : Nat) (readings : List (Nat × Nat)) (s : State), let x := s.on sd
    x.managed = true → readings.length = 16 → x.heaterRead d = true →
    ∃ t, exec (.heaterBackgroundReading sd d readings) s = .next t
      ∧ Within (keysOn eventPages) (.cal :: eventParts) sd s t
      ∧ (t.on sd).cal = { x.cal with heaterReadings := (
                  Tab.put x.cal.heaterReadings d (Tab.getD x.cal.heaterReadings d [] ++ [x.heaterMean d readings])) })

/-- Overrides (R151, R158). HL_OVR with GO and a take notes the request for the boundary, or is refused with its reason and notes
nothing; a release of a DO that host software owns is noted, of any other refused, REASON 4. At the boundary a
take that is still allowed gives the DO to host software, its BASE as it is, and a release gives it back, an E_DO to the scene
controller; at a boundary at which nothing else is due. -/
def Obligations.OverridesAreNotedOrRefused : Prop :=
  (∀ (sd : Side) (m : Master) (v : Word) (s : State), let y := (s.on sd).transfer m
    let d := bits v.toNat 0 14
    (s.on sd).takes m 0x16058 = true → bitAt v.toNat 31 = true → bits v.toNat 16 2 = 1 → y.takeRefused d (bitAt v.toNat 14) = 0 →
    ∃ t, exec (.overrideTake sd m v) s = .next t
      ∧ Within (keysOf (accessKeys ++ [0x1605C])) [.drive, .perf, .lines] sd s t
      ∧ (t.on sd).get HL_OVR_STAT.RESULT = 1 ∧ (t.on sd).get HL_OVR_STAT.REASON = 0
      ∧ (t.on sd).drive = { (s.on sd).drive with overrides := (s.on sd).drive.overrides ++ [(d, (true, bitAt v.toNat 14))] })
  ∧ (∀ (sd : Side) (m : Master) (v : Word) (s : State), let y := (s.on sd).transfer m
    let r := y.takeRefused (bits v.toNat 0 14) (bitAt v.toNat 14)
    (s.on sd).takes m 0x16058 = true → bitAt v.toNat 31 = true → bits v.toNat 16 2 = 1 → r ≠ 0 →
    ∃ t, exec (.overrideTake sd m v) s = .next t
      ∧ Within (keysOf (accessKeys ++ [0x1605C])) [.perf, .lines] sd s t
      ∧ (t.on sd).get HL_OVR_STAT.RESULT = 3 ∧ (t.on sd).get HL_OVR_STAT.REASON = r)
  ∧ (∀ (sd : Side) (m : Master) (v : Word) (s : State),
    let d := bits v.toNat 0 14
    (s.on sd).takes m 0x16058 = true → bitAt v.toNat 31 = true → bits v.toNat 16 2 = 2 → (s.on sd).own d = .man →
    ∃ t, exec (.overrideRelease sd m v) s = .next t
      ∧ Within (keysOf (accessKeys ++ [0x1605C])) [.drive, .perf, .lines] sd s t
      ∧ (t.on sd).get HL_OVR_STAT.RESULT = 1 ∧ (t.on sd).get HL_OVR_STAT.REASON = 0
      ∧ (t.on sd).drive = { (s.on sd).drive with overrides := (s.on sd).drive.overrides ++ [(d, (false, false))] })
  ∧ (∀ (sd : Side) (m : Master) (v : Word) (s : State),
    (s.on sd).takes m 0x16058 = true → bitAt v.toNat 31 = true → bits v.toNat 16 2 = 2 → (s.on sd).own (bits v.toNat 0 14) ≠ .man →
    ∃ t, exec (.overrideRelease sd m v) s = .next t
      ∧ Within (keysOf (accessKeys ++ [0x1605C])) [.perf, .lines] sd s t
      ∧ (t.on sd).get HL_OVR_STAT.RESULT = 3 ∧ (t.on sd).get HL_OVR_STAT.REASON = 4)
  ∧ (∀ (sd : Side) (d : Nat) (light : Bool) (s : State), let x := s.on sd; let y := { x with drive := { x.drive with overrides := [] } }
    s.calmBut sd y = true → x.drive.overrides = [(d, (true, light))] →
    ∃ t, exec (.beatBoundary sd) s = .next t
      ∧ (t.on sd).drive.overrides = []
      ∧ (x.takeRefused d light = 0 → (t.on sd).own d = .man ∧ (t.on sd).get HL_OVR_STAT.RESULT = 2 ∧ (t.on sd).base d = x.base d)
      ∧ (x.takeRefused d light ≠ 0 → (t.on sd).own d = x.own d ∧ (t.on sd).get HL_OVR_STAT.RESULT = 3
          ∧ (t.on sd).get HL_OVR_STAT.REASON = x.takeRefused d light)
      ∧ (∀ i, i ≠ d → (t.on sd).own i = x.own i))
  ∧ (∀ (sd : Side) (d : Nat) (light : Bool) (s : State), let x := s.on sd; let y := { x with drive := { x.drive with overrides := [] } }
    s.calmBut sd y = true → x.drive.overrides = [(d, (false, light))] → x.own d = .man →
    ∃ t, exec (.beatBoundary sd) s = .next t
      ∧ (t.on sd).drive.overrides = [] ∧ (t.on sd).own d ≠ .man ∧ (t.on sd).get HL_OVR_STAT.RESULT = 2
      ∧ (x.t DT.KIND d = 2 → (t.on sd).own d = .scene) ∧ (∀ i, i ≠ d → (t.on sd).own i = x.own i))

/-- The sample of a primary slot (R120 to R130). The word of the channel at the slot's position has the channel's range and the
corrected code with VALID 0 for a measurement; VALID 1 while the channel settles, whose count of settling samples falls by 1;
VALID 2 for a clipped conversion, which counts as CLIP and makes the next lower range the channel's step; and VALID 3 for a
conversion without result, which counts as MISSED. A bank switch makes the words of the beat readable, once in a beat. -/
def Obligations.SlotsGiveSampleWords : Prop :=
  (∀ (sd : Side) (conv slot p r : Nat) (s : State), let x := s.on sd
    let mi := conv * 64 + (x.slotMap conv).getD p 0
    let code := (clampInt 0 4095 (x.corrected conv mi r)).toNat
    x.alive = true → conv < 96 → slot < 80 → primaryPosition slot = some p → x.is MI_STAT.CONV_RUN = true →
    x.is MI_STAT.FE_CONN = true → x.miNamed mi = true → (x.chan mi).settle = 0 → (x.chan mi).cross = none → r < 4080 →
    x.corrected conv mi r ≤ 4095 → 380 < code →
    ∃ t, exec (.slotEnd sd conv slot (some r) false) s = .next t
      ∧ Within (keysOf accessKeys) [.ecc, .mon, .off, .perf, .lines] sd s t
      ∧ (t.on sd).mon.filling = Tab.put x.mon.filling mi (sampleWord (x.chan mi).range 0 code)
      ∧ (t.on sd).mon.last = Tab.put x.mon.last mi (sampleWord (x.chan mi).range 0 code)
      ∧ (t.on sd).mon.readable = x.mon.readable
      ∧ (t.on sd).off = max x.off ((slot + 1) * 125))
  ∧ (∀ (sd : Side) (conv slot p r : Nat) (overload : Bool) (s : State), let x := s.on sd
    let mi := conv * 64 + (x.slotMap conv).getD p 0
    x.alive = true → conv < 96 → slot < 80 → primaryPosition slot = some p → x.is MI_STAT.CONV_RUN = true →
    x.is MI_STAT.FE_CONN = true → x.miNamed mi = true → (x.chan mi).settle ≠ 0 → (x.chan mi).cross = none →
    ∃ t, exec (.slotEnd sd conv slot (some r) overload) s = .next t
      ∧ Within (keysOf accessKeys) [.ecc, .mon, .off, .perf, .lines] sd s t
      ∧ sampleValid (Tab.getD (t.on sd).mon.filling mi 0) = 1
      ∧ ((t.on sd).chan mi).settle = (x.chan mi).settle - 1)
  ∧ (∀ (sd : Side) (conv slot p r : Nat) (s : State), let x := s.on sd
    let mi := conv * 64 + (x.slotMap conv).getD p 0
    x.alive = true → conv < 96 → slot < 80 → primaryPosition slot = some p → (x.slotMap conv).getD p 0 < 64 →
    x.is MI_STAT.CONV_RUN = true → x.is MI_STAT.FE_CONN = true → x.miNamed mi = true → (x.chan mi).settle = 0 →
    (x.chan mi).cross = none → x.tis MT.AUTORANGE mi = true → (x.chan mi).range ≠ 0 → x.autorangeFree (x.chan mi) = true →
    x.get (MG_CNT.CLIP.inMonGroup conv) < 255 →
    ∃ t, exec (.slotEnd sd conv slot (some r) true) s = .next t
      ∧ Within (keysOf (accessKeys ++ [(evtBit (0x2A + conv / 16) 0).key, (MG_CNT.CLIP.inMonGroup conv).key])) [.ecc, .mon, .off, .perf, .lines] sd s t
      ∧ sampleValid (Tab.getD (t.on sd).mon.filling mi 0) = 2
      ∧ ((t.on sd).chan mi).step = some ((x.chan mi).range - 1)
      ∧ (t.on sd).get (MG_CNT.CLIP.inMonGroup conv) = x.get (MG_CNT.CLIP.inMonGroup conv) + 1)
  ∧ (∀ (sd : Side) (conv slot p : Nat) (overload : Bool) (s : State), let x := s.on sd
    let mi := conv * 64 + (x.slotMap conv).getD p 0
    x.alive = true → conv < 96 → slot < 80 → primaryPosition slot = some p → x.is MI_STAT.CONV_RUN = true →
    (x.chan mi).cross = none → x.get (MG_CNT.MISSED.inMonGroup conv) < 255 →
    ∃ t, exec (.slotEnd sd conv slot none overload) s = .next t
      ∧ Within (keysOn ((0x2A + conv / 16) :: eventPages)) (.mon :: .off :: .free :: eventParts) sd s t
      ∧ sampleValid (Tab.getD (t.on sd).mon.filling mi 0) = 3
      ∧ (t.on sd).get (MG_CNT.MISSED.inMonGroup conv) = x.get (MG_CNT.MISSED.inMonGroup conv) + 1)
  ∧ (∀ (sd : Side) (s : State), let x := s.on sd
    x.alive = true → x.win = .edge → x.mon.bankAt ≠ some x.produced →
    ∃ t, exec (.bankSwitch sd) s = .next t
      ∧ Within (keysOf []) [.mon, .off, .lines] sd s t
      ∧ (t.on sd).mon.readable = x.mon.filling ∧ (t.on sd).mon.filling = [] ∧ (t.on sd).mon.last = x.mon.last
      ∧ (t.on sd).mon.bankAt = some x.produced)
  ∧ (∀ (sd : Side) (s : State), let x := s.on sd
    x.win ≠ .edge ∨ x.mon.bankAt = some x.produced →
    ∃ t, exec (.bankSwitch sd) s = .next t ∧ Within (keysOf []) [.lines] sd s t)

/-- Slot maps and channel settings (R122, R126, R135). A select shows the group's map in force in the staging registers; a commit of
a permutation waits for its boundary, and of anything else is refused. MI_CH_SET with GO makes the range and bandwidth of a named
channel wait for its boundary. There the map is in force, and the setting, with the settling samples that a change of range or bandwidth
asks for; that the setting starts the hold-off in every case is the model's choice (log entry 121). -/
def Obligations.SlotMapsAndChannelsAreStaged : Prop :=
  (∀ (sd : Side) (m : Master) (v : Word) (s : State), let y := (s.on sd).transfer m
    (s.on sd).takes m 0x15040 = true → bits v.toNat 0 7 < 96 →
    ∃ t, exec (.slotMapSelect sd m v) s = .next t
      ∧ Within (keysOn [0x06, 0x15]) [.perf, .lines] sd s t
      ∧ (t.on sd).get MI_SMAP_SEL.GROUP = bits v.toNat 0 7
      ∧ (t.on sd).stagedMap = (List.range 64).map (fun p => (y.slotMap (bits v.toNat 0 7)).getD p 0 % 64))
  ∧ (∀ (sd : Side) (m : Master) (v : Word) (s : State), let y := (s.on sd).transfer m; let g := y.get MI_SMAP_SEL.GROUP
    (s.on sd).takes m 0x150C0 = true → v.toNat % 2 = 1 → g < 96 → isSlotMap y.stagedMap = true →
    ∃ t, exec (.slotMapCommit sd m v) s = .next t
      ∧ Within (keysOf (accessKeys ++ [0x150C4])) [.mon, .perf, .lines] sd s t
      ∧ (t.on sd).get MI_SMAP_STAT.RESULT = 1 ∧ (t.on sd).get MI_SMAP_STAT.GROUP = g
      ∧ (t.on sd).mon = { (s.on sd).mon with
          mapPending := ((s.on sd).mon.mapPending.filter (fun (p : SlotMapPending) => p.group != g)
              ++ [⟨g, y.stagedMap, if y.beforeCutoff then y.produced + 1 else y.produced + 2⟩]) })
  ∧ (∀ (sd : Side) (m : Master) (v : Word) (s : State), let y := (s.on sd).transfer m; let g := y.get MI_SMAP_SEL.GROUP
    (s.on sd).takes m 0x150C0 = true → v.toNat % 2 = 1 → 96 ≤ g ∨ isSlotMap y.stagedMap = false →
    ∃ t, exec (.slotMapCommit sd m v) s = .next t
      ∧ Within (keysOn (0x15 :: eventPages)) eventParts sd s t
      ∧ (t.on sd).get MI_SMAP_STAT.RESULT = 3 ∧ (t.on sd).is (evtBit 0x15 1) = true)
  ∧ (∀ (sd : Side) (m : Master) (v : Word) (s : State), let y := (s.on sd).transfer m
    let mi := y.get MI_CH_SEL.MI
    let due := if y.beforeCutoff then y.produced + 1 else y.produced + 2
    (s.on sd).takes m 0x14054 = true → bitAt v.toNat 31 = true → y.miNamed mi = true →
    ∃ t, exec (.channelSet sd m v) s = .next t
      ∧ Within (keysOf accessKeys) [.mon, .perf, .lines] sd s t
      ∧ (t.on sd).mon = { (s.on sd).mon with
          setPending := (s.on sd).mon.setPending.filter (fun (p : ChannelPending) => !(p.mi == mi && p.due == due)) ++ [⟨mi, bits v.toNat 0 2, bitAt v.toNat 2, due⟩] })
  ∧ (∀ (sd : Side) (p : SlotMapPending) (s : State), let x := s.on sd; let y := { x with mon := { x.mon with mapPending := [] } }
    s.calmBut sd y = true → x.mon.mapPending = [p] → p.due ≤ x.produced + 1 →
    ∃ t, exec (.beatBoundary sd) s = .next t
      ∧ (t.on sd).mon.mapPending = [] ∧ Tab.get? (t.on sd).mon.maps p.group = some p.map ∧ (t.on sd).is (evtBit 0x15 0) = true
      ∧ (∀ g, g ≠ p.group → Tab.get? (t.on sd).mon.maps g = Tab.get? x.mon.maps g)
      ∧ (x.get MI_SMAP_STAT.GROUP = p.group → x.get MI_SMAP_STAT.RESULT = 1 → (t.on sd).get MI_SMAP_STAT.RESULT = 2))
  ∧ (∀ (sd : Side) (p : ChannelPending) (s : State), let x := s.on sd; let y := { x with mon := { x.mon with setPending := [] } }
    let c := x.chan p.mi
    s.calmBut sd y = true → x.mon.setPending = [p] → p.due ≤ x.produced + 1 →
    ∃ t, exec (.beatBoundary sd) s = .next t
      ∧ (t.on sd).mon.setPending = [] ∧ (t.on sd).is (evtBit 0x14 2) = true
      ∧ ((t.on sd).chan p.mi).range = p.range ∧ ((t.on sd).chan p.mi).wide = p.wide ∧ ((t.on sd).chan p.mi).rangeAt = some (x.produced + 1)
      ∧ ((t.on sd).chan p.mi).settle = max (max c.settle (if c.wide = p.wide then 0 else 3)) (if c.range = p.range then 0 else 2)
      ∧ (∀ i, i ≠ p.mi → (t.on sd).chan i = x.chan i))
  ∧ (∀ (sd : Side) (p : ChannelPending) (q : SlotMapPending) (s : State), let x := s.on sd
    let y := { x with mon := { x.mon with setPending := [], mapPending := [] } }
    s.calmBut sd y = true → x.mon.setPending = [p] → x.mon.mapPending = [q] → x.produced + 1 < p.due → x.produced + 1 < q.due →
    ∃ t, exec (.beatBoundary sd) s = .next t
      ∧ (t.on sd).mon.setPending = [p] ∧ (t.on sd).mon.mapPending = [q] ∧ (t.on sd).mon.maps = x.mon.maps
      ∧ (t.on sd).mon.channels = x.mon.channels)

/-- Relay tuning and what host software asks of the scene handler (R154, R155, R159, R172, R174). A start with GO on a free lane whose
DO its loop owns opens a run from the DO's BASE, RESULT 4; on a lane that runs it is refused, REASON 1. A started run that has
reached TMAX ends with RESULT 3, REASON 6, its DO back at its BASE and with its loop. A retry of a stalled handover and the
release of an output darkened by misses wait for their boundary, or are refused. -/
def Obligations.TuningRetriesAndReleasesStart : Prop :=
  (∀ (sd : Side) (m : Master) (v : Word) (s : State), let y := ((s.on sd).transfer m).writeRw 0x17044 v.toNat
    let l := bits v.toNat 0 13
    let d := y.t LT.DO l
    (s.on sd).takes m 0x17044 = true → bitAt v.toNat 31 = true → y.loops.tunes.any (fun q => q.loop % 32 == l % 32) = false →
    l < y.loopCount → y.own d = .loop → (y.elementLit d && !y.is HL_AT_CTRL.LIVE) = false → y.get TH_STAT.STEP = 0 →
    y.loops.tunes.length < 63 →
    ∃ t, exec (.autotuneStart sd m v) s = .next t
      ∧ Within (keysOf (accessKeys ++ [0x17044, 0x17048])) [.loops, .perf, .lines] sd s t
      ∧ (t.on sd).get HL_AT_STAT.RESULT = 4 ∧ (t.on sd).get HL_AT_STAT.REASON = 0
      ∧ (t.on sd).get HL_AT_STAT.ACTIVE = y.loops.tunes.length + 1
      ∧ (t.on sd).loops = { (s.on sd).loops with tunes := (s.on sd).loops.tunes ++
          [{ loop := l, dout := d, started := false, base0 := y.base d, amp := max 1 (bits v.toNat 16 10), apply := bitAt v.toNat 13,
             start := y.produced, above := none, begun := false, hi := 0, lo := 2 ^ 22, marks := [], swings := [] }] })
  ∧ (∀ (sd : Side) (m : Master) (v : Word) (s : State), let l := bits v.toNat 0 13
    (s.on sd).takes m 0x17044 = true → bitAt v.toNat 31 = true → (s.on sd).loops.tunes.any (fun q => q.loop % 32 == l % 32) = true →
    ∃ t, exec (.autotuneStart sd m v) s = .next t
      ∧ Within (keysOf (accessKeys ++ [0x17044, 0x17048])) [.perf, .lines] sd s t
      ∧ (t.on sd).get HL_AT_STAT.RESULT = 2 ∧ (t.on sd).get HL_AT_STAT.REASON = 1)
  ∧ (∀ (sd : Side) (loop : Nat) (r : TuneRun) (s : State), let x := s.on sd
    x.alive = true → x.loops.tunes.find? (fun q => q.loop == loop && q.started) = some r → r.start + x.get HL_AT_CTRL.TMAX ≤ x.produced →
    x.loops.tunes.all (fun q => q.dout != r.dout || q.loop == r.loop) = true → x.own r.dout = .tune →
    (x.loopOf r.dout).all (fun l => !x.entryBad l) = true →
    ∃ t, exec (.autotuneTimeout sd loop) s = .next t
      ∧ Within (keysOn [0x06, 0x17, 0x30, 0x31]) [.mem, .ecc, .drive, .loops, .twin, .perf, .lines] sd s t
      ∧ (t.on sd).get HL_AT_STAT.RESULT = 3 ∧ (t.on sd).get HL_AT_STAT.REASON = 6
      ∧ (t.on sd).loops.tunes = x.loops.tunes.filter (fun q => q.loop != r.loop)
      ∧ (t.on sd).base r.dout = r.base0 ∧ (t.on sd).own r.dout = .loop
      ∧ (∀ e, e ≠ r.dout → (t.on sd).base e = x.base e ∧ (t.on sd).own e = x.own e)
      ∧ (∀ a, a < 0x30000000 ∨ 0x30800000 ≤ a → (t.on sd).rd8 a = x.rd8 a))
  ∧ (∀ (sd : Side) (m : Master) (v : Word) (s : State), let y := (s.on sd).transfer m
    let c := bits v.toNat 0 13
    (s.on sd).takes m 0x0D070 = true → bitAt v.toNat 31 = true → c < y.cells → y.cellStalled c = true → y.cellAhead c = false →
    y.leads = true → y.scene.retries.contains c = false →
    ∃ t, exec (.handoverRetry sd m v) s = .next t
      ∧ Within (keysOf (accessKeys ++ [0x0D048])) [.scene, .perf, .lines] sd s t
      ∧ (t.on sd).get SH_STAT.RETRY_REF = 0
      ∧ (t.on sd).scene = { (s.on sd).scene with retries := (s.on sd).scene.retries ++ [c] })
  ∧ (∀ (sd : Side) (m : Master) (v : Word) (s : State), let y := (s.on sd).transfer m
    (s.on sd).takes m 0x0D070 = true → bitAt v.toNat 31 = true → y.cellStalled (bits v.toNat 0 13) = false →
    ∃ t, exec (.handoverRetry sd m v) s = .next t
      ∧ Within (keysOf (accessKeys ++ [0x0D048])) [.perf, .lines] sd s t
      ∧ (t.on sd).get SH_STAT.RETRY_REF = 1)
  ∧ (∀ (sd : Side) (m : Master) (v : Word) (s : State), let y := (s.on sd).transfer m
    let q := bits v.toNat 0 9
    (s.on sd).takes m 0x0D078 = true → bitAt v.toNat 31 = true → y.scene.missDark.contains q = true →
    (y.fabric.pathTo y.activeView q).any (fun h => y.watch.declared.contains h.cell) = false →
    ∃ t, exec (.missRelease sd m v) s = .next t
      ∧ Within (keysOf accessKeys) [.scene, .perf, .lines] sd s t
      ∧ (t.on sd).scene = { (s.on sd).scene with
          missDark := dropNat q (s.on sd).scene.missDark, darkReleases := insertNat q (s.on sd).scene.darkReleases })
  ∧ (∀ (sd : Side) (m : Master) (v : Word) (s : State),
    (s.on sd).takes m 0x0D078 = true → bitAt v.toNat 31 = true → (s.on sd).scene.missDark.contains (bits v.toNat 0 9) = false →
    ∃ t, exec (.missRelease sd m v) s = .next t
      ∧ Within (keysOf (accessKeys ++ [0x0D00C])) [.perf, .lines] sd s t
      ∧ (t.on sd).is (evtBit 0x0D 5) = true)

/-- Requests for calibration (R200): CA_REQ with GO queues, for a TRIM, a SURVEY or a PROBE of one DO, the work it names and answers
RESULT 1, or answers RESULT 3 with the reason and queues nothing. A request for a round opens a TRIM round of every loop at the tile's present temperature, and is refused with reason BUSY while one is open and with
THROTTLED while a throttle step is in force. While the stage manager does not work a request is only stored, as is a write without GO: the
first is the model's choice (log entry 141). -/
def Obligations.CalibrationRequestsAreQueued : Prop :=
  (∀ (sd : Side) (m : Master) (v : Word) (k : RunKind) (s : State), let y := ((s.on sd).transfer m).writeRw 0x0E054 v.toNat
    let d := bits v.toNat 0 14
    (s.on sd).takes m 0x0E054 = true → (s.on sd).managed = true → bitAt v.toNat 31 = true → bits v.toNat 14 2 = k.code → y.calRefused d = 0 →
    y.cal.queue.any (fun q => q.dout == d && q.kind == k) = false →
    ∃ t, exec (calRequestOf k sd m v) s = .next t
      ∧ Within (keysOf (accessKeys ++ [0x0E04C, 0x0E054, 0x0E058])) [.cal, .perf, .lines] sd s t
      ∧ (t.on sd).get CA_REQ_STAT.RESULT = 1 ∧ (t.on sd).get CA_REQ_STAT.REASON = 0
      ∧ (t.on sd).get CA_STAT.PENDING = min 32767 (y.cal.queue.length + 1)
      ∧ (t.on sd).cal = { (s.on sd).cal with queue := (s.on sd).cal.queue ++ [⟨d, k, false, false, true⟩] })
  ∧ (∀ (sd : Side) (m : Master) (v : Word) (k : RunKind) (s : State), let y := ((s.on sd).transfer m).writeRw 0x0E054 v.toNat
    let r := y.calRefused (bits v.toNat 0 14)
    (s.on sd).takes m 0x0E054 = true → (s.on sd).managed = true → bitAt v.toNat 31 = true → bits v.toNat 14 2 = k.code → r ≠ 0 →
    ∃ t, exec (calRequestOf k sd m v) s = .next t
      ∧ Within (keysOf (accessKeys ++ [0x0E054, 0x0E058])) [.perf, .lines] sd s t
      ∧ (t.on sd).get CA_REQ_STAT.RESULT = 3 ∧ (t.on sd).get CA_REQ_STAT.REASON = r)
  ∧ (∀ (sd : Side) (m : Master) (v : Word) (s : State), let x := s.on sd
    x.takes m 0x0E054 = true → x.managed = true → bitAt v.toNat 31 = true → bits v.toNat 14 2 = 3 → x.cal.trimRound = none → x.get TH_STAT.STEP = 0 →
    ∃ t, exec (.calReqRound sd m v) s = .next t
      ∧ Within (keysOf (accessKeys ++ [0x0E04C, 0x0E054, 0x0E058])) [.cal, .perf, .lines] sd s t
      ∧ (t.on sd).get CA_REQ_STAT.RESULT = 1
      ∧ (t.on sd).cal.trimRound = some x.tileTemp ∧ (t.on sd).cal.round = x.cal.round
      ∧ (∀ l, l < x.loopCount → (t.on sd).cal.queue.any (fun j => j.dout == x.t LT.DO l && j.kind == .trim && j.trimRound) = true)
      ∧ (t.on sd).cal.runs = x.cal.runs ∧ (t.on sd).cal.results = x.cal.results)
  ∧ (∀ (sd : Side) (m : Master) (v : Word) (s : State), let x := s.on sd; let y := (x.transfer m).writeRw 0x0E054 v.toNat; let d := bits v.toNat 0 14
    x.takes m 0x0E054 = true → x.managed = true → bitAt v.toNat 31 = true → bits v.toNat 14 2 = 0 → y.calRefused d = 0 →
    y.cal.queue.any (fun q => q.dout == d && q.kind == .trim) = false →
    ∃ t, exec (.calReqTrim sd m v) s = .next t
      ∧ (t.on sd).get CA_REQ_STAT.RESULT = 1 ∧ (t.on sd).cal = { x.cal with queue := x.cal.queue ++ [⟨d, .trim, false, false, true⟩] })
  ∧ (∀ (sd : Side) (m : Master) (v : Word) (s : State), let x := s.on sd; let y := (x.transfer m).writeRw 0x0E054 v.toNat; let d := bits v.toNat 0 14
    x.takes m 0x0E054 = true → x.managed = true → bitAt v.toNat 31 = true → bits v.toNat 14 2 = 1 → y.calRefused d = 0 →
    y.cal.queue.any (fun q => q.dout == d && q.kind == .survey) = false →
    ∃ t, exec (.calReqSurvey sd m v) s = .next t
      ∧ (t.on sd).get CA_REQ_STAT.RESULT = 1 ∧ (t.on sd).cal = { x.cal with queue := x.cal.queue ++ [⟨d, .survey, false, false, true⟩] })
  ∧ (∀ (sd : Side) (m : Master) (v : Word) (s : State), let x := s.on sd; let y := (x.transfer m).writeRw 0x0E054 v.toNat; let d := bits v.toNat 0 14
    x.takes m 0x0E054 = true → x.managed = true → bitAt v.toNat 31 = true → bits v.toNat 14 2 = 2 → y.calRefused d = 0 →
    y.cal.queue.any (fun q => q.dout == d && q.kind == .probe) = false →
    ∃ t, exec (.calReqProbe sd m v) s = .next t
      ∧ (t.on sd).get CA_REQ_STAT.RESULT = 1 ∧ (t.on sd).cal = { x.cal with queue := x.cal.queue ++ [⟨d, .probe, false, false, true⟩] })
  ∧ (∀ (sd : Side) (m : Master) (v : Word) (s : State), let x := s.on sd
    x.takes m 0x0E054 = true → x.managed = true → bitAt v.toNat 31 = true → bits v.toNat 14 2 = 3 →
    x.cal.trimRound.isSome = true ∨ x.get TH_STAT.STEP ≠ 0 →
    ∃ t, exec (.calReqRound sd m v) s = .next t
      ∧ Within (keysOf (accessKeys ++ [0x0E054, 0x0E058])) [.perf, .lines] sd s t
      ∧ (t.on sd).get CA_REQ_STAT.RESULT = 3 ∧ (t.on sd).get CA_REQ_STAT.REASON = (if x.cal.trimRound.isSome = true then 1 else 4))
  ∧ (∀ (sd : Side) (m : Master) (v : Word) (k : RunKind) (s : State), let x := s.on sd
    x.takes m 0x0E054 = true → x.managed = false ∨ bitAt v.toNat 31 = false →
    (∃ t, exec (calRequestOf k sd m v) s = .next t ∧ Within (keysOf (accessKeys ++ [0x0E054])) [.perf, .lines] sd s t)
      ∧ ∃ t, exec (.calReqRound sd m v) s = .next t ∧ Within (keysOf (accessKeys ++ [0x0E054])) [.perf, .lines] sd s t)

/-- The stage manager's calibration (R183, R192, R193, R195). Once its period has passed a round is queued with a TRIM for every
loop's DO. The first queued job that may start starts, its DO taken from the next boundary. A run that is done is over: it counts
in RUNS and releases its DO. The commits of a beat take at most CA_COMMIT.MAX of the waiting results, due at the next boundary; results that
have waited 10,000 beats are discarded and their work is queued again. An ageing record is started once its hours have passed. -/
def Obligations.CalibrationRunsAndCommits : Prop :=
  (∀ (sd : Side) (s : State), let x := s.on sd
    x.managed = true → x.leads = true → x.is CA_CTRL.AUTO_PERIOD = true → x.get CA_PERIOD.PERIOD ≠ 0 → x.cal.round = none →
    x.cal.lastRound + x.get CA_PERIOD.PERIOD * 100000 ≤ x.produced →
    ∃ t, exec (.calPeriod sd) s = .next t
      ∧ Within (keysOf [0x0E04C]) [.cal, .lines] sd s t
      ∧ (t.on sd).cal.round = some x.tileTemp
      ∧ (∀ l, l < x.loopCount → (t.on sd).cal.queue.any (fun j => j.dout == x.t LT.DO l && j.kind == .trim) = true)
      ∧ (t.on sd).cal.runs = x.cal.runs ∧ (t.on sd).cal.results = x.cal.results)
  ∧ (∀ (sd : Side) (j : CalJob) (s : State), let x := s.on sd
    x.calRuns = true → x.cal.runs.length < x.calPar → x.cal.queue.find? x.mayStart = some j →
    ∃ t, exec (.calRunStart sd) s = .next t
      ∧ Within (keysOf [0x0E04C]) [.cal, .lines] sd s t
      ∧ (t.on sd).cal = { x.cal with queue := x.cal.queue.filter (fun q => q != j), runs := x.cal.runs ++ [x.newRun j] }
      ∧ (x.newRun j).start = x.produced + 1 ∧ (t.on sd).get CA_STAT.RUNNING = 1)
  ∧ (∀ (sd : Side) (d : Nat) (r : CalRun) (s : State), let x := s.on sd
    x.alive = true → x.cal.runs.find? (fun q => q.job.dout == d && q.done) = some r → x.get CA_CNT.RUNS < 65535 →
    ∃ t, exec (.calRunEnd sd d) s = .next t
      ∧ Within (keysOn (0x0E :: ((List.range 10).map (fun i => 0x20 + i) ++ eventPages))) (.drive :: .mon :: .cal :: .free :: eventParts) sd s t
      ∧ (t.on sd).cal.runs = x.cal.runs.filter (fun q => q.job.dout != d)
      ∧ (t.on sd).cal.releases = x.cal.releases ++ r.taken.map Prod.fst
      ∧ (t.on sd).get CA_CNT.RUNS = x.get CA_CNT.RUNS + 1 ∧ (t.on sd).is (evtBit 0x0E 0) = true)
  ∧ (∀ (sd : Side) (s : State), let x := s.on sd
    let wait := x.cal.results.filter (fun r => r.due.isNone)
    let n := min (max 1 (x.get CA_COMMIT.MAX) - x.cal.results.countP (fun r => r.due == some (x.produced + 1))) wait.length
    x.managed = true → x.commitOpen = true → n ≠ 0 →
    ∃ t, exec (.calCommit sd) s = .next t
      ∧ Within (keysOf [0x0600C, 0x0606C, 0x0E00C]) [.cal, .perf, .lines] sd s t
      ∧ (t.on sd).cal = { x.cal with
          results := x.cal.results.filter (fun r => r.due.isSome)
            ++ (wait.take n).map (fun (r : CalResult) => { r with due := some (x.produced + 1) }) ++ wait.drop n }
      ∧ (t.on sd).is (evtBit 0x0E 2) = true)
  ∧ (∀ (sd : Side) (r : CalResult) (j : CalJob) (s : State), let x := s.on sd
    x.alive = true → x.cal.results = [r] → r.due = none → r.since + 10000 ≤ x.produced → r.job = some j → x.get CA_CNT2.DISCARD < 65535 →
    ∃ t, exec (.calStageExpire sd) s = .next t
      ∧ Within (keysOn (0x0E :: eventPages)) (.cal :: eventParts) sd s t
      ∧ (t.on sd).cal.results = [] ∧ (t.on sd).get CA_CNT2.DISCARD = x.get CA_CNT2.DISCARD + 1
      ∧ (t.on sd).cal.queue.any (fun q => q.dout == j.dout && q.kind == j.kind) = true)
  ∧ (∀ (sd : Side) (s : State), let x := s.on sd
    x.managed = true → x.leads = true → x.cal.ageFrom = true → x.cal.lastAge + max 1 (x.get CA_AGE.PERIOD) * 360000000 ≤ x.produced →
    ∃ t, exec (.ageingRecord sd) s = .next t
      ∧ Within (keysOn (0x0E :: eventPages)) (.cal :: .nvm :: .free :: eventParts) sd s t
      ∧ (t.on sd).cal.lastAge = x.produced ∧ (t.on sd).cal.heaterReadings = []
      ∧ (t.on sd).recordBusy .forecast = true)

/-- Frames through the switch (R250, R252, R255, R262). A frame with a bad FCS counts in NP_ERR.CRC of its port and goes nowhere. A
multicast frame that passes the checks teaches the address table its source and joins the queue of each member port (shown for one
other member port, without redundancy). The only waiting frame of an open port starts and occupies its transmitter; with its
transmission the transmitter is idle. The link follows its inputs, or the PCS at 2500BASE-X, while the port is enabled. -/
def Obligations.FramesPassTheSwitch : Prop :=
  (∀ (sd : Side) (off n : Nat) (frame : List Byte) (s : State), let z := (s.on sd).atOffset off
    (s.on sd).alive = true → 1 ≤ n → n ≤ 3 → z.portUp n = true → z.get (NP_ERR.CRC.onPort n) < 65535 →
    ∃ t, exec (.frameReceived sd off n false frame) s = .next t
      ∧ Within (keysOf [0x0600C, 0x06060, (evtBit (0x17 + n) 0).key, (NP_ERR.CRC.onPort n).key]) [.off, .perf, .lines] sd s t
      ∧ (t.on sd).get (NP_ERR.CRC.onPort n) = z.get (NP_ERR.CRC.onPort n) + 1
      ∧ (t.on sd).is (evtBit (0x17 + n) 1) = true ∧ (t.on sd).is (evtBit (0x17 + n) 2) = true)
  ∧ (∀ (sd : Side) (off port n pcp vid e : Nat) (frame : List Byte) (s : State), let z := (s.on sd).atOffset off
    let p := Packet.parse 0 port frame
    let q := z.queueOf n pcp p
    let f : Frame :=
      { bytes := z.build port n pcp vid (bitAt (z.get (QS_VLAN.UNTAG.bank e)) n) z.net.redunSeq p, port := port
        stamp := z.ingressStamp port (lengthOf frame), held := false, arrived := ((z.netNow : Int) + z.rxCorrection port).toNat }
    (s.on sd).alive = true → 1 ≤ port → port ≤ 3 → 1 ≤ n → n ≤ 3 → n ≠ port → z.portUp port = true → z.redun = 0 →
    64 ≤ lengthOf frame → lengthOf frame ≤ 1518 → isGroup p.dst = true → p.dst ≠ broadcastMac → p.dst ≠ z.ownMac →
    p.etype ≠ z.get QS_CUE.ETYPE → p.etype ≠ 0x88F7 → p.etype ≠ 0x8808 →
    z.classify port p.tag = some (pcp, vid) → z.vlanEntry vid = some e → z.get (QS_VLAN.MEMBER.bank e) = 2 ^ port + 2 ^ n →
    (List.range 64).all (fun i => !z.is (PL_MATCH.EN.bank i)) = true → z.gatesOn n = false →
    z.queueLevel n q < min 4096 (z.get (QS_QLIM.LIMIT.bank (queueKey n q))) → z.cellsInUse + frameCells f ≤ 4096 →
    isGroup p.src = false → p.src ≠ z.ownMac → z.net.addresses.all (fun a => a.mac != p.src || a.vid != vid) = true →
    z.net.addresses.length < 1024 →
    ∃ t, exec (.frameReceived sd off port true frame) s = .next t
      ∧ Within (keysOf [0x0600C, 0x06060, 0x06064]) [.net, .off, .perf, .lines] sd s t
      ∧ (t.on sd).queue n q = z.queue n q ++ [{ f with cells := z.cellsFor f }]
      ∧ (t.on sd).net.addresses = z.net.addresses ++ [⟨p.src, vid, port, z.tick⟩]
      ∧ (∀ k, k ≠ queueKey n q → Tab.get? (t.on sd).net.queues k = Tab.get? z.net.queues k))
  ∧ (∀ (sd : Side) (off n q : Nat) (f : Frame) (rest : List Frame) (s : State), let z := (s.on sd).atOffset off
    (s.on sd).alive = true → n < 4 → q < 8 → z.portUp n = true → Tab.has z.net.sending n = false → z.gatesOn n = false →
    (List.range 8).all (fun k => !z.is (QS_RATE.EN.bank (queueKey n k))) = true → ptpType (f.bytes.drop (bodyOffset (z.hsrPort n) f.bytes)) = none →
    z.queue n q = f :: rest → (List.range 8).all (fun k => k == q || (z.queue n k).isEmpty) = true →
    ∃ t, exec (.egressStart sd off n) s = .next t
      ∧ Within (keysOf []) [.net, .off, .lines] sd s t
      ∧ Tab.get? (t.on sd).net.sending n = some (q, { f with held := false })
      ∧ (t.on sd).queue n q = rest
      ∧ (t.on sd).net.addresses = z.net.addresses ∧ (t.on sd).net.nodes = z.net.nodes)
  ∧ (∀ (sd : Side) (n q : Nat) (f : Frame) (s : State), let x := s.on sd
    x.alive = true → 1 ≤ n → n ≤ 3 → q < 8 → Tab.get? x.net.sending n = some (q, f) → x.fault.injection = none →
    ∃ t, exec (.transmitDone sd n true) s = .next t
      ∧ Within (keysOf [0x0600C, 0x06060, 0x06064]) [.net, .perf, .lines] sd s t
      ∧ (t.on sd).net = { x.net with sending := Tab.del x.net.sending n })
  ∧ (∀ (sd : Side) (n : Nat) (up anDone pcsSync remoteFault : Bool) (s : State), let x := s.on sd
    x.alive = true → 1 ≤ n → n ≤ 3 →
    let now := x.is (NP_CTRL.EN.onPort n) && (if x.fastPort n then pcsSync else up)
    ∃ t, exec (.linkChange sd n up anDone pcsSync remoteFault) s = .next t
      ∧ Within (keysOn ((0x17 + n) :: eventPages)) eventParts sd s t
      ∧ (t.on sd).is (NP_STAT.LINK.onPort n) = now ∧ (t.on sd).is (NP_STAT.AN_DONE.onPort n) = (anDone && !x.fastPort n && x.is (NP_CTRL.AN_EN.onPort n))
      ∧ (t.on sd).is (NP_STAT.SPEED.onPort n) = x.fastPort n
      ∧ (t.on sd).is (NP_STAT.PCS_SYNC.onPort n) = pcsSync ∧ (t.on sd).is (NP_STAT.REMOTE_FAULT.onPort n) = remoteFault
      ∧ (x.is (NP_STAT.LINK.onPort n) ≠ now → (t.on sd).is (evtBit (0x17 + n) 0) = true))

/-- Call sheets (R258, R260, R265). An entry of the operating sheet is noted as begun, which is the model's choice (log entry 49). A write of GT_DATA fills the selected entry of
a bank that does not operate and moves INDEX on; to the operating bank it is ignored, and INDEX moves on; a read returns the selected
entry and moves INDEX on. A change that is asked for
a port waits for its instant and shows PEND, or shows ERR; at its instant the banks change places. -/
def Obligations.CallSheetsChangeAtTheirInstant : Prop :=
  (∀ (sd : Side) (n entry : Nat) (s : State), let x := s.on sd
    x.alive = true → 1 ≤ n → n ≤ 3 → x.gatesOn n = true →
    ∃ t, exec (.gateEntry sd n entry) s = .next t
      ∧ Within (keysOf [0x0600C, 0x06060]) [.net, .perf, .lines] sd s t
      ∧ (t.on sd).net.gateEntry = Tab.put x.net.gateEntry n entry
      ∧ (t.on sd).net.sending = x.net.sending ∧ (t.on sd).net.changeAt = x.net.changeAt)
  ∧ (∀ (sd : Side) (m : Master) (v : Word) (s : State), let x := s.on sd
    let k := sheetBank x.sheetPort (x.get GT_ADDR.BANK) * 128 + x.get GT_ADDR.INDEX
    x.takes m 0x1D048 = true → x.selectsOperating = false →
    ∃ t, exec (.callSheetData sd m (some v)) s = .next t
      ∧ Within (keysOf (accessKeys ++ [0x1D044, (GT_DATA.ENTRY.bank k).key])) [.perf, .lines] sd s t
      ∧ (t.on sd).get (GT_DATA.ENTRY.bank k) = v.toNat ∧ (t.on sd).get GT_ADDR.INDEX = (x.get GT_ADDR.INDEX + 1) % 128)
  ∧ (∀ (sd : Side) (m : Master) (v : Word) (s : State), let x := s.on sd
    x.takes m 0x1D048 = true → x.selectsOperating = true →
    ∃ t, exec (.callSheetData sd m (some v)) s = .next t
      ∧ Within (keysOn (0x1D :: eventPages)) eventParts sd s t
      ∧ (∀ k, (t.on sd).get (GT_DATA.ENTRY.bank k) = x.get (GT_DATA.ENTRY.bank k))
      ∧ (t.on sd).get GT_ADDR.INDEX = (x.get GT_ADDR.INDEX + 1) % 128)
  ∧ (∀ (sd : Side) (s : State), let x := s.on sd
    x.alive = true → x.answers 0x1D048 = true →
    ∃ t, exec (.callSheetData sd .host none) s = .next t
      ∧ Within (keysOf (accessKeys ++ [0x1D044])) [.readBack, .perf, .lines] sd s t
      ∧ (t.on sd).readBack = BitVec.ofNat 32
          (x.get (GT_DATA.ENTRY.bank (sheetBank x.sheetPort (x.get GT_ADDR.BANK) * 128 + x.get GT_ADDR.INDEX)))
      ∧ (t.on sd).get GT_ADDR.INDEX = (x.get GT_ADDR.INDEX + 1) % 128)
  ∧ (∀ (sd : Side) (m : Master) (v : Word) (n : Nat) (s : State), let y := (s.on sd).transfer m
    let bank := 1 - y.operBank n
    let due := (y.get GT_CHG_S_HI.SEC * 2 ^ 32 + y.get GT_CHG_S_LO.SEC) * 1000000000 + y.get GT_CHG_NS.NS
    (s.on sd).takes m 0x1D064 = true → 1 ≤ n → n ≤ 3 → v.toNat = 2 ^ n → y.sheetCount n bank ≠ 0 →
    y.sheetOffset n bank < y.sheetCycle n bank → Tab.has y.net.changeAt n = false →
    ∃ t, exec (.callSheetChange sd m v) s = .next t
      ∧ Within (keysOf (accessKeys ++ [0x1D068])) [.net, .perf, .lines] sd s t
      ∧ (t.on sd).net = { (s.on sd).net with changeAt := Tab.put (s.on sd).net.changeAt n (y.cycleStart n bank (max due y.netNow)) }
      ∧ bitAt ((t.on sd).get GT_STAT.PEND) (n - 1) = true ∧ bitAt ((t.on sd).get GT_STAT.ERR) (n - 1) = false)
  ∧ (∀ (sd : Side) (m : Master) (v : Word) (n : Nat) (s : State), let y := (s.on sd).transfer m
    (s.on sd).takes m 0x1D064 = true → 1 ≤ n → n ≤ 3 → v.toNat = 2 ^ n → y.sheetCount n (1 - y.operBank n) = 0 →
    ∃ t, exec (.callSheetChange sd m v) s = .next t
      ∧ Within (keysOf (accessKeys ++ [0x1D068])) [.perf, .lines] sd s t
      ∧ bitAt ((t.on sd).get GT_STAT.ERR) (n - 1) = true)
  ∧ (∀ (sd : Side) (n due : Nat) (s : State), let x := s.on sd
    x.alive = true → 1 ≤ n → n ≤ 3 → Tab.get? x.net.changeAt n = some due → due < x.clockNs + 10000 →
    ∃ t, exec (.callSheetSwitch sd n) s = .next t
      ∧ Within (keysOn (0x1B :: 0x1D :: eventPages)) (.net :: .off :: eventParts) sd s t
      ∧ (t.on sd).operBank n = 1 - x.operBank n ∧ bitAt ((t.on sd).get GT_STAT.PEND) (n - 1) = false
      ∧ Tab.get? (t.on sd).net.changeAt n = none ∧ (t.on sd).net.gateEntry = Tab.put x.net.gateEntry n 0
      ∧ (t.on sd).is (evtBit 0x1D 0) = true)

/-- Shapers, policers and the switch's tables (R250, R254, R256, R257). QS_RATE and QS_BURST take what is written; a shaper that is
enabled starts with full credit, and a policer with full tokens. An address, and a node, not seen for its time leaves its table. A
node heard on one port only for 10 s is marked, and shown in QS_NODE.PATH. -/
def Obligations.SwitchTablesAndRates : Prop :=
  (∀ (sd : Side) (m : Master) (v : Word) (s : State), let y := (s.on sd).transfer m; let k := y.selectedQueue
    (s.on sd).takes m 0x1B064 = true → y.is (QS_RATE.EN.bank k) = false → bitAt v.toNat 31 = true →
    ∃ t, exec (.shaperConfig sd m false v) s = .next t
      ∧ Within (keysOf (accessKeys ++ [(QS_RATE.EN.bank k).key])) [.net, .perf, .lines] sd s t
      ∧ (t.on sd).is (QS_RATE.EN.bank k) = true ∧ (t.on sd).get (QS_RATE.RATE.bank k) = bits v.toNat 0 22
      ∧ Tab.getD (t.on sd).net.credit k 0 = ((burstActs (y.get (QS_BURST.BURST.bank k)) * 1000000 : Nat) : Int)
      ∧ Tab.getD (t.on sd).net.creditAt k 0 = y.tick)
  ∧ (∀ (sd : Side) (m : Master) (v : Word) (s : State), let y := (s.on sd).transfer m; let k := y.selectedQueue
    (s.on sd).takes m 0x1B068 = true → y.is (QS_RATE.EN.bank k) = false →
    ∃ t, exec (.shaperConfig sd m true v) s = .next t
      ∧ Within (keysOf (accessKeys ++ [(QS_BURST.BURST.bank k).key])) [.net, .perf, .lines] sd s t
      ∧ (t.on sd).get (QS_BURST.BURST.bank k) = bits v.toNat 0 16
      ∧ Tab.getD (t.on sd).net.credit k 0 ≤ ((burstActs (bits v.toNat 0 16) * 1000000 : Nat) : Int))
  ∧ (∀ (sd : Side) (m : Master) (v : Word) (s : State), let y := (s.on sd).transfer m; let i := y.get PL_SEL.POL
    (s.on sd).takes m 0x1C044 = true → y.is (PL_MATCH.EN.bank i) = false → bitAt v.toNat 31 = true →
    ∃ t, exec (.policerEnable sd m v) s = .next t
      ∧ Within (keysOf (accessKeys ++ [(PL_MATCH.EN.bank i).key])) [.net, .perf, .lines] sd s t
      ∧ (t.on sd).is (PL_MATCH.EN.bank i) = true ∧ (t.on sd).get (PL_MATCH.PORTS.bank i) = bits v.toNat 0 4
      ∧ (t.on sd).net = { (s.on sd).net with
          tokens := Tab.put (s.on sd).net.tokens i (burstActs (y.get (PL_BURST.BURST.bank i)) * 1000000)
          tokensAt := Tab.put (s.on sd).net.tokensAt i y.tick })
  ∧ (∀ (sd : Side) (i : Nat) (a : AddrEntry) (s : State), let x := s.on sd
    x.alive = true → x.net.addresses[i]? = some a → x.get QS_AGE.AGE ≠ 0 → a.seen + x.get QS_AGE.AGE * 1000000000 ≤ x.tick →
    ∃ t, exec (.addressAge sd i) s = .next t
      ∧ Within (keysOf [0x0600C, 0x06064]) [.net, .perf, .lines] sd s t
      ∧ (t.on sd).net = { x.net with
          addresses := x.net.addresses.eraseIdx i
          proxies := if a.port = 3 then dropNat a.mac x.net.proxies else x.net.proxies })
  ∧ (∀ (sd : Side) (i : Nat) (n : NodeEntry) (s : State), let x := s.on sd
    x.alive = true → x.net.nodes[i]? = some n → n.seen + max 1 (x.get QS_SUP.FORGET) * 1000000000 ≤ x.tick → x.net.nodes.length ≤ 512 →
    ∃ t, exec (.nodeForget sd i) s = .next t
      ∧ Within (keysOf [QS_NODE.COUNT.key]) [.net, .lines] sd s t
      ∧ (t.on sd).net = { x.net with nodes := x.net.nodes.eraseIdx i }
      ∧ (t.on sd).get QS_NODE.COUNT = x.net.nodes.length - 1)
  ∧ (∀ (sd : Side) (i : Nat) (n : NodeEntry) (a : Nat) (s : State), let x := s.on sd
    x.alive = true → x.net.nodes[i]? = some n → n.onePath = false → n.heard1 = some a → n.heard2 = none →
    x.tick < a + 10000000000 → n.onlySince + 10000000000 ≤ x.tick →
    ∃ t, exec (.singlePathDetect sd i) s = .next t
      ∧ Within (keysOn (0x1B :: eventPages)) (.net :: eventParts) sd s t
      ∧ (t.on sd).net = { x.net with nodes := x.net.nodes.set i { n with onePath := true } }
      ∧ (t.on sd).is (evtBit 0x1B 3) = true)

/-- Supervision (R254). When it is due, a side in PRP or HSR mode without proxy SANs sends a supervision frame for its own address on both
ring ports, with its next sequence number, and notes when; it queues them in open queues with room. With proxy SANs it notes when too, and
the frames it sends for them change the network state and the events alone; which frames those are is left out here. One that is not due,
or in independent mode, sends none. The frame's layout is the model's choice (log entry 47), and so are the cells it takes (log entry 113). -/
def Obligations.SupervisionFramesLeaveOnBothPorts : Prop :=
  (∀ (sd : Side) (e : Nat) (s : State), let x := s.on sd
    let y := { x with net := { x.net with supervisedAt := some x.tick } }
    let p := y.supervision x.ownMac
    let q (n : Nat) : Nat := y.queueOf n 0 p
    let f (n : Nat) : Frame :=
      { bytes := y.build 0 n 0 1 (bitAt (x.get (QS_VLAN.UNTAG.bank e)) n) x.net.redunSeq p, port := 0, stamp := 16 * (x.netNow : Int), held := false
        arrived := x.netNow }
    let f1 : Frame := { f 1 with cells := x.cellsFor (f 1) }
    x.alive = true → x.redun ≠ 0 → x.supervisionDue = true → x.net.proxies = [] → x.vlanEntry 1 = some e →
    x.get (QS_VLAN.MEMBER.bank e) = 7 → x.gatesOn 1 = false → x.gatesOn 2 = false → x.cellsInUse + 2 ≤ 4096 →
    x.get QS_CUE.ETYPE ≠ 0x88FB →
    x.queueLevel 1 (q 1) < min 4096 (x.get (QS_QLIM.LIMIT.bank (queueKey 1 (q 1)))) →
    x.queueLevel 2 (q 2) < min 4096 (x.get (QS_QLIM.LIMIT.bank (queueKey 2 (q 2)))) →
    ∃ t, exec (.supervisionSend sd) s = .next t
      ∧ Within (keysOf [0x0600C, 0x06064]) [.net, .perf, .lines] sd s t
      ∧ (t.on sd).net.supervisedAt = some x.tick ∧ (t.on sd).net.redunSeq = (x.net.redunSeq + 1) % 65536
      ∧ (t.on sd).queue 1 (q 1) = x.queue 1 (q 1) ++ [f1]
      ∧ (t.on sd).queue 2 (q 2) = x.queue 2 (q 2) ++ [{ f 2 with cells := (x.setQueue 1 (q 1) (x.queue 1 (q 1) ++ [f1])).cellsFor (f 2) }])
  ∧ (∀ (sd : Side) (s : State), let x := s.on sd
    x.alive = true → x.redun ≠ 0 → x.supervisionDue = true →
    ∃ t, exec (.supervisionSend sd) s = .next t
      ∧ Within (keysOn (0x1B :: eventPages)) (.net :: eventParts) sd s t
      ∧ (t.on sd).net.supervisedAt = some x.tick ∧ (t.on sd).net.proxies = x.net.proxies ∧ (t.on sd).net.nodes = x.net.nodes)
  ∧ (∀ (sd : Side) (s : State), let x := s.on sd
    x.redun = 0 ∨ x.supervisionDue = false →
    ∃ t, exec (.supervisionSend sd) s = .next t ∧ Within (keysOf []) [.lines] sd s t)

/-- The servo and the choice of a master (R266, R269, R271, R275). A Sync of the selected port ends holdover and gives its offset; an
offset within STEP_TH changes NT_RATE by the proportional and integral terms and starts a slew; a larger one steps the clock where
steps are allowed, with LOCKED lost and STEPS counted. An Announce joins the data sets, of which the best is the master; with the last
of them gone there is none. A peer delay is half of the round trip less the partner's residence, within its range, and its request is sent
on both ring ports, with the next sequence number of redundant frames where the side is not in independent mode. Model's choices: the
layout of that request (log entry 47), the cells it takes (log entry 113), and that a step below 0 wraps the seconds (log entry 114). -/
def Obligations.ServoFollowsTheMaster : Prop :=
  (∀ (sd : Side) (i : SyncInfo) (s : State), let x := s.on sd
    let o := i.ingress - (i.origin + i.correction + (x.get (NT_PDELAY.DELAY.nth (i.port - 1)) : Int))
    let next := x.rate - x.rateFor o / 2 ^ x.get NT_SERVO.KP - x.rateFor (x.time.sumOffset + o) / 2 ^ x.get NT_SERVO.KI
    x.managed = true → 1 ≤ i.port → i.port ≤ 2 → i.port = x.get NT_STAT.PORT → i.domain = x.get NT_PTP.DOMAIN →
    x.is NT_CTRL.SERVO_EN = true → o.natAbs ≤ max 100 (x.get NT_SERVO.STEP_TH) →
    ∃ t, exec (.syncReceived sd i) s = .next t
      ∧ Within (keysOn (0x1E :: eventPages)) (.time :: eventParts) sd s t
      ∧ (t.on sd).get NT_OFFSET.OFFSET = unsignedOf o 32
      ∧ (t.on sd).get NT_RATE.RATE = unsignedOf (clampInt (-rateLimit) rateLimit next) 32
      ∧ (t.on sd).time.slew = -o ∧ (t.on sd).time.sumOffset = x.time.sumOffset + o ∧ (t.on sd).time.lastSync = x.tick
      ∧ (t.on sd).get NT_STAT.HOLDOVER = 0
      ∧ (t.on sd).time.lockCount = (if (o.natAbs : Int) ≤ (max 1 (x.get NT_SERVO.LOCK_TH) : Nat) then min 16 (x.time.lockCount + 1) else 0))
  ∧ (∀ (sd : Side) (i : SyncInfo) (s : State), let x := s.on sd
    let o := i.ingress - (i.origin + i.correction + (x.get (NT_PDELAY.DELAY.nth (i.port - 1)) : Int))
    x.managed = true → 1 ≤ i.port → i.port ≤ 2 → i.port = x.get NT_STAT.PORT → i.domain = x.get NT_PTP.DOMAIN →
    x.is NT_CTRL.SERVO_EN = true → max 100 (x.get NT_SERVO.STEP_TH) < o.natAbs → x.is NT_CTRL.STEP_EN = true → x.get NT_CNT.STEPS < 65535 →
    ∃ t, exec (.syncReceived sd i) s = .next t
      ∧ Within (keysOn (0x1E :: eventPages)) (.time :: .net :: eventParts) sd s t
      ∧ (t.on sd).clockNs = (((x.clockNs : Int) - o) % (2 ^ 48 * 1000000000 : Int)).toNat
      ∧ (t.on sd).time.stepOpen = true ∧ (t.on sd).time.slew = 0 ∧ (t.on sd).time.sumOffset = 0 ∧ (t.on sd).time.lockCount = 0
      ∧ (t.on sd).get NT_STAT.LOCKED = 0 ∧ (t.on sd).get NT_CNT.STEPS = x.get NT_CNT.STEPS + 1 ∧ (t.on sd).is (evtBit 0x1E 2) = true)
  ∧ (∀ (sd : Side) (i a : AnnounceInfo) (s : State), let x := s.on sd
    let l := x.time.announces.filter (fun (b : AnnounceInfo) => !(b.port == i.port && b.identity == i.identity)) ++ [i]
    x.managed = true → 1 ≤ i.port → i.port ≤ 2 → i.domain = x.get NT_PTP.DOMAIN → bestMaster l = some a →
    ∃ t, exec (.announceReceived sd i) s = .next t
      ∧ Within (keysOn (0x1E :: eventPages)) (.time :: eventParts) sd s t
      ∧ (t.on sd).time.announces = l ∧ (t.on sd).time.master = some a ∧ (t.on sd).get NT_STAT.PORT = a.port % 4
      ∧ (t.on sd).get NT_GM.ID = leNat ((beBytes 8 a.identity).take 4))
  ∧ (∀ (sd : Side) (a : AnnounceInfo) (s : State), let x := s.on sd
    x.managed = true → x.time.master = some a → x.time.announces.filter (fun (b : AnnounceInfo) => b != a) = [] →
    ∃ t, exec (.announceTimeout sd) s = .next t
      ∧ Within (keysOf [NT_STAT.PORT.key]) [.time, .lines] sd s t
      ∧ (t.on sd).time = { x.time with announces := [], master := none } ∧ (t.on sd).get NT_STAT.PORT = 0)
  ∧ (∀ (sd : Side) (i : PdelayInfo) (s : State), let x := s.on sd
    x.managed = true → 1 ≤ i.port → i.port ≤ 2 → i.domain = x.get NT_PTP.DOMAIN →
    ∃ t, exec (.pdelayResponse sd i) s = .next t
      ∧ Within (keysOf [(NT_PDELAY.DELAY.nth (i.port - 1)).key]) [.lines] sd s t
      ∧ (t.on sd).get (NT_PDELAY.DELAY.nth (i.port - 1))
          = (clampInt 0 0xFFFFFF (((i.t4 - i.t1) - (i.t3 - i.t2) - i.correction) / 2)).toNat)
  ∧ (∀ (sd : Side) (s : State), let x := s.on sd
    let q (n : Nat) : Nat := if x.is QS_CTRL.PTP_Q7 then 7 else bits (x.get (QS_PCPMAP.MAP.nth n)) 0 3
    let f (n : Nat) : Frame := { bytes := x.build 0 n 0 0 true x.net.redunSeq (Packet.parse 0 0 (x.pdelayReq n)), port := 0, stamp := 16 * (x.netNow : Int), held := false }
    let f1 : Frame := { f 1 with cells := x.cellsFor (f 1) }
    x.managed = true → x.portUp 1 = true → x.portUp 2 = true → x.gatesOn 1 = false → x.gatesOn 2 = false → x.cellsInUse + 2 ≤ 4096 →
    x.queueLevel 1 (q 1) < min 4096 (x.get (QS_QLIM.LIMIT.bank (queueKey 1 (q 1)))) →
    x.queueLevel 2 (q 2) < min 4096 (x.get (QS_QLIM.LIMIT.bank (queueKey 2 (q 2)))) →
    ∃ t, exec (.pdelayRequest sd) s = .next t
      ∧ Within (keysOf []) [.net, .time, .perf, .lines] sd s t
      ∧ (t.on sd).queue 1 (q 1) = x.queue 1 (q 1) ++ [f1]
      ∧ (t.on sd).queue 2 (q 2) = x.queue 2 (q 2) ++ [{ f 2 with cells := (x.setQueue 1 (q 1) (x.queue 1 (q 1) ++ [f1])).cellsFor (f 2) }]
      ∧ (t.on sd).net.redunSeq = (if x.redun = 0 then x.net.redunSeq else (x.net.redunSeq + 1) % 65536)
      ∧ (t.on sd).time = { x.time with pdelaySeq := (x.time.pdelaySeq + 1) % 65536 })

/-- Loss of the reference (R267, R275, R277). Without a Sync for LOSS intervals a locked side enters holdover. On the failure of its
reference clock the side runs on its ring oscillator, neither locked nor in holdover; with the reference back it shows REFCLK_OK. A rate
that has stood at its limit for 100,000 boundaries is an event of source 0x9E; that it is one again after as long a time is the model's
choice (log entry 114). -/
def Obligations.HoldoverAndReferenceClock : Prop :=
  (∀ (sd : Side) (s : State), let x := s.on sd
    x.managed = true → x.is NT_STAT.LOCKED = true → x.time.lastSync + max 1 (x.get NT_PTP.LOSS) * x.syncInterval ≤ (x.produced + 1) * 10000 →
    ∃ t, exec (.holdoverEntry sd) s = .next t
      ∧ Within (keysOn (0x1E :: eventPages)) (.time :: eventParts) sd s t
      ∧ (t.on sd).get NT_STAT.HOLDOVER = 1 ∧ (t.on sd).get NT_STAT.LOCKED = 0 ∧ (t.on sd).time = { x.time with slew := 0 }
      ∧ (t.on sd).get NT_RATE.RATE = x.get NT_RATE.RATE ∧ (t.on sd).is (evtBit 0x1E 1) = true)
  ∧ (∀ (sd : Side) (s : State), let x := s.on sd
    x.alive = true → x.time.onRing = false →
    ∃ t, exec (.refclkFail sd) s = .next t
      ∧ Within (keysOn (0x1E :: eventPages)) (.time :: eventParts) sd s t
      ∧ (t.on sd).get NT_STAT.REFCLK_OK = 0 ∧ (t.on sd).get NT_STAT.LOCKED = 0 ∧ (t.on sd).get NT_STAT.HOLDOVER = 0
      ∧ (t.on sd).time = { x.time with onRing := true })
  ∧ (∀ (sd : Side) (s : State), let x := s.on sd
    x.alive = true →
    ∃ t, exec (.refclkRestored sd) s = .next t
      ∧ Within (keysOf [NT_STAT.REFCLK_OK.key]) [.time, .lines] sd s t
      ∧ (t.on sd).get NT_STAT.REFCLK_OK = 1 ∧ (t.on sd).time = { x.time with onRing := false }
      ∧ (t.on sd).get NT_STAT.LOCKED = x.get NT_STAT.LOCKED)
  ∧ (∀ (sd : Side) (b : Nat) (s : State), let x := s.on sd
    x.alive = true → x.rate.natAbs = 17179869 → x.time.limitSince = some b → b + 100000 ≤ x.produced + 1 →
    x.get (FC_STOTAL.EVENTS.bank 0x9E) < 2 ^ 32 - 1 →
    ∃ t, exec (.rateLimitHeld sd) s = .next t
      ∧ Within (keysOn eventPages) (.time :: eventParts) sd s t
      ∧ (t.on sd).time = { x.time with limitSince := some (x.produced + 1) }
      ∧ (t.on sd).get (FC_STOTAL.EVENTS.bank 0x9E) = x.get (FC_STOTAL.EVENTS.bank 0x9E) + 1)

/-- The PPS pins, steps by the host and snapshots (R268, R272, R275, R276). An edge of PPS_IN is timestamped; in holdover with PPS_REF
its offset steers the rate. The lead's PPS_OUT rises in the beat in which the clock reaches its second, and falls after WIDTH ms. A
completed pair on NT_STEP moves the clock by its signed value; that one below 0 wraps the seconds is the model's choice (log entry 114).
NT_SNAP latches one tick's time and BEATNO. -/
def Obligations.PulsesStepsAndSnapshots : Prop :=
  (∀ (sd : Side) (off : Nat) (s : State), let z := (s.on sd).atOffset off
    (s.on sd).alive = true → z.is NT_CTRL.PPS_REF = false →
    ∃ t, exec (.ppsInEdge sd off) s = .next t
      ∧ Within (keysOf [0x1E00C, NT_PPS_IN.NS.key]) [.off, .lines] sd s t
      ∧ (t.on sd).get NT_PPS_IN.NS = z.netNow % 1000000000 ∧ (t.on sd).is (evtBit 0x1E 4) = true ∧ (t.on sd).off = z.off)
  ∧ (∀ (sd : Side) (off : Nat) (s : State), let z := (s.on sd).atOffset off
    let ns := z.netNow % 1000000000
    let d : Int := if ns ≤ 500000000 then (ns : Int) else (ns : Int) - 1000000000
    let next := z.rate - z.rateFor d / 2 ^ z.get NT_SERVO.KP - z.rateFor (z.time.sumOffset + d) / 2 ^ z.get NT_SERVO.KI
    (s.on sd).managed = true → z.is NT_CTRL.PPS_REF = true → z.is NT_STAT.HOLDOVER = true → z.is NT_CTRL.SERVO_EN = true →
    d.natAbs ≤ 100000 → d.natAbs ≤ max 100 (z.get NT_SERVO.STEP_TH) →
    ∃ t, exec (.ppsInEdge sd off) s = .next t
      ∧ Within (keysOn [0x1E]) [.off, .time, .lines] sd s t
      ∧ (t.on sd).get NT_RATE.RATE = unsignedOf (clampInt (-rateLimit) rateLimit next) 32
      ∧ (t.on sd).time.lockCount = z.time.lockCount ∧ (t.on sd).get NT_STAT.HOLDOVER = 1)
  ∧ (∀ (sd : Side) (s : State), let x := s.on sd
    let d := ((clampInt (-500000) 500000 (signed (x.get NT_PPS.OFFSET) 20) - (x.clockNs : Int)) % (1000000000 : Int)).toNat
    x.alive = true → x.is NT_CTRL.PPS_OUT_EN = true → x.leads = true → d < x.beatLength →
    x.time.crossed.all (fun (p : Nat × Nat) => !(Nat.blt p.1 (x.clockNs + d) && Nat.ble (x.clockNs + d) p.2)) = true →
    ∃ t, exec (.ppsOutEdge sd) s = .next t
      ∧ Within (keysOf []) [.off, .time, .lines] sd s t
      ∧ (t.on sd).time = { x.time with ppsLevel := true, ppsAt := x.produced * 10000 + max x.off (min d 9999) })
  ∧ (∀ (sd : Side) (s : State), let x := s.on sd
    let due := x.time.ppsAt + clampNat 1 500 (x.get NT_PPS.WIDTH) * 1000000
    x.alive = true → x.time.ppsLevel = true → due < (x.produced + 1) * 10000 →
    ∃ t, exec (.ppsOutEnd sd) s = .next t
      ∧ Within (keysOf []) [.off, .time, .lines] sd s t
      ∧ (t.on sd).time = { x.time with ppsLevel := false })
  ∧ (∀ (sd : Side) (m : Master) (v : Word) (s : State), let x := s.on sd
    x.holds m 0x1E070 v = true → x.get NT_CNT.STEPS < 65535 →
    ∃ t, exec (.clockStep sd m (.complement (~~~v))) s = .next t
      ∧ Within (keysOn (0x1E :: eventPages)) (.pairs :: .time :: .net :: eventParts) sd s t
      ∧ (t.on sd).clockNs = (((x.clockNs : Int) + signed v.toNat 32) % (2 ^ 48 * 1000000000 : Int)).toNat
      ∧ (t.on sd).time.stepOpen = true ∧ (t.on sd).get NT_STAT.LOCKED = 0 ∧ (t.on sd).get NT_CNT.STEPS = x.get NT_CNT.STEPS + 1)
  ∧ (∀ (sd : Side) (m : Master) (v : Word) (s : State), let x := s.on sd
    x.takes m 0x1E048 = true → v.toNat % 2 = 1 →
    ∃ t, exec (.timeSnapshot sd m v) s = .next t
      ∧ Within (keysOf (accessKeys ++ [0x1E04C, 0x1E050, 0x1E054, 0x1E058, 0x1E05C])) [.perf, .lines] sd s t
      ∧ (t.on sd).get NT_RD_SEC_LO.SEC = x.tickTime / 2 ^ 32 / 1000000000 % 2 ^ 32
      ∧ (t.on sd).get NT_RD_SEC_HI.SEC = x.tickTime / 2 ^ 32 / 1000000000 / 2 ^ 32 % 2 ^ 16
      ∧ (t.on sd).get NT_RD_SEC_HI.FRAC = x.tickTime / 2 ^ 16 % 2 ^ 16
      ∧ (t.on sd).get NT_RD_NS.NS = x.tickTime / 2 ^ 32 % 1000000000
      ∧ (t.on sd).get NT_BEAT_LO.BEATNO = x.beatNo % 2 ^ 32 ∧ (t.on sd).get NT_BEAT_HI.BEATNO = x.beatNo / 2 ^ 32 % 2 ^ 32)

/-- Cue frames (R36, R251, R281, R285, R286, R294). A frame that P0 has passed on is taken: on the lead with the network enabled, a
whole frame that passes the frame stage waits for its check stage, with its reception instant and check beat; a frame that fails is
shown in CQ_SAFE_STAT and waits nowhere; with the network disabled frames have no effect. A frame that P0 has not passed on has none. The mailbox takes a payload from memory, or is answered HOST on a side that does not lead. An
assembly whose 100 µs have passed is abandoned with its fragments. -/
def Obligations.CueFramesWaitForTheirCheck : Prop :=
  (∀ (sd : Side) (off port vid src i c : Nat) (f : Nat × (List Byte × Nat)) (cue : Cue) (p : List Byte) (s : State),
    let z := (s.on sd).atOffset off
    let w := { z with net := { z.net with cueInbox := z.net.cueInbox.eraseIdx i } }
    z.alive = true → z.cueOffered src p = some i → z.net.cueInbox[i]? = some f → z.leads = true → z.is SC_CUE_CTRL.NET_EN = true →
    (w.frameStage true p).toOption = some (cue, c) → z.pipe.assemblies.all (fun a => a.head.connId != cue.connId) = true →
    cue.fragTotal = 1 → z.fault.injection = none → z.fault.upsets = [] →
    ∃ t, exec (.cueFrame sd off port vid src p) s = .next t
      ∧ Within (keysOf []) [.pipe, .net, .off, .lines] sd s t
      ∧ (t.on sd).net = w.net
      ∧ (t.on sd).pipe = { (s.on sd).pipe with
          waiting := (s.on sd).pipe.waiting ++ [⟨cue, .network src vid, c, f.2.2, w.checkBeatAt f.2.2, false, false⟩] })
  ∧ (∀ (sd : Side) (off port vid src i : Nat) (p : List Byte) (s : State), let z := (s.on sd).atOffset off
    z.alive = true → z.cueOffered src p = some i → z.leads = true → z.is SC_CUE_CTRL.NET_EN = true → z.formatOk p = false →
    z.fault.upsets = [] →
    ∃ t, exec (.cueFrame sd off port vid src p) s = .next t
      ∧ Within (keysOn (0x0A :: eventPages)) (.net :: .off :: eventParts) sd s t
      ∧ (t.on sd).net = { z.net with cueInbox := z.net.cueInbox.eraseIdx i }
      ∧ (t.on sd).get CQ_SAFE_STAT.DETAIL = 0x01 ∧ (t.on sd).get CQ_SAFE_STAT.CONN = 0x3F ∧ (t.on sd).get CQ_SAFE_STAT.FRAME = 1
      ∧ (t.on sd).is (evtBit 0x0A 0) = true)
  ∧ (∀ (sd : Side) (off port vid src i : Nat) (p : List Byte) (s : State), let x := s.on sd
    x.alive = true → x.cueOffered src p = some i → x.is SC_CUE_CTRL.NET_EN = false →
    ∃ t, exec (.cueFrame sd off port vid src p) s = .next t
      ∧ Within (keysOf []) [.net, .off, .lines] sd s t
      ∧ (t.on sd).net = { x.net with cueInbox := x.net.cueInbox.eraseIdx i })
  ∧ (∀ (sd : Side) (off port vid src : Nat) (p : List Byte) (s : State),
    (s.on sd).cueOffered src p = none →
    ∃ t, exec (.cueFrame sd off port vid src p) s = .next t ∧ Within (keysOf []) [.off, .lines] sd s t)
  ∧ (∀ (sd : Side) (i : Nat) (a : Assembly) (s : State), let x := s.on sd
    x.alive = true → x.pipe.assemblies[i]? = some a → a.openedAt + 100000 ≤ x.tick → x.get CQ_DISC_CNT2.FRAG < 255 →
    ∃ t, exec (.fragmentTimeout sd i) s = .next t
      ∧ Within (keysOn (0x0A :: eventPages)) (.pipe :: eventParts) sd s t
      ∧ (t.on sd).pipe = { x.pipe with assemblies := x.pipe.assemblies.filter (fun b => b.head.connId != a.head.connId) }
      ∧ (t.on sd).get CQ_SAFE_STAT.DETAIL = 0x06 ∧ (t.on sd).get CQ_DISC_CNT2.FRAG = x.get CQ_DISC_CNT2.FRAG + 1)
  ∧ (∀ (sd : Side) (m : Master) (off c : Nat) (v : Word) (cue : Cue) (s : State), let y := ((s.on sd).atOffset off).transfer m
    let w := y.set CQ_MBX_STAT.RESULT 1
    let p := y.rdBytes (y.get CQ_MBX_ADDR.ADDR / 4 * 4) (y.get CQ_MBX_LEN.LEN)
    (s.on sd).takes m 0x0A0B8 = true → v.toNat % 2 = 1 → y.get CQ_MBX_STAT.RESULT ≠ 1 → y.leads = true → y.is SC_CUE_CTRL.MBX_EN = true →
    (w.frameStage false p).toOption = some (cue, c) → w.pipe.assemblies.all (fun a => a.head.connId != cue.connId) = true →
    cue.fragTotal = 1 → w.fault.injection = none → w.fault.upsets = [] →
    ∃ t, exec (.mailboxCue sd m off v) s = .next t
      ∧ Within (keysOf (accessKeys ++ [CQ_MBX_STAT.RESULT.key])) [.pipe, .off, .perf, .lines] sd s t
      ∧ (t.on sd).get CQ_MBX_STAT.RESULT = 1
      ∧ (t.on sd).pipe = { (s.on sd).pipe with
          waiting := (s.on sd).pipe.waiting ++ [⟨cue, .mailbox, c, w.netNow, w.checkBeatAt w.netNow, false, true⟩] })
  ∧ (∀ (sd : Side) (m : Master) (off : Nat) (v : Word) (s : State), let x := s.on sd
    x.takes m 0x0A0B8 = true → v.toNat % 2 = 1 → x.get CQ_MBX_STAT.RESULT ≠ 1 → x.leads = false →
    ∃ t, exec (.mailboxCue sd m off v) s = .next t
      ∧ Within (keysOf (accessKeys ++ [0x0A00C, CQ_MBX_STAT.RESULT.key])) [.off, .perf, .lines] sd s t
      ∧ (t.on sd).get CQ_MBX_STAT.RESULT = 3 ∧ (t.on sd).get CQ_MBX_STAT.DETAIL = 0x16 ∧ (t.on sd).is (evtBit 0x0A 4) = true)

/-- The check of a cue (R26, R28, R203, R204, R215, R286, R288, R293, R344). The lead's next waiting cue takes its tracking entry. A keep-alive cue that
passes its checks ends KEPT; a change or recall cue that passes them goes on to SOLVING in a free working slot with its admission
record, a recalled scene with its CELLS; one that fails SEQ or AGE ends REJECTED with REASON 1 and the
failing detail. While the rig map's voted registers are lost a cue ends REJECTED with REASON 2; its SEQ is taken where it passes SEQ and
AGE. An abort cue takes no entry: it ends the one it names before its cutoff ABORTED, with RESULT 1, or finds none, RESULT 0; one that
fails is shown with ENTRY 0x1F. A curtain cue waits READY for the beat after the next, with the curtain requested and the cues in flight
cancelled with REASON 2, other curtain cues excepted (log entry 52, the model's choice). Without a free entry a cue takes none. With REPLY the lead sends the
rejected cue's status frame from P0 to the cue's source: its bytes are those of R293, on the port that the address table gives, in the
model's lowest free cells (log entry 113). -/
def Obligations.CueChecksAdmitOrReject : Prop :=
  (∀ (sd : Side) (w : WaitingCue) (e : Nat) (s : State), let x := s.on sd
    let z := { x with pipe := { x.pipe with waiting := x.pipe.waiting.erase w } }.count 64 1
    let t0 := z.entryOfCue w
    let y := z.setTrk e t0
    let a := y.acceptSeq w
    let pred := y.predictedConns t0.order
    x.alive = true → x.leads = true → x.stopped = false → x.pipe.rigLost = false → x.beforeCutoff = true → x.nextCheck = some w → z.openEntry = some e →
    x.pipe.solving ≠ some (.entry e) → x.scene.staged.all (fun g => g.entry != some e) = true →
    w.cue.kind = .keepAlive → w.cue.reply = false → y.sequenceFailure w = 0 → a.contentFailure w pred = 0 →
    a.policyFailure w t0.order pred (a.target w.cue pred) = 0 →
    a.orderFailure w t0.rehearse (a.freeSlot.isSome || a.oldestRehearsed.isSome) t0.eff = 0 → x.get CQ_CNT.ADMIT < 65535 →
    ∃ t, exec (.cueCheck sd) s = .next t
      ∧ Within (keysOn [0x06, 0x0A, 0x0B]) [.scene, .pipe, .twin, .perf, .lines] sd s t
      ∧ ((t.on sd).trk e).state = .kept ∧ ((t.on sd).trk e).reason = 0 ∧ ((t.on sd).trk e).connId = w.cue.connId
      ∧ (t.on sd).pipe.waiting = x.pipe.waiting.erase w ∧ (t.on sd).get CQ_CNT.ADMIT = x.get CQ_CNT.ADMIT + 1
      ∧ (t.on sd).get (CQ_CONN_SEQ.SEQ.bank w.conn) = w.cue.seq % 2 ^ 32 ∧ (t.on sd).is (evtBit 0x0B 0) = true)
  ∧ (∀ (sd : Side) (w : WaitingCue) (e n : Nat) (s : State), let x := s.on sd
    let z := { x with pipe := { x.pipe with waiting := x.pipe.waiting.erase w } }.count 64 1
    let t0 := z.entryOfCue w
    let y := z.setTrk e t0
    let a := y.acceptSeq w
    let pred := y.predictedConns t0.order
    let target := a.target w.cue pred
    x.alive = true → x.leads = true → x.stopped = false → x.pipe.rigLost = false → x.beforeCutoff = true → x.nextCheck = some w → z.openEntry = some e →
    w.cue.kind = .change ∨ w.cue.kind = .recall → w.cue.reply = false → y.sequenceFailure w = 0 → a.contentFailure w pred = 0 →
    a.policyFailure w t0.order pred target = 0 → a.freeSlot = some n → a.orderFailure w t0.rehearse true t0.eff = 0 → x.get CQ_CNT.ADMIT < 65535 →
    ∃ t, exec (.cueCheck sd) s = .next t
      ∧ Within (keysOn [0x06, 0x0A, 0x0B]) [.mem, .ecc, .pipe, .watch, .twin, .perf, .lines] sd s t
      ∧ ((t.on sd).trk e).state = .solving ∧ ((t.on sd).trk e).slot = some n ∧ ((t.on sd).trk e).eff = t0.eff
      ∧ ((t.on sd).trk e).nextBeat = x.beatNo + 1 ∧ ((t.on sd).trk e).admission.isSome = true
      ∧ (t.on sd).pipe.waiting = x.pipe.waiting.erase w ∧ (t.on sd).get CQ_CNT.ADMIT = x.get CQ_CNT.ADMIT + 1
      ∧ (t.on sd).hasFlag n flagVALID = true
      ∧ (∀ a, a < slotBase n ∨ slotBase n + 0x10 + 8 * target.length ≤ a →
          w.cue.kind = .recall → a < slotBase n + 0x1010 ∨ slotBase n + 0x1510 ≤ a → (t.on sd).rd8 a = x.rd8 a)
      ∧ (w.cue.kind = .change → ∀ a, a < slotBase n ∨ slotBase n + 0x10 + 8 * target.length ≤ a → (t.on sd).rd8 a = x.rd8 a)
      ∧ (w.cue.kind = .recall → target.length ≤ 512 →
          (t.on sd).rdBytes (slotBase n + 0x1010) 1280 = x.rdBytes (slotBase w.cue.slot + 0x1010) 1280))
  ∧ (∀ (sd : Side) (w : WaitingCue) (e d : Nat) (s : State), let x := s.on sd
    let z := { x with pipe := { x.pipe with waiting := x.pipe.waiting.erase w } }.count 64 1
    let y := z.setTrk e (z.entryOfCue w)
    x.alive = true → x.leads = true → x.stopped = false → x.pipe.rigLost = false → x.beforeCutoff = true → x.nextCheck = some w → z.openEntry = some e → w.cue.kind ≠ .abort →
    x.pipe.solving ≠ some (.entry e) → x.scene.staged.all (fun g => g.entry != some e) = true → w.origin ≠ .mailbox → w.cue.reply = false → y.sequenceFailure w = d → d ≠ 0 →
    ∃ t, exec (.cueCheck sd) s = .next t
      ∧ Within (keysOn (0x0A :: 0x0B :: eventPages)) (.scene :: .pipe :: eventParts) sd s t
      ∧ ((t.on sd).trk e).state = .rejected ∧ ((t.on sd).trk e).reason = 1 ∧ ((t.on sd).trk e).detail = d
      ∧ (t.on sd).get CQ_SAFE_STAT.DETAIL = d ∧ (t.on sd).pipe.waiting = x.pipe.waiting.erase w)
  ∧ (∀ (sd : Side) (w : WaitingCue) (e : Nat) (s : State), let x := s.on sd
    let z := { x with pipe := { x.pipe with waiting := x.pipe.waiting.erase w } }.count 64 1
    let y := z.setTrk e (z.entryOfCue w)
    x.alive = true → x.leads = true → x.stopped = false → x.pipe.rigLost = true → x.beforeCutoff = true → x.nextCheck = some w →
    z.openEntry = some e → w.cue.kind ≠ .abort → x.pipe.solving ≠ some (.entry e) →
    x.scene.staged.all (fun g => g.entry != some e) = true → w.origin ≠ .mailbox → w.cue.reply = false →
    x.get CQ_CNT.POLICY < 65535 →
    ∃ t, exec (.cueCheck sd) s = .next t
      ∧ Within (keysOn [0x06, 0x0A, 0x0B]) [.scene, .pipe, .twin, .perf, .lines] sd s t
      ∧ ((t.on sd).trk e).state = .rejected ∧ ((t.on sd).trk e).reason = 2 ∧ ((t.on sd).trk e).detail = 0
      ∧ (t.on sd).pipe.waiting = x.pipe.waiting.erase w ∧ (t.on sd).get CQ_CNT.POLICY = x.get CQ_CNT.POLICY + 1
      ∧ (y.sequenceFailure w = 0 → (t.on sd).get (CQ_CONN_SEQ.SEQ.bank w.conn) = w.cue.seq % 2 ^ 32))
  ∧ (∀ (sd : Side) (w : WaitingCue) (f : Nat) (s : State), let x := s.on sd
    let z := { x with pipe := { x.pipe with waiting := x.pipe.waiting.erase w } }.count 64 1
    let a := z.acceptSeq w
    let b := (a.bump CQ_CNT.ADMIT 1).count 65 1
    x.alive = true → x.leads = true → x.stopped = false → x.pipe.rigLost = false → x.beforeCutoff = true → x.nextCheck = some w →
    w.cue.kind = .abort → w.origin ≠ .mailbox → w.cue.reply = false → z.sequenceFailure w = 0 → a.contentFailure w [] = 0 → a.policyFailure w 0 [] [] = 0 →
    b.abortTarget w.cue = some f → b.beforeItsCutoff (b.trk f) = true → x.get CQ_CNT.ADMIT < 65535 →
    ∃ t, exec (.cueCheck sd) s = .next t
      ∧ Within (keysOn ([0x06, 0x0A, 0x0B, 0x0C, 0x18, 0x19, 0x1A, 0x1B, 0x1C] ++ eventPages)) (.mem :: .ecc :: .scene :: .pipe :: .watch :: .net :: eventParts) sd s t
      ∧ ((t.on sd).trk f).state = .aborted ∧ (t.on sd).get SC_ABORT_STAT.RESULT = 1 ∧ (t.on sd).get SC_ABORT_STAT.ENTRY = f
      ∧ (t.on sd).pipe.waiting = x.pipe.waiting.erase w ∧ (t.on sd).get CQ_CNT.ADMIT = x.get CQ_CNT.ADMIT + 1
      ∧ (t.on sd).get (CQ_CONN_SEQ.SEQ.bank w.conn) = w.cue.seq % 2 ^ 32)
  ∧ (∀ (sd : Side) (w : WaitingCue) (s : State), let x := s.on sd
    let z := { x with pipe := { x.pipe with waiting := x.pipe.waiting.erase w } }.count 64 1
    let a := z.acceptSeq w
    x.alive = true → x.leads = true → x.stopped = false → x.pipe.rigLost = false → x.beforeCutoff = true → x.nextCheck = some w →
    w.cue.kind = .abort → w.origin ≠ .mailbox → w.cue.reply = false → z.sequenceFailure w = 0 → a.contentFailure w [] = 0 → a.policyFailure w 0 [] [] = 0 →
    x.abortTarget w.cue = none → x.get CQ_CNT.ADMIT < 65535 →
    ∃ t, exec (.cueCheck sd) s = .next t
      ∧ Within (keysOn [0x06, 0x0A, 0x0B]) [.pipe, .twin, .perf, .lines] sd s t
      ∧ (t.on sd).get SC_ABORT_STAT.RESULT = 0 ∧ (t.on sd).pipe.trk = x.pipe.trk
      ∧ (t.on sd).pipe.waiting = x.pipe.waiting.erase w ∧ (t.on sd).get CQ_CNT.ADMIT = x.get CQ_CNT.ADMIT + 1
      ∧ (t.on sd).get (CQ_CONN_SEQ.SEQ.bank w.conn) = w.cue.seq % 2 ^ 32)
  ∧ (∀ (sd : Side) (w : WaitingCue) (d : Nat) (s : State), let x := s.on sd
    let z := { x with pipe := { x.pipe with waiting := x.pipe.waiting.erase w } }.count 64 1
    x.alive = true → x.leads = true → x.stopped = false → x.pipe.rigLost = false → x.beforeCutoff = true → x.nextCheck = some w →
    w.cue.kind = .abort → w.origin ≠ .mailbox → z.sequenceFailure w = d → d ≠ 0 →
    ∃ t, exec (.cueCheck sd) s = .next t
      ∧ Within (keysOn (0x0A :: eventPages)) (.pipe :: eventParts) sd s t
      ∧ (t.on sd).get CQ_SAFE_STAT.DETAIL = d ∧ (t.on sd).get CQ_SAFE_STAT.ENTRY = 0x1F ∧ (t.on sd).pipe.trk = x.pipe.trk
      ∧ (t.on sd).pipe.waiting = x.pipe.waiting.erase w ∧ x.raised (t.on sd) 0x67 = true)
  ∧ (∀ (sd : Side) (w : WaitingCue) (e : Nat) (s : State), let x := s.on sd
    let z := { x with pipe := { x.pipe with waiting := x.pipe.waiting.erase w } }.count 64 1
    let t0 := z.entryOfCue w
    let y := z.setTrk e t0
    let a := y.acceptSeq w
    let b := (a.bump CQ_CNT.ADMIT 1).count 65 1
    let pred := y.predictedConns t0.order
    x.alive = true → x.leads = true → x.stopped = false → x.pipe.rigLost = false → x.beforeCutoff = true → x.nextCheck = some w →
    z.openEntry = some e → w.cue.kind = .curtain → w.origin ≠ .mailbox → y.sequenceFailure w = 0 → a.contentFailure w pred = 0 →
    a.policyFailure w t0.order pred (a.target w.cue pred) = 0 →
    a.orderFailure w t0.rehearse (a.freeSlot.isSome || a.oldestRehearsed.isSome) t0.eff = 0 →
    x.watch.curtainAt.all (fun c => Nat.ble c x.beatNo) = true → x.get CQ_CNT.ADMIT < 65535 →
    ∃ t, exec (.cueCheck sd) s = .next t
      ∧ Within (keysOn ([0x06, 0x09, 0x0A, 0x0B, 0x0C, 0x18, 0x19, 0x1A, 0x1B, 0x1C] ++ eventPages)) (.mem :: .ecc :: .scene :: .pipe :: .watch :: .net :: eventParts) sd s t
      ∧ ((t.on sd).trk e).state = .ready ∧ ((t.on sd).trk e).kind = .curtain ∧ ((t.on sd).trk e).eff = x.beatNo + 2
      ∧ (t.on sd).watch.curtainAt = some (x.beatNo + 2) ∧ (t.on sd).get SW_STAT.CURTAIN_PEND = 1
      ∧ (t.on sd).get SW_STAT.CURTAIN_LATCH = x.get SW_STAT.CURTAIN_LATCH
      ∧ (t.on sd).pipe.waiting = x.pipe.waiting.erase w ∧ (t.on sd).get CQ_CNT.ADMIT = x.get CQ_CNT.ADMIT + 1
      ∧ (x.tracks.all (fun p => p.1 == e || p.2.kind == .curtain || !x.beforeItsCutoff p.2
          || (((t.on sd).trk p.1).state == .cancelled && ((t.on sd).trk p.1).reason == 2)) = true))
  ∧ (∀ (sd : Side) (w : WaitingCue) (s : State), let x := s.on sd
    let z := { x with pipe := { x.pipe with waiting := x.pipe.waiting.erase w } }
    x.alive = true → x.leads = true → x.stopped = false → x.pipe.rigLost = false → x.beforeCutoff = true → x.nextCheck = some w →
    z.openEntry = none → w.cue.kind ≠ .abort → w.cue.reply = false → w.boxed = false →
    ∃ t, exec (.cueCheck sd) s = .next t
      ∧ Within (keysOn [0x06]) [.pipe, .perf, .lines] sd s t
      ∧ (t.on sd).pipe = z.pipe)
  ∧ (∀ (sd : Side) (w : WaitingCue) (e d src vid n pcp k : Nat) (s : State), let x := s.on sd
    let z := { x with pipe := { x.pipe with waiting := x.pipe.waiting.erase w } }.count 64 1
    let y := z.setTrk e (z.entryOfCue w)
    let frame := beBytes 6 src ++ beBytes 6 x.ownMac ++ beBytes 2 0x8100 ++ beBytes 2 (6 * 8192 + vid) ++ beBytes 2 (x.get QS_CUE.ETYPE)
      ++ x.statusPayload ⟨w.conn, w.cue.connId, w.cue.srcNode, w.cue.seq, effectiveOf w, w.cue.sceneId, e, src, vid,
          8 * 2 ^ 28 + 1 * 2 ^ 24 + d * 2 ^ 16⟩
    let p := Packet.parse 0 0 frame
    let q := x.queueOf n pcp p
    let f : Frame :=
      { bytes := x.build 0 n pcp vid (bitAt (x.get (QS_VLAN.UNTAG.bank k)) n) x.net.redunSeq p, port := 0
        stamp := x.ingressStamp 0 (lengthOf frame), held := false, arrived := ((x.netNow : Int) + x.rxCorrection 0).toNat }
    x.alive = true → x.leads = true → x.stopped = false → x.pipe.rigLost = false → x.beforeCutoff = true → x.nextCheck = some w →
    z.openEntry = some e → w.cue.kind ≠ .abort → x.pipe.solving ≠ some (.entry e) →
    x.scene.staged.all (fun g => g.entry != some e) = true → w.origin = .network src vid → w.cue.reply = true →
    y.sequenceFailure w = d → d ≠ 0 → x.mild = true →
    x.redun = 0 → lengthOf frame ≤ 2000 → isGroup src = false → src ≠ x.ownMac →
    x.get QS_CUE.ETYPE ≠ 0x88F7 → x.get QS_CUE.ETYPE ≠ 0x8808 → x.get QS_CUE.ETYPE ≠ 0x8100 →
    (x.net.addresses.find? (fun (a : AddrEntry) => a.mac == src && a.vid == vid)).map (fun (a : AddrEntry) => a.port) = some n →
    1 ≤ n → n ≤ 3 → x.classify 0 p.tag = some (pcp, vid) → x.vlanEntry vid = some k →
    bitAt (x.get (QS_VLAN.MEMBER.bank k)) 0 = true → bitAt (x.get (QS_VLAN.MEMBER.bank k)) n = true →
    (List.range 64).all (fun i => !x.is (PL_MATCH.EN.bank i)) = true → x.gatesOn n = false →
    x.queueLevel n q < min 4096 (x.get (QS_QLIM.LIMIT.bank (queueKey n q))) → x.cellsInUse + frameCells f ≤ 4096 →
    ∃ t, exec (.cueCheck sd) s = .next t
      ∧ Within (keysOn (0x0A :: 0x0B :: eventPages)) (.scene :: .pipe :: .net :: eventParts) sd s t
      ∧ ((t.on sd).trk e).state = .rejected ∧ ((t.on sd).trk e).reason = 1
      ∧ (t.on sd).queue n q = x.queue n q ++ [{ f with cells := x.cellsFor f }]
      ∧ (∀ j, j ≠ queueKey n q → Tab.get? (t.on sd).net.queues j = Tab.get? x.net.queues j))

/-- Aborts and a rehearsal's wait (R31, R32, R39). SC_ABORT ends an entry before its cutoff ABORTED, RESULT 1; of an armed or settling
entry past it the abort comes too late, RESULT 2; of any other there is nothing to abort, RESULT 0. -/
def Obligations.AbortsEndEntries : Prop :=
  (∀ (sd : Side) (m : Master) (v : Word) (s : State), let y := (s.on sd).transfer m; let e := v.toNat % 32
    (s.on sd).takes m 0x0B060 = true → y.beforeItsCutoff (y.trk e) = true →
    ∃ t, exec (.scAbort sd m v) s = .next t
      ∧ Within (keysOn ([0x0B, 0x0C, 0x18, 0x19, 0x1A, 0x1B, 0x1C] ++ eventPages)) (.mem :: .ecc :: .scene :: .pipe :: .watch :: .net :: eventParts) sd s t
      ∧ ((t.on sd).trk e).state = .aborted ∧ (t.on sd).get SC_ABORT_STAT.RESULT = 1 ∧ (t.on sd).get SC_ABORT_STAT.ENTRY = e
      ∧ (∀ a, y.endByte a = false → (t.on sd).rd8 a = y.rd8 a))
  ∧ (∀ (sd : Side) (m : Master) (v : Word) (s : State), let y := (s.on sd).transfer m; let e := v.toNat % 32
    (s.on sd).takes m 0x0B060 = true → y.beforeItsCutoff (y.trk e) = false → (y.trk e).state = .armed ∨ (y.trk e).state = .settling →
    ∃ t, exec (.scAbort sd m v) s = .next t
      ∧ Within (keysOf (accessKeys ++ [0x0B00C, SC_ABORT_STAT.RESULT.key])) [.perf, .lines] sd s t
      ∧ (t.on sd).get SC_ABORT_STAT.RESULT = 2 ∧ (t.on sd).is (evtBit 0x0B 2) = true)
  ∧ (∀ (sd : Side) (m : Master) (v : Word) (s : State), let y := (s.on sd).transfer m; let e := v.toNat % 32
    (s.on sd).takes m 0x0B060 = true → (y.trk e).state.inFlight = false → (y.trk e).state ≠ .armed → (y.trk e).state ≠ .settling →
    ∃ t, exec (.scAbort sd m v) s = .next t
      ∧ Within (keysOf (accessKeys ++ [SC_ABORT_STAT.RESULT.key])) [.perf, .lines] sd s t
      ∧ (t.on sd).get SC_ABORT_STAT.RESULT = 0)

/-- Connections and their expectations (R279, R291). CQ_CONN_ID of a disabled entry takes what is written; an entry is enabled without
a last SEQ and without a deadline, unless its CONN_ID is in use, which leaves it disabled with an event. An expectation that has
passed marks its connection EXPIRED on the side that holds it and is over. -/
def Obligations.ConnectionsAndExpectations : Prop :=
  (∀ (sd : Side) (m : Master) (v : Word) (s : State), let y := (s.on sd).transfer m; let i := y.get CQ_CONN_SEL.CONN
    (s.on sd).takes m 0x0A088 = true → y.is (CQ_CONN_CFG.EN.bank i) = false →
    ∃ t, exec (.connConfig sd m true v) s = .next t
      ∧ Within (keysOf (accessKeys ++ [(CQ_CONN_ID.ID.bank i).key])) [.twin, .fault, .perf, .lines] sd s t
      ∧ (t.on sd).fault.core = (y.agree (CQ_CONN_ID.ID.bank i).key).fault.core
      ∧ (t.on sd).get (CQ_CONN_ID.ID.bank i) = v.toNat)
  ∧ (∀ (sd : Side) (m : Master) (v : Word) (s : State), let y := (s.on sd).transfer m; let i := y.get CQ_CONN_SEL.CONN
    (s.on sd).takes m 0x0A08C = true → y.is (CQ_CONN_CFG.EN.bank i) = false → bitAt v.toNat 12 = true → bitAt v.toNat 13 = false →
    y.connOf (y.get (CQ_CONN_ID.ID.bank i)) = none →
    ∃ t, exec (.connConfig sd m false v) s = .next t
      ∧ Within (keysOf (accessKeys ++ [(CQ_CONN_CFG.EN.bank i).key, (CQ_CONN_STAT.HAS_SEQ.bank i).key, (CQ_CONN_SEQ.SEQ.bank i).key]))
          [.pipe, .twin, .fault, .perf, .lines] sd s t
      ∧ (t.on sd).fault.core = (y.agree (CQ_CONN_CFG.EN.bank i).key).fault.core ∧ (t.on sd).get (CQ_CONN_SEQ.SEQ.bank i) = 0
      ∧ (t.on sd).is (CQ_CONN_CFG.EN.bank i) = true ∧ (t.on sd).get (CQ_CONN_CFG.SRC_NODE.bank i) = bits v.toNat 0 12
      ∧ (t.on sd).get (CQ_CONN_STAT.HAS_SEQ.bank i) = 0 ∧ Tab.get? (t.on sd).pipe.deadlines i = none)
  ∧ (∀ (sd : Side) (m : Master) (v : Word) (s : State), let y := (s.on sd).transfer m; let i := y.get CQ_CONN_SEL.CONN
    (s.on sd).takes m 0x0A08C = true → y.is (CQ_CONN_CFG.EN.bank i) = false → bitAt v.toNat 12 = true →
    (y.connOf (y.get (CQ_CONN_ID.ID.bank i))).isSome = true →
    ∃ t, exec (.connConfig sd m false v) s = .next t
      ∧ Within (keysOf (accessKeys ++ [0x0A00C, (CQ_CONN_CFG.EN.bank i).key])) [.twin, .fault, .perf, .lines] sd s t
      ∧ (t.on sd).fault.core = (y.agree (CQ_CONN_CFG.EN.bank i).key).fault.core
      ∧ (t.on sd).is (CQ_CONN_CFG.EN.bank i) = false ∧ (t.on sd).is (evtBit 0x0A 3) = true)
  ∧ (∀ (sd : Side) (i d : Nat) (s : State), let x := s.on sd
    x.alive = true → Tab.get? x.pipe.deadlines i = some d → x.win = .edge → x.is (CQ_CONN_CFG.EN.bank i) = true →
    d < x.netNow →
    ∃ t, exec (.expectationExpiry sd i) s = .next t
      ∧ Within (keysOn (0x0A :: eventPages)) (.pipe :: eventParts) sd s t
      ∧ (t.on sd).get (CQ_CONN_STAT.EXPIRED.bank i) = 1 ∧ Tab.get? (t.on sd).pipe.deadlines i = none
      ∧ (t.on sd).is (evtBit 0x0A 2) = true)

/-- Keys (R292). A completed pair on KY_KLOAD of the lead with GO clears KY_KDATA and starts the write of the key slot, with the data
or erased; refused, it clears KY_KDATA, answers RESULT 3 with the reason and writes nothing. Data that no pair has followed within 16
beats is cleared. -/
def Obligations.KeysAreLoadedAndErased : Prop :=
  (∀ (sd : Side) (m : Master) (v : Word) (s : State), let y := (s.on sd).paired m 0x1F060 v
    (s.on sd).holds m 0x1F060 v = true → bitAt v.toNat 31 = true → bitAt v.toNat 4 = false → y.leads = true →
    y.clearKeyData.keyRefusal (v.toNat % 16) (s.bothNvmOpen sd) = 0 →
    ∃ t, exec (.keyLoad sd m (.complement (~~~v))) s = .next t
      ∧ Within (keysOn [0x06, 0x1F]) [.pairs, .nvm, .perf, .lines] sd s t
      ∧ (t.on sd).nvm.writes = (s.on sd).nvm.writes ++ [⟨.keys, y.keyData, v.toNat % 16, false, false⟩]
      ∧ (t.on sd).keyData = List.replicate 32 0 ∧ (t.on sd).nvm.keyDataAt = none
      ∧ (t.on sd).get KY_KSTAT.RESULT = 1 ∧ (t.on sd).get KY_KSTAT.REASON = 0)
  ∧ (∀ (sd : Side) (m : Master) (v : Word) (s : State), let y := (s.on sd).paired m 0x1F060 v
    (s.on sd).holds m 0x1F060 v = true → bitAt v.toNat 31 = true → bitAt v.toNat 4 = true → y.leads = true →
    y.clearKeyData.keyRefusal (v.toNat % 16) (s.bothNvmOpen sd) = 0 →
    ∃ t, exec (.keyErase sd m (.complement (~~~v))) s = .next t
      ∧ Within (keysOn [0x06, 0x1F]) [.pairs, .nvm, .perf, .lines] sd s t
      ∧ (t.on sd).nvm.writes = (s.on sd).nvm.writes ++ [⟨.keys, [], v.toNat % 16, true, false⟩]
      ∧ (t.on sd).keyData = List.replicate 32 0 ∧ (t.on sd).get KY_KSTAT.RESULT = 1)
  ∧ (∀ (sd : Side) (m : Master) (v : Word) (r : Nat) (s : State), let y := (s.on sd).paired m 0x1F060 v
    (s.on sd).holds m 0x1F060 v = true → bitAt v.toNat 31 = true → y.leads = true →
    y.clearKeyData.keyRefusal (v.toNat % 16) (s.bothNvmOpen sd) = r → r ≠ 0 →
    ∃ t, exec (.keyLoad sd m (.complement (~~~v))) s = .next t
      ∧ Within (keysOn (0x1F :: eventPages)) (.pairs :: .nvm :: eventParts) sd s t
      ∧ (t.on sd).nvm.writes = (s.on sd).nvm.writes ∧ (t.on sd).keyData = List.replicate 32 0
      ∧ (t.on sd).get KY_KSTAT.RESULT = 3 ∧ (t.on sd).get KY_KSTAT.REASON = r)
  ∧ (∀ (sd : Side) (b : Nat) (s : State), let x := s.on sd
    x.alive = true → x.nvm.keyDataAt = some b → b + 16 ≤ x.produced →
    ∃ t, exec (.keyDataTimeout sd) s = .next t
      ∧ Within (keysOn [0x1F]) [.nvm, .lines] sd s t
      ∧ (t.on sd).keyData = List.replicate 32 0 ∧ (t.on sd).nvm = { x.nvm with keyDataAt := none })


/-- Solves (R22, R72, R73, R79, R80, R82, R84). The engine of the lead takes the earliest ready cue, one in each beat. A solve that ends SOLVED
writes CELLS, SOLVED and CHECK of the cue's slot and no other byte, and the cue goes on to TRACING in the next beat; an uncorrectable
error of its working memory ends it FAULT, charged with the steps run and WRITE, and a count of cycles that reaches BK_BUDGET.TOTAL ends it BUDGET, the cue UNSOLVED. A
solve that disturbs kept connections goes on only under DIST 1 or 2, and it and one that ends PIN_CONFLICT write their list to the entry's
disturbance area, or, with an address outside working SRAM, nothing but LIST_ERR. A rehearsal that has waited 64 beats in SOLVING ends MISSED with REASON 1. The curtain scene is solved when no cue waits for the engine. -/
def Obligations.SolvesRunAndEnd : Prop :=
  (∀ (sd : Side) (e : Nat) (s : State), let x := s.on sd
    x.alive = true → x.nextSolve = some e → x.stageTime = true → x.engineFree = true →
    ∃ t, exec (.solve sd) s = .next t
      ∧ Within (keysOf [BK_STAT.BUSY.key, 0x0600C, 0x0606C]) [.ecc, .pipe, .perf, .lines] sd s t
      ∧ (t.on sd).pipe = { x.pipe with solving := some (.entry e), engineAt := some x.produced, curtainCycles := none }
      ∧ (t.on sd).get BK_STAT.BUSY = 1 ∧ (t.on sd).get BK_STAT.ENTRY = e % 32 ∧ (t.on sd).get BK_STAT.LEVEL = 0
      ∧ (t.on sd).get BK_STAT.STEP = ((x.solveOf e).steps.headD stepLoad).code % 8)
  ∧ (∀ (sd : Side) (e n : Nat) (s : State), let x := s.on sd; let r := x.solveOf e
    x.alive = true → x.pipe.solving = some (.entry e) → x.stageTime = true → x.fault.injection = none → r.code = 1 →
    (x.trk e).slot = some n → x.get BK_DIST_ADDR.ADDR = 0 → r.cells.length ≤ 5120 → r.cells.all (fun v => Nat.ble v 3) = true →
    ∃ t, exec (.solveDone sd false) s = .next t
      ∧ Within (keysOn [0x06, 0x0B, 0x0C]) [.mem, .ecc, .pipe, .twin, .perf, .lines] sd s t
      ∧ (t.on sd).trk e = { x.trk e with state := .tracing, nextBeat := x.beatNo + 1, repeated := false, bkResult := 1 }
      ∧ (t.on sd).pipe.solving = none ∧ (t.on sd).hasFlag n flagSOLVED = true ∧ (t.on sd).checkOk n = decide (x.slotCount n ≤ 512)
      ∧ (∀ c < r.cells.length, (t.on sd).slotCell n c = r.cells.getD c 0)
      ∧ (t.on sd).get BK_LAST.RESULT = 1 ∧ (t.on sd).get BK_STAT.BUSY = 0
      ∧ (∀ a, a < slotBase n + 2 ∨ slotBase n + 0x1510 ≤ a → (t.on sd).rd8 a = x.rd8 a))
  ∧ (∀ (sd : Side) (e : Nat) (s : State), let x := s.on sd
    let run := stepsRun ((x.solveOf e).steps.filter (fun k => k.code != 7)) x.engineNow
    x.alive = true → x.pipe.solving = some (.entry e) → x.stageTime = true → e < 32 → stepsCost (run ++ [stepWrite]) ≤ x.solveTotal →
    ∃ t, exec (.solveDone sd true) s = .next t
      ∧ Within (keysOn ([0x0B, 0x0C, 0x18, 0x19, 0x1A, 0x1B, 0x1C] ++ eventPages)) (.mem :: .ecc :: .scene :: .pipe :: .watch :: .net :: eventParts) sd s t
      ∧ (t.on sd).get BK_LAST_CYC.CYCLES = stepsCost (run ++ [stepWrite])
      ∧ ((t.on sd).trk e).state = .unsolved ∧ ((t.on sd).trk e).bkResult = 0x14 ∧ ((t.on sd).trk e).slot = none
      ∧ (∀ a, x.endByte a = false → (t.on sd).rd8 a = x.rd8 a))
  ∧ (∀ (sd : Side) (e : Nat) (s : State), let x := s.on sd
    x.alive = true → x.pipe.solving = some (.entry e) → x.stageTime = true → e < 32 → (x.solveOf e).code = 0x11 →
    ∃ t, exec (.solveBudget sd) s = .next t
      ∧ Within (keysOn ([0x0B, 0x0C, 0x18, 0x19, 0x1A, 0x1B, 0x1C] ++ eventPages)) (.mem :: .ecc :: .scene :: .pipe :: .watch :: .net :: eventParts) sd s t
      ∧ ((t.on sd).trk e).state = .unsolved ∧ ((t.on sd).trk e).bkResult = 0x11 ∧ ((t.on sd).trk e).slot = none
      ∧ (t.on sd).is (evtBit 0x0C 3) = true
      ∧ (∀ a, x.endByte a = false → (t.on sd).rd8 a = x.rd8 a))
  ∧ (∀ (sd : Side) (e : Nat) (s : State), let x := s.on sd; let k := x.trk e
    x.alive = true → x.leads = true → k.rehearse = true → k.state = .solving → x.pipe.solving ≠ some (.entry e) →
    k.waitFrom + 64 ≤ x.produced →
    ∃ t, exec (.rehearsalWaitExpiry sd e) s = .next t
      ∧ Within (keysOn ([0x0B, 0x0C, 0x18, 0x19, 0x1A, 0x1B, 0x1C] ++ eventPages)) (.mem :: .ecc :: .scene :: .pipe :: .net :: eventParts) sd s t
      ∧ ((t.on sd).trk e).state = .missed ∧ ((t.on sd).trk e).reason = 1 ∧ ((t.on sd).trk e).slot = none
      ∧ (∀ a, x.endByte a = false → (t.on sd).rd8 a = x.rd8 a))
  ∧ (∀ (sd : Side) (s : State), let x := s.on sd; let r := x.curtainSolve
    let p := { x.pipe with curtainOwed := false, engineAt := some x.produced, curtainCycles := some (min 3280 r.cycles), curtainFailed := false }
    let z : SideState := ({ x.readSlot 255 with pipe := p }.count 78 (min 3280 r.cycles)).writeResult 255 r.cells
    x.alive = true → x.get TW_ROLE.ROLE ≠ 0 → x.win = .loop ∨ x.win = .scene → x.power.firmware = true → x.pipe.curtainOwed = true →
    x.engineFree = true → x.nextSolve = none → x.rigged = true → x.fault.injection = none → r.code = 1 → x.hasFlag 255 flagVALID = true →
    r.cells.length ≤ 5120 → z.pathFailure 255 = none → z.idleFailure 255 = none → z.checkOk 255 = true →
    ∃ t, exec (.curtainSolve sd false) s = .next t
      ∧ Within (keysOn [0x06, 0x09]) [.mem, .ecc, .pipe, .twin, .perf, .lines] sd s t
      ∧ (t.on sd).pipe = p
      ∧ (t.on sd).is SW_STAT.CURTAIN_TRACED = true ∧ (t.on sd).hasFlag 255 flagSOLVED = true
      ∧ (∀ a, a < slotBase 255 + 2 ∨ slotBase 255 + 0x1510 ≤ a → (t.on sd).rd8 a = x.rd8 a))
  ∧ (∀ (sd : Side) (s : State), let x := s.on sd
    x.alive = true → x.get TW_ROLE.ROLE ≠ 0 → x.win = .loop ∨ x.win = .scene → x.power.firmware = true → x.pipe.curtainOwed = true →
    x.engineFree = true → x.nextSolve = none → x.rigged = true →
    ∃ t, exec (.curtainSolve sd true) s = .next t
      ∧ Within (keysOn eventPages) (.ecc :: .pipe :: eventParts) sd s t
      ∧ (t.on sd).pipe = { x.pipe with
          curtainOwed := false, engineAt := some x.produced, curtainCycles := some (min 3280 x.curtainSolve.cycles), curtainFailed := true }
      ∧ (t.on sd).is SW_STAT.CURTAIN_TRACED = false)
  ∧ (∀ (sd : Side) (e n : Nat) (s : State), let x := s.on sd; let r := x.solveOf e; let base := x.get BK_DIST_ADDR.ADDR * 4096 + e * 8192
    x.alive = true → x.pipe.solving = some (.entry e) → x.stageTime = true → x.fault.injection = none → e < 32 → r.code = 2 →
    (x.trk e).dist = 1 ∨ (x.trk e).dist = 2 → (x.trk e).slot = some n → r.list.length ≤ 512 → 0x10000000 ≤ x.get BK_DIST_ADDR.ADDR * 4096 → x.get BK_DIST_ADDR.ADDR * 4096 + 0x40000 ≤ 0x10800000 →
    ∃ t, exec (.solveDone sd false) s = .next t
      ∧ (t.on sd).trk e = { x.trk e with state := .tracing, nextBeat := x.beatNo + 1, repeated := false, bkResult := 2 }
      ∧ (t.on sd).pipe.solving = none ∧ (t.on sd).get BK_LAST.RESULT = 2 ∧ (t.on sd).get BK_LAST.DIST_COUNT = r.list.length
      ∧ (t.on sd).is (evtBit 0x0C 1) = true
      ∧ (t.on sd).rd base 2 = r.list.length ∧ (t.on sd).rd (base + 2) 1 = r.code ∧ (t.on sd).rd (base + 3) 1 = e
      ∧ (t.on sd).rd (base + 4) 2 = (x.trk e).sceneId % 65536 ∧ (t.on sd).rd (base + 6) 2 = r.cycles % 65536
      ∧ (∀ i < r.list.length, (t.on sd).rd (base + 8 + 8 * i) 8 = (r.list.map DistEntry.toWord).getD i 0))
  ∧ (∀ (sd : Side) (e : Nat) (s : State), let x := s.on sd; let r := x.solveOf e; let base := x.get BK_DIST_ADDR.ADDR * 4096 + e * 8192
    x.alive = true → x.pipe.solving = some (.entry e) → x.stageTime = true → x.fault.injection = none → e < 32 → r.code = 2 → (x.trk e).dist ≠ 1 → (x.trk e).dist ≠ 2 →
    ∃ t, exec (.solveDone sd false) s = .next t
      ∧ ((t.on sd).trk e).state = .unsolved ∧ ((t.on sd).trk e).bkResult = 2 ∧ ((t.on sd).trk e).slot = none)
  ∧ (∀ (sd : Side) (e : Nat) (s : State), let x := s.on sd; let r := x.solveOf e; let base := x.get BK_DIST_ADDR.ADDR * 4096 + e * 8192
    x.alive = true → x.pipe.solving = some (.entry e) → x.stageTime = true → x.fault.injection = none → e < 32 → r.code = 0x10 → r.list.length ≤ 512 → 0x10000000 ≤ x.get BK_DIST_ADDR.ADDR * 4096 → x.get BK_DIST_ADDR.ADDR * 4096 + 0x40000 ≤ 0x10800000 →
    ∃ t, exec (.solveDone sd false) s = .next t
      ∧ ((t.on sd).trk e).state = .unsolved ∧ ((t.on sd).trk e).bkResult = 0x10 ∧ ((t.on sd).trk e).slot = none
      ∧ (t.on sd).get BK_LAST.RESULT = 0x10 ∧ (t.on sd).is (evtBit 0x0C 2) = true
      ∧ (t.on sd).rd base 2 = r.list.length ∧ (t.on sd).rd (base + 2) 1 = r.code ∧ (t.on sd).rd (base + 3) 1 = e
      ∧ (t.on sd).rd (base + 4) 2 = (x.trk e).sceneId % 65536 ∧ (t.on sd).rd (base + 6) 2 = r.cycles % 65536
      ∧ (∀ i < r.list.length, (t.on sd).rd (base + 8 + 8 * i) 8 = (r.list.map DistEntry.toWord).getD i 0))
  ∧ (∀ (sd : Side) (e : Nat) (s : State), let x := s.on sd; let a := x.get BK_DIST_ADDR.ADDR * 4096
    x.alive = true → x.pipe.solving = some (.entry e) → x.stageTime = true → x.fault.injection = none → e < 32 → (x.solveOf e).code = 0x10 → a ≠ 0 → a < 0x10000000 ∨ 0x10800000 < a + 0x40000 →
    ∃ t, exec (.solveDone sd false) s = .next t
      ∧ (t.on sd).is (evtBit 0x0C 5) = true ∧ ((t.on sd).trk e).state = .unsolved
      ∧ (∀ i, 0x10000000 ≤ i ∧ i < 0x10800000 → (t.on sd).rd8 i = x.rd8 i))

/-- Trace, arming and the edge (R22, R162, R163, R165, R203, R207, R215, R216). A traced slot that passes every check waits for its pre-check; one that
fails ends TRACE_FAIL with the failing check and its index in SW_TRACE_STAT (for DIGEST a free value, log 53). ARM stages every changed cell and every affected output of
a READY cue with an open gate for the next boundary, writes the edge-table entries of those cells and no other byte, and closes the
gate; a cue whose gate is closed ends MISSED with REASON 2 and the side enters degraded mode at the next boundary. The curtain is staged
in the scene window before its effective beat. At the boundary of its effective beat, with nothing else due, the staged cue fires: ACTIVE
moves to its slot, the E_DO of every changed cell takes its edge value as the scene controller's, where the map gives that DO to no other
cell of the cue and to no output of it, and the cue is SETTLING. -/
def Obligations.TracesAndArming : Prop :=
  (∀ (sd : Side) (e n : Nat) (s : State), let x := s.on sd
    x.alive = true → x.stageTime = true → x.win = .loop → (x.trk e).state = .tracing → (x.trk e).traced = false → (x.trk e).nextBeat ≤ x.beatNo →
    (x.trk e).slot = some n → x.traceFailure (x.trk e) n = none →
    ∃ t, exec (.trace sd e) s = .next t
      ∧ Within (keysOn [0x06, 0x09, 0x0B]) [.ecc, .pipe, .twin, .perf, .lines] sd s t
      ∧ (t.on sd).trk e = { x.trk e with traced := true }
      ∧ (t.on sd).get SW_TRACE_STAT.ENTRY = e % 32 ∧ (t.on sd).get SW_TRACE_STAT.FAIL = 0)
  ∧ (∀ (sd : Side) (e n code index : Nat) (s : State), let x := s.on sd
    x.alive = true → x.stageTime = true → (x.trk e).state = .tracing → (x.trk e).traced = false → (x.trk e).nextBeat ≤ x.beatNo →
    (x.trk e).slot = some n → x.traceFailure (x.trk e) n = some (code, index) → index < 8192 → e < 32 →
    ∃ t, exec (.trace sd e) s = .next t
      ∧ Within (keysOn ([0x0B, 0x0C, 0x18, 0x19, 0x1A, 0x1B, 0x1C] ++ eventPages))
          (.mem :: .ecc :: .scene :: .pipe :: .watch :: .net :: .free :: eventParts) sd s t
      ∧ ((t.on sd).trk e).state = .traceFail ∧ ((t.on sd).trk e).slot = none ∧ (t.on sd).is (evtBit 0x09 0) = true
      ∧ (t.on sd).get SW_TRACE_STAT.FAIL = 1 ∧ (t.on sd).get SW_TRACE_STAT.REASON = code
      ∧ (t.on sd).get SW_TRACE_STAT.INDEX = (if code = 6 then (x.fresh 9).2 else index)
      ∧ (t.on sd).watch.degPending = (if code = 5 ∨ code = 6 then Nat.lor x.watch.degPending 8 else x.watch.degPending)
      ∧ (x.tracks.all (fun p => !p.2.awaitsCurtain) = true →
          (t.on sd).watch = { x.watch with degPending := (t.on sd).watch.degPending })
      ∧ (∀ a, x.endByte a = false → (t.on sd).rd8 a = x.rd8 a))
  ∧ (∀ (sd : Side) (e n : Nat) (s : State), let x := s.on sd
    let v := x.slotView n
    let cells := x.planCells v
    let words := (cells.map (fun p => x.armWords p.cell)).flatten
    x.alive = true → x.leads = true → x.win = .scene → (x.trk e).state = .ready → (x.trk e).kind ≠ .curtain → (x.trk e).eff = x.beatNo + 1 →
    (x.trk e).slot = some n → (x.trk e).gate = true → words.any (fun a => x.eccHard.contains a) = false → x.fault.injection = none →
    (x.trk e).reply = false →
    ∃ t, exec (.arm sd e) s = .next t
      ∧ Within (keysOn (0x0B :: 0x0D :: eventPages)) (.mem :: .ecc :: .scene :: .pipe :: eventParts) sd s t
      ∧ (t.on sd).trk e = { x.trk e with state := .armed, gate := false }
      ∧ (t.on sd).scene.staged = x.scene.staged ++ [Staged.mk (some e) (x.beatNo + 1) n false cells ((x.scrubWords words).planOuts v cells false)]
      ∧ (cells.all (fun p => p.edge.all (fun k => (t.on sd).t ET.E_EDGE p.cell == k % 2 ^ 14 && (t.on sd).t ET.PHYS p.cell == p.setting % 4
          && (t.on sd).t ET.E_BEAT p.cell == (x.beatNo + 1) % 65536)) = true)
      ∧ (∀ a, cells.all (fun p => Nat.blt a (0x30088000 + 16 * p.cell) || Nat.ble (0x30088000 + 16 * p.cell + 16) a) = true →
          (t.on sd).rd8 a = x.rd8 a))
  ∧ (∀ (sd : Side) (e n : Nat) (s : State), let x := s.on sd
    x.alive = true → x.leads = true → x.win = .scene → (x.trk e).state = .ready → (x.trk e).kind ≠ .curtain → (x.trk e).eff = x.beatNo + 1 →
    (x.trk e).slot = some n → (x.trk e).gate = false → e < 32 →
    ∃ t, exec (.arm sd e) s = .next t
      ∧ Within (keysOn ([0x0B, 0x0C, 0x18, 0x19, 0x1A, 0x1B, 0x1C] ++ eventPages)) (.mem :: .ecc :: .scene :: .pipe :: .watch :: .net :: eventParts) sd s t
      ∧ ((t.on sd).trk e).state = .missed ∧ ((t.on sd).trk e).reason = 2
      ∧ (t.on sd).watch.degPending = Nat.lor x.watch.degPending 8
      ∧ (x.tracks.all (fun p => !p.2.awaitsCurtain) = true → (t.on sd).watch = { x.watch with degPending := Nat.lor x.watch.degPending 8 })
      ∧ (∀ a, x.endByte a = false → (t.on sd).rd8 a = x.rd8 a))
  ∧ (∀ (sd : Side) (s : State), let x := s.on sd
    let dark := !x.is SW_STAT.CURTAIN_TRACED
    let v := if dark then x.emptyView else x.slotView 255
    let cells := x.planCells v
    let words := (cells.map (fun p => x.armWords p.cell)).flatten
    x.alive = true → x.leads = true → x.win = .scene → x.watch.curtainAt = some (x.beatNo + 1) → x.watch.curtainArmed = false →
    words.any (fun a => x.eccHard.contains a) = false → x.fault.injection = none →
    x.tracks.any (fun p => p.2.kind == .curtain && p.2.state == .ready && p.2.eff == x.beatNo + 1) = false →
    ∃ t, exec (.curtainArm sd) s = .next t
      ∧ Within (keysOn (0x0D :: eventPages)) (.mem :: .ecc :: .scene :: .watch :: eventParts) sd s t
      ∧ (t.on sd).watch = { x.watch with curtainArmed := true }
      ∧ (t.on sd).scene.staged = x.scene.staged ++ [Staged.mk none (x.beatNo + 1) 255 dark cells ((x.scrubWords words).stagedOuts v cells true dark)]
      ∧ (∀ a, cells.all (fun p => Nat.blt a (0x30088000 + 16 * p.cell) || Nat.ble (0x30088000 + 16 * p.cell + 16) a) = true →
          (t.on sd).rd8 a = x.rd8 a))
  ∧ (∀ (sd : Side) (g : Staged) (s : State), let x := s.on sd; let y := { x with scene := { x.scene with staged := [] } }
    s.calmBut sd y = true → x.leads = true → x.scene.staged = [g] → g.eff ≤ (x.beatNo + 1) % 2 ^ 64 → g.slot < 256 →
    ∃ t, exec (.beatBoundary sd) s = .next t
      ∧ (t.on sd).scene.staged = [] ∧ (t.on sd).get SC_ACTIVE.SLOT = g.slot ∧ (t.on sd).is (evtBit 0x0D 0) = true
      ∧ (t.on sd).scene.emptyActive = g.dark
      ∧ (∀ e < 32, (x.trk e).state = .armed → (x.trk e).eff = g.eff →
          ((t.on sd).trk e).state = .settling
            ∧ (t.on sd).scene.settling.any (fun z => z.entry == e && z.edge == x.produced + 1) = true))
  ∧ (∀ (sd : Side) (g : Staged) (p : CellPlan) (e v : Nat) (s : State), let x := s.on sd; let y := { x with scene := { x.scene with staged := [] } }
    s.calmBut sd y = true → x.leads = true → x.scene.staged = [g] → g.eff ≤ (x.beatNo + 1) % 2 ^ 64 →
    g.cells.contains p = true → p.edge = some v → x.eDo p.cell = some e → x.mode e ≠ 0 →
    g.cells.all (fun q => x.tDo q.cell != some e && (q == p || x.eDo q.cell != some e)) = true →
    g.outs.all (fun o => x.attOf o.out != some e) = true →
    ∃ t, exec (.beatBoundary sd) s = .next t ∧ (t.on sd).base e = v ∧ (t.on sd).own e = .scene)
  ∧ (∀ (sd : Side) (g : Staged) (s : State), let x := s.on sd; let y := { x with scene := { x.scene with staged := [] } }
    s.calmBut sd y = true → x.leads = true → x.scene.staged = [g] → (x.beatNo + 1) % 2 ^ 64 < g.eff →
    ∃ t, exec (.beatBoundary sd) s = .next t ∧ (t.on sd).scene.staged = [g] ∧ (t.on sd).get SC_ACTIVE.SLOT = x.get SC_ACTIVE.SLOT ∧ (∀ d, (t.on sd).base d = x.base d))

/-- Blanking, stalls and the end of an edge (R151, R165, R167, R168, R171, R172). At the start of its blanking interval a blanked output goes to the scene controller at
its DARK value, its BASE kept; a loop of an output that goes dark keeps that BASE as RESUME. At the end an output that stays dark stands
at DARK, and one that is lit takes its kept BASE, or RESUME if it was dark, and waits for its loop until the hold-off is over, or takes
LIMIT_HI where it has no loop; an output that a second miss keeps dark stays dark. A handover that fails its limits stalls: HO is 3 and the cell's E_DO goes to electro-optic hold at the
next boundary. At an edge an output that is not blanked goes dark, or is lit from RESUME and waits for its loop; and a cue whose handovers
are over is SETTLED at the first boundary LEN or more beats after its edge. -/
def Obligations.BlankingAndStalls : Prop :=
  (∀ (sd : Side) (out d : Nat) (o : OutPlan) (s : State), let x := s.on sd
    x.alive = true → x.leads = true → x.win = .copy →
    ((x.scene.staged.filter (fun (g : Staged) => g.eff == x.beatNo + 1)).map (fun (g : Staged) => g.outs)).flatten.find? (fun p => p.out == out && p.blank) = some o →
    x.attOf o.out = some d → x.takesOut d = true → x.own d ≠ .cal → x.own d ≠ .man → x.mode d ≠ 0 → x.ports + o.out < 1024 →
    x.scene.blanked.any (fun b => b.out == o.out && b.edge == x.produced + 1) = false → x.loops.tunes.any (fun q => q.dout == d) = false →
    ∃ t, exec (.blankStart sd out) s = .next t
      ∧ Within (keysOf []) [.mem, .ecc, .off, .drive, .loops, .scene, .twin, .lines] sd s t
      ∧ (t.on sd).own d = .scene ∧ (t.on sd).base d = x.t PT.DARK (x.ports + o.out)
      ∧ (∀ e, e ≠ d → (t.on sd).base e = x.base e ∧ (t.on sd).own e = x.own e)
      ∧ (t.on sd).scene = { x.scene with blanked := x.scene.blanked ++ [⟨o.out, x.base d, o.wasLit, o.lit, x.produced + 1⟩] }
      ∧ (x.loopOf d).all (fun l => o.lit || x.own d == .scene || (t.on sd).t LT.RESUME l == x.base d % 2 ^ 14) = true
      ∧ (∀ a, (x.loopOf d).all (fun l => Nat.blt a (LT.RESUME.addr l) || Nat.ble (LT.RESUME.addr l + 4) a) = true → (t.on sd).rd8 a = x.rd8 a))
  ∧ (∀ (sd : Side) (out d : Nat) (b : Blanked) (s : State), let x := s.on sd
    x.alive = true → x.scene.blanked.find? (fun k => k.out == out && k.edge == x.produced) = some b → x.attOf b.out = some d →
    x.own d = .scene → x.outLit b.out = false ∨ x.scene.missDark.contains b.out = true → x.mode d ≠ 0 →
    ∃ t, exec (.blankEnd sd out) s = .next t
      ∧ Within (keysOf []) [.off, .drive, .scene, .twin, .lines] sd s t
      ∧ (t.on sd).own d = .scene ∧ (t.on sd).base d = x.t PT.DARK (x.ports + b.out)
      ∧ (∀ e, e ≠ d → (t.on sd).base e = x.base e ∧ (t.on sd).own e = x.own e)
      ∧ (t.on sd).scene = { x.scene with blanked := x.scene.blanked.filter (fun k => k != b) })
  ∧ (∀ (sd : Side) (out d l : Nat) (b : Blanked) (s : State), let x := s.on sd
    x.alive = true → x.scene.blanked.find? (fun k => k.out == out && k.edge == x.produced) = some b → x.attOf b.out = some d →
    x.own d = .scene → x.outLit b.out = true → x.scene.missDark.contains b.out = false → x.mode d ≠ 0 → x.loopOf d = some l → x.loops.tunes.any (fun q => q.dout == d) = false →
    ∃ t, exec (.blankEnd sd out) s = .next t
      ∧ Within (keysOf []) [.off, .drive, .loops, .scene, .twin, .lines] sd s t
      ∧ (t.on sd).own d = .loopWait ∧ (t.on sd).base d = (if b.wasLit then b.saved else x.limit d (x.t LT.RESUME l))
      ∧ Tab.get? (t.on sd).loops.toLoopAt d = some (b.edge + x.holdoff)
      ∧ (∀ e, e ≠ d → (t.on sd).base e = x.base e ∧ (t.on sd).own e = x.own e)
      ∧ (t.on sd).scene = { x.scene with blanked := x.scene.blanked.filter (fun k => k != b) })
  ∧ (∀ (sd : Side) (out d : Nat) (b : Blanked) (s : State), let x := s.on sd
    x.alive = true → x.scene.blanked.find? (fun k => k.out == out && k.edge == x.produced) = some b → x.attOf b.out = some d →
    x.own d = .scene → x.outLit b.out = true → x.scene.missDark.contains b.out = false → x.mode d ≠ 0 → x.loopOf d = none → x.loops.tunes.any (fun q => q.dout == d) = false →
    ∃ t, exec (.blankEnd sd out) s = .next t
      ∧ Within (keysOf []) [.off, .drive, .loops, .scene, .twin, .lines] sd s t
      ∧ (t.on sd).own d = .scene ∧ (t.on sd).base d = x.t DT.LIMIT_HI d
      ∧ (∀ e, e ≠ d → (t.on sd).base e = x.base e ∧ (t.on sd).own e = x.own e)
      ∧ (t.on sd).scene = { x.scene with blanked := x.scene.blanked.filter (fun k => k != b) })
  ∧ (∀ (sd : Side) (c : Nat) (h : Handover) (s : State), let x := s.on sd
    x.alive = true → x.leads = true → x.scene.handovers.find? (fun k => k.cell == c) = some h → x.stallDue h = true →
    x.get SH_CNT2.STALL < 65535 →
    ∃ t, exec (.handoverStall sd c) s = .next t
      ∧ Within (keysOn (0x0D :: eventPages)) (.mem :: .ecc :: .scene :: eventParts) sd s t
      ∧ (t.on sd).t ET.HO c = 3 ∧ (t.on sd).get SH_CNT2.STALL = x.get SH_CNT2.STALL + 1
      ∧ (t.on sd).scene = { x.scene with
          handovers := x.scene.handovers.filter (fun k => k.cell != c), rampStaged := Tab.del x.scene.rampStaged c,
          stallPending := insertNat c x.scene.stallPending }
      ∧ (∀ a, a < 0x30088000 + 16 * c ∨ 0x30088000 + 16 * c + 16 ≤ a → (t.on sd).rd8 a = x.rd8 a))
  ∧ (∀ (sd : Side) (g : Staged) (o : OutPlan) (d : Nat) (s : State), let x := s.on sd; let y := { x with scene := { x.scene with staged := [] } }
    s.calmBut sd y = true → x.leads = true → x.scene.staged = [g] → g.eff ≤ (x.beatNo + 1) % 2 ^ 64 → g.cells = [] → g.outs = [o] →
    o.blank = false → x.attOf o.out = some d → x.takesOut d = true → x.mode d ≠ 0 →
    ∃ t, exec (.beatBoundary sd) s = .next t
      ∧ (o.lit = false → o.wasLit = true → (t.on sd).own d = .scene ∧ (t.on sd).base d = x.t PT.DARK (x.ports + o.out))
      ∧ (o.lit = true → o.wasLit = false → (x.loopOf d).isSome = true →
          (t.on sd).own d = .loopWait ∧ (t.on sd).base d = x.resumeOf d)
      ∧ (o.lit = true → o.wasLit = false → x.loopOf d = none → (t.on sd).own d = .scene ∧ (t.on sd).base d = x.t DT.LIMIT_HI d)
      ∧ (o.lit = true → o.wasLit = true → (t.on sd).own d = x.own d ∧ (t.on sd).base d = x.base d))
  ∧ (∀ (sd : Side) (g : Settling) (s : State), let x := s.on sd; let y := { x with scene := { x.scene with settling := [] } }
    s.calmBut sd y = true → x.leads = true → x.scene.settling = [g] → g.edge + x.hoLen ≤ x.produced + 1 → (x.trk g.entry).state = .settling →
    ∃ t, exec (.beatBoundary sd) s = .next t
      ∧ (t.on sd).scene.settling = [] ∧ ((t.on sd).trk g.entry).state = .settled ∧ (t.on sd).is (evtBit 0x0D 1) = true)
  ∧ (∀ (sd : Side) (g : Settling) (s : State), let x := s.on sd; let y := { x with scene := { x.scene with settling := [] } }
    s.calmBut sd y = true → x.leads = true → x.scene.settling = [g] → x.produced + 1 < g.edge + x.hoLen →
    ∃ t, exec (.beatBoundary sd) s = .next t ∧ (t.on sd).scene.settling = [g] ∧ (t.on sd).trk g.entry = x.trk g.entry)

/-- Curtain requests and degraded mode (R214, R215, R217, R220, R223). A request on the lead makes the curtain effective two boundaries on: CURTAIN_PEND is 1,
and every cue but a curtain cue that has not passed its arming cutoff is cancelled with REASON 2: that curtain cues stay, here and at the
entry into degraded mode, is the model's choice (log entry 52). A latching request sets CURTAIN_LATCH, also on a side that
does not lead, and a side in intermission is to wake (R330). CURTAIN_N low is such a request on every side that runs. A release is refused while the pin is low or the side is
degraded, and else comes at the next boundary. The end of T_DEG asks for the curtain. At a boundary at which nothing else is due a lead with a cause, the scene comparison of
R222 among them, enters degraded mode, which cancels the cues in flight with REASON 5, raises source 0x78 and starts T_DEG, and the accepted releases of degraded mode and of the latch take effect. -/
def Obligations.CurtainsAreRequested : Prop :=
  (∀ (sd : Side) (m : Master) (v : Word) (s : State), let y := (s.on sd).transfer m
    (s.on sd).takes m 0x09058 = true → bitAt v.toNat 31 = true → y.leads = true → y.watch.curtainAt.all (fun c => Nat.ble c y.beatNo) = true →
    ∃ t, exec (.swCurtainReq sd m v) s = .next t
      ∧ Within (keysOn ([0x0B, 0x0C, 0x18, 0x19, 0x1A, 0x1B, 0x1C] ++ eventPages)) (.mem :: .ecc :: .scene :: .pipe :: .watch :: .therm :: .net :: eventParts) sd s t
      ∧ (t.on sd).get SW_STAT.CURTAIN_PEND = 1
      ∧ (t.on sd).watch = { y.watch with
          curtainAt := some (y.beatNo + 2), curtainArmed := false, curtainHeld := true, curtainDigest := digestOf ((t.on sd).slotConns 255) }
      ∧ (t.on sd).get SW_STAT.CURTAIN_LATCH = (if v.toNat % 2 = 1 then 1 else y.get SW_STAT.CURTAIN_LATCH)
      ∧ (y.tracks.all (fun p => p.2.kind == .curtain || !y.beforeItsCutoff p.2
          || (((t.on sd).trk p.1).state == .cancelled && ((t.on sd).trk p.1).reason == 2)) = true)
      ∧ (∀ a, y.endByte a = false → (t.on sd).rd8 a = y.rd8 a))
  ∧ (∀ (sd : Side) (m : Master) (v : Word) (s : State), let x := s.on sd
    x.takes m 0x09058 = true → bitAt v.toNat 31 = true → x.leads = false →
    ∃ t, exec (.swCurtainReq sd m v) s = .next t
      ∧ Within (keysOf (accessKeys ++ [SW_STAT.CURTAIN_LATCH.key])) [.therm, .perf, .lines] sd s t
      ∧ (t.on sd).get SW_STAT.CURTAIN_LATCH = (if v.toNat % 2 = 1 then 1 else x.get SW_STAT.CURTAIN_LATCH)
      ∧ (t.on sd).get SW_STAT.CURTAIN_PEND = x.get SW_STAT.CURTAIN_PEND
      ∧ (t.on sd).therm = (if x.get TH_INT_STAT.STATE = 1 then { x.therm with wakePending := some 2 } else x.therm))
  ∧ (∀ (sd : Side) (s : State), let x := s.on sd; let z := (x.set SW_STAT.CURTAIN_N 1).raise 0x7A
    x.alive = true → x.is SW_STAT.CURTAIN_N = false → z.leads = true → z.watch.curtainAt.all (fun c => Nat.ble c z.beatNo) = true →
    ∃ t, exec (.curtainNAssert) s = .next t
      ∧ t = { s with a := t.a, b := t.b, curtainN := true }
      ∧ Alike (keysOn ([0x0B, 0x0C, 0x18, 0x19, 0x1A, 0x1B, 0x1C] ++ eventPages)) (.mem :: .ecc :: .scene :: .pipe :: .watch :: .therm :: .net :: eventParts) x (t.on sd)
      ∧ (t.on sd).get SW_STAT.CURTAIN_N = 1 ∧ (t.on sd).get SW_STAT.CURTAIN_LATCH = 1 ∧ (t.on sd).get SW_STAT.CURTAIN_PEND = 1
      ∧ (t.on sd).watch = { x.watch with
          curtainAt := some (x.beatNo + 2), curtainArmed := false, curtainHeld := true, curtainDigest := digestOf ((t.on sd).slotConns 255) }
      ∧ (∀ a, z.endByte a = false → (t.on sd).rd8 a = x.rd8 a))
  ∧ (∀ (sd : Side) (s : State), let x := s.on sd
    x.alive = false ∨ x.is SW_STAT.CURTAIN_N = true →
    ∃ t, exec (.curtainNAssert) s = .next t ∧ t = { s with a := t.a, b := t.b, curtainN := true } ∧ Alike (keysOf []) [.lines] x (t.on sd))
  ∧ (∀ (sd : Side) (s : State), let x := s.on sd
    x.alive = true →
    ∃ t, exec (.curtainNDeassert) s = .next t
      ∧ t = { s with a := t.a, b := t.b, curtainN := false }
      ∧ Alike (keysOf [SW_STAT.CURTAIN_N.key]) [.lines] x (t.on sd)
      ∧ (t.on sd).get SW_STAT.CURTAIN_N = 0 ∧ (t.on sd).get SW_STAT.CURTAIN_LATCH = x.get SW_STAT.CURTAIN_LATCH)
  ∧ (∀ (sd : Side) (m : Master) (v : Word) (s : State), let y := (s.on sd).paired m 0x0905C v
    (s.on sd).holds m 0x0905C v = true → v.toNat % 2 = 1 → y.is SW_STAT.CURTAIN_N = false → s.curtainN = false →
    y.is SW_STAT.DEGRADED = false →
    ∃ t, exec (.curtainRelease sd m (.complement (~~~v))) s = .next t
      ∧ Within (keysOf (pairKeys 0x0905C ++ [SW_REL_STAT.CUR.key])) [.pairs, .watch, .perf, .lines] sd s t
      ∧ (t.on sd).get SW_REL_STAT.CUR = 1 ∧ (t.on sd).watch = { (s.on sd).watch with relCurtain := true })
  ∧ (∀ (sd : Side) (m : Master) (v : Word) (s : State), let y := (s.on sd).paired m 0x0905C v
    (s.on sd).holds m 0x0905C v = true → v.toNat % 2 = 1 →
    y.is SW_STAT.CURTAIN_N = true ∨ s.curtainN = true ∨ y.is SW_STAT.DEGRADED = true →
    ∃ t, exec (.curtainRelease sd m (.complement (~~~v))) s = .next t
      ∧ Within (keysOf (pairKeys 0x0905C ++ [SW_REL_STAT.CUR.key])) [.pairs, .perf, .lines] sd s t
      ∧ (t.on sd).get SW_REL_STAT.CUR = 2)
  ∧ (∀ (sd : Side) (b : Nat) (s : State), let x := s.on sd
    let z := (({ x.set SW_DEG_LEFT.LEFT 0 with watch := { x.watch with degDeadline := none } }).evt 0x09 7).raise 0x79
    x.alive = true → x.watch.degDeadline = some b → b ≤ x.produced → x.is SW_STAT.DEGRADED = true → z.leads = true →
    z.watch.curtainAt.all (fun c => Nat.ble c z.beatNo) = true →
    ∃ t, exec (.tDegExpiry sd) s = .next t
      ∧ Within (keysOn ([0x0B, 0x0C, 0x18, 0x19, 0x1A, 0x1B, 0x1C] ++ eventPages)) (.mem :: .ecc :: .scene :: .pipe :: .watch :: .therm :: .net :: eventParts) sd s t
      ∧ (t.on sd).get SW_DEG_LEFT.LEFT = 0 ∧ (t.on sd).get SW_STAT.CURTAIN_LATCH = 1 ∧ (t.on sd).get SW_STAT.CURTAIN_PEND = 1
      ∧ (t.on sd).watch = { x.watch with
          degDeadline := none, curtainAt := some (x.beatNo + 2), curtainArmed := false, curtainHeld := true
          curtainDigest := digestOf ((t.on sd).slotConns 255) }
      ∧ (t.on sd).is (evtBit 0x09 7) = true
      ∧ (∀ a, z.endByte a = false → (t.on sd).rd8 a = x.rd8 a))
  ∧ (∀ (sd : Side) (s : State), let x := s.on sd; let y := { x with watch := { x.watch with degPending := 0 } }
    s.calmBut sd y = true → x.watch.degPending ≠ 0 → x.watch.degPending < 32 →
    ∃ t, exec (.beatBoundary sd) s = .next t
      ∧ (t.on sd).watch.degPending = 0
      ∧ (x.leads = true → (t.on sd).get SW_STAT.DEGRADED = 1
          ∧ (t.on sd).get SW_STAT.DEG_CAUSE = Nat.lor (x.get SW_STAT.DEG_CAUSE) x.watch.degPending)
      ∧ (x.leads = true → x.is SW_STAT.DEGRADED = false →
          (t.on sd).watch.degDeadline = some (x.produced + 1 + clampNat 1 3600 (x.get SW_DEG_T.T_DEG) * 100000)
            ∧ (t.on sd).get SW_DEG_LEFT.LEFT = clampNat 1 3600 (x.get SW_DEG_T.T_DEG) ∧ (t.on sd).is (evtBit 0x09 6) = true
            ∧ x.raised (t.on sd) 0x78 = true
            ∧ (x.tracks.all (fun p => p.2.kind == .curtain || !p.2.state.inFlight
                || (((t.on sd).trk p.1).state == .cancelled && ((t.on sd).trk p.1).reason == 5)) = true))
      ∧ (x.leads = true → x.is SW_STAT.DEGRADED = true → (t.on sd).watch.degDeadline = x.watch.degDeadline)
      ∧ (x.leads = false → (t.on sd).get SW_STAT.DEGRADED = x.get SW_STAT.DEGRADED))
  ∧ (∀ (sd : Side) (s : State), let x := s.on sd; let y := { x with watch := { x.watch with relDegraded := false } }
    s.calmBut sd y = true → x.watch.relDegraded = true →
    ∃ t, exec (.beatBoundary sd) s = .next t
      ∧ (t.on sd).get SW_STAT.DEGRADED = 0 ∧ (t.on sd).get SW_STAT.DEG_CAUSE = 0 ∧ (t.on sd).get SW_DEG_LEFT.LEFT = 0
      ∧ (t.on sd).watch.degDeadline = none ∧ (t.on sd).watch.relDegraded = false)
  ∧ (∀ (sd : Side) (s : State), let x := s.on sd; let y := { x with watch := { x.watch with relCurtain := false } }
    s.calmBut sd y = true → x.watch.relCurtain = true →
    ∃ t, exec (.beatBoundary sd) s = .next t ∧ (t.on sd).get SW_STAT.CURTAIN_LATCH = 0 ∧ (t.on sd).watch.relCurtain = false)

/-- Self-tests, the release from degraded mode, and the policy (R204 to R206, R213, R221, R223). A self-test of the cue checker shows its
result, and a failed one is a cause of degraded mode; a release from degraded mode reruns both self-tests and is accepted where both
pass, the heartbeat is good and the scenes agree. The end of a pilot block writes one result for each watched output. A policy record
that passes its checks is taken, and comes into force on the lead and its understudy at a boundary without a cue in flight or ARMED. -/
def Obligations.KeysTestAndPolicyTakesForce : Prop :=
  (∀ (sd : Side) (s : State), let x := s.on sd
    x.alive = true → x.is CQ_STAT.RUN = true →
    ∃ t, exec (.k1Selftest sd true) s = .next t
      ∧ Within (keysOf [CQ_STAT.ST_OK.key]) [.twin, .lines] sd s t
      ∧ (t.on sd).get CQ_STAT.ST_OK = 1
      ∧ (t.on sd).twin = { x.twin with stDone := insertNat 0 x.twin.stDone, stPassed := insertNat 0 x.twin.stPassed })
  ∧ (∀ (sd : Side) (s : State), let x := s.on sd
    x.alive = true → x.is CQ_STAT.RUN = true →
    ∃ t, exec (.k1Selftest sd false) s = .next t
      ∧ Within (keysOn (0x0A :: eventPages)) (.watch :: eventParts) sd s t
      ∧ (t.on sd).get CQ_STAT.ST_OK = 0 ∧ (t.on sd).is (evtBit 0x0A 6) = true
      ∧ (t.on sd).watch = { x.watch with degPending := Nat.lor x.watch.degPending 1 })
  ∧ (∀ (sd : Side) (m : Master) (v : Word) (s : State), let y := (s.on sd).paired m 0x09050 v
    (s.on sd).holds m 0x09050 v = true → v.toNat % 2 = 1 → y.is CQ_STAT.HB_OK = true → y.sceneAgrees = true →
    ∃ t, exec (.degradedRelease sd m (.complement (~~~v)) true true) s = .next t
      ∧ Within (keysOf (pairKeys 0x09050 ++ [CQ_STAT.ST_OK.key, SW_STAT.K2_ST_OK.key, SW_REL_STAT.DEG.key])) [.pairs, .watch, .twin, .perf, .lines] sd s t
      ∧ (t.on sd).get SW_REL_STAT.DEG = 1 ∧ (t.on sd).get CQ_STAT.ST_OK = 1 ∧ (t.on sd).get SW_STAT.K2_ST_OK = 1
      ∧ (t.on sd).watch = { (s.on sd).watch with relDegraded := true })
  ∧ (∀ (sd : Side) (m : Master) (v : Word) (s : State), let y := (s.on sd).paired m 0x09050 v
    (s.on sd).holds m 0x09050 v = true → v.toNat % 2 = 1 → y.is CQ_STAT.HB_OK = false →
    ∃ t, exec (.degradedRelease sd m (.complement (~~~v)) true true) s = .next t
      ∧ Within (keysOf (pairKeys 0x09050 ++ [CQ_STAT.ST_OK.key, SW_STAT.K2_ST_OK.key, SW_REL_STAT.DEG.key])) [.pairs, .twin, .perf, .lines] sd s t
      ∧ (t.on sd).get SW_REL_STAT.DEG = 2)
  ∧ (∀ (sd : Side) (s : State), let x := s.on sd; let j := x.beatNo / 2560 - 1
    x.alive = true → x.leads = true → x.rigged = true → x.win = .copy → x.beatNo % 2560 = 0 → x.beatNo ≠ 0 → x.watch.series ≠ [] →
    ∃ t, exec (.pilotBlockEnd sd) s = .next t
      ∧ Within (keysOn eventPages) (.mem :: .ecc :: .watch :: eventParts) sd s t
      ∧ (t.on sd).get SW_PILOT_BLK.BLOCK = j % 2 ^ 32 ∧ (t.on sd).is (evtBit 0x09 4) = true
      ∧ (t.on sd).watch.series = [] ∧ (t.on sd).watch.invalid = []
      ∧ (x.watchedOuts.all (fun q => (t.on sd).rd (pilotTable + 8 * q) 8 == (x.judgeOut j q).toWord % 2 ^ 64) = true)
      ∧ (∀ a, a < pilotTable ∨ pilotTable + 8 * x.ports ≤ a → (t.on sd).rd8 a = x.rd8 a))
  ∧ (∀ (sd : Side) (m : Master) (v : Word) (s : State), let y := (s.on sd).paired m 0x0A04C v
    let b := y.rdBytes (y.get CQ_POL_ADDR.ADDR / 16 * 16) (y.get CQ_POL_LEN.LEN)
    (s.on sd).holds m 0x0A04C v = true → v.toNat % 2 = 1 → y.leads = true → policyReject b = 0 → y.watch.policyPending = none →
    ∃ t, exec (.policyCommit sd m (.complement (~~~v))) s = .next t
      ∧ Within (keysOf (pairKeys 0x0A04C ++ [CQ_POL_STAT.RESULT.key])) [.pairs, .watch, .perf, .lines] sd s t
      ∧ (t.on sd).get CQ_POL_STAT.RESULT = 1 ∧ (t.on sd).get CQ_POL_STAT.REASON = 0
      ∧ (t.on sd).watch = { (s.on sd).watch with
          policyPending := some (policyOf b, b), policyAt := 0x10000000 + y.get CQ_POL_ADDR.ADDR / 16 * 16 % 0x800000 })
  ∧ (∀ (sd : Side) (m : Master) (v : Word) (r : Nat) (s : State), let y := (s.on sd).paired m 0x0A04C v
    let b := y.rdBytes (y.get CQ_POL_ADDR.ADDR / 16 * 16) (y.get CQ_POL_LEN.LEN)
    (s.on sd).holds m 0x0A04C v = true → v.toNat % 2 = 1 → y.leads = true → policyReject b = r → r ≠ 0 →
    ∃ t, exec (.policyCommit sd m (.complement (~~~v))) s = .next t
      ∧ Within (keysOn (0x0A :: eventPages)) (.pairs :: eventParts) sd s t
      ∧ (t.on sd).get CQ_POL_STAT.RESULT = 3 ∧ (t.on sd).get CQ_POL_STAT.REASON = r ∧ (t.on sd).is (evtBit 0x0A 5) = true)
  ∧ (∀ (sd : Side) (p : Policy) (b : List Byte) (s : State), let x := s.on sd; let y := s.on sd.peer
    x.watch.policyPending = some (p, b) → x.policyReady = true →
    ∃ t, exec (.policyInForce sd) s = .next t
      ∧ t = { s with a := t.a, b := t.b }
      ∧ Alike (keysOf [CQ_STAT.POLICY_IN.key, CQ_POL_STAT.RESULT.key, 0x0A00C]) [.watch, .twin, .lines] x (t.on sd)
      ∧ (t.on sd).watch = { x.watch with policy := some (policyOf b), policyBytes := b, policyPending := none }
      ∧ (t.on sd).get CQ_POL_STAT.RESULT = 2 ∧ (t.on sd).get CQ_STAT.POLICY_IN = 1 ∧ (t.on sd).is (evtBit 0x0A 5) = true
      ∧ (if y.alive && y.isUnderstudy then
          Alike (keysOf [CQ_STAT.POLICY_IN.key, CQ_POL_STAT.PINS.key]) [.watch, .lines] y (t.on sd.peer)
            ∧ (t.on sd.peer).watch = { y.watch with policy := some (policyOf b), policyBytes := b, policyAt := x.watch.policyAt }
        else Alike (keysOf []) [.lines] y (t.on sd.peer)))

/-- The beat's instants (R11, R14, R15, R27, R141 to R144, R206, R208, R209, R221, R233 to R235). A boundary begins the next beat at offset 0, its number one up
unless the grid realigns; the loop window, the scene window, the arming cutoff, the marker and the judgement follow in their order, each
once. In the loop window a loop that is alone due takes its sample: without a valid one it counts, in its band it rests, and outside it
steps its actuator by the flank or the extremum law, within its limits and at its interval; and a lit cell's tap misses above its limit,
its third miss in a row being a declaration, which a pass ends. At the cutoff a READY cue that was not armed ends MISSED with REASON 2, or
with REASON 1 where its E became unreachable (R29), and the stage watch shows its self-test. The lead closes
the copy of its beat with a marker over the records it has sent. Its marker is COMPLETE 0 where the records pass the limit of a beat, where
a flit was lost, or a record with it: that counts as an overrun, the records left go first in the next beat, and its marker has CARRY; a
marker of a lead that resigns to a FIT peer has RESIGN (R230, R234). A beat with marker and pulse is not silent, and after three silent
beats a FIT understudy takes over at the next boundary while a lead takes its peer as not FIT and raises source 0x87. A window command out of
its order, or a second one in a beat, does nothing: the order itself, in which the marker may follow any earlier window, is the model's
choice (log entry 97). -/
def Obligations.BeatsPassTheirInstants : Prop :=
  (∀ (sd : Side) (s : State), let x := s.on sd
    x.alive = true → x.time.stepOpen = false → x.twin.update = none →
    ∃ t, exec (.beatBoundary sd) s = .next t
      ∧ t = { s with a := t.a, b := t.b }
      ∧ Alike (fun _ => true) [.mem, .ecc, .hostWrites, .clock, .off, .drive, .mon, .loops, .scene, .pipe, .cal, .watch, .twin, .net, .time, .fault,
          .lines, .therm, .perf, .nvm, .free, .power, .tap] x (t.on sd)
      ∧ (t.on sd).produced = x.produced + 1 ∧ (t.on sd).beatNo = (x.beatNo + 1) % 2 ^ 64 ∧ (t.on sd).win = .edge ∧ (t.on sd).off = 0)
  ∧ (∀ (sd : Side) (s : State), (s.on sd).alive = false → ∃ t, exec (.beatBoundary sd) s = .next t ∧ t = s)
  ∧ (∀ (sd : Side) (capacity : Nat) (s : State), let x := s.on sd
    x.alive = true → x.win = .edge → x.stopped = false →
    ∃ t, exec (.loopWindow sd capacity) s = .next t
      ∧ Within (keysOn ([0x0D, 0x0E, 0x16, 0x17, 0x30, 0x31] ++ (List.range 10).map (fun i => 0x20 + i) ++ eventPages))
          (([.mem, .ecc, .clock, .off, .drive, .mon, .loops, .scene, .cal, .watch, .free] : List Part) ++ eventParts) sd s t
      ∧ (t.on sd).win = .loop ∧ (t.on sd).beatNo = x.beatNo ∧ (t.on sd).produced = x.produced ∧ (t.on sd).off = max x.off 200
      ∧ (∀ a, a < 0x30000000 → (t.on sd).rd8 a = x.rd8 a))
  ∧ (∀ (sd : Side) (hb : Bool) (s : State), let x := s.on sd
    x.alive = true → x.win = .loop → x.stopped = false → x.is CQ_STAT.RUN = true →
    x.scene.handovers.all (fun h => Nat.ble h.cell 8191) = true →
    ∃ t, exec (.sceneWindow sd hb) s = .next t
      ∧ Within (keysOn ([0x0A, 0x0B, 0x0C, 0x0D, 0x18, 0x19, 0x1A, 0x1B, 0x1C, 0x30, 0x31] ++ eventPages))
          (([.mem, .ecc, .clock, .off, .scene, .pipe, .watch, .net] : List Part) ++ eventParts) sd s t
      ∧ (t.on sd).win = .scene ∧ (t.on sd).beatNo = x.beatNo ∧ (t.on sd).produced = x.produced ∧ (t.on sd).off = max x.off 6600
      ∧ (t.on sd).is CQ_STAT.HB_OK = hb ∧ (t.on sd).watch.keyMisses = (if hb = true then 0 else x.watch.keyMisses + 1)
      ∧ (∀ a, a < 0x30088000 ∨ 0x300A8000 ≤ a → x.endByte a = false → (t.on sd).rd8 a = x.rd8 a))
  ∧ (∀ (sd : Side) (ok : Bool) (s : State), let x := s.on sd
    x.alive = true → x.win = .scene → x.stopped = false →
    ∃ t, exec (.armingCutoff sd ok) s = .next t
      ∧ Within (keysOn ([0x0A, 0x0B, 0x0C, 0x18, 0x19, 0x1A, 0x1B, 0x1C] ++ eventPages)) (([.mem, .ecc, .clock, .off, .scene, .pipe, .watch, .net] : List Part) ++ eventParts) sd s t
      ∧ (t.on sd).win = .copy ∧ (t.on sd).beatNo = x.beatNo ∧ (t.on sd).produced = x.produced ∧ (t.on sd).off = max x.off 8500
      ∧ (t.on sd).is SW_STAT.K2_ST_OK = ok
      ∧ (∀ a, x.endByte a = false → (t.on sd).rd8 a = x.rd8 a))
  ∧ (∀ (sd : Side) (ok : Bool) (e : Nat) (k : TrkEntry) (s : State), let x := s.on sd
    x.alive = true → x.win = .scene → x.leads = true → x.pipe.waiting = [] → byOrder x.flying = [(e, k)] → k.state = .ready →
    k.eff ≤ x.beatNo + 1 →
    ∃ t, exec (.armingCutoff sd ok) s = .next t
      ∧ ((t.on sd).trk e).state = .missed ∧ ((t.on sd).trk e).reason = (if k.eff ≤ x.beatNo then 1 else 2)
      ∧ (k.eff = x.beatNo + 1 → min 255 (x.get SC_OVR_CNT.ARM + 1) ≤ (t.on sd).get SC_OVR_CNT.ARM))
  ∧ (∀ (sd : Side) (s : State), let x := s.on sd
    let z := ({ x with win := .marked, off := max x.off 9600 }.emitLoops).bulkBlock
    let l := if (s.on sd.peer).get TH_INT_STAT.STATE = 1 then [] else z.twin.late ++ z.twin.records
    x.alive = true → x.leads = true → x.win ≠ .marked → x.win ≠ .judged → (fitRecords copyLimit l).2 = [] → x.twin.flitLost = false → x.twin.lostRecords = [] →
    z.resigns = false →
    ∃ t, exec (.commitMarker sd) s = .next t
      ∧ Within (keysOn [0x06, 0x08]) [.ecc, .clock, .off, .twin, .perf, .lines] sd s t
      ∧ (t.on sd).win = .marked ∧ (t.on sd).beatNo = x.beatNo ∧ (t.on sd).produced = x.produced
      ∧ (t.on sd).twin.sent = l ∧ (t.on sd).twin.records = [] ∧ (t.on sd).twin.late = [] ∧ (t.on sd).twin.lostRecords = []
      ∧ (t.on sd).twin.marker = markerBytes true false (z.twin.swapPending && !z.cueBusy && !x.twin.resignLine) (!z.twin.late.isEmpty)
          (x.get TW_COPY_STAT.COPY_VER) l.length (crc32c l.flatten) x.beatNo
      ∧ (t.on sd).get TW_COPY_STAT.NOCOMMIT = 0)
  ∧ (∀ (sd : Side) (s : State), let x := s.on sd
    x.alive = true → x.leads = false → x.win ≠ .marked → x.win ≠ .judged →
    ∃ t, exec (.commitMarker sd) s = .next t
      ∧ Within (keysOf []) [.clock, .off, .twin, .lines] sd s t
      ∧ (t.on sd).win = .marked ∧ (t.on sd).beatNo = x.beatNo
      ∧ (t.on sd).twin = { x.twin with
          marker := markerBytes true false false false (x.get TW_COPY_STAT.COPY_VER) 0 (crc32c []) x.beatNo })
  ∧ (∀ (sd : Side) (s : State), let x := s.on sd
    x.alive = true → x.win ≠ .judged → x.get TW_ROLE.ROLE ≠ 0 → x.twin.markerSeen = true → x.twin.pulseSeen = true →
    ∃ t, exec (.heartbeatJudge sd) s = .next t
      ∧ Within (keysOf [TW_HB_STAT.SILENT.key]) [.clock, .off, .twin, .lines] sd s t
      ∧ (t.on sd).win = .judged ∧ (t.on sd).get TW_HB_STAT.SILENT = 0
      ∧ (t.on sd).get TW_HB_STAT.MARKER_OK = 1 ∧ (t.on sd).get TW_HB_STAT.PULSE_OK = 1
      ∧ (t.on sd).twin.markerSeen = false ∧ (t.on sd).twin.pulseSeen = false)
  ∧ (∀ (sd : Side) (s : State), let x := s.on sd
    x.alive = true → x.win ≠ .judged → x.isUnderstudy = true → x.twin.markerSeen = false → x.twin.pulseSeen = false →
    2 ≤ x.get TW_HB_STAT.SILENT → x.fitNow = true → x.twin.takeoverDue.all (fun d => Nat.blt (x.produced + 1) d) = true →
    ∃ t, exec (.heartbeatJudge sd) s = .next t
      ∧ Within (keysOf [TW_HB_STAT.SILENT.key]) [.clock, .off, .twin, .lines] sd s t
      ∧ (t.on sd).get TW_HB_STAT.SILENT = 3 ∧ (t.on sd).twin.takeoverDue = some (x.produced + 1) ∧ (t.on sd).twin.takeoverCause = 1)
  ∧ (∀ (sd : Side) (s : State), let x := s.on sd
    x.alive = true → x.win ≠ .judged → x.leads = true → x.twin.markerSeen = false → x.twin.pulseSeen = false → x.get TW_HB_STAT.SILENT = 2 →
    ∃ t, exec (.heartbeatJudge sd) s = .next t
      ∧ Within (keysOn eventPages) (([.clock, .off] : List Part) ++ eventParts) sd s t
      ∧ (x.mild = true → (t.on sd).get TW_HB_STAT.SILENT = 3) ∧ (t.on sd).get TW_ROLE.PEER_FIT = 0
      ∧ (t.on sd).is (evtBit 0x08 4) = true ∧ x.raised (t.on sd) 0x87 = true)
  ∧ (∀ (sd : Side) (capacity l : Nat) (s : State), let x := s.on sd; let w := x.sample (x.t LT.MI l)
    x.soleLoop capacity l = true → x.loops.fresh.contains l = false → sampleValid w ≠ 0 →
    ∃ t, exec (.loopWindow sd capacity) s = .next t
      ∧ (t.on sd).t LT.INV l = min 255 (x.t LT.INV l + 1) ∧ (t.on sd).t LT.OOBCNT l = x.t LT.OOBCNT l
      ∧ (min 255 (x.t LT.INV l + 1) = max 1 (x.get HL_CTRL.INV_MAX) → (t.on sd).is (evtBit 0x16 0) = true)
      ∧ (∀ d, (t.on sd).base d = x.base d))
  ∧ (∀ (sd : Side) (capacity l : Nat) (s : State), let x := s.on sd; let w := x.sample (x.t LT.MI l); let y := x.loopValue l w
    x.soleLoop capacity l = true → x.loops.fresh.contains l = false → sampleValid w = 0 →
    (if x.t LT.LAW l = 2 then (x.tis LT.SRCH l = true ∧ y ≤ x.t LT.MARK l) ∨ (x.tis LT.SRCH l = false ∧ y ≤ x.t LT.MARK l + x.t LT.BAND l)
      else ((y : Int) - x.t LT.MARK l).natAbs ≤ x.t LT.BAND l) →
    ∃ t, exec (.loopWindow sd capacity) s = .next t
      ∧ (t.on sd).t LT.INV l = 0 ∧ (t.on sd).t LT.OOBCNT l = 0 ∧ (t.on sd).t LT.SRCH l = 0 ∧ (t.on sd).t LT.LAST l = x.t LT.LAST l
      ∧ (∀ d, (t.on sd).base d = x.base d))
  ∧ (∀ (sd : Side) (capacity l : Nat) (s : State), let x := s.on sd; let w := x.sample (x.t LT.MI l)
    let e : Int := (x.loopValue l w : Int) - x.t LT.MARK l
    let n := min 65535 (x.t LT.OOBCNT l + 1)
    let m : Int := if 8 * x.t LT.BAND l < e.natAbs ∧ x.t LT.STEP_FAR l ≠ 0 then x.t LT.STEP_FAR l else max 1 (x.t LT.STEP l)
    let v : Int := (x.base (x.actuator l) : Int) + (if decide (0 < e) = x.tis LT.DIR l then -m else m)
    x.soleLoop capacity l = true → x.loops.fresh.contains l = false → sampleValid w = 0 → x.t LT.LAW l ≠ 2 → x.t LT.BAND l < e.natAbs →
    x.mode (x.actuator l) ≠ 0 →
    ∃ t, exec (.loopWindow sd capacity) s = .next t
      ∧ (t.on sd).t LT.INV l = 0 ∧ (t.on sd).t LT.OOBCNT l = n ∧ (n = max 1 (x.get HL_OOB_MAX.BEATS) → (t.on sd).is (evtBit 0x16 2) = true)
      ∧ (x.intervalOf l ≤ (x.beatNo % 65536 + 65536 - x.t LT.LAST l) % 65536 →
          (t.on sd).base (x.actuator l) = (clampInt (x.t DT.LIMIT_LO (x.actuator l)) (x.t DT.LIMIT_HI (x.actuator l)) v).toNat
            ∧ (t.on sd).t LT.LAST l = x.beatNo % 65536
            ∧ (t.on sd).t LT.SAT l = (if v < x.t DT.LIMIT_LO (x.actuator l) ∨ x.t DT.LIMIT_HI (x.actuator l) < v then 1 else 0))
      ∧ ((x.beatNo % 65536 + 65536 - x.t LT.LAST l) % 65536 < x.intervalOf l →
          (t.on sd).base (x.actuator l) = x.base (x.actuator l) ∧ (t.on sd).t LT.LAST l = x.t LT.LAST l)
      ∧ (∀ d, d ≠ x.actuator l → (t.on sd).base d = x.base d))
  ∧ (∀ (sd : Side) (capacity l : Nat) (s : State), let x := s.on sd; let w := x.sample (x.t LT.MI l); let y := x.loopValue l w
    let low := if x.tis LT.SRCH l = true then x.t LT.LOWEST l else y
    let turns := decide (low + x.t LT.BAND l < y)
    let dir := if turns then 1 - x.t LT.DIRST l else x.t LT.DIRST l
    let m : Int := max 1 (if x.tis LT.ACT l = true then x.t LT.STEP_E l else x.t LT.STEP l)
    let v : Int := (x.base (x.actuator l) : Int) + (if dir = 1 then m else -m)
    x.soleLoop capacity l = true → x.loops.fresh.contains l = false → sampleValid w = 0 → x.t LT.LAW l = 2 →
    (if x.tis LT.SRCH l = true then x.t LT.MARK l < y else x.t LT.MARK l + x.t LT.BAND l < y) →
    x.mode (x.actuator l) ≠ 0 → x.intervalOf l ≤ (x.beatNo % 65536 + 65536 - x.t LT.LAST l) % 65536 →
    ∃ t, exec (.loopWindow sd capacity) s = .next t
      ∧ (t.on sd).t LT.SRCH l = 1 ∧ (t.on sd).t LT.DIRST l = dir
      ∧ (t.on sd).t LT.LOWEST l = (if y < low ∨ turns = true then y else low)
      ∧ (t.on sd).t LT.OOBCNT l = min 65535 (x.t LT.OOBCNT l + 1) ∧ (t.on sd).t LT.LAST l = x.beatNo % 65536
      ∧ (t.on sd).base (x.actuator l) = (clampInt (x.t DT.LIMIT_LO (x.actuator l)) (x.t DT.LIMIT_HI (x.actuator l)) v).toNat)
  ∧ (∀ (sd : Side) (capacity c l : Nat) (s : State), let x := s.on sd; let w := x.sample (x.t CT.TAP_MI c)
    let limit := x.t LT.MARK l + max 5 (x.get SW_CTRL.CELL_K) * x.t LT.BAND l
    let n := Tab.getD x.watch.misses c 0 + 1
    x.alive = true → x.win = .edge → x.stopped = false → x.awake = true → x.leads = true → x.rigged = true → x.mild = true →
    x.cal.runs = [] → x.loops.tunes = [] → c < x.cells → x.cellLit c = true → x.cellLoop c = some l → x.tis CT.TAP_PRESENT c = true →
    x.tis LT.EN l = true → sampleValid w = 0 → x.nearEdge c = false →
    ∃ t, exec (.loopWindow sd capacity) s = .next t
      ∧ (x.loopValue l w ≤ limit → Tab.get? (t.on sd).watch.misses c = none ∧ (t.on sd).watch.declared.contains c = false)
      ∧ (limit < x.loopValue l w → Tab.getD (t.on sd).watch.misses c 0 = n
          ∧ (n = 3 → (t.on sd).watch.declared.contains c = true ∧ (t.on sd).get SW_DECL.LAST_VALID = 1 ∧ (t.on sd).is (evtBit 0x09 1) = true)
          ∧ (n ≠ 3 → (t.on sd).watch.declared.contains c = x.watch.declared.contains c)))
  ∧ (∀ (sd : Side) (capacity c : Nat) (s : State), let x := s.on sd
    x.alive = true → x.win = .edge → x.stopped = false → x.mild = true → x.cal.runs = [] → x.loops.tunes = [] → c < x.cells → x.cellLit c = true →
    sampleValid (x.sample (x.t CT.TAP_MI c)) ≠ 0 ∨ x.nearEdge c = true →
    ∃ t, exec (.loopWindow sd capacity) s = .next t
      ∧ Tab.get? (t.on sd).watch.misses c = Tab.get? x.watch.misses c ∧ (t.on sd).watch.declared.contains c = x.watch.declared.contains c)
  ∧ (∀ (sd : Side) (s : State), let x := s.on sd
    let z := ({ x with win := .marked, off := max x.off 9600 }.emitLoops).bulkBlock
    let l := if (s.on sd.peer).get TH_INT_STAT.STATE = 1 then [] else z.twin.late ++ z.twin.records
    let f := fitRecords copyLimit l
    let p := splitPlaces z.twin.lostRecords f.1
    x.alive = true → x.leads = true → x.win ≠ .marked → x.win ≠ .judged → z.resigns = false →
    f.2 ≠ [] ∨ p.1 ≠ [] ∨ (z.twin.flitLost = true ∧ (s.on sd.peer).get TH_INT_STAT.STATE ≠ 1) →
    ∃ t, exec (.commitMarker sd) s = .next t
      ∧ (t.on sd).win = .marked ∧ (t.on sd).beatNo = x.beatNo ∧ (t.on sd).produced = x.produced
      ∧ (t.on sd).twin.sent = p.2 ∧ (t.on sd).twin.records = [] ∧ (t.on sd).twin.late = p.1 ++ f.2
      ∧ (t.on sd).twin.marker = markerBytes false false false (!z.twin.late.isEmpty)
          (x.get TW_COPY_STAT.COPY_VER) p.2.length (crc32c p.2.flatten) x.beatNo
      ∧ (t.on sd).twin.swapAt = z.twin.swapAt
      ∧ (t.on sd).get SC_OVR_CNT.COPY = min 255 (z.get SC_OVR_CNT.COPY + 1) ∧ (t.on sd).is (evtBit 0x0B 1) = true
      ∧ (t.on sd).get TW_COPY_STAT.NOCOMMIT = min 16 (z.get TW_COPY_STAT.NOCOMMIT + 1)
      ∧ (t.on sd).get TW_COPY_STAT.LAST_COMMIT = z.get TW_COPY_STAT.LAST_COMMIT
      ∧ (f.2 ≠ [] → z.raised (t.on sd) 0x5F = true))
  ∧ (∀ (sd : Side) (s : State), let x := s.on sd
    let z := ({ x with win := .marked, off := max x.off 9600 }.emitLoops).bulkBlock
    let l := if (s.on sd.peer).get TH_INT_STAT.STATE = 1 then [] else z.twin.late ++ z.twin.records
    x.alive = true → x.leads = true → x.win ≠ .marked → x.win ≠ .judged → (fitRecords copyLimit l).2 = [] → z.twin.flitLost = false →
    z.twin.lostRecords = [] → z.resigns = true →
    ∃ t, exec (.commitMarker sd) s = .next t
      ∧ (t.on sd).win = .marked ∧ (t.on sd).twin.sent = l ∧ (t.on sd).twin.records = [] ∧ (t.on sd).twin.late = []
      ∧ (t.on sd).twin.marker = markerBytes true true false (!z.twin.late.isEmpty)
          (x.get TW_COPY_STAT.COPY_VER) l.length (crc32c l.flatten) x.beatNo
      ∧ (t.on sd).twin.swapAt = z.twin.swapAt
      ∧ (z.twin.resignSent = false → z.raised (t.on sd) 0x8A = true))
  ∧ (∀ (sd : Side) (c : Instr) (s : State), let x := s.on sd
    c.side = some sd → x.outOfOrder c = true →
    ∃ t, exec c s = .next t ∧ Within (keysOf []) [.lines] sd s t)

/-- The tile and the start of the stage (R43, R61, R64, R391). The lead that starts reads the tile: without one it shows case 1 and
rejects it; with a tile of its own record's serial and CRC the record's rig map comes into force, and the pads are to start at the
boundaries that follow: at the first its fence is released with the outputs disabled, unless the peer requests the fence, and at the next
every named DO takes its park value, or code 0 where park table or calibration record was rejected, and the outputs are enabled (R100).
While no rig map is in force the read is repeated. A tile image that differs from
the NVM record is rewritten with the record; at the end of a write of the tile, done or failed, the image of a commit that waited for it
follows (R64). That a tile which answers no more counts as such, with REJECT NO_TILE, is the model's choice
(log entry 73), and so are the park values where there is no calibration record at all (log entry 72). -/
def Obligations.TilesAreReadAndStagesStart : Prop :=
  (∀ (sd : Side) (s : State), let x := s.on sd
    x.alive = true → x.leads = true → x.get CK_STAT.STAGE = 2 → s.tilePresent = false → x.is RG_STAT.IN_FORCE = false →
    ∃ t, exec (.parkApply sd) s = .next t
      ∧ Within (keysOn (0x01 :: 0x0F :: eventPages)) eventParts sd s t
      ∧ (t.on sd).get RG_STAT.CASE = 1 ∧ (t.on sd).get RG_STAT.REJECT = 1 ∧ (t.on sd).get CK_STAT.STAGE = (if x.power.firmware then 5 else 4)
      ∧ (t.on sd).is (evtBit 0x0F 1) = true)
  ∧ (∀ (sd : Side) (img : List Byte) (s : State), let x := s.on sd; let v := s.tileView
    x.alive = true → x.leads = true → x.get CK_STAT.STAGE = 2 → v.present = true → factoryMagicOk v.factory = true → factoryCrcOk v.factory = true → x.record RecordKind.rigMap.area = some img →
    rigSerial img = factorySerial v.factory → rigHeaderReject v.image = 0 → rigCrc v.image = rigCrc img →
    ∃ t, exec (.parkApply sd) s = .next t
      ∧ Within (keysOn startPages) startParts sd s t
      ∧ (t.on sd).startedWith img ∧ (t.on sd).get CK_STAT.STAGE = 3 ∧ (t.on sd).get TW_ROLE.FENCED = x.get TW_ROLE.FENCED
      ∧ (∀ a, a < 0x30000000 → (t.on sd).rd8 a = x.rd8 a))
  ∧ (∀ (sd : Side) (s : State), let x := s.on sd
    x.alive = true → x.leads = true → x.get RG_STAT.CASE ≠ 0 → x.is RG_STAT.IN_FORCE = false → s.tilePresent = false →
    ∃ t, exec (.tileReadRetry sd) s = .next t
      ∧ Within (keysOn (0x01 :: 0x0F :: eventPages)) eventParts sd s t
      ∧ (t.on sd).get RG_STAT.CASE = 1 ∧ (t.on sd).get RG_STAT.REJECT = 1 ∧ (t.on sd).get CK_STAT.STAGE = x.get CK_STAT.STAGE)
  ∧ (∀ (sd : Side) (img : List Byte) (s : State), let x := s.on sd; let v := s.tileView
    x.alive = true → x.leads = true → x.get RG_STAT.CASE ≠ 0 → x.is RG_STAT.IN_FORCE = false → v.present = true → factoryMagicOk v.factory = true → factoryCrcOk v.factory = true → x.record RecordKind.rigMap.area = some img →
    rigSerial img = factorySerial v.factory → rigHeaderReject v.image = 0 → rigCrc v.image = rigCrc img →
    ∃ t, exec (.tileReadRetry sd) s = .next t
      ∧ Within (keysOn startPages) startParts sd s t
      ∧ (t.on sd).startedWith img ∧ (t.on sd).get CK_STAT.STAGE = x.get CK_STAT.STAGE
      ∧ (∀ a, a < 0x30000000 → (t.on sd).rd8 a = x.rd8 a))
  ∧ (∀ (sd : Side) (s : State), let x := s.on sd; let held := (x.record RecordKind.rigMap.area).getD x.rigImage
    x.managed = true → x.leads = true → x.get RG_STAT.CASE = 3 → x.is RG_STAT.VERIFIED = false → s.tilePresent = true →
    s.tileView.image = held.take (rigLen held) →
    ∃ t, exec (.backgroundVerify sd) s = .next t
      ∧ Within (keysOf [RG_STAT.VERIFIED.key]) [.lines] sd s t
      ∧ (t.on sd).get RG_STAT.VERIFIED = 1 ∧ (t.on sd).get RG_STAT.CASE = 3)
  ∧ (∀ (sd : Side) (s : State), let x := s.on sd; let held := (x.record RecordKind.rigMap.area).getD x.rigImage
    x.managed = true → x.leads = true → x.get RG_STAT.CASE = 3 → x.is RG_STAT.VERIFIED = false →
    s.tilePresent = false ∨ s.tileView.image ≠ held.take (rigLen held) →
    ∃ t, exec (.backgroundVerify sd) s = .next t
      ∧ Within (keysOn (0x0F :: eventPages)) (.nvm :: eventParts) sd s t
      ∧ (t.on sd).get RG_STAT.VERIFIED = 1 ∧ (t.on sd).get RG_COMMIT_STAT.TILE_BUSY = 1
      ∧ (t.on sd).nvm = { x.nvm with tileWrite := some held } ∧ (t.on sd).is (evtBit 0x0F 3) = true
      ∧ (s.tilePresent = false → (t.on sd).get RG_STAT.REJECT = 1))
  ∧ (∀ (sd : Side) (img : List Byte) (s : State), let x := s.on sd
    x.alive = true → x.leads = true → x.nvm.tileWrite = some img → s.tilePresent = true →
    ∃ t, exec (.tileWriteDone sd true) s = .next t
      ∧ t = { s.put sd (t.on sd) with tile := tileWith s.tile img }
      ∧ Alike (keysOf [RG_COMMIT_STAT.TILE_BUSY.key, 0x0F00C]) [.nvm, .lines] x (t.on sd)
      ∧ (t.on sd).is RG_COMMIT_STAT.TILE_BUSY = x.nvm.tileNext.isSome
      ∧ (t.on sd).nvm = { x.nvm with
          tileWrite := x.nvm.tileNext, tileNext := none, tileCommit := x.nvm.tileNext.isSome, rigCommit := x.nvm.rigCommit && !x.nvm.tileCommit }
      ∧ (t.on sd).is (evtBit 0x0F 5) = true)
  ∧ (∀ (sd : Side) (img : List Byte) (ok : Bool) (s : State), let x := s.on sd
    x.alive = true → x.nvm.tileWrite = some img → (ok && s.tilePresent && x.leads) = false →
    ∃ t, exec (.tileWriteDone sd ok) s = .next t
      ∧ Within (keysOn (0x0F :: eventPages)) (.nvm :: eventParts) sd s t
      ∧ (t.on sd).is RG_COMMIT_STAT.TILE_BUSY = x.nvm.tileNext.isSome ∧ (t.on sd).nvm.tileWrite = x.nvm.tileNext
      ∧ (t.on sd).nvm.rigCommit = (x.nvm.rigCommit && !x.nvm.tileCommit) ∧ x.raised (t.on sd) 0xAC = true ∧ t.tile = s.tile)
  ∧ (∀ (sd : Side) (s : State), let x := s.on sd; let y := { x with power := { x.power with pads := none } }
    s.calmBut sd y = true → x.power.pads = some false → x.leads = true →
    ∃ t, exec (.beatBoundary sd) s = .next t
      ∧ ((s.on sd.peer).twin.fenceRequest = false →
          (t.on sd).get TW_ROLE.FENCED = 0 ∧ (t.on sd).get DO_STAT.STAGE_EN = 0 ∧ (t.on sd).power.pads = some true)
      ∧ ((s.on sd.peer).twin.fenceRequest = true →
          (t.on sd).get TW_ROLE.FENCED = x.get TW_ROLE.FENCED ∧ (t.on sd).power.pads = some false)
      ∧ (∀ d, (t.on sd).base d = x.base d))
  ∧ (∀ (sd : Side) (s : State), let x := s.on sd; let y := { x with power := { x.power with pads := none } }
    let kept := x.drive.parkValid && (x.cal.recordValid || (x.record RecordKind.calibration.area).isNone)
    let z := { x with drive := { x.drive with parkValid := kept } }
    s.calmBut sd y = true → x.power.pads = some true → x.leads = true → (s.on sd.peer).twin.fenceRequest = false →
    ∃ t, exec (.beatBoundary sd) s = .next t
      ∧ (t.on sd).get DO_STAT.STAGE_EN = 1 ∧ (t.on sd).get DO_STAT.PARK_APPLIED = 1 ∧ (t.on sd).is (evtBit 0x10 0) = true
      ∧ (t.on sd).power.pads = none ∧ (t.on sd).drive.parkValid = kept
      ∧ ((RigMap.of x.rigImage).drives.all (fun q => (t.on sd).base q.2.2 == z.parkValue q.2.2)) = true)

/-- Writes of rig maps and element tables (R19, R60, R64, R353, R422). A committed rig map that passes its checks starts its record; one
that fails is rejected with its reason and starts none, as is one that comes while a commit runs, BUSY, or with an NVM die outside its
write window, TEMP. A host write of a table's rw fields waits for the next boundary and takes effect there, one of a stored
slot that no cue uses or of the park window takes effect at once, and one that the tables do not take changes no byte. The rewriting of
an entry whose error has been reported puts its bytes right and clears its errors; that of an unused drive entry writes the unused value. The order of a commit's
checks is the model's choice (log entries 73 and 110), and so is that writes of the park window and of stored slots act at once (log entry
74). -/
def Obligations.RigMapsAndTablesAreWritten : Prop :=
  (∀ (sd : Side) (m : Master) (c : Word) (s : State), let y := (s.on sd).paired m 0x0F088 c
    let img := y.rdBytes (y.get RG_IMG_ADDR.ADDR / 16 * 16) (y.get RG_IMG_LEN.LEN)
    (s.on sd).holds m 0x0F088 c = true → c.toNat % 2 = 1 → y.leads = true → y.nvm.rigCommit = false →
    commitReject img (factorySerial s.tileView.factory) = 0 → s.bothNvmOpen sd = true →
    ∃ t, exec (.rigMapCommit sd m (.complement (~~~c))) s = .next t
      ∧ Within (keysOf (pairKeys 0x0F088 ++ [RG_COMMIT_STAT.RESULT.key, RG_STAT.NVM_PENDING.key])) [.pairs, .nvm, .perf, .lines] sd s t
      ∧ (t.on sd).get RG_COMMIT_STAT.RESULT = 1 ∧ (t.on sd).get RG_STAT.NVM_PENDING = 0
      ∧ (t.on sd).nvm = { (s.on sd).nvm with
          rigCommit := true, writes := (s.on sd).nvm.writes.filter (fun w => w.kind != .rigMap) ++ [⟨.rigMap, img, 0, false, false⟩] })
  ∧ (∀ (sd : Side) (m : Master) (c : Word) (r : Nat) (s : State), let y := (s.on sd).paired m 0x0F088 c
    let img := y.rdBytes (y.get RG_IMG_ADDR.ADDR / 16 * 16) (y.get RG_IMG_LEN.LEN)
    (s.on sd).holds m 0x0F088 c = true → c.toNat % 2 = 1 → y.leads = true →
    (if y.nvm.rigCommit = true then 0xB
      else if commitReject img (factorySerial s.tileView.factory) ≠ 0 then commitReject img (factorySerial s.tileView.factory)
      else if s.bothNvmOpen sd = true then 0 else 0xC) = r → r ≠ 0 →
    ∃ t, exec (.rigMapCommit sd m (.complement (~~~c))) s = .next t
      ∧ Within (keysOn (0x0F :: eventPages)) (.pairs :: eventParts) sd s t
      ∧ (t.on sd).get RG_COMMIT_STAT.RESULT = 3 ∧ (t.on sd).get RG_STAT.REJECT = r ∧ (t.on sd).is (evtBit 0x0F 1) = true
      ∧ (t.on sd).nvm = (s.on sd).nvm)
  ∧ (∀ (sd : Side) (m : Master) (a : Nat) (v : Word) (s : State), let x := s.on sd; let k := tableRwMask a
    x.alive = true → a % 4 = 0 → mayAccess x.remapped m a true = true → inFieldTables a = true → k ≠ 0 →
    Nat.land (x.rd a 4) (0xFFFFFFFF - k) = Nat.land v.toNat (0xFFFFFFFF - k) →
    ∃ t, exec (.elementTableWrite sd m a v) s = .next t
      ∧ Within (keysOf accessKeys) [.hostWrites, .perf, .lines] sd s t
      ∧ (t.on sd).hostWrites = x.hostWrites ++ [⟨a, k, Nat.land v.toNat k, x.produced + 1⟩])
  ∧ (∀ (sd : Side) (m : Master) (a : Nat) (v : Word) (s : State), let x := s.on sd
    x.alive = true → a % 4 = 0 → mayAccess x.remapped m a true = true →
    (0x300A0000 ≤ a ∧ a < 0x300A0000 + 40980) ∨
      (0x30100000 ≤ a ∧ a < 0x30100000 + 240 * 0x2000 ∧ x.slotInUse ((a - 0x30100000) / 0x2000) = false) →
    ∃ t, exec (.elementTableWrite sd m a v) s = .next t
      ∧ Within (keysOf accessKeys) [.mem, .ecc, .twin, .perf, .lines] sd s t
      ∧ (t.on sd).rdBytes a 4 = leBytes 4 v.toNat
      ∧ (∀ b, b < a ∨ a + 4 ≤ b → (t.on sd).rd8 b = x.rd8 b))
  ∧ (∀ (sd : Side) (m : Master) (a : Nat) (v : Word) (s : State), let x := s.on sd
    x.alive = true → a % 4 = 0 → mayAccess x.remapped m a true = true → 0x30100000 ≤ a → a < 0x30100000 + 240 * 0x2000 →
    x.slotInUse ((a - 0x30100000) / 0x2000) = true →
    ∃ t, exec (.elementTableWrite sd m a v) s = .next t ∧ Within (keysOn eventPages) eventParts sd s t)
  ∧ (∀ (sd : Side) (a : Nat) (s : State), let x := s.on sd; let e := entryOfWord (a / 4 * 4)
    x.managed = true → x.rigged = true → inFieldTables a = true → x.eccOwed.contains (a / 4 * 4) = true → x.loops.tunes = [] →
    ∃ t, exec (.entryRewrite sd a) s = .next t
      ∧ Within (keysOf [SH_STAT.HO_ACTIVE.key]) [.mem, .ecc, .loops, .twin, .lines] sd s t
      ∧ (∀ b, e.1 ≤ b → b < e.1 + e.2 → (t.on sd).eccHard.contains b = false ∧ (t.on sd).eccSoft.contains b = false
          ∧ (t.on sd).eccOwed.contains b = false)
      ∧ (∀ b, b < e.1 ∨ e.1 + e.2 ≤ b → (t.on sd).eccOwed.contains b = x.eccOwed.contains b)
      ∧ (∀ b, b < e.1 ∨ e.1 + e.2 ≤ b → (t.on sd).rd8 b = x.rd8 b))
  ∧ (∀ (sd : Side) (d : Nat) (s : State), let x := s.on sd
    x.managed = true → x.rigged = true → d < 10240 → x.eccOwed.contains (0x30000000 + 16 * d) = true →
    (RigMap.of x.rigImage).drives.any (fun r => r.2.2 == d) = false →
    ∃ t, exec (.entryRewrite sd (0x30000000 + 16 * d)) s = .next t
      ∧ Within (keysOf []) [.mem, .ecc, .twin, .lines] sd s t
      ∧ (t.on sd).rdBytes (0x30000000 + 16 * d) 16 = (RigMap.of x.rigImage).unusedDrive d
      ∧ (∀ b, b < 0x30000000 + 16 * d ∨ 0x30000000 + 16 * d + 16 ≤ b → (t.on sd).rd8 b = x.rd8 b))
  ∧ (∀ (sd : Side) (w : TableWrite) (s : State), let x := s.on sd; let y : SideState := { x with hostWrites := [] }
    s.calmBut sd y = true → x.hostWrites = [w] → w.due ≤ x.produced + 1 → x.loops.wrote = [] → 0x30000000 ≤ w.addr →
    w.addr + 4 ≤ 0x30058000 ∨ 0x30088000 ≤ w.addr ∧ w.addr + 4 ≤ 0x30300000 → w.mask < 2 ^ 32 →
    ∃ t, exec (.beatBoundary sd) s = .next t
      ∧ (t.on sd).hostWrites = []
      ∧ (t.on sd).rd w.addr 4 = Nat.lor (Nat.land (x.rd w.addr 4) (0xFFFFFFFF - w.mask)) (Nat.land w.value w.mask)
      ∧ (∀ a, a < w.addr ∨ w.addr + 4 ≤ a → (t.on sd).rd8 a = x.rd8 a))
  ∧ (∀ (sd : Side) (w : TableWrite) (s : State), let x := s.on sd; let y : SideState := { x with hostWrites := [] }
    s.calmBut sd y = true → x.hostWrites = [w] → x.produced + 1 < w.due →
    ∃ t, exec (.beatBoundary sd) s = .next t ∧ (t.on sd).hostWrites = [w] ∧ (∀ a, (t.on sd).rd8 a = x.rd8 a))

/-- The twin link (R230 to R235, R242, R243, R274). The understudy stages the records of a beat; a present marker that is complete commits them with
those before it, and one that is not, or that carries another BEATNO, which R274 treats as COMPLETE 0, keeps them staged; after 15 such beats
the next one discards what is staged and the copy, source 0x84 is raised, and the understudy is cold, with a new bulk copy at once. A marker with a wrong CHECK is absent, and a flit with a wrong CRC is lost and counted. A pulse of
the right width near the boundary is seen, and one of another width is none; that it ends RESIGN_IN is the model's choice (log entry
109). A resignation of the lead, by its pulse or by the RESIGN bit of its marker, gives the lead to a FIT understudy at the next boundary it can,
unless a takeover is already due by then; an understudy that is not FIT raises source 0x82 and stays; a resignation of the understudy makes it
not FIT. A health report is kept by the lead, with the peer's fitness. At the boundary after its commit the copy is applied,
its records in the order sent and the staged values after them, an off DO taking none; a boundary at which nothing else is due stands
for every one. -/
def Obligations.TheCopyIsReceived : Prop :=
  (∀ (sd : Side) (b : List Byte) (s : State), let x := s.on sd
    x.alive = true → x.isUnderstudy = true →
    ∃ t, exec (.copyRecord sd b) s = .next t
      ∧ Within (keysOf accessKeys) [.twin, .perf, .lines] sd s t
      ∧ (t.on sd).twin = { x.twin with beatStaged := x.twin.beatStaged ++ [b] })
  ∧ (∀ (sd : Side) (b : List Byte) (s : State), let x := s.on sd; let w0 := leNat (slice b 0 4)
    x.alive = true → x.isUnderstudy = true → x.fault.injection = none → x.win ≠ .judged → b.length = 16 → w0 % 16 = 15 →
    leNat (slice b 4 4) = crc32c x.twin.beatStaged.flatten → leNat (slice b 8 8) = x.beatNo → bitAt w0 4 = true → bitAt w0 5 = false →
    ∃ t, exec (.markerReceived sd b true) s = .next t
      ∧ Within (keysOf (accessKeys ++ [TW_LINK.LANES.key, TW_COPY_STAT.NOCOMMIT.key])) [.twin, .perf, .lines] sd s t
      ∧ (t.on sd).twin = { x.twin with
          markerSeen := true, committed := x.twin.committed ++ (x.twin.staging ++ x.twin.beatStaged) ++ [beatEnd], staging := [], beatStaged := []
          markerResign := false, markerSwap := bitAt w0 6 }
      ∧ (t.on sd).get TW_COPY_STAT.NOCOMMIT = 0 ∧ (t.on sd).get TW_COPY_STAT.LAST_COMMIT = x.beatNo % 2 ^ 16)
  ∧ (∀ (sd : Side) (b : List Byte) (s : State), let x := s.on sd; let w0 := leNat (slice b 0 4)
    x.alive = true → x.isUnderstudy = true → x.fault.injection = none → x.win ≠ .judged → b.length = 16 → w0 % 16 = 15 →
    leNat (slice b 4 4) = crc32c x.twin.beatStaged.flatten → bitAt w0 4 = false ∨ leNat (slice b 8 8) ≠ x.beatNo → bitAt w0 5 = false →
    x.get TW_COPY_STAT.NOCOMMIT ≠ 15 →
    ∃ t, exec (.markerReceived sd b true) s = .next t
      ∧ Within (keysOf (accessKeys ++ [TW_LINK.LANES.key, TW_COPY_STAT.NOCOMMIT.key])) [.twin, .perf, .lines] sd s t
      ∧ (t.on sd).twin.committed = x.twin.committed ∧ (t.on sd).twin.staging = x.twin.staging ++ x.twin.beatStaged ++ [beatEnd]
      ∧ (t.on sd).twin.beatStaged = [] ∧ (t.on sd).twin.markerSeen = true
      ∧ (t.on sd).get TW_COPY_STAT.NOCOMMIT = min 16 (x.get TW_COPY_STAT.NOCOMMIT + 1))
  ∧ (∀ (sd : Side) (b : List Byte) (s : State), let x := s.on sd; let w0 := leNat (slice b 0 4)
    x.alive = true → x.isUnderstudy = true → x.get TW_ROLE.WARMTH = 0 → x.fault.injection = none → x.win ≠ .judged → b.length = 16 →
    w0 % 16 = 15 → leNat (slice b 4 4) = crc32c x.twin.beatStaged.flatten → bitAt w0 4 = false ∨ leNat (slice b 8 8) ≠ x.beatNo →
    bitAt w0 5 = false → x.get TW_COPY_STAT.NOCOMMIT = 15 →
    ∃ t, exec (.markerReceived sd b true) s = .next t
      ∧ Within (keysOn eventPages) eventParts sd s t
      ∧ (t.on sd).twin.committed = [] ∧ (t.on sd).twin.staging = [] ∧ (t.on sd).twin.beatStaged = [] ∧ (t.on sd).twin.markerSeen = true
      ∧ (t.on sd).get TW_ROLE.WARMTH = 0 ∧ (t.on sd).get TW_COPY_STAT.NOCOMMIT = 16 ∧ (t.on sd).is (evtBit 0x08 2) = true)
  ∧ (∀ (sd : Side) (b : List Byte) (s : State), let x := s.on sd; let w0 := leNat (slice b 0 4)
    x.alive = true → x.fitNow = true → x.fault.injection = none → x.win ≠ .judged → b.length = 16 → w0 % 16 = 15 →
    leNat (slice b 4 4) = crc32c x.twin.beatStaged.flatten → leNat (slice b 8 8) = x.beatNo → bitAt w0 4 = true → bitAt w0 5 = true →
    ∃ t, exec (.markerReceived sd b true) s = .next t
      ∧ Within (keysOf (accessKeys ++ [TW_LINK.LANES.key, TW_COPY_STAT.NOCOMMIT.key, TW_HB_STAT.RESIGN_IN.key])) [.twin, .perf, .lines] sd s t
      ∧ (t.on sd).twin = { x.twin with
          markerSeen := true, committed := x.twin.committed ++ (x.twin.staging ++ x.twin.beatStaged) ++ [beatEnd], staging := [], beatStaged := []
          markerResign := true, markerSwap := bitAt w0 6
          takeoverDue := some ((x.twin.takeoverDue.filter (fun d => Nat.ble d (x.produced + 1))).getD (x.produced + 1))
          takeoverCause := if x.twin.takeoverDue.any (fun d => Nat.ble d (x.produced + 1)) then x.twin.takeoverCause else 2 }
      ∧ (t.on sd).get TW_HB_STAT.RESIGN_IN = 1)
  ∧ (∀ (sd : Side) (b : List Byte) (s : State), let x := s.on sd; let w0 := leNat (slice b 0 4)
    x.alive = true → x.isUnderstudy = true → x.fitNow = false → x.mild = true → x.fault.injection = none → x.win ≠ .judged → b.length = 16 →
    w0 % 16 = 15 → leNat (slice b 4 4) = crc32c x.twin.beatStaged.flatten → leNat (slice b 8 8) = x.beatNo → bitAt w0 4 = true →
    bitAt w0 5 = true →
    ∃ t, exec (.markerReceived sd b true) s = .next t
      ∧ Within (keysOn eventPages) eventParts sd s t
      ∧ (t.on sd).twin.committed = x.twin.committed ++ (x.twin.staging ++ x.twin.beatStaged) ++ [beatEnd]
      ∧ (t.on sd).twin.markerResign = true ∧ (t.on sd).twin.takeoverDue = x.twin.takeoverDue ∧ (t.on sd).get TW_HB_STAT.RESIGN_IN = 1
      ∧ x.raised (t.on sd) 0x82 = true
      ∧ (t.on sd).get TW_ROLE.ROLE = 2 ∧ (t.on sd).get TW_TAKE_STAT.CAUSE = 4)
  ∧ (∀ (sd : Side) (b : List Byte) (s : State), let x := s.on sd
    x.alive = true → x.fault.injection = none → leNat (slice b 4 4) ≠ crc32c x.twin.beatStaged.flatten →
    ∃ t, exec (.markerReceived sd b true) s = .next t ∧ Within (keysOf []) [.lines] sd s t)
  ∧ (∀ (sd : Side) (b : List Byte) (s : State), let x := s.on sd
    x.alive = true → x.get TW_LINK.CRC_ERR < 65535 →
    ∃ t, exec (.markerReceived sd b false) s = .next t
      ∧ Within (keysOn eventPages) eventParts sd s t
      ∧ (t.on sd).get TW_LINK.CRC_ERR = x.get TW_LINK.CRC_ERR + 1 ∧ (t.on sd).twin.flitLost = x.twin.flitLost
      ∧ (t.on sd).twin.beatStaged = x.twin.beatStaged ∧ (t.on sd).twin.markerSeen = x.twin.markerSeen)
  ∧ (∀ (sd : Side) (off : Int) (width : Nat) (s : State), let x := s.on sd
    x.alive = true → 30 ≤ width → width ≤ 60 → off.natAbs ≤ 25 →
    ∃ t, exec (.peerPulse sd off width) s = .next t
      ∧ Within (keysOf [TW_HB_STAT.SKEW.key]) [.twin, .lines] sd s t
      ∧ (t.on sd).twin = { x.twin with pulseSeen := true, pulseSkewAt := 0 }
      ∧ signed ((t.on sd).get TW_HB_STAT.SKEW) 16 = off
      ∧ (t.on sd).is TW_HB_STAT.RESIGN_IN = (x.is TW_HB_STAT.RESIGN_IN && x.twin.markerResign))
  ∧ (∀ (sd : Side) (off : Int) (width : Nat) (s : State), let x := s.on sd
    x.alive = true → width < 30 ∨ 60 < width →
    ∃ t, exec (.peerPulse sd off width) s = .next t ∧ Within (keysOf []) [.lines] sd s t)
  ∧ (∀ (sd : Side) (s : State), let x := s.on sd
    let b := if x.win = .judged then x.produced + 2 else x.produced + 1
    x.alive = true → x.isUnderstudy = true → x.fitNow = true →
    ∃ t, exec (.resignationPulse sd) s = .next t
      ∧ Within (keysOf [TW_HB_STAT.RESIGN_IN.key]) [.twin, .lines] sd s t
      ∧ (t.on sd).get TW_HB_STAT.RESIGN_IN = 1
      ∧ (t.on sd).twin = (if x.twin.takeoverDue.any (fun d => Nat.ble d b) then x.twin
          else { x.twin with takeoverDue := some b, takeoverCause := 2 }))
  ∧ (∀ (sd : Side) (s : State), let x := s.on sd
    x.alive = true → x.leads = true → x.peerFit = true →
    ∃ t, exec (.resignationPulse sd) s = .next t
      ∧ Within (keysOn eventPages) eventParts sd s t
      ∧ (t.on sd).get TW_HB_STAT.RESIGN_IN = 1 ∧ (t.on sd).get TW_ROLE.PEER_FIT = 0 ∧ (t.on sd).is (evtBit 0x08 4) = true)
  ∧ (∀ (sd : Side) (w0 w1 w2 w3 : Word) (s : State), let x := s.on sd
    x.alive = true → x.leads = true → bitAt w0.toNat 2 = true →
    ∃ t, exec (.healthReport sd w0 w1 w2 w3) s = .next t
      ∧ Within (keysOf [0x0800C, 0x08070, 0x08074, 0x08078, 0x0807C, TW_ROLE.PEER_FIT.key, FC_STAT.RESIGN_PEND.key]) [.twin, .lines] sd s t
      ∧ (t.on sd).word 0x08070 = w0 ∧ (t.on sd).word 0x08074 = w1 ∧ (t.on sd).word 0x08078 = w2 ∧ (t.on sd).word 0x0807C = w3
      ∧ (t.on sd).get TW_ROLE.PEER_FIT = 1 ∧ (t.on sd).twin.reportSlots = 0
      ∧ (t.on sd).is (evtBit 0x08 3) = (!x.peerFit || x.is (evtBit 0x08 3)))
  ∧ (∀ (sd : Side) (w0 w1 w2 w3 : Word) (s : State), let x := s.on sd
    x.alive = true → x.leads = true → bitAt w0.toNat 2 = false →
    ∃ t, exec (.healthReport sd w0 w1 w2 w3) s = .next t
      ∧ Within (keysOn eventPages) eventParts sd s t
      ∧ (t.on sd).get TW_ROLE.PEER_FIT = 0 ∧ (t.on sd).is (evtBit 0x08 4) = true)
  ∧ (∀ (sd : Side) (l : List (Nat × Nat)) (s : State), let x := s.on sd; let y := { x with twin := { x.twin with committed := [] } }
    s.calmBut sd y = true → x.leads = false → x.twin.committed = l.map (fun p => recDo p.1 p.2) → l ≠ [] →
    l.all (fun p => Nat.blt p.1 10240 && Nat.blt p.2 16384) = true →
    ∃ t, exec (.beatBoundary sd) s = .next t
      ∧ (t.on sd).twin.committed = []
      ∧ (∀ d, (t.on sd).base d = l.foldl (fun b p => if p.1 = d then p.2 else b) (x.base d)))
  ∧ (∀ (sd : Side) (d v : Nat) (s : State), let x := s.on sd; let y := { x with twin := { x.twin with committed := [] } }
    s.calmBut sd y = true → x.leads = false → x.twin.committed = [recDoStaged d v] → d < 10240 → v < 16384 →
    ∃ t, exec (.beatBoundary sd) s = .next t
      ∧ (t.on sd).twin.committed = [] ∧ (t.on sd).base d = (if x.mode d = 0 then x.base d else v))
  ∧ (∀ (sd : Side) (a : Nat) (data : List Byte) (s : State), let x := s.on sd; let y := { x with twin := { x.twin with committed := [] } }
    s.calmBut sd y = true → x.leads = false → x.twin.committed = [recMem a data] → 0x30000000 ≤ a → a + data.length ≤ 0x30300000 →
    ∃ t, exec (.beatBoundary sd) s = .next t
      ∧ (∀ i < data.length, (t.on sd).rd8 (a + i) = data.getD i 0)
      ∧ (∀ i, i < a ∨ a + data.length ≤ i → (t.on sd).rd8 i = x.rd8 i))
  ∧ (∀ (sd : Side) (b : List Byte) (s : State), let x := s.on sd; let y := s.on sd.peer; let w0 := leNat (slice b 0 4)
    let w := x.set TW_ROLE.WARMTH 0
    let go := bulkMayStart y w && sameRig y w && mapAgrees y w
    x.alive = true → x.isUnderstudy = true → x.get TW_ROLE.WARMTH ≠ 0 → x.mild = true → x.fault.injection = none → x.win ≠ .judged →
    b.length = 16 → w0 % 16 = 15 → leNat (slice b 4 4) = crc32c x.twin.beatStaged.flatten →
    bitAt w0 4 = false ∨ leNat (slice b 8 8) ≠ x.beatNo → bitAt w0 5 = false → x.get TW_COPY_STAT.NOCOMMIT = 15 →
    ∃ t, exec (.markerReceived sd b true) s = .next t
      ∧ t = { s with a := t.a, b := t.b }
      ∧ Alike (keysOn ([0x0E, 0x0F] ++ eventPages)) (([.mem, .ecc, .drive, .mon, .pipe, .cal, .power, .rigImage, .nvm] : List Part) ++ eventParts) x (t.on sd)
      ∧ (t.on sd).twin.committed = [] ∧ (t.on sd).twin.staging = [] ∧ (t.on sd).twin.beatStaged = [] ∧ (t.on sd).twin.markerSeen = true
      ∧ (t.on sd).get TW_COPY_STAT.NOCOMMIT = 16 ∧ (t.on sd).is (evtBit 0x08 2) = true ∧ x.raised (t.on sd) 0x84 = true
      ∧ (t.on sd).get TW_ROLE.WARMTH = (if go then 1 else 0)
      ∧ Alike (keysOf [TW_BULK.STATE.key]) [.twin, .lines] y (t.on sd.peer)
      ∧ (go = true → (t.on sd.peer).get TW_BULK.STATE = 1 ∧ (t.on sd.peer).twin.bulkStart = y.produced ∧ (t.on sd.peer).twin.bulkNext = 0))
  ∧ (∀ (sd : Side) (b : List Byte) (s : State), let x := s.on sd; let w0 := leNat (slice b 0 4)
    x.alive = true → x.fitNow = true → x.fault.injection = none → x.win ≠ .judged → b.length = 16 → w0 % 16 = 15 →
    leNat (slice b 4 4) = crc32c x.twin.beatStaged.flatten → bitAt w0 4 = false ∨ leNat (slice b 8 8) ≠ x.beatNo → bitAt w0 5 = true →
    x.get TW_COPY_STAT.NOCOMMIT ≠ 15 →
    ∃ t, exec (.markerReceived sd b true) s = .next t
      ∧ (t.on sd).twin.committed = x.twin.committed ∧ (t.on sd).twin.staging = x.twin.staging ++ x.twin.beatStaged ++ [beatEnd]
      ∧ (t.on sd).twin.takeoverDue = some ((x.twin.takeoverDue.filter (fun d => Nat.ble d (x.produced + 1))).getD (x.produced + 1))
      ∧ (t.on sd).get TW_HB_STAT.RESIGN_IN = 1)

/-- Takeover, fences and the bulk copy (R34, R237 to R239, R241 to R243). At the boundary of its takeover the understudy becomes lead and
asks for the fence of its peer, which leaves the lead role at that boundary; with the fence sensed its front ends connect and the peer
is fenced and cold, and without it in time its stages stay off and the takeover is abandoned. The lead fences its peer at once; an understudy that
may clear its own fence does so at the next boundary. A bulk copy begins where the rig maps agree, and begins again after 2,000 beats; where
their records differ the lead's rig map is written to the peer first, and a peer that has another map in force is not copied (log entry 75). One that finds no region different brings the peer to TESTING, and the
regions that differ are sent again. A self-test item that passes is shown as passed. That a new lead shows SERVICE 1 is the model's choice
(log entry 82). -/
def Obligations.RolesAndFences : Prop :=
  (∀ (sd : Side) (b : Nat) (s : State), let x := s.on sd; let y := s.on sd.peer
    x.alive = true → x.isUnderstudy = true → x.win = .edge → x.twin.takeoverDue = some b → b ≤ x.produced → x.get TW_CNT.TAKEOVER < 65535 →
    x.mild = true →
    ∃ t, exec (.takeover sd) s = .next t
      ∧ t = { s with a := t.a, b := t.b }
      ∧ Alike (keysOn leadPages)
          (([.mem, .ecc, .drive, .mon, .loops, .scene, .pipe, .cal, .watch, .net, .free] : List Part) ++ eventParts) x (t.on sd)
      ∧ (t.on sd).get TW_ROLE.ROLE = 1 ∧ (t.on sd).get TW_TAKE_STAT.CAUSE = x.twin.takeoverCause % 8
      ∧ (t.on sd).get TW_CNT.TAKEOVER = x.get TW_CNT.TAKEOVER + 1 ∧ (t.on sd).get TW_ROLE.PEER_FIT = 0 ∧ (t.on sd).get CK_STAT.SERVICE = 1
      ∧ (t.on sd).twin.fenceRequest = true ∧ (t.on sd).twin.fencePending = true ∧ (t.on sd).twin.takeoverDue = none
      ∧ (∀ a, a < 0x30000000 → (t.on sd).rd8 a = x.rd8 a)
      ∧ (t.on sd.peer).leads = false ∧ (t.on sd.peer).twin.wasLead = y.leads)
  ∧ (∀ (sd : Side) (ns : Nat) (s : State), let x := s.on sd; let y := s.on sd.peer
    x.alive = true → x.leads = true → x.twin.fencePending = true → x.get TW_TAKE_STAT.CAUSE ≠ 3 → y.twin.haltDue = false →
    y.is FC_STAT.SAFE = false → (y.directory.trial && y.directory.failed) = false →
    ∃ t, exec (.fenceSensed sd ns) s = .next t
      ∧ t = { s with a := t.a, b := t.b }
      ∧ Alike (keysOn [0x08, 0x14, 0x2A, 0x2B, 0x2C, 0x2D, 0x2E, 0x2F]) [.mon, .twin, .lines] x (t.on sd)
      ∧ (t.on sd).get TW_TAKE_STAT.FENCE_T = min 255 ns ∧ (t.on sd).get TW_ROLE.PEER_FENCED = 1 ∧ (t.on sd).get MI_STAT.FE_CONN = 1
      ∧ (t.on sd).twin = { x.twin with fencePending := false }
      ∧ Alike (keysOn (0x10 :: 0x14 :: yieldPages)) (.lines :: yieldParts) y (t.on sd.peer)
      ∧ (t.on sd.peer).get TW_ROLE.FENCED = 1 ∧ (t.on sd.peer).get TW_ROLE.WARMTH = 0 ∧ (t.on sd.peer).get DO_STAT.STAGE_EN = 0
      ∧ (t.on sd.peer).get TW_ROLE.ROLE = y.get TW_ROLE.ROLE)
  ∧ (∀ (sd : Side) (s : State), let x := s.on sd
    x.alive = true → x.leads = true → x.twin.fencePending = true → x.get TW_TAKE_STAT.CAUSE ≠ 3 →
    ∃ t, exec (.fenceTimeout sd) s = .next t
      ∧ Within (keysOn eventPages) eventParts sd s t
      ∧ (t.on sd).get DO_STAT.STAGE_EN = 0 ∧ (t.on sd).get TW_TAKE_STAT.CAUSE = 5 ∧ (t.on sd).is (evtBit 0x08 7) = true
      ∧ (t.on sd).twin.fencePending = false ∧ (t.on sd).twin.fenceRequest = false ∧ (t.on sd).twin.abandonDue = true)
  ∧ (∀ (sd : Side) (m : Master) (v : Word) (s : State), let x := s.on sd; let y := s.on sd.peer
    x.holds m 0x08054 v = true → bitAt v.toNat 0 = true → x.leads = true → y.twin.haltDue = false → y.is FC_STAT.SAFE = false →
    ∃ t, exec (.fencePeer sd m (.complement (~~~v))) s = .next t
      ∧ t = { s with a := t.a, b := t.b }
      ∧ Alike (keysOf (pairKeys 0x08054 ++ [TW_ROLE.PEER_FENCED.key])) [.pairs, .twin, .perf, .lines] x (t.on sd)
      ∧ (t.on sd).get TW_ROLE.PEER_FENCED = 1 ∧ (t.on sd).twin = { x.twin with fenceRequest := true }
      ∧ Alike (keysOf [TW_ROLE.FENCED.key, DO_STAT.STAGE_EN.key, MI_STAT.FE_CONN.key]) [.twin, .lines] y (t.on sd.peer)
      ∧ (t.on sd.peer).get TW_ROLE.FENCED = 1 ∧ (t.on sd.peer).get DO_STAT.STAGE_EN = 0 ∧ (t.on sd.peer).get MI_STAT.FE_CONN = 0)
  ∧ (∀ (sd : Side) (m : Master) (v : Word) (s : State), let x := s.on sd
    x.holds m 0x08054 v = true → bitAt v.toNat 1 = true → x.mayUnfence = true →
    ∃ t, exec (.unfenceSelf sd m (.complement (~~~v))) s = .next t
      ∧ Within (keysOf (pairKeys 0x08054)) [.pairs, .twin, .perf, .lines] sd s t
      ∧ (t.on sd).twin = { x.twin with unfencePending := true } ∧ (t.on sd).get TW_ROLE.FENCED = 1)
  ∧ (∀ (sd : Side) (s : State), let x := s.on sd; let y := s.on sd.peer
    bulkMayStart x y = true → sameRig x y = true → mapAgrees x y = true →
    ∃ t, exec (.bulkCopyStart sd) s = .next t
      ∧ t = { s with a := t.a, b := t.b }
      ∧ Alike (keysOf [TW_BULK.STATE.key]) [.twin, .lines] x (t.on sd)
      ∧ (t.on sd).get TW_BULK.STATE = 1 ∧ (t.on sd).get TW_BULK.REGIONS = 0 ∧ (t.on sd).get TW_BULK.RESENT = 0
      ∧ (t.on sd).twin.bulkStart = x.produced ∧ (t.on sd).twin.bulkNext = 0 ∧ (t.on sd).twin.bulkAgain = []
      ∧ Alike (keysOn ([0x0E, 0x0F] ++ eventPages)) (([.mem, .ecc, .drive, .mon, .pipe, .cal, .power, .rigImage] : List Part) ++ eventParts) y (t.on sd.peer)
      ∧ (y.rigged = false → (t.on sd.peer).rigImage = x.rigImage)
      ∧ (y.rigged = true → Alike (keysOf [TW_ROLE.WARMTH.key]) [.lines] y (t.on sd.peer))
      ∧ (t.on sd.peer).get TW_ROLE.WARMTH = 1)
  ∧ (∀ (sd : Side) (s : State), let x := s.on sd; let y := s.on sd.peer
    bulkMayStart x y = true → sameRig x y = false → y.recordBusy .rigMap = false →
    ∃ t, exec (.bulkCopyStart sd) s = .next t
      ∧ Within (keysOf [RG_STAT.NVM_PENDING.key]) [.nvm, .lines] sd.peer s t
      ∧ (t.on sd.peer).nvm = { y.nvm with writes := y.nvm.writes ++ [⟨.rigMap, x.leadRig, 0, false, !y.nvmOpen⟩] })
  ∧ (∀ (sd : Side) (s : State), let x := s.on sd; let y := s.on sd.peer
    x.alive = true → x.leads = true → x.get TW_BULK.STATE = 2 → y.alive = true → y.isUnderstudy = true → y.get TW_ROLE.WARMTH = 1 →
    differingRegions x y = [] →
    ∃ t, exec (.bulkCopyVerified sd) s = .next t
      ∧ t = { s with a := t.a, b := t.b }
      ∧ Alike (keysOf [TW_BULK.STATE.key]) [.lines] x (t.on sd) ∧ (t.on sd).get TW_BULK.STATE = 3
      ∧ Alike (keysOf [TW_ROLE.WARMTH.key]) [.twin, .lines] y (t.on sd.peer) ∧ 2 ≤ (t.on sd.peer).get TW_ROLE.WARMTH)
  ∧ (∀ (sd : Side) (s : State), let x := s.on sd; let y := s.on sd.peer
    x.alive = true → x.leads = true → x.get TW_BULK.STATE = 2 → y.alive = true → y.isUnderstudy = true → y.get TW_ROLE.WARMTH = 1 →
    differingRegions x y ≠ [] →
    ∃ t, exec (.bulkCopyVerified sd) s = .next t
      ∧ Within (keysOf [TW_BULK.STATE.key]) [.twin, .lines] sd s t ∧ (t.on sd).get TW_BULK.STATE = 1
      ∧ (t.on sd).get TW_BULK.RESENT = min 127 (x.get TW_BULK.RESENT + (differingRegions x y).length)
      ∧ (∀ r, r ∈ differingRegions x y → ∀ i, i < 16 → 16 * r + i ∈ (t.on sd).twin.bulkAgain))
  ∧ (∀ (sd : Side) (s : State), let x := s.on sd
    x.alive = true → x.leads = true → x.get TW_BULK.STATE = 1 ∨ x.get TW_BULK.STATE = 2 → x.twin.bulkStart + 2000 ≤ x.produced →
    ∃ t, exec (.bulkCopyTimeout sd) s = .next t
      ∧ Within (keysOn eventPages) eventParts sd s t
      ∧ (t.on sd).get TW_BULK.STATE = 1 ∧ (t.on sd).twin.bulkStart = x.produced ∧ (t.on sd).twin.bulkNext = 0)
  ∧ (∀ (sd : Side) (item : Nat) (s : State), let x := s.on sd
    x.alive = true → 2 ≤ item → item < selfTestItems → x.get TW_ROLE.ROLE ≠ 0 → x.itemPasses item true = true →
    ∃ t, exec (.selfTestCycle sd item true) s = .next t
      ∧ Within (keysOf (accessKeys ++ [TW_ROLE.WARMTH.key])) [.ecc, .twin, .perf, .lines] sd s t
      ∧ (t.on sd).twin = { x.twin with stDone := insertNat item x.twin.stDone, stPassed := insertNat item x.twin.stPassed }
      ∧ (t.on sd).eccHard = x.eccHard)
  ∧ (∀ (sd : Side) (s : State), let x := s.on sd; let y := s.on sd.peer
    bulkMayStart x y = false ∨ (sameRig x y = true ∧ mapAgrees x y = false) → exec (.bulkCopyStart sd) s = .next s)

/-- The planned swap and the firmware update (R244, R245, R380, R381). A request for a swap is taken, or refused with its reason. At the
boundary of the swap the lead goes on as a WARM understudy and its peer leads, with cause 3; a lead that resigns meanwhile does not swap. A request for an update checks the image and
begins at step 1, or ends FAILED with its reason; the steps follow as they end, a warm-up of 2,000 beats fails, and the trial ends with
step 6. That a request is refused with REASON 2 on a side that does not lead, or without an understudy that runs, is the model's choice (log
entry 89). -/
def Obligations.SwapsAndUpdatesGoOn : Prop :=
  (∀ (sd : Side) (m : Master) (v : Word) (s : State), let y := (s.on sd).paired m 0x08048 v
    (s.on sd).holds m 0x08048 v = true → v.toNat % 2 = 1 → y.leads = true → swapRefusal y (s.on sd.peer) = 0 →
    ∃ t, exec (.swapRequest sd m (.complement (~~~v))) s = .next t
      ∧ Within (keysOf (pairKeys 0x08048 ++ [TW_SWAP_STAT.RESULT.key])) [.pairs, .twin, .perf, .lines] sd s t
      ∧ (t.on sd).get TW_SWAP_STAT.RESULT = 1 ∧ (t.on sd).get TW_SWAP_STAT.REASON = 0
      ∧ (t.on sd).twin = { (s.on sd).twin with swapPending := true })
  ∧ (∀ (sd : Side) (m : Master) (v : Word) (r : Nat) (s : State), let y := (s.on sd).paired m 0x08048 v
    (s.on sd).holds m 0x08048 v = true → v.toNat % 2 = 1 → y.leads = true → swapRefusal y (s.on sd.peer) = r → r ≠ 0 →
    ∃ t, exec (.swapRequest sd m (.complement (~~~v))) s = .next t
      ∧ Within (keysOn eventPages) (.pairs :: eventParts) sd s t
      ∧ (t.on sd).get TW_SWAP_STAT.RESULT = 3 ∧ (t.on sd).get TW_SWAP_STAT.REASON = r
      ∧ (t.on sd).twin.swapPending = (s.on sd).twin.swapPending)
  ∧ (∀ (sd : Side) (b : Nat) (s : State), let x := s.on sd; let y := s.on sd.peer
    x.alive = true → x.leads = true → x.twin.resignLine = false → x.win = .edge → x.twin.swapAt = some b → b ≤ x.produced → y.alive = true → y.isUnderstudy = true →
    y.win = .edge → y.get TW_CNT.SWAP < 65535 → y.mild = true →
    ∃ t, exec (.swapExecute sd) s = .next t
      ∧ t = { s with a := t.a, b := t.b }
      ∧ Alike (keysOn (yieldPages ++ eventPages)) (yieldParts ++ eventParts) x (t.on sd)
      ∧ (t.on sd).get TW_ROLE.ROLE = 2 ∧ (t.on sd).get TW_ROLE.WARMTH = 3 ∧ (t.on sd).get TW_SWAP_STAT.RESULT = 2
      ∧ (t.on sd).get DO_STAT.STAGE_EN = 0
      ∧ Alike (keysOn leadPages)
          (([.mem, .ecc, .drive, .mon, .loops, .scene, .pipe, .cal, .watch, .net, .free] : List Part) ++ eventParts) y (t.on sd.peer)
      ∧ (t.on sd.peer).get TW_ROLE.ROLE = 1 ∧ (t.on sd.peer).get TW_TAKE_STAT.CAUSE = 3 ∧ (t.on sd.peer).get DO_STAT.STAGE_EN = 1
      ∧ (t.on sd.peer).get TW_CNT.SWAP = y.get TW_CNT.SWAP + 1
      ∧ (∀ a, a < 0x30000000 → (t.on sd.peer).rd8 a = y.rd8 a))
  ∧ (∀ (sd : Side) (m : Master) (v : Word) (s : State), let y := (s.on sd).paired m 0x08088 v; let p := s.on sd.peer
    let r := imageReject y.nvm.romKeys y.updateImage y.nvm.fuseMin y.nvm.fuseRevoked
    (s.on sd).holds m 0x08088 v = true → v.toNat % 2 = 1 → y.nvm.bootRom = false → y.twin.update = none → y.leads = true → p.alive = true →
    p.isUnderstudy = true → p.power.firmware = true →
    ∃ t, exec (.firmwareUpdate sd m (.complement (~~~v))) s = .next t
      ∧ Within (keysOn (0x1F :: eventPages)) (.pairs :: eventParts) sd s t
      ∧ (t.on sd).get TW_UPD_STAT.STEP = (if r = 0 then 1 else 15) ∧ (t.on sd).get TW_UPD_STAT.REASON = (if r = 0 then 0 else 1)
      ∧ (t.on sd).twin.update = (if r = 0 then some ⟨1, y.produced, y.updateImage, max 1 (y.get TW_UPD.TRIAL)⟩ else none)
      ∧ (t.on sd).get KY_SIG_STAT.RESULT = (if r = 0 then 2 else 3) ∧ (t.on sd).get KY_SIG_STAT.REASON = r)
  ∧ (∀ (sd : Side) (m : Master) (v : Word) (s : State), let y := (s.on sd).paired m 0x08088 v; let p := s.on sd.peer
    (s.on sd).holds m 0x08088 v = true → v.toNat % 2 = 1 → y.nvm.bootRom = false → y.twin.update = none →
    y.leads = false ∨ p.alive = false ∨ p.isUnderstudy = false ∨ p.power.firmware = false →
    ∃ t, exec (.firmwareUpdate sd m (.complement (~~~v))) s = .next t
      ∧ Within (keysOn eventPages) (.pairs :: eventParts) sd s t
      ∧ (t.on sd).get TW_UPD_STAT.STEP = 15 ∧ (t.on sd).get TW_UPD_STAT.REASON = 2)
  ∧ (∀ (sd : Side) (u : Update) (s : State), let x := s.on sd; let y := s.on sd.peer
    x.alive = true → x.leads = true → x.twin.update = some u → u.step = 2 → y.alive = true → y.power.firmware = true →
    ∃ t, exec (.updateStepDone sd true) s = .next t
      ∧ Within (keysOn [0x05, 0x08]) [.twin, .fault, .lines] sd s t
      ∧ (t.on sd).get TW_UPD_STAT.STEP = 3 ∧ (t.on sd).get TW_UPD_STAT.REASON = 0
      ∧ (t.on sd).twin = { x.twin with update := some { u with step := 3, since := x.produced } } ∧ (t.on sd).is (evtBit 0x08 6) = true)
  ∧ (∀ (sd : Side) (u : Update) (s : State), let x := s.on sd; let y := s.on sd.peer
    x.alive = true → x.leads = true → x.twin.update = some u → u.step = 7 → x.peerFit = true → y.alive = true →
    ∃ t, exec (.updateStepDone sd true) s = .next t
      ∧ t = { s with a := t.a, b := t.b }
      ∧ Alike (keysOn [0x05, 0x06, 0x08, 0x1F]) [.mem, .ecc, .twin, .fault, .nvm, .perf, .lines] x (t.on sd)
      ∧ (t.on sd).get TW_UPD_STAT.STEP = 8 ∧ (t.on sd).twin = { x.twin with update := none }
      ∧ (∀ a, a < directoryArea.1 ∨ directoryArea.1 + 2 * directoryArea.2 ≤ a → (t.on sd).rd8 a = x.rd8 a)
      ∧ (t.on sd).nvm.fuseMin = max x.nvm.fuseMin (leNat (slice u.image 8 2) % 64)
      ∧ Alike (keysOn [0x05, 0x06, 0x1F]) [.mem, .ecc, .nvm, .perf, .lines] y (t.on sd.peer)
      ∧ (∀ a, a < directoryArea.1 ∨ directoryArea.1 + 2 * directoryArea.2 ≤ a → (t.on sd.peer).rd8 a = y.rd8 a)
      ∧ (t.on sd.peer).nvm.fuseMin = max y.nvm.fuseMin (leNat (slice u.image 8 2) % 64))
  ∧ (∀ (sd : Side) (u : Update) (s : State), let x := s.on sd; let y := s.on sd.peer
    x.alive = true → x.leads = true → x.twin.update = some u → u.step = 3 → u.since + 2000 ≤ x.produced → x.directory.trial = false →
    y.directory.trial = false →
    ∃ t, exec (.updateStepDone sd false) s = .next t
      ∧ t = { s with a := t.a, b := t.b }
      ∧ Alike (keysOn eventPages) eventParts x (t.on sd) ∧ Alike (keysOf []) [.lines] y (t.on sd.peer)
      ∧ (t.on sd).get TW_UPD_STAT.STEP = 15 ∧ (t.on sd).get TW_UPD_STAT.REASON = 3 ∧ (t.on sd).twin.update = none)
  ∧ (∀ (sd : Side) (u : Update) (s : State), let x := s.on sd
    x.alive = true → x.leads = true → x.twin.update = some u → u.step = 5 → x.trialFrom u + u.trial * 100000 ≤ x.produced →
    x.is FC_STAT.MAJOR = false → x.is FC_STAT.SAFE = false →
    ∃ t, exec (.updateTrialEnd sd) s = .next t
      ∧ Within (keysOn [0x05, 0x08]) [.twin, .fault, .lines] sd s t
      ∧ (t.on sd).get TW_UPD_STAT.STEP = 6
      ∧ (t.on sd).twin = { x.twin with update := some { u with step := 6, since := x.produced } })
  ∧ (∀ (sd : Side) (s : State), (s.on sd).twin.resignLine = true → ∃ t, exec (.swapExecute sd) s = .next t ∧ t = s)

/-- Housekeeping and intermission (R316 to R321, R324, R325, R327 to R330). A round keeps the readings it has brought, and without a die above
the shutdown temperature no side stops. By the highest die value of a round the warning is entered and left and the throttle step rises or
falls, under FORCED_T3 and HOLD, and at T1 calibration and tuning end. A valid reading above the shutdown temperature shuts the side down: it
resigns, an understudy takes role NONE, and a peer in intermission is to wake. Ten rounds in a row below it by more than 5 °C make a side
reset. A request for intermission is taken, on the lead for both sides, or refused with its reason. A
host's WAKE, a curtain request and the peer's shutdown or trip ask for the wake of a side in intermission; in its wake the front ends
connect after 17 beats, the loops run again after 21, and after 40 the intermission is over. -/
def Obligations.HousekeepingAndIntermission : Prop :=
  (∀ (sd : Side) (r : List HkReading) (n : Nat) (s : State), let x := s.on sd
    x.managed = true → x.win = .edge → x.beatNo % 100 = 0 → x.therm.roundAt ≠ some x.produced → x.is TH_STAT.SHUTDOWN = false →
    x.therm.shutdownAt ≠ some x.produced → r.all (fun k => Nat.ble 28 k.channel || decide (k.value ≤ x.shutAt)) = true →
    x.senseLines.all (fun k => Nat.blt k.1 32) = true → (List.range 28).all (fun i => decide ((x.hk i).value ≤ x.shutAt)) = true → n = 28 ∨ (64 ≤ n ∧ n ≤ 72) →
    ∃ t, exec (.housekeepingRound sd r) s = .next t
      ∧ Within (keysOn ([0x01, 0x04, 0x0E, 0x0F, 0x13, 0x17, 0x30, 0x31] ++ eventPages))
          (([.mem, .ecc, .drive, .mon, .loops, .cal, .therm, .nvm, .free] : List Part) ++ eventParts) sd s t
      ∧ (t.on sd).therm.roundAt = some x.produced
      ∧ (t.on sd).hk n = (match hkFound r n with
          | none => x.hk n
          | some none => { x.hk n with valid := false }
          | some (some v) => { x.hk n with value := v, valid := true })
      ∧ (t.on sd).is TH_STAT.SHUTDOWN = false ∧ (t.on sd).therm.shutdownAt = x.therm.shutdownAt
      ∧ (∀ a, a < 0x30000000 → (t.on sd).rd8 a = x.rd8 a))
  ∧ (∀ (sd : Side) (m : Master) (v : Word) (s : State), let x := s.on sd; let y := s.on sd.peer
    x.takes m 0x04070 = true → bitAt v.toNat 31 = true → bitAt v.toNat 0 = true → x.leads = true → x.intRefusal x = 0 →
    ∃ t, exec (.intermissionEnter sd m v) s = .next t
      ∧ t = { s with a := t.a, b := t.b }
      ∧ Alike (keysOf (accessKeys ++ [TH_INT_STAT.RESULT.key])) [.therm, .perf, .lines] x (t.on sd)
      ∧ (t.on sd).get TH_INT_STAT.RESULT = 1 ∧ (t.on sd).get TH_INT_STAT.REASON = 0 ∧ (t.on sd).therm = { x.therm with intPending := true }
      ∧ Alike (keysOf [TH_INT_STAT.RESULT.key]) [.therm, .lines] y (t.on sd.peer)
      ∧ (t.on sd.peer).therm = (if y.alive && y.isUnderstudy then { y.therm with intPending := true } else y.therm))
  ∧ (∀ (sd : Side) (m : Master) (v : Word) (r : Nat) (s : State), let x := s.on sd
    x.takes m 0x04070 = true → bitAt v.toNat 31 = true → bitAt v.toNat 0 = true →
    x.intRefusal (if x.leads then x else s.on sd.peer) = r → r ≠ 0 →
    ∃ t, exec (.intermissionEnter sd m v) s = .next t
      ∧ Within (keysOn (0x04 :: eventPages)) eventParts sd s t
      ∧ (t.on sd).get TH_INT_STAT.RESULT = 3 ∧ (t.on sd).get TH_INT_STAT.REASON = r ∧ (t.on sd).is (evtBit 0x04 5) = true)
  ∧ (∀ (sd : Side) (m : Master) (v : Word) (s : State), let x := s.on sd
    x.takes m 0x04070 = true → bitAt v.toNat 31 = true → bitAt v.toNat 1 = true → x.get TH_INT_STAT.STATE = 1 →
    ∃ t, exec (.intermissionWake sd m v 1) s = .next t
      ∧ Within (keysOf accessKeys) [.therm, .perf, .lines] sd s t ∧ (t.on sd).therm = { x.therm with wakePending := some 1 })
  ∧ (∀ (sd : Side) (m : Master) (v : Word) (s : State), let x := s.on sd
    x.alive = true → x.is SW_STAT.CURTAIN_PEND = true → x.get TH_INT_STAT.STATE = 1 →
    ∃ t, exec (.intermissionWake sd m v 2) s = .next t
      ∧ Within (keysOf []) [.therm, .lines] sd s t ∧ (t.on sd).therm = { x.therm with wakePending := some 2 })
  ∧ (∀ (sd : Side) (m : Master) (v : Word) (s : State), let x := s.on sd; let y := s.on sd.peer
    x.alive = true → x.isUnderstudy = true → y.power.tripped = true ∨ y.is TH_STAT.SHUTDOWN = true → y.get TH_INT_STAT.STATE = 0 →
    x.get TH_INT_STAT.STATE = 1 →
    ∃ t, exec (.intermissionWake sd m v 3) s = .next t
      ∧ Within (keysOf []) [.therm, .lines] sd s t ∧ (t.on sd).therm = { x.therm with wakePending := some 3 })
  ∧ (∀ (sd : Side) (s : State), let x := s.on sd
    x.alive = true → x.get TH_INT_STAT.STATE = 2 → x.win = .edge → x.wakeBeats = 17 → x.leads = true →
    ∃ t, exec (.wakeStep sd) s = .next t
      ∧ Within (keysOf [MI_STAT.FE_CONN.key]) [.mon, .lines] sd s t ∧ (t.on sd).get MI_STAT.FE_CONN = 1)
  ∧ (∀ (sd : Side) (s : State), let x := s.on sd
    x.alive = true → x.get TH_INT_STAT.STATE = 2 → x.win = .edge → x.wakeBeats = 21 → x.leads = true →
    ∃ t, exec (.wakeStep sd) s = .next t
      ∧ Within (keysOf []) [.loops, .cal, .lines] sd s t ∧ (t.on sd).loops = { x.loops with openSince := some x.produced })
  ∧ (∀ (sd : Side) (s : State), let x := s.on sd
    x.alive = true → x.get TH_INT_STAT.STATE = 2 → x.win = .edge → x.wakeBeats = 40 →
    ∃ t, exec (.wakeStep sd) s = .next t
      ∧ Within (keysOf [0x0400C, TH_INT_STAT.STATE.key]) [.therm, .lines] sd s t
      ∧ (t.on sd).get TH_INT_STAT.STATE = 0 ∧ (t.on sd).get TH_INT_STAT.WAKE_BEATS = 40
      ∧ (t.on sd).therm = { x.therm with wakeAt := none } ∧ (t.on sd).is (evtBit 0x04 4) = true)
  ∧ (∀ (sd : Side) (r : List HkReading) (s : State), let x := s.on sd
    x.managed = true → x.win = .edge → x.beatNo % 100 = 0 → x.therm.roundAt ≠ some x.produced → x.mild = true → x.is TH_STAT.SHUTDOWN = false →
    ∃ t, exec (.housekeepingRound sd r) s = .next t
      ∧ ∀ p, (t.on sd).tMax = some p →
        let up := if (t.on sd).is TH_STAT.FORCED_T3 || decide (x.stepAt 3 ≤ p.2) then 3 else if x.stepAt 2 ≤ p.2 then 2
          else if x.stepAt 1 ≤ p.2 then 1 else 0
        (t.on sd).is TH_STAT.WARN = (decide (x.warnAt ≤ p.2) || (x.is TH_STAT.WARN && decide (x.warnAt - 80 ≤ p.2)))
        ∧ (x.warnAt ≤ p.2 → x.is TH_STAT.WARN = false → x.raised (t.on sd) 0x20 = true)
        ∧ (t.on sd).get TH_STAT.STEP = (if x.get TH_STAT.STEP < up then up
            else if x.get TH_STAT.STEP ≠ 0 ∧ p.2 < x.stepAt (x.get TH_STAT.STEP) - 80 ∧ (t.on sd).is TH_STAT.HOLD = false
              then x.get TH_STAT.STEP - 1
            else x.get TH_STAT.STEP)
        ∧ (x.get TH_STAT.STEP < up → x.raised (t.on sd) 0x21 = true)
        ∧ ((t.on sd).get TH_STAT.STEP ≠ x.get TH_STAT.STEP → (t.on sd).is (evtBit 0x04 1) = true)
        ∧ (x.get TH_STAT.STEP = 0 → up ≠ 0 → (t.on sd).cal.runs = [] ∧ (t.on sd).loops.tunes = []))
  ∧ (∀ (sd : Side) (r : List HkReading) (n : Nat) (v : Int) (s : State), let x := s.on sd; let y := s.on sd.peer
    x.managed = true → x.win = .edge → x.beatNo % 100 = 0 → x.therm.roundAt ≠ some x.produced → x.mild = true → x.is TH_STAT.SHUTDOWN = false →
    n < 28 → Tab.get? (x.diePlausible r) n = some v → x.shutAt < v →
    ∃ t, exec (.housekeepingRound sd r) s = .next t
      ∧ (t.on sd).is TH_STAT.SHUTDOWN = true ∧ (t.on sd).therm.shutdownAt = some x.produced ∧ (t.on sd).therm.coolRounds = 0
      ∧ x.raised (t.on sd) 0x22 = true ∧ (x.twin.resignLine = false → x.raised (t.on sd) 0x8A = true)
      ∧ (t.on sd).get TW_ROLE.ROLE = (if x.isUnderstudy then 0 else x.get TW_ROLE.ROLE)
      ∧ (x.isUnderstudy = false → (t.on sd).twin.resignLine = true)
      ∧ (x.get TH_INT_STAT.STATE = 0 → y.alive = true → y.isUnderstudy = true → y.get TH_INT_STAT.STATE = 1 →
          (t.on sd.peer).therm.wakePending = some 3))
  ∧ (∀ (sd : Side) (r : List HkReading) (s : State), let x := s.on sd
    let cool := (x.dieRound r).validDies.all (fun v => decide (v < x.shutAt - 80))
    x.managed = true → x.win = .edge → x.beatNo % 100 = 0 → x.therm.roundAt ≠ some x.produced → x.mild = true → x.is TH_STAT.SHUTDOWN = true → x.therm.shutdownAt ≠ some x.produced →
    cool = false ∨ x.therm.coolRounds < 9 →
    ∃ t, exec (.housekeepingRound sd r) s = .next t
      ∧ t = s.put sd (t.on sd)
      ∧ (t.on sd).is TH_STAT.SHUTDOWN = true ∧ (t.on sd).therm.coolRounds = (if cool then x.therm.coolRounds + 1 else 0)
      ∧ (t.on sd).therm.shutdownAt = x.therm.shutdownAt ∧ (t.on sd).produced = x.produced)
  ∧ (∀ (sd : Side) (r : List HkReading) (s : State), let x := s.on sd
    x.managed = true → x.win = .edge → x.beatNo % 100 = 0 → x.therm.roundAt ≠ some x.produced → x.mild = true → x.is TH_STAT.SHUTDOWN = true →
    (x.dieRound r).validDies.all (fun v => decide (v < x.shutAt - 80)) = true → 9 ≤ x.therm.coolRounds →
    ∃ t, exec (.housekeepingRound sd r) s = .next t
      ∧ t = s.put sd (t.on sd)
      ∧ (t.on sd).is TH_STAT.SHUTDOWN = false ∧ (t.on sd).therm.shutdownAt = none ∧ (t.on sd).alive = true
      ∧ (t.on sd).get TW_ROLE.ROLE = 0 ∧ (t.on sd).get TW_ROLE.FENCED = x.get TW_ROLE.FENCED ∧ (t.on sd).get CK_RST_CAUSE.CAUSE = 4
      ∧ x.get CK_RST_CAUSE.COUNT ≤ (t.on sd).get CK_RST_CAUSE.COUNT ∧ (t.on sd).produced = 0 ∧ (t.on sd).get TH_STAT.STEP = 0)

/-- Power, reset, trips and the TAP (R326, R391, R392, R398, R399, R419). A power-up starts a side with its straps latched and its NVM
and keys as they were; a power failure takes the role and fences the side, but a lead with a FIT peer leaves its fence to the takeover and
keeps its rails up to the peer's third boundary (log entry 134); an analogue trip fences the side and takes its role without a log entry; a pin
reset and the release of a trip start the side again with reset values but for what a reset keeps; a PCIe reset changes no side. The TAP
loads EXTEST and CLAMP only on a fenced side with role NONE; SAMPLE/PRELOAD takes the levels of the balls or those shifted in, TRST_N low
selects IDCODE, and a side whose balls are not driven drives neither INT_N nor ALIVE_x (R408). Model's choices: RAM reads 0 after a reset (log
entry 2), a trip keeps the state of the controller die until its release (log entry 77), and the register of the balls (log entry 135). -/
def Obligations.PowerResetsAndTrips : Prop :=
  (∀ (sd : Side) (compat pref : Bool) (s : State), let x := s.on sd
    x.power.powered = false →
    ∃ t, exec (.powerUp sd compat pref) s = .next t
      ∧ t = s.put sd (t.on sd) ∧ (t.on sd).alive = true ∧ (t.on sd).mem = x.nvmCells ∧ (t.on sd).nvm.keys = x.storedKeys
      ∧ (t.on sd).is ID_STRAP.COMPAT = compat ∧ (t.on sd).is ID_STRAP.ROLE_PREF = pref ∧ (t.on sd).get CK_RST_CAUSE.CAUSE = 1
      ∧ (t.on sd).get CK_STAT.STAGE = 1 ∧ (t.on sd).get TW_ROLE.ROLE = 0 ∧ (t.on sd).beatNo = 0 ∧ (t.on sd).drive = (SideState.reset sd).drive)
  ∧ (∀ (sd : Side) (s : State), let x := s.on sd
    let keeps := x.alive && x.leads && x.peerFit; let z := if x.alive then x.loseUpdate else x
    x.power.powered = true →
    ∃ t, exec (.powerFail sd) s = .next t
      ∧ Within (keysOn eventPages) (.mem :: .ecc :: .nvm :: .power :: eventParts) sd s t
      ∧ (t.on sd).power = { x.power with powered := false, holdUp := if keeps then 3 else 0 } ∧ (t.on sd).get TW_ROLE.ROLE = 0
      ∧ (t.on sd).mem = z.mem ∧ (t.on sd).nvm = z.nvm
      ∧ (keeps = false → (t.on sd).get TW_ROLE.FENCED = 1 ∧ (t.on sd).get DO_STAT.STAGE_EN = 0 ∧ (t.on sd).get MI_STAT.FE_CONN = 0)
      ∧ (keeps = true → x.mild = true → (t.on sd).get TW_ROLE.FENCED = x.get TW_ROLE.FENCED ∧ (t.on sd).get DO_STAT.STAGE_EN = x.get DO_STAT.STAGE_EN)
      ∧ (t.on sd).twin.fenceRequest = false ∧ (t.on sd).twin.wasLead = keeps ∧ (t.on sd).alive = false)
  ∧ (∀ (sd : Side) (s : State), let x := s.on sd; let z := if x.leads then x.loseUpdate.resign.leaveRole else x
    x.alive = true → z.fault.halted = false →
    ∃ t, exec (.pinReset sd) s = .next t
      ∧ t = s.put sd (t.on sd) ∧ (t.on sd).alive = true ∧ (t.on sd).mem = z.nvmCells ∧ (t.on sd).nvm.keys = x.storedKeys
      ∧ (x.twin.update = none → (t.on sd).mem = x.nvmCells)
      ∧ (t.on sd).get CK_RST_CAUSE.CAUSE = 2 ∧ (t.on sd).get CK_RST_CAUSE.BEAT = x.beatNo % 2 ^ 16 ∧ (t.on sd).get CK_STAT.STAGE = 1
      ∧ (t.on sd).get TW_ROLE.ROLE = 0 ∧ (t.on sd).get TW_ROLE.FENCED = z.get TW_ROLE.FENCED
      ∧ (t.on sd).get ID_STRAP.COMPAT = x.get ID_STRAP.COMPAT ∧ (t.on sd).drive = (SideState.reset sd).drive)
  ∧ (∀ (sd : Side) (s : State), (s.on sd).alive = true →
    ∃ t, exec (.pcieReset sd) s = .next t ∧ Within (keysOf []) [.lines] sd s t)
  ∧ (∀ (sd : Side) (s : State), let x := s.on sd; let y := s.on sd.peer
    x.alive = true →
    ∃ t, exec (.analogueTrip sd) s = .next t
      ∧ t = { s with a := t.a, b := t.b }
      ∧ Alike (keysOn eventPages) (.mem :: .ecc :: .nvm :: .power :: eventParts) x (t.on sd)
      ∧ (t.on sd).mem = x.loseUpdate.mem ∧ (t.on sd).nvm = x.loseUpdate.nvm
      ∧ (t.on sd).power = { x.power with tripped := true } ∧ (t.on sd).get TW_ROLE.ROLE = 0 ∧ (t.on sd).get TW_ROLE.FENCED = 1
      ∧ (t.on sd).fault.log = x.loseUpdate.fault.log ∧ (t.on sd).fault.logSeq = x.loseUpdate.fault.logSeq
      ∧ Alike (keysOf []) [.therm, .lines] y (t.on sd.peer)
      ∧ (t.on sd.peer).therm = (if y.alive && y.isUnderstudy && y.get TH_INT_STAT.STATE == 1 && x.get TH_INT_STAT.STATE == 0 then
          { y.therm with wakePending := some 3 } else y.therm))
  ∧ (∀ (sd : Side) (s : State), let x := s.on sd
    x.power.powered = true → x.power.tripped = true → x.fault.halted = false →
    ∃ t, exec (.analogueTripRelease sd) s = .next t
      ∧ t = s.put sd (t.on sd) ∧ (t.on sd).alive = true ∧ (t.on sd).mem = x.nvmCells ∧ (t.on sd).nvm.keys = x.storedKeys
      ∧ (t.on sd).get CK_RST_CAUSE.CAUSE = 4 ∧ (t.on sd).get TW_ROLE.FENCED = x.get TW_ROLE.FENCED ∧ (t.on sd).get TW_ROLE.ROLE = 0)
  ∧ (∀ (sd : Side) (op : TapOp) (s : State), let x := s.on sd; let i := op.instr
    x.power.powered = true → op.trst = false →
    ∃ t, exec (.tapInstruction sd op) s = .next t
      ∧ Within (keysOf []) [.tap, .lines] sd s t
      ∧ (t.on sd).tap = (if (i = .extest ∨ i = .clamp) ∧ ¬(x.get TW_ROLE.ROLE = 0 ∧ x.get TW_ROLE.FENCED = 1) then .bypass else i)
      ∧ (t.on sd).boundary = (if i = .samplePreload then op.shift.getD (s.captured sd op.balls)
          else if (t.on sd).tap = .extest then op.shift.getD x.boundary else x.boundary))
  ∧ (∀ (sd : Side) (op : TapOp) (s : State), let x := s.on sd
    x.power.powered = true → op.trst = true →
    ∃ t, exec (.tapInstruction sd op) s = .next t
      ∧ Within (keysOf []) [.tap, .lines] sd s t ∧ (t.on sd).tap = .idcode ∧ (t.on sd).boundary = x.boundary)
  ∧ (∀ (sd : Side) (w : BallLevels) (s : State), let x := s.on sd
    (s.captured sd w).intN = (w.intN && !x.intPad) ∧ (s.captured sd w).ppsOut = ((x.ppsDrive <|> x.scannedPps).getD w.ppsOut)
    ∧ (x.ballsDriven = false → x.intPad = false ∧ x.ownAlivePad = none)
    ∧ (x.scanDrives = true → x.intPad = (!x.boundary.intN) ∧ x.scannedAlive = some x.boundary.alive))

/-- Arbitration and the start (R219, R382, R391, R394, R395, R397). A look at the peer shows what was seen, and gives the role of the row that
applies: a side that leads asks for its peer's fence, and where the peer leads and asks for the same neither stage is supplied. A retry after 100 beats does the same. Of two sides that led alone the one that is
not preferred gives up the role. The firmware of the slot that passes runs, or the side stays in the boot ROM with role NONE. Service
starts once its conditions hold, with a curtain request. ALIVE follows the lead in service, and without a lead nothing drives it (R219).
That the role is entered at arbitration is the model's choice (log entry 109), and so are the DECISION 3 and the retries that follow it for
the side that gives up its role (log entry 78). -/
def Obligations.SidesArbitrateAndStart : Prop :=
  (∀ (sd : Side) (ok : Bool) (v : ArbView) (row role : Nat) (s : State), let x := s.on sd; let p := s.on sd.peer
    x.alive = true → x.get CK_STAT.STAGE = 1 → x.get CK_ARB.DECISION = 0 → x.is FC_STAT.SAFE = false → x.leads = false → x.win = .edge →
    x.arbRow p ok v = some (row, role) → role ≠ 1 ∨ (p.alive && p.leads && p.twin.fenceRequest) = false →
    ∃ t, exec (.arbitration sd ok v) s = .next t
      ∧ Within (keysOn (0x01 :: eventPages)) (([.clock, .time, .power] : List Part) ++ eventParts) sd s t
      ∧ (t.on sd).get CK_ARB.ROW = row ∧ (t.on sd).get TW_ROLE.ROLE = role ∧ (t.on sd).get CK_ARB.DECISION = (if role = 0 then 3 else role)
      ∧ (t.on sd).get CK_STAT.STAGE = (if role = 1 then 2 else if role = 2 then (if x.power.firmware then 5 else 4) else 1)
      ∧ (t.on sd).is CK_ARB.PULSE_SEEN = v.pulseSeen ∧ (t.on sd).is CK_ARB.LINK_SEEN = v.linkSeen
      ∧ (role = 1 → (t.on sd).twin.fenceRequest = true ∧ (t.on sd).power.leadAlone = some x.produced)
      ∧ (role = 2 → (t.on sd).power.leadCompat = some (p.is ID_STRAP.COMPAT))
      ∧ (t.on sd).beatNo = (if v.pulseSeen && v.linkSeen && !(x.preferred && !p.preferred) then v.peerBeat else x.beatNo))
  ∧ (∀ (sd : Side) (ok : Bool) (v : ArbView) (row : Nat) (s : State), let x := s.on sd; let p := s.on sd.peer
    x.alive = true → x.get CK_STAT.STAGE = 1 → x.get CK_ARB.DECISION = 0 → x.is FC_STAT.SAFE = false → x.leads = false → x.win = .edge →
    x.arbRow p ok v = some (row, 1) → x.mild = true → x.twin.haltDue = false → (p.alive && p.leads && p.twin.fenceRequest) = true →
    p.twin.haltDue = false → p.is FC_STAT.SAFE = false →
    ∃ t, exec (.arbitration sd ok v) s = .next t
      ∧ t = { s with a := t.a, b := t.b }
      ∧ Alike (keysOn (0x01 :: eventPages)) (([.clock, .time, .power] : List Part) ++ eventParts) x (t.on sd)
      ∧ Alike (keysOf [TW_ROLE.FENCED.key, DO_STAT.STAGE_EN.key, MI_STAT.FE_CONN.key]) [.twin, .power, .lines] p (t.on sd.peer)
      ∧ (∀ w ∈ [t.on sd, t.on sd.peer], w.leads = true ∧ w.get TW_ROLE.FENCED = 1 ∧ w.get DO_STAT.STAGE_EN = 0
          ∧ w.power.leadAlone = some w.produced ∧ w.twin.fenceRequest = true))
  ∧ (∀ (sd : Side) (ok : Bool) (v : ArbView) (s : State), let x := s.on sd
    x.alive = true → x.get CK_STAT.STAGE = 1 → x.get CK_ARB.DECISION = 0 → x.leads = false →
    x.is FC_STAT.SAFE = false → x.win ≠ .edge ∨ x.arbRow (s.on sd.peer) ok v = none →
    ∃ t, exec (.arbitration sd ok v) s = .next t
      ∧ Within (keysOn (0x01 :: eventPages)) (([.clock, .time] : List Part) ++ eventParts) sd s t ∧ (t.on sd).get CK_ARB.DECISION = 0)
  ∧ (∀ (sd : Side) (ok : Bool) (v : ArbView) (s : State), let x := s.on sd
    x.get CK_STAT.STAGE ≠ 1 ∨ x.get CK_ARB.DECISION ≠ 0 ∨ x.is FC_STAT.SAFE = true → x.leads = false →
    ∃ t, exec (.arbitration sd ok v) s = .next t ∧ Within (keysOf []) [.lines] sd s t)
  ∧ (∀ (sd : Side) (ok : Bool) (v : ArbView) (row role : Nat) (s : State), let x := s.on sd; let p := s.on sd.peer
    x.alive = true → x.get CK_ARB.DECISION = 3 → x.get TW_ROLE.ROLE = 0 → x.is FC_STAT.SAFE = false → x.power.retryFrom + 100 ≤ x.produced →
    x.win = .edge → x.arbRow p ok v = some (row, role) → role ≠ 1 ∨ (p.alive && p.leads && p.twin.fenceRequest) = false →
    ∃ t, exec (.arbitrationRetry sd ok v) s = .next t
      ∧ Within (keysOn (0x01 :: eventPages)) (([.clock, .time, .power] : List Part) ++ eventParts) sd s t
      ∧ (t.on sd).power.retryFrom = x.produced
      ∧ (t.on sd).get CK_ARB.ROW = row ∧ (t.on sd).get TW_ROLE.ROLE = role ∧ (t.on sd).get CK_ARB.DECISION = (if role = 0 then 3 else role)
      ∧ (role = 1 → (t.on sd).get CK_STAT.STAGE = 2)
      ∧ (role = 2 → (t.on sd).get CK_STAT.STAGE = max (x.get CK_STAT.STAGE) (if x.power.firmware then 5 else 4)))
  ∧ (∀ (sd : Side) (b : Nat) (s : State), let x := s.on sd; let p := s.on sd.peer
    x.alive = true → x.power.leadAlone = some b → x.leads = true → x.is TW_ROLE.FENCED = true → x.preferredOf p = false →
    x.twin.fenceRequest = true → p.twin.fenceRequest = true → b + 100 ≤ x.produced →
    ∃ t, exec (.fenceInterlockTimeout sd) s = .next t
      ∧ Within (keysOn (0x01 :: eventPages)) (.power :: eventParts) sd s t
      ∧ (t.on sd).get TW_ROLE.ROLE = 0 ∧ (t.on sd).get CK_ARB.DECISION = 3 ∧ (t.on sd).twin.fenceRequest = false
      ∧ (t.on sd).twin.unfencePending = false
      ∧ (t.on sd).power = { x.power with leadAlone := none, pads := none, retryFrom := x.produced })
  ∧ (∀ (sd : Side) (slot0 slot1 : SlotCheck) (s : State), let x := s.on sd; let d := x.directory
    x.alive = true → x.power.firmware = false → x.nvm.bootRom = false → x.get CK_ARB.DECISION ≠ 0 → x.leads = false ∨ 4 ≤ x.get CK_STAT.STAGE →
    x.slotReason d.active (if d.active = 0 then slot0 else slot1) = 0 → (d.trial && d.failed) = false →
    ∃ t, exec (.firmwareStart sd slot0 slot1) s = .next t
      ∧ Within (keysOn ([0x01, 0x02, 0x07, 0x0A, 0x0E, 0x0F, 0x1B, 0x1F, 0x2A, 0x2B, 0x2C, 0x2D, 0x2E, 0x2F] ++ eventPages))
          (([.mem, .ecc, .drive, .mon, .scene, .pipe, .cal, .watch, .nvm, .power, .rigImage] : List Part) ++ eventParts) sd s t
      ∧ (t.on sd).power.firmware = true ∧ (t.on sd).get NV_STAT.ACTIVE = d.active ∧ (t.on sd).get CK_STAT.STAGE = 5
      ∧ (t.on sd).get HM_STAT.RUN = 1 ∧ (t.on sd).get HM_STAT.WDOG_OK = 1 ∧ (t.on sd).get CQ_STAT.RUN = 1
      ∧ (t.on sd).get BX_STAT.REMAPPED = 1 ∧ (t.on sd).get BX_CTRL.REMAP_LOCK = 1 ∧ (t.on sd).pipe.curtainOwed = true
      ∧ (∀ a, a < 0x30000000 → (t.on sd).rd8 a = x.rd8 a))
  ∧ (∀ (sd : Side) (slot0 slot1 : SlotCheck) (s : State), let x := s.on sd; let d := x.directory
    x.alive = true → x.power.firmware = false → x.nvm.bootRom = false → x.get CK_ARB.DECISION ≠ 0 → x.leads = false ∨ 4 ≤ x.get CK_STAT.STAGE →
    d.active < 2 → x.slotReason 0 slot0 ≠ 0 → x.slotReason 1 slot1 ≠ 0 →
    ∃ t, exec (.firmwareStart sd slot0 slot1) s = .next t
      ∧ Within (keysOn (0x1F :: eventPages)) (.nvm :: eventParts) sd s t
      ∧ (t.on sd).nvm = { x.nvm with bootRom := true } ∧ (t.on sd).get TW_ROLE.ROLE = 0 ∧ (t.on sd).power.firmware = false
      ∧ (t.on sd).get KY_SIG_STAT.RESULT = 3 ∧ (t.on sd).get KY_SIG_STAT.REASON = x.slotReason (1 - d.active) (if d.active = 0 then slot1 else slot0))
  ∧ (∀ (sd : Side) (s : State), let x := s.on sd
    x.alive = true → x.is CK_STAT.SERVICE = false → x.win = .edge → x.leads = true → x.serviceReady = true →
    x.watch.curtainAt.all (fun c => Nat.ble c x.beatNo) = true →
    ∃ t, exec (.startOfService sd true) s = .next t
      ∧ Within (keysOn ([0x01, 0x0B, 0x0C, 0x0E, 0x17, 0x18, 0x19, 0x1A, 0x1B, 0x1C, 0x30, 0x31] ++ eventPages))
          (([.mem, .ecc, .drive, .loops, .scene, .pipe, .cal, .watch, .net, .therm, .power] : List Part) ++ eventParts) sd s t
      ∧ (t.on sd).get CK_STAT.SERVICE = 1 ∧ (t.on sd).get CK_STAT.STAGE = 6
      ∧ ((List.range 256).all (fun src => Nat.ble (x.classOf src) 1) = true → (t.on sd).get SW_STAT.ALIVE_RUN = 1)
      ∧ (t.on sd).get SW_STAT.CURTAIN_PEND = 1 ∧ (t.on sd).watch.curtainAt = some (x.beatNo + 2) ∧ (t.on sd).power.selfTested = true
      ∧ (t.on sd).is (evtBit 0x01 3) = true
      ∧ (∀ a, a < 0x30000000 → x.endByte a = false → (t.on sd).rd8 a = x.rd8 a))
  ∧ (∀ (sd : Side) (s : State), let x := s.on sd
    x.alive = true → x.is CK_STAT.SERVICE = false → x.win = .edge → x.isUnderstudy = true → x.power.firmware = true → x.is FC_STAT.MAJOR = false →
    x.is FC_STAT.SAFE = false →
    ∃ t, exec (.startOfService sd true) s = .next t
      ∧ Within (keysOf [SW_STAT.ALIVE_RUN.key]) [.power, .lines] sd s t
      ∧ (t.on sd).get SW_STAT.ALIVE_RUN = 1 ∧ (t.on sd).power = { x.power with selfTested := true })
  ∧ (∀ (s : State), s.a.leads = false → s.b.leads = false → s.alivePad = none)
  ∧ (∀ (sd : Side) (s : State), let x := s.on sd
    x.alive = true → x.leads = true → x.is CK_STAT.SERVICE = true → (s.on sd.peer).leads = false → s.alivePad = some x.watch.aliveLevel)

/-- A step takes the command at the front of the queue and runs it with the queue's rest; on an empty queue the device idles. That it idles is
the model's choice (log entry 1). -/
def Obligations.StepRunsTheFrontCommand : Prop :=
  (∀ (c : Instr) (s : State), step { s with pending := c :: s.pending } = exec c s)
  ∧ (∀ (c : Instr) (rest : List Instr) (s : State), s.pending = c :: rest → step s = exec c { s with pending := rest })
  ∧ (∀ (s : State), s.pending = [] → step s = .next s)

/-- Every command completes with a next state, whatever the state and the operands, and leaves the queue as it is. -/
def Obligations.CommandsCompleteAndKeepTheQueue : Prop :=
  ∀ (c : Instr) (s : State), ∃ t, exec c s = .next t ∧ t.pending = s.pending

/-- A command on one side changes nothing of the other side, of the tile, of the pins or of the queue, unless it is one of the commands
that `Instr.shared` names (R3, R4). -/
def Obligations.OneSidedCommandsLeaveTheOtherSide : Prop :=
  ∀ (c : Instr) (sd : Side) (s t : State), c.side = some sd → c.shared = false → exec c s = .next t →
    t = s.put sd (t.on sd)

/-- What the two sides share. CURTAIN_N moves only with its own two commands (R217); the tile's identity memory changes only at the end of a
tile write of a lead, and its factory block never does (R42, R44, R64); the tile stays where it is; and each side stays the side it is. -/
def Obligations.SharedPartsChangeOnlyByTheirCommands : Prop :=
  ∀ (c : Instr) (s t : State), exec c s = .next t →
    t.tilePresent = s.tilePresent
    ∧ (t.curtainN = s.curtainN ∨ (c = .curtainNAssert ∧ t.curtainN = true) ∨ (c = .curtainNDeassert ∧ t.curtainN = false))
    ∧ (t.tile = s.tile ∨ ∃ sd, c = .tileWriteDone sd true ∧ (s.on sd).leads = true)
    ∧ (∀ a, 0xFF00 ≤ a → Store.read (fun _ => 0xFF) t.tile a = Store.read (fun _ => 0xFF) s.tile a)
    ∧ t.a.side = s.a.side ∧ t.b.side = s.b.side

/-- Every step keeps the interrupt lines: on a side that no Grave halt has stopped, the condition that INT_N and MSI follow is the one its
event flags give, and INT_N is low exactly while the condition holds and PIN_EN is 1 (R312). -/
def Obligations.InterruptLinesFollowTheCondition : Prop :=
  ∀ (s t : State), s.linesOk = true → step s = .next t → t.linesOk = true

/-- Every step keeps the canonical form of the stores: registers and memories of both sides and the tile's memory list their entries by
rising address, and none that reads as an unlisted one does. -/
def Obligations.StoresStayCanonical : Prop :=
  ∀ (s t : State), s.canonical = true → step s = .next t → t.canonical = true

/-- After reset the machine meets both invariants, its queue is empty, and the registers hold what their tables give for reset (R9): a side
is fenced without a role (R227, R239), PART_ID reads 0x9512 (R347), and every field with a stated reset value other than 0 holds it, on
either side: those of the register tables, on the page of each ring and access port, BX_PRIO, QS_PCPMAP, VLAN entry 0, the slot map
and PAGE_ID (R336); of the class map (R308) two entries with one event and those with a window. -/
def Obligations.ResetLeavesTheStatedValues : Prop :=
  State.reset.linesOk = true ∧ State.reset.canonical = true ∧ State.reset.pending = []
  ∧ ∀ sd : Side, let x := State.reset.on sd
    x.get TW_ROLE.ROLE = 0 ∧ x.get TW_ROLE.FENCED = 1 ∧ x.get SC_CUE_CTRL.ARM = 0 ∧ x.get SC_CUE_CTRL.NET_EN = 0 ∧ x.get SC_CUE_CTRL.MBX_EN = 0
    ∧ x.word 0x00040 = 0x9512 ∧ x.get RG_STAT.IN_FORCE = 0 ∧ x.get DO_STAT.STAGE_EN = 0
    ∧ statedResets.all (fun p => x.get p.1 == p.2) = true
    ∧ [(NP_CTRL.AN_EN, 1), (NP_VLAN.PVID, 1), (NP_VLAN.UNTAG_OK, 1), (NP_MAXLEN.MAXLEN, 1522)].all (fun p =>
        x.get { p.1 with key := p.1.key + 0x1000 } == p.2 && x.get { p.1 with key := p.1.key + 0x2000 } == p.2) = true
    ∧ [0xAAAAAAA, 0xEEEEEEE, 0x8888888, 0x2222222, 0xDDDDDDD, 0x9999999, 0xCCCCCCC].zipIdx.all (fun p => x.get (BX_PRIO.PRIO.nth p.2) == p.1) = true
    ∧ (List.range 4).all (fun i => x.get (QS_PCPMAP.MAP.nth i) == 0xFAC688) = true
    ∧ x.word 0x1B094 = 0x800FF001 ∧ x.word (0x1B094 + bankUnit) = 0
    ∧ (List.range 64).all (fun i => bits (x.word (0x15080 + i / 4 * 4)).toNat (8 * (i % 4)) 8 == i) = true
    ∧ (List.range 50).all (fun p => (x.word (p * 0x1000)).toNat % 256 == p) = true
    ∧ x.is ID_STRAP.SIDE = (match sd with | .A => false | .B => true)
    ∧ x.word (0x03054 + 0x14 * bankUnit) = 0x102 ∧ x.word (0x03054 + 0x10 * bankUnit) = 0x100 ∧ x.word (0x03054 + 0x5C * bankUnit) = 0x641001
    ∧ x.word (0x03054 + 0x60 * bankUnit) = 0x3E80206 ∧ x.word (0x03054 + 0x89 * bankUnit) = 0x3E80206
    ∧ x.word (0x03054 + 0x47 * bankUnit) = 0x640802 ∧ x.word (0x03054 + 0x43 * bankUnit) = 0x641002
    ∧ x.beatNo = 0 ∧ x.produced = 0 ∧ x.pairs = [] ∧ x.fault.log = [] ∧ x.drive.fifo = [] ∧ x.scene.staged = [] ∧ x.pipe.waiting = []
    ∧ x.alive = false

/-- The fuses (R383). At the end of step 7 each side raises its minimal version to that of the new image and burns the image's REVOKE bits, which
KY_SVN shows; no command lowers the minimum or clears a bit; an image below the minimum is refused at an update; and the boot ROM starts no
slot whose image lies below it. -/
def Obligations.FusesOnlyRise : Prop :=
  (∀ (sd : Side) (u : Update) (s : State), let x := s.on sd; let y := s.on sd.peer
    let svn := leNat (slice u.image 8 2) % 64; let rev := leNat (slice u.image 0x1C 1) % 16
    x.alive = true → x.leads = true → x.twin.update = some u → u.step = 7 → x.peerFit = true → y.alive = true →
    ∃ t, exec (.updateStepDone sd true) s = .next t
      ∧ (t.on sd).nvm.fuseMin = max x.nvm.fuseMin svn ∧ (t.on sd).nvm.fuseRevoked = Nat.lor x.nvm.fuseRevoked rev
      ∧ (t.on sd).get KY_SVN.MIN = max x.nvm.fuseMin svn % 64 ∧ (t.on sd).get KY_SVN.REVOKED = Nat.lor x.nvm.fuseRevoked rev % 16
      ∧ (t.on sd.peer).nvm.fuseMin = max y.nvm.fuseMin svn ∧ (t.on sd.peer).nvm.fuseRevoked = Nat.lor y.nvm.fuseRevoked rev
      ∧ (t.on sd.peer).get KY_SVN.MIN = max y.nvm.fuseMin svn % 64 ∧ (t.on sd.peer).get KY_SVN.REVOKED = Nat.lor y.nvm.fuseRevoked rev % 16)
  ∧ (∀ (c : Instr) (sd : Side) (s t : State), exec c s = .next t →
      (s.on sd).nvm.fuseMin ≤ (t.on sd).nvm.fuseMin
      ∧ Nat.lor (s.on sd).nvm.fuseRevoked (t.on sd).nvm.fuseRevoked = (t.on sd).nvm.fuseRevoked)
  ∧ (∀ (sd : Side) (m : Master) (v : Word) (s : State), let y := (s.on sd).paired m 0x08088 v; let p := s.on sd.peer
    (s.on sd).holds m 0x08088 v = true → v.toNat % 2 = 1 → y.nvm.bootRom = false → y.twin.update = none → y.leads = true → p.alive = true →
    p.isUnderstudy = true → p.power.firmware = true → leNat (slice y.updateImage 8 2) < y.nvm.fuseMin →
    ∃ t, exec (.firmwareUpdate sd m (.complement (~~~v))) s = .next t
      ∧ (t.on sd).twin.update = none ∧ (t.on sd).get TW_UPD_STAT.STEP = 15 ∧ (t.on sd).get TW_UPD_STAT.REASON = 1)
  ∧ (∀ (sd : Side) (slot0 slot1 : SlotCheck) (s t : State), let x := s.on sd
    exec (.firmwareStart sd slot0 slot1) s = .next t → x.power.firmware = false → (t.on sd).power.firmware = true →
    x.nvm.fuseMin ≤ x.imageSvn ((t.on sd).get NV_STAT.ACTIVE))

/-- Only a FIT understudy takes over (R229). At a resignation, on the pulse line or by RESIGN in a present marker, or at the third silent
beat, an understudy that is FIT decides to take over at
the next boundary it can; one that is not raises source 0x82 with CAUSE 4, NOT_FIT, decides nothing and stays understudy. Without
a decision a side does not take over. -/
def Obligations.OnlyAFitUnderstudyTakesOver : Prop :=
  (∀ (sd : Side) (s : State), (s.on sd).twin.takeoverDue = none → exec (.takeover sd) s = .next s)
  ∧ (∀ (sd : Side) (s : State), (s.on sd).isUnderstudy = false → exec (.takeover sd) s = .next s)
  ∧ (∀ (sd : Side) (s : State), let x := s.on sd
    let b := if x.win = .judged then x.produced + 2 else x.produced + 1
    x.alive = true → x.isUnderstudy = true → x.fitNow = true →
    ∃ t, exec (.resignationPulse sd) s = .next t
      ∧ (t.on sd).twin = (if x.twin.takeoverDue.any (fun d => Nat.ble d b) then x.twin
          else { x.twin with takeoverDue := some b, takeoverCause := 2 }))
  ∧ (∀ (sd : Side) (s : State), let x := s.on sd
    x.alive = true → x.isUnderstudy = true → x.fitNow = false →
    exec (.resignationPulse sd) s = .next (s.side sd (fun y => ((y.set TW_HB_STAT.RESIGN_IN 1).raise 0x82).set TW_TAKE_STAT.CAUSE 4)))
  ∧ (∀ (sd : Side) (s : State), let x := s.on sd
    x.alive = true → x.isUnderstudy = true → x.fitNow = false → x.mild = true →
    ∃ t, exec (.resignationPulse sd) s = .next t
      ∧ (t.on sd).get TW_ROLE.ROLE = 2 ∧ (t.on sd).get TW_TAKE_STAT.CAUSE = 4 ∧ (t.on sd).twin.takeoverDue = x.twin.takeoverDue
      ∧ x.raised (t.on sd) 0x82 = true)
  ∧ (∀ (sd : Side) (s : State), let x := s.on sd
    x.alive = true → x.win ≠ .judged → x.isUnderstudy = true → x.fitNow = true → x.twin.markerSeen = false → x.twin.pulseSeen = false →
    x.get TW_HB_STAT.SILENT = 2 →
    ∃ t, exec (.heartbeatJudge sd) s = .next t
      ∧ (if x.twin.takeoverDue.any (fun d => Nat.ble d (x.produced + 1)) then
          (t.on sd).twin.takeoverDue = x.twin.takeoverDue ∧ (t.on sd).twin.takeoverCause = x.twin.takeoverCause
        else (t.on sd).twin.takeoverDue = some (x.produced + 1) ∧ (t.on sd).twin.takeoverCause = 1))
  ∧ (∀ (sd : Side) (s : State), let x := s.on sd
    x.alive = true → x.win ≠ .judged → x.isUnderstudy = true → x.fitNow = false → x.mild = true → x.twin.markerSeen = false →
    x.twin.pulseSeen = false → x.get TW_HB_STAT.SILENT = 2 →
    ∃ t, exec (.heartbeatJudge sd) s = .next t
      ∧ (t.on sd).get TW_ROLE.ROLE = 2 ∧ (t.on sd).get TW_TAKE_STAT.CAUSE = 4 ∧ (t.on sd).twin.takeoverDue = x.twin.takeoverDue
      ∧ x.raised (t.on sd) 0x82 = true)
  ∧ (∀ (sd : Side) (b : List Byte) (s : State), let x := s.on sd; let w0 := leNat (slice b 0 4)
    x.alive = true → x.fitNow = true → x.fault.injection = none → x.win ≠ .judged → b.length = 16 → w0 % 16 = 15 →
    leNat (slice b 4 4) = crc32c x.twin.beatStaged.flatten → bitAt w0 4 = true → leNat (slice b 8 8) = x.beatNo → bitAt w0 5 = true →
    ∃ t, exec (.markerReceived sd b true) s = .next t
      ∧ (if x.twin.takeoverDue.any (fun d => Nat.ble d (x.produced + 1)) then
          (t.on sd).twin.takeoverDue = x.twin.takeoverDue ∧ (t.on sd).twin.takeoverCause = x.twin.takeoverCause
        else (t.on sd).twin.takeoverDue = some (x.produced + 1) ∧ (t.on sd).twin.takeoverCause = 2))
  ∧ (∀ (sd : Side) (b : List Byte) (s : State), let x := s.on sd; let w0 := leNat (slice b 0 4)
    x.alive = true → x.isUnderstudy = true → x.fitNow = false → x.mild = true → x.fault.injection = none → x.win ≠ .judged → b.length = 16 → w0 % 16 = 15 →
    leNat (slice b 4 4) = crc32c x.twin.beatStaged.flatten → bitAt w0 4 = true → leNat (slice b 8 8) = x.beatNo → bitAt w0 5 = true →
    ∃ t, exec (.markerReceived sd b true) s = .next t
      ∧ (t.on sd).get TW_ROLE.ROLE = 2 ∧ (t.on sd).get TW_TAKE_STAT.CAUSE = 4 ∧ (t.on sd).twin.takeoverDue = x.twin.takeoverDue
      ∧ x.raised (t.on sd) 0x82 = true)

/-- The tile belongs to the lead (R42): on a side that does not lead, no command depends on what the tile's identity memory holds, nor on
whether a tile is there, and none changes it. -/
def Obligations.TheTileIsTheLeads : Prop :=
  ∀ (c : Instr) (sd : Side) (s t : State) (tile : List Host.Cell) (there : Bool), c.side = some sd → (s.on sd).leads = false →
    exec c s = .next t →
    t.tile = s.tile ∧ exec c { s with tile := tile, tilePresent := there } = .next { t with tile := tile, tilePresent := there }

/-- Boundaries are counted by boundaries only (R11): over any command the count of a side stays, or becomes one more by its own
boundary, or is 0 on a side that has been started afresh, with the cause it shows (R398): by its power-up, its pin reset, the release of
its trip or the end of its thermal shutdown (R326, R327), or for an update that one of the sides carries, or whose slot it tries. -/
def Obligations.OnlyBoundariesCountBeats : Prop :=
  ∀ (c : Instr) (sd : Side) (s t : State), exec c s = .next t →
    (t.on sd).produced = (s.on sd).produced ∨ (c = .beatBoundary sd ∧ (t.on sd).produced = (s.on sd).produced + 1)
      ∨ ((t.on sd).produced = 0 ∧
          ((∃ compat rolePref, c = .powerUp sd compat rolePref ∧ (t.on sd).get CK_RST_CAUSE.CAUSE = 1)
            ∨ (c = .pinReset sd ∧ (t.on sd).get CK_RST_CAUSE.CAUSE = 2)
            ∨ (((∃ r, c = .housekeepingRound sd r ∧ (s.on sd).is TH_STAT.SHUTDOWN = true) ∨ c = .analogueTripRelease sd)
                ∧ (t.on sd).get CK_RST_CAUSE.CAUSE = 4)
            ∨ (mayRestart c = true ∧ (t.on sd).get CK_RST_CAUSE.CAUSE = 3
                ∧ (s.a.twin.update.isSome || s.b.twin.update.isSome || (s.on sd).directory.trial) = true)))

/-- How light passes the cells (R67). A cell in bar sends an input line to the output line of the same number, a cell in cross to the other
line of the pair; the cell of stage s and position k is number s × CPS + k; an input port enters stage 0 on the line of its number, and
what leaves the last stage is the output port of that number. So with every cell in bar or in cross no two inputs of a Benes fabric
reach the same output (R68). -/
def Obligations.LightFollowsTheCells : Prop :=
  (∀ (f : Fabric) (cells : Nat → Nat) (s k x n : Nat), x < 2 → cells (s * f.cps + k) = cellBar → s + 1 < f.stages →
    f.follow cells (n + 1) s (2 * k + x) =
      (f.follow cells n (s + 1) (f.link s (2 * k + x))).map (fun r => (r.1, ⟨s * f.cps + k, x, cellBar⟩ :: r.2)))
  ∧ (∀ (f : Fabric) (cells : Nat → Nat) (s k x n : Nat), x < 2 → cells (s * f.cps + k) = cellCross → s + 1 < f.stages →
    f.follow cells (n + 1) s (2 * k + x) =
      (f.follow cells n (s + 1) (f.link s (2 * k + (1 - x)))).map (fun r => (r.1, ⟨s * f.cps + k, x, cellCross⟩ :: r.2)))
  ∧ (∀ (f : Fabric) (cells : Nat → Nat) (s k x : Nat), x < 2 → s + 1 = f.stages → cells (s * f.cps + k) = cellBar →
    f.follow cells 1 s (2 * k + x) = some (2 * k + x, [⟨s * f.cps + k, x, cellBar⟩]))
  ∧ (∀ (f : Fabric) (cells : Nat → Nat) (s k x : Nat), x < 2 → s + 1 = f.stages → cells (s * f.cps + k) = cellCross →
    f.follow cells 1 s (2 * k + x) = some (2 * k + (1 - x), [⟨s * f.cps + k, x, cellCross⟩]))
  ∧ (∀ (f : Fabric) (cells : Nat → Nat) (p : Nat), f.trace cells p = f.follow cells f.stages 0 p)
  ∧ (∀ (f : Fabric) (cells : Nat → Nat), f.kind = 0 → 1 ≤ f.n → f.stages = 2 * f.n - 1 →
      (∀ c, cells c = cellBar ∨ cells c = cellCross) → ∀ p q, p < f.ports → q < f.ports → p ≠ q →
      ∃ u v, f.trace cells p = some u ∧ f.trace cells q = some v ∧ u.1 < f.ports ∧ v.1 < f.ports ∧ u.1 ≠ v.1)
end

