-- ==== Sys2Proof/Laws/Store.lean ====
section
/-! SUPPORT. Laws of the sparse stores and of the small tables: a read after a write, and the canonical form. -/

set_option Elab.async false

namespace Sys2Proof.Machine

/-! ### Reads after writes -/

theorem Store.read_filter_ne {α : Type} (d : Nat → α) (l : List (Nat × α)) (k j : Nat) (h : j ≠ k) :
    Store.read d (l.filter (fun p => p.1 != k)) j = Store.read d l j := by
  induction l with
  | nil => rfl
  | cons p t ih =>
    obtain ⟨a, v⟩ := p
    by_cases ha : a = k
    · subst ha
      simp [Store.read, Ne.symm h, ih]
    · simp [Store.read, ha, ih]

theorem Store.read_filter_self {α : Type} (d : Nat → α) (l : List (Nat × α)) (k : Nat) :
    Store.read d (l.filter (fun p => p.1 != k)) k = d k := by
  induction l with
  | nil => rfl
  | cons p t ih =>
    obtain ⟨a, v⟩ := p
    by_cases ha : a = k
    · subst ha
      simp [ih]
    · simp [Store.read, ha, ih]

theorem Store.read_insert_ne {α : Type} (d : Nat → α) (l : List (Nat × α)) (k j : Nat) (v : α) (h : j ≠ k) :
    Store.read d (Store.insert l k v) j = Store.read d l j := by
  induction l with
  | nil => simp [Store.insert, Store.read, Ne.symm h]
  | cons p t ih =>
    obtain ⟨a, w⟩ := p
    simp only [Store.insert]
    split
    · simp [Store.read, Ne.symm h]
    · simp [Store.read, ih]

theorem Store.read_insert_self {α : Type} (d : Nat → α) (l : List (Nat × α)) (k : Nat) (v : α)
    (h : ∀ p ∈ l, p.1 ≠ k) : Store.read d (Store.insert l k v) k = v := by
  induction l with
  | nil => simp [Store.insert, Store.read]
  | cons p t ih =>
    obtain ⟨a, w⟩ := p
    simp only [Store.insert]
    split
    · simp [Store.read]
    · have ha : a ≠ k := h (a, w) List.mem_cons_self
      simp [Store.read, ha, ih (fun p hp => h p (List.mem_cons_of_mem _ hp))]

/-- A written key reads as what was written. -/
@[simp] theorem Store.read_write_self {α : Type} [DecidableEq α] (d : Nat → α) (l : List (Nat × α)) (k : Nat) (v : α) :
    Store.read d (Store.write d l k v) k = v := by
  simp only [Store.write]
  split
  · rename_i h
    rw [Store.read_filter_self, h]
  · refine Store.read_insert_self d _ k v (fun p hp => ?_)
    simpa using (List.mem_filter.mp hp).2

/-- Every other key reads as before. -/
theorem Store.read_write_ne {α : Type} [DecidableEq α] (d : Nat → α) (l : List (Nat × α)) (k j : Nat) (v : α) (h : j ≠ k) :
    Store.read d (Store.write d l k v) j = Store.read d l j := by
  simp only [Store.write]
  split
  · exact Store.read_filter_ne d l k j h
  · rw [Store.read_insert_ne d _ k j v h, Store.read_filter_ne d l k j h]

/-- A read after a write, in one equation. -/
theorem Store.read_write {α : Type} [DecidableEq α] (d : Nat → α) (l : List (Nat × α)) (k j : Nat) (v : α) :
    Store.read d (Store.write d l k v) j = if j = k then v else Store.read d l j := by
  by_cases h : j = k
  · subst h; simp
  · simp [h, Store.read_write_ne d l k j v h]

/-! ### The canonical form -/

theorem Store.wf_cons {α : Type} [DecidableEq α] (d : Nat → α) (a : Nat) (v : α) (t : List (Nat × α)) :
    Store.wf d ((a, v) :: t) = true ↔ v ≠ d a ∧ (∀ p ∈ t, a < p.1) ∧ Store.wf d t = true := by
  simp [Store.wf, and_assoc]

theorem Store.wf_filter {α : Type} [DecidableEq α] (d : Nat → α) (l : List (Nat × α)) (k : Nat)
    (h : Store.wf d l = true) : Store.wf d (l.filter (fun p => p.1 != k)) = true := by
  induction l with
  | nil => rfl
  | cons p t ih =>
    obtain ⟨a, v⟩ := p
    obtain ⟨hv, ha, ht⟩ := (Store.wf_cons d a v t).mp h
    rw [List.filter_cons]
    split
    · exact (Store.wf_cons d a v _).mpr ⟨hv, fun p hp => ha p (List.mem_filter.mp hp).1, ih ht⟩
    · exact ih ht

theorem Store.mem_insert {α : Type} (l : List (Nat × α)) (k : Nat) (v : α) (p : Nat × α) :
    p ∈ Store.insert l k v ↔ p = (k, v) ∨ p ∈ l := by
  induction l with
  | nil => simp [Store.insert]
  | cons q t ih =>
    obtain ⟨a, w⟩ := q
    simp only [Store.insert]
    split
    · simp
    · simp only [List.mem_cons, ih]
      constructor
      · rintro (h | h | h)
        · exact Or.inr (Or.inl h)
        · exact Or.inl h
        · exact Or.inr (Or.inr h)
      · rintro (h | h | h)
        · exact Or.inr (Or.inl h)
        · exact Or.inl h
        · exact Or.inr (Or.inr h)

theorem Store.wf_insert {α : Type} [DecidableEq α] (d : Nat → α) (l : List (Nat × α)) (k : Nat) (v : α)
    (h : Store.wf d l = true) (hk : ∀ p ∈ l, p.1 ≠ k) (hv : v ≠ d k) : Store.wf d (Store.insert l k v) = true := by
  induction l with
  | nil => simpa [Store.insert, Store.wf] using hv
  | cons q t ih =>
    obtain ⟨a, w⟩ := q
    obtain ⟨hw, ha, ht⟩ := (Store.wf_cons d a w t).mp h
    have hak : a ≠ k := hk (a, w) List.mem_cons_self
    simp only [Store.insert]
    split
    · rename_i hlt
      refine (Store.wf_cons d k v _).mpr ⟨hv, fun p hp => ?_, h⟩
      rcases List.mem_cons.mp hp with rfl | hp
      · exact hlt
      · exact Nat.lt_trans hlt (ha p hp)
    · rename_i hge
      refine (Store.wf_cons d a w _).mpr ⟨hw, fun p hp => ?_, ih ht (fun p hp => hk p (List.mem_cons_of_mem _ hp))⟩
      rcases (Store.mem_insert t k v p).mp hp with rfl | hp
      · exact Nat.lt_of_le_of_ne (Nat.not_lt.mp hge) hak
      · exact ha p hp

/-- A write keeps the canonical form. -/
theorem Store.wf_write {α : Type} [DecidableEq α] (d : Nat → α) (l : List (Nat × α)) (k : Nat) (v : α)
    (h : Store.wf d l = true) : Store.wf d (Store.write d l k v) = true := by
  simp only [Store.write]
  split
  · exact Store.wf_filter d l k h
  · rename_i hv
    refine Store.wf_insert d _ k v (Store.wf_filter d l k h) (fun p hp => ?_) hv
    simpa using (List.mem_filter.mp hp).2

/-- Filtering by key keeps the canonical form. -/
theorem Store.wf_filterKeys {α : Type} [DecidableEq α] (d : Nat → α) (l : List (Nat × α)) (q : Nat → Bool)
    (h : Store.wf d l = true) : Store.wf d (l.filter (fun p => q p.1)) = true := by
  induction l with
  | nil => rfl
  | cons p t ih =>
    obtain ⟨a, v⟩ := p
    obtain ⟨hv, ha, ht⟩ := (Store.wf_cons d a v t).mp h
    rw [List.filter_cons]
    split
    · exact (Store.wf_cons d a v _).mpr ⟨hv, fun p hp => ha p (List.mem_filter.mp hp).1, ih ht⟩
    · exact ih ht

theorem Store.read_of_lt {α : Type} [DecidableEq α] (d : Nat → α) (l : List (Nat × α)) (k : Nat)
    (h : ∀ p ∈ l, k < p.1) : Store.read d l k = d k := by
  induction l with
  | nil => rfl
  | cons p t ih =>
    obtain ⟨a, v⟩ := p
    have ha : a ≠ k := Nat.ne_of_gt (h (a, v) List.mem_cons_self)
    simp [Store.read, ha, ih (fun p hp => h p (List.mem_cons_of_mem _ hp))]

/-- Equal stores are equal data: two canonical stores that read alike are one list. -/
theorem Store.ext {α : Type} [DecidableEq α] (d : Nat → α) (l m : List (Nat × α)) (hl : Store.wf d l = true)
    (hm : Store.wf d m = true) (h : ∀ k, Store.read d l k = Store.read d m k) : l = m := by
  induction l generalizing m with
  | nil =>
    cases m with
    | nil => rfl
    | cons q u =>
      obtain ⟨b, w⟩ := q
      obtain ⟨hw, -, -⟩ := (Store.wf_cons d b w u).mp hm
      exact absurd (by simpa [Store.read] using (h b).symm) hw
  | cons p t ih =>
    obtain ⟨a, v⟩ := p
    obtain ⟨hv, ha, ht⟩ := (Store.wf_cons d a v t).mp hl
    cases m with
    | nil => exact absurd (by simpa [Store.read] using h a) hv
    | cons q u =>
      obtain ⟨b, w⟩ := q
      obtain ⟨hw, hb, hu⟩ := (Store.wf_cons d b w u).mp hm
      have hab : a = b := by
        rcases Nat.lt_trichotomy a b with hlt | heq | hgt
        · exfalso
          have hr := h a
          rw [Store.read_of_lt d ((b, w) :: u) a (fun p hp => by
            rcases List.mem_cons.mp hp with rfl | hp
            · exact hlt
            · exact Nat.lt_trans hlt (hb p hp))] at hr
          exact hv (by simpa [Store.read] using hr)
        · exact heq
        · exfalso
          have hr := h b
          rw [Store.read_of_lt d ((a, v) :: t) b (fun p hp => by
            rcases List.mem_cons.mp hp with rfl | hp
            · exact hgt
            · exact Nat.lt_trans hgt (ha p hp))] at hr
          exact hw (by simpa [Store.read] using hr.symm)
      subst hab
      have hvw : v = w := by simpa [Store.read] using h a
      subst hvw
      congr 1
      refine ih u ht hu (fun k => ?_)
      by_cases hk : a = k
      · subst hk
        rw [Store.read_of_lt d t a ha, Store.read_of_lt d u a hb]
      · simpa [Store.read, hk] using h k

/-! ### Small tables -/

@[simp] theorem Tab.get?_put_self {α : Type} (l : List (Nat × α)) (k : Nat) (v : α) : Tab.get? (Tab.put l k v) k = some v := by
  induction l with
  | nil => simp [Tab.put, Tab.get?]
  | cons p t ih =>
    obtain ⟨a, w⟩ := p
    simp only [Tab.put]
    split
    · simp [Tab.get?]
    · split
      · simp [Tab.get?]
      · rename_i h
        simp [Tab.get?, h, ih]

theorem Tab.get?_put_ne {α : Type} (l : List (Nat × α)) (k j : Nat) (v : α) (h : j ≠ k) :
    Tab.get? (Tab.put l k v) j = Tab.get? l j := by
  induction l with
  | nil => simp [Tab.put, Tab.get?, Ne.symm h]
  | cons p t ih =>
    obtain ⟨a, w⟩ := p
    simp only [Tab.put]
    split
    · simp [Tab.get?, Ne.symm h]
    · split
      · rename_i ha
        subst ha
        simp [Tab.get?, Ne.symm h]
      · simp [Tab.get?, ih]

@[simp] theorem Tab.getD_put_self {α : Type} (l : List (Nat × α)) (k : Nat) (v d : α) : Tab.getD (Tab.put l k v) k d = v := by
  simp [Tab.getD]

theorem Tab.getD_put_ne {α : Type} (l : List (Nat × α)) (k j : Nat) (v d : α) (h : j ≠ k) :
    Tab.getD (Tab.put l k v) j d = Tab.getD l j d := by
  simp [Tab.getD, Tab.get?_put_ne l k j v h]

@[simp] theorem Tab.get?_del_self {α : Type} (l : List (Nat × α)) (k : Nat) : Tab.get? (Tab.del l k) k = none := by
  induction l with
  | nil => rfl
  | cons p t ih =>
    obtain ⟨a, w⟩ := p
    by_cases h : a = k
    · subst h; simpa [Tab.del] using ih
    · have : Tab.del ((a, w) :: t) k = (a, w) :: Tab.del t k := by simp [Tab.del, h]
      rw [this]
      simpa [Tab.get?, h] using ih

theorem Tab.get?_del_ne {α : Type} (l : List (Nat × α)) (k j : Nat) (h : j ≠ k) : Tab.get? (Tab.del l k) j = Tab.get? l j := by
  induction l with
  | nil => rfl
  | cons p t ih =>
    obtain ⟨a, w⟩ := p
    by_cases ha : a = k
    · subst ha
      have : Tab.del ((a, w) :: t) a = Tab.del t a := by simp [Tab.del]
      rw [this, ih]
      simp [Tab.get?, Ne.symm h]
    · have : Tab.del ((a, w) :: t) k = (a, w) :: Tab.del t k := by simp [Tab.del, ha]
      rw [this]
      simp [Tab.get?, ih]

/-! ### Bit fields -/

/-- A field read back from a word it was put in. -/
theorem bits_putBits_self (n lo w v : Nat) : bits (putBits n lo w v) lo w = v % 2 ^ w := by
  unfold bits putBits
  have hp : 0 < 2 ^ lo := Nat.two_pow_pos lo
  have h1 : (n % 2 ^ lo + v % 2 ^ w * 2 ^ lo + n / 2 ^ (lo + w) * 2 ^ (lo + w)) / 2 ^ lo
      = v % 2 ^ w + n / 2 ^ (lo + w) * 2 ^ w := by
    rw [Nat.pow_add]
    have : n % 2 ^ lo + v % 2 ^ w * 2 ^ lo + n / (2 ^ lo * 2 ^ w) * (2 ^ lo * 2 ^ w)
        = n % 2 ^ lo + 2 ^ lo * (v % 2 ^ w + n / (2 ^ lo * 2 ^ w) * 2 ^ w) := by
      rw [Nat.mul_add, Nat.add_assoc, Nat.mul_comm (v % 2 ^ w) (2 ^ lo), Nat.mul_left_comm]
    rw [this, Nat.add_mul_div_left _ _ hp, Nat.div_eq_of_lt (Nat.mod_lt n hp), Nat.zero_add]
  rw [h1, Nat.add_mul_mod_self_right, Nat.mod_mod]

/-- The bits of a field, one by one. -/
theorem testBit_bits (n lo w i : Nat) : (bits n lo w).testBit i = (decide (i < w) && n.testBit (lo + i)) := by
  simp [bits, Nat.testBit_mod_two_pow, Nat.testBit_div_two_pow, Nat.add_comm]

/-- A field of a word is a field of the number it was made from. -/
theorem bits_ofNat_of_le (n lo w : Nat) (h : lo + w ≤ 32) : bits (BitVec.ofNat 32 n).toNat lo w = bits n lo w := by
  apply Nat.eq_of_testBit_eq
  intro i
  rw [testBit_bits, testBit_bits, BitVec.toNat_ofNat, Nat.testBit_mod_two_pow]
  by_cases hi : i < w
  · have : lo + i < 32 := by omega
    simp [this]
  · simp [hi]

/-- The bits of a word with a field put in. -/
theorem testBit_putBits (n lo w v i : Nat) : (putBits n lo w v).testBit i =
    if lo ≤ i ∧ i < lo + w then v.testBit (i - lo) else n.testBit i := by
  have h1 : putBits n lo w v = (n / 2 ^ (lo + w)) * 2 ^ (lo + w) + ((v % 2 ^ w) * 2 ^ lo + n % 2 ^ lo) := by
    unfold putBits; omega
  have hl : n % 2 ^ lo < 2 ^ lo := Nat.mod_lt _ (Nat.two_pow_pos lo)
  have hv : v % 2 ^ w < 2 ^ w := Nat.mod_lt _ (Nat.two_pow_pos w)
  have hm : (v % 2 ^ w) * 2 ^ lo + n % 2 ^ lo < 2 ^ (lo + w) := by
    rw [Nat.pow_add, Nat.mul_comm (2 ^ lo)]
    calc (v % 2 ^ w) * 2 ^ lo + n % 2 ^ lo < (v % 2 ^ w) * 2 ^ lo + 2 ^ lo := by omega
      _ = (v % 2 ^ w + 1) * 2 ^ lo := by rw [Nat.add_mul, Nat.one_mul]
      _ ≤ 2 ^ w * 2 ^ lo := Nat.mul_le_mul_right _ hv
  rw [h1, Nat.mul_comm (n / 2 ^ (lo + w)), Nat.testBit_two_pow_mul_add _ hm, Nat.mul_comm (v % 2 ^ w),
    Nat.testBit_two_pow_mul_add _ hl]
  simp only [Nat.testBit_mod_two_pow, Nat.testBit_div_two_pow]
  by_cases a : i < lo
  · have : i < lo + w := by omega
    have b : ¬ lo ≤ i := by omega
    simp [a, this, b]
  · by_cases b : i < lo + w
    · have c : lo ≤ i := by omega
      have d : i - lo < w := by omega
      simp [a, b, c, d]
    · have c : i - (lo + w) + (lo + w) = i := by omega
      simp [b, c]

/-- Putting a field in leaves the fields apart from it. -/
theorem bits_putBits_apart (n lo w v l k : Nat) (h : lo + w ≤ l ∨ l + k ≤ lo) : bits (putBits n lo w v) l k = bits n l k := by
  apply Nat.eq_of_testBit_eq
  intro i
  rw [testBit_bits, testBit_bits, testBit_putBits]
  by_cases hi : i < k
  · have : ¬ (lo ≤ l + i ∧ l + i < lo + w) := by omega
    simp [this]
  · simp [hi]

end Sys2Proof.Machine
end

