-- ==== Sys2Proof/Laws/Keeps.lean ====
section
/-! SUPPORT. The calculus of `Keeps`: what a composition of operations keeps, and the operations everything is made of. -/

set_option Elab.async false

namespace Sys2Proof.Machine

/-! ### Composition -/

/-- Are the pages `P` among the pages `Q`? -/
def subPages (P Q : Option (List Nat)) : Bool :=
  match P, Q with
  | _, none => true
  | none, some _ => false
  | some l, some m => l.all (fun p => m.contains p)

/-- Are the parts `E` among the parts `F`? -/
def subParts (E F : List Part) : Bool := E.all (fun p => F.contains p)

theorem contains_of_all {α : Type} [BEq α] [LawfulBEq α] {P Q : List α} (h : P.all (fun p => Q.contains p) = true) {x : α}
    (hx : Q.contains x = false) : P.contains x = false := by
  cases hc : P.contains x with
  | false => rfl
  | true => simp_all

theorem onPages_of_sub {P Q : Option (List Nat)} (h : subPages P Q = true) {x : Nat} (hx : onPages Q x = false) :
    onPages P x = false := by
  cases Q with
  | none => simp [onPages] at hx
  | some m =>
    cases P with
    | none => simp [subPages] at h
    | some l => exact contains_of_all h hx

theorem SideState.sameIn_refl (s : SideState) (p : Part) : s.sameIn s p := by
  cases p <;> simp [SideState.sameIn]

theorem SideState.sameIn_trans {s t u : SideState} {p : Part} (h : SideState.sameIn s t p) (k : SideState.sameIn t u p) :
    SideState.sameIn s u p := by
  cases p <;> simp_all [SideState.sameIn]

theorem Keeps.self {P E s} : Keeps P E s s := ⟨rfl, fun _ _ => rfl, fun p _ => s.sameIn_refl p, id⟩

/-- One more operation, which keeps at least as much. -/
theorem Keeps.step {P E P' E' s t u} (h : Keeps P' E' t u) (hp : subPages P' P = true) (he : subParts E' E = true)
    (h0 : Keeps P E s t) : Keeps P E s u :=
  ⟨h.side.trans h0.side, fun k hk => (h.word k (onPages_of_sub hp hk)).trans (h0.word k hk),
   fun p hk => SideState.sameIn_trans (h0.part p hk) (h.part p (contains_of_all he hk)), fun hc => h.canon (h0.canon hc)⟩

theorem Keeps.trans {P E s t u} (h : Keeps P E t u) (h0 : Keeps P E s t) : Keeps P E s u :=
  ⟨h.side.trans h0.side, fun k hk => (h.word k hk).trans (h0.word k hk),
   fun p hk => SideState.sameIn_trans (h0.part p hk) (h.part p hk), fun hc => h.canon (h0.canon hc)⟩

theorem Keeps.ite {P E s t u} {c : Prop} [Decidable c] (h : Keeps P E s t) (k : Keeps P E s u) :
    Keeps P E s (if c then t else u) := by
  split <;> assumption

theorem Keeps.elim {α : Type} {P E s t} {g : α → SideState} (o : Option α) (h0 : Keeps P E s t)
    (h : ∀ a, Keeps P E s (g a)) : Keeps P E s (o.elim t g) := by
  cases o with
  | none => exact h0
  | some a => exact h a

/-- `Keeps` of the side in an answer that also carries a value. -/
def KeepsP {α : Type} (P : Option (List Nat)) (E : List Part) (s : SideState) (q : SideState × α) : Prop := Keeps P E s q.1

theorem KeepsP.mk {α : Type} {P E s t} {v : α} (h : Keeps P E s t) : KeepsP P E s (t, v) := h

theorem KeepsP.fst {α : Type} {P E s} {q : SideState × α} (h : KeepsP P E s q) : Keeps P E s q.1 := h

theorem KeepsP.of_fst {α : Type} {P E s} {q : SideState × α} (h : Keeps P E s q.1) : KeepsP P E s q := h

theorem KeepsP.of_eq {α : Type} {P E s t} {q : SideState × α} {v : α} (h : KeepsP P E s q) (e : q = (t, v)) : Keeps P E s t := by
  subst e; exact h

theorem KeepsP.ite {α : Type} {P E s} {t u : SideState × α} {c : Prop} [Decidable c] (h : KeepsP P E s t)
    (k : KeepsP P E s u) : KeepsP P E s (if c then t else u) := by
  split <;> assumption

theorem KeepsP.step {α : Type} {P E P' E' s t} {q : SideState × α} (h : KeepsP P' E' t q) (hp : subPages P' P = true)
    (he : subParts E' E = true) (h0 : Keeps P E s t) : KeepsP P E s q := Keeps.step h hp he h0

theorem Keeps.foldl {α : Type} {P E s} {g : SideState → α → SideState} {t : SideState} (l : List α)
    (h : ∀ x a, Keeps P E s x → Keeps P E s (g x a)) (h0 : Keeps P E s t) : Keeps P E s (l.foldl g t) := by
  induction l generalizing t with
  | nil => exact h0
  | cons a r ih => exact ih (h t a h0)

/-- A change of parts in `E`, registers and memory apart: `t` with other parts. -/
theorem Keeps.parts {P E s t} {pairs eccSoft eccHard eccOwed hostWrites readBack readHigh beatNo produced win off drive mon loops scene pipe cal watch twin net time fault therm perf nvm power rigImage free tap boundary}
    (h0 : Keeps P E s t)
    (hp : ∀ p, E.contains p = false → SideState.sameIn t ⟨t.side, t.regs, pairs, t.mem, eccSoft, eccHard, eccOwed, hostWrites, readBack, readHigh, beatNo, produced, win, off, drive, mon, loops, scene, pipe, cal, watch, twin, net, time, fault, therm, perf, nvm, power, rigImage, free, tap, boundary⟩ p) :
    Keeps P E s ⟨t.side, t.regs, pairs, t.mem, eccSoft, eccHard, eccOwed, hostWrites, readBack, readHigh, beatNo, produced, win, off, drive, mon, loops, scene, pipe, cal, watch, twin, net, time, fault, therm, perf, nvm, power, rigImage, free, tap, boundary⟩ :=
  Keeps.trans (t := t) ⟨rfl, fun _ _ => rfl, hp, fun hc => hc⟩ h0

theorem Keeps.live {P E s t} {g : SideState → SideState} (h0 : Keeps P E s t) (h : Keeps P E s (g t)) :
    Keeps P E s (t.live g) := by
  unfold SideState.live
  exact Keeps.ite h h0

/-! ### Pages of registers -/

@[simp] theorem pageOf_bank (f : Fld) (b : Nat) : pageOf (f.bank b).key = pageOf f.key := by
  simp [pageOf, Fld.bank, Nat.add_mul_mod_self_right]

@[simp] theorem pageOf_whole (key : Nat) : pageOf (wholeReg key).key = pageOf key := rfl

@[simp] theorem pageOf_nth (f : Fld) (i : Nat) : pageOf (f.nth i).key = pageOf f.key := by
  simp only [pageOf, Fld.nth, bankUnit]
  omega

/-! ### Registers -/

theorem canonical_iff (s : SideState) : s.canonical = true ↔
    Store.wf (fun k => BitVec.ofNat 32 (resetWord s.side k)) s.regs = true ∧ Store.wf memDefault s.mem = true := by
  simp [SideState.canonical]

/-- Writing a register changes that register alone. -/
theorem SideState.word_set (s : SideState) (f : Fld) (v key : Nat) :
    (s.set f v).word key = if key = f.key then BitVec.ofNat 32 (putBits (s.word f.key).toNat f.lo f.w v) else s.word key := by
  simp only [SideState.word, SideState.set]
  rw [Store.read_write]

theorem SideState.set_keeps (s : SideState) (f : Fld) (v : Nat) : Keeps (some [pageOf f.key]) [] s (s.set f v) := by
  refine ⟨rfl, fun k hk => ?_, fun p _ => ?_, fun hc => ?_⟩
  · rw [s.word_set]
    split
    · rename_i h; subst h; simp [onPages] at hk
    · rfl
  · cases p <;> simp [SideState.sameIn, SideState.set]
  · rw [canonical_iff] at hc ⊢
    exact ⟨Store.wf_write _ _ _ _ hc.1, hc.2⟩

theorem SideState.wr8_keeps (s : SideState) (a : Nat) (b : Byte) : Keeps (some []) [.mem, .ecc] s (s.wr8 a b) := by
  refine ⟨rfl, fun k _ => rfl, fun p hp => ?_, fun hc => ?_⟩
  · cases p <;> first | exact absurd hp (by decide) | simp [SideState.sameIn, SideState.wr8]
  · rw [canonical_iff] at hc ⊢
    exact ⟨hc.1, Store.wf_write _ _ _ _ hc.2⟩

theorem SideState.wrBytes_keeps (s : SideState) (a : Nat) (l : List Byte) : Keeps (some []) [.mem, .ecc] s (s.wrBytes a l) := by
  induction l generalizing s a with
  | nil => exact Keeps.self
  | cons b t ih => exact Keeps.trans (ih (s.wr8 a b) (a + 1)) (s.wr8_keeps a b)

/-- Setting a field, as a step. -/
theorem Keeps.set {P E s t} (f : Fld) (v : Nat) (hp : onPages P (pageOf f.key) = true) (h0 : Keeps P E s t) :
    Keeps P E s (t.set f v) := by
  refine Keeps.step (t.set_keeps f v) ?_ rfl h0
  cases P with
  | none => rfl
  | some l => simpa [subPages, onPages] using hp

/-- Setting a one-bit field. -/
theorem Keeps.setB {P E s t} (f : Fld) (b : Bool) (hp : onPages P (pageOf f.key) = true) (h0 : Keeps P E s t) :
    Keeps P E s (t.setB f b) := Keeps.set f _ hp h0

/-- Counting in a field. -/
theorem Keeps.bump {P E s t} (f : Fld) (n : Nat) (hp : onPages P (pageOf f.key) = true) (h0 : Keeps P E s t) :
    Keeps P E s (t.bump f n) := Keeps.set f _ hp h0

/-- Writing the rw fields of a register. -/
theorem Keeps.writeRw {P E s t} (key v : Nat) (hp : onPages P (pageOf key) = true) (h0 : Keeps P E s t) :
    Keeps P E s (t.writeRw key v) := Keeps.set (wholeReg key) _ hp h0

/-- Setting an event bit. -/
theorem Keeps.evt {P E s t} (page bit : Nat) (hp : onPages P (page % 256) = true) (h0 : Keeps P E s t) :
    Keeps P E s (t.evt page bit) := by
  refine Keeps.set _ _ ?_ h0
  have : pageOf (page * 0x1000 + 0x00C) = page % 256 := by simp only [pageOf, bankUnit]; omega
  rw [this]
  exact hp

/-- The pages of the drive groups. -/
theorem onPages_driveGroup {P : Option (List Nat)} {f : Fld} {g : Nat}
    (hP : subPages (some [0x20, 0x21, 0x22, 0x23, 0x24, 0x25, 0x26, 0x27, 0x28, 0x29]) P = true)
    (h : 0x20000 ≤ f.key) (h' : f.key < 0x20E00) : onPages P (pageOf (f.inDriveGroup g).key) = true := by
  cases hc : onPages P (pageOf (f.inDriveGroup g).key) with
  | true => rfl
  | false =>
    have := onPages_of_sub hP hc
    simp only [Fld.inDriveGroup, pageOf, bankUnit] at this
    have h1 : g % 160 / 16 < 10 := by omega
    have h2 : g % 16 < 16 := by omega
    generalize g % 160 / 16 = c at *
    generalize g % 16 = d at *
    simp [onPages] at this
    omega

theorem onPages_driveEvt {P : Option (List Nat)} {g : Nat}
    (hP : subPages (some [0x20, 0x21, 0x22, 0x23, 0x24, 0x25, 0x26, 0x27, 0x28, 0x29]) P = true) :
    onPages P ((0x20 + g % 160 / 16) % 256) = true := by
  cases hc : onPages P ((0x20 + g % 160 / 16) % 256) with
  | true => rfl
  | false =>
    have := onPages_of_sub hP hc
    simp [onPages] at this
    omega

/-- The pages of the monitor groups. -/
theorem onPages_monGroup {P : Option (List Nat)} {f : Fld} {g : Nat}
    (hP : subPages (some [0x2A, 0x2B, 0x2C, 0x2D, 0x2E, 0x2F]) P = true)
    (h : 0x2A000 ≤ f.key) (h' : f.key < 0x2AE00) : onPages P (pageOf (f.inMonGroup g).key) = true := by
  cases hc : onPages P (pageOf (f.inMonGroup g).key) with
  | true => rfl
  | false =>
    have := onPages_of_sub hP hc
    simp only [Fld.inMonGroup, pageOf, bankUnit] at this
    have h1 : g % 96 / 16 < 6 := by omega
    have h2 : g % 16 < 16 := by omega
    generalize g % 96 / 16 = c at *
    generalize g % 16 = d at *
    simp [onPages] at this
    omega

theorem onPages_monEvt {P : Option (List Nat)} {g : Nat}
    (hP : subPages (some [0x2A, 0x2B, 0x2C, 0x2D, 0x2E, 0x2F]) P = true) : onPages P ((0x2A + g % 96 / 16) % 256) = true := by
  cases hc : onPages P ((0x2A + g % 96 / 16) % 256) with
  | true => rfl
  | false =>
    have := onPages_of_sub hP hc
    simp [onPages] at this
    omega

/-- The pages of the loop lanes. -/
theorem onPages_lane {P : Option (List Nat)} {f : Fld} {l : Nat} (hP : subPages (some [0x30, 0x31]) P = true)
    (h : 0x30000 ≤ f.key) (h' : f.key < 0x30F00) : onPages P (pageOf (f.inLane l).key) = true := by
  cases hc : onPages P (pageOf (f.inLane l).key) with
  | true => rfl
  | false =>
    have := onPages_of_sub hP hc
    simp only [Fld.inLane, pageOf, bankUnit] at this
    have h1 : l % 32 / 16 < 2 := by omega
    have h2 : l % 16 < 16 := by omega
    generalize l % 32 / 16 = c at *
    generalize l % 16 = d at *
    simp [onPages] at this
    omega

theorem onPages_laneEvt {P : Option (List Nat)} {l : Nat} (hP : subPages (some [0x30, 0x31]) P = true) :
    onPages P ((0x30 + l % 32 / 16) % 256) = true := by
  cases hc : onPages P ((0x30 + l % 32 / 16) % 256) with
  | true => rfl
  | false =>
    have := onPages_of_sub hP hc
    simp [onPages] at this
    omega

/-- The pages of the ports. -/
theorem onPages_port {P : Option (List Nat)} {f : Fld} {n : Nat} (hP : subPages (some [0x18, 0x19, 0x1A]) P = true)
    (h : 0x18000 ≤ f.key) (h' : f.key < 0x19000) : onPages P (pageOf (f.onPort n).key) = true := by
  cases hc : onPages P (pageOf (f.onPort n).key) with
  | true => rfl
  | false =>
    have := onPages_of_sub hP hc
    simp [onPages, Fld.onPort, pageOf, bankUnit] at this
    omega

theorem onPages_portEvt {P : Option (List Nat)} {n : Nat} (hP : subPages (some [0x18, 0x19, 0x1A]) P = true) :
    onPages P ((0x18 + (n - 1) % 3) % 256) = true := by
  cases hc : onPages P ((0x18 + (n - 1) % 3) % 256) with
  | true => rfl
  | false =>
    have := onPages_of_sub hP hc
    simp [onPages] at this
    omega

end Sys2Proof.Machine
end

