-- ==== Sys2Proof/Laws/Ops.lean ====
section
/-! SUPPORT. What each operation of Machine/Ops.lean keeps. -/

set_option Elab.async false

namespace Sys2Proof.Machine

theorem SideState.fresh_keeps (s : SideState) (w : Nat) : KeepsP (some []) [.free] s (SideState.fresh s w) := by
  unfold SideState.fresh
  try dsimp only
  repeat' first
    | with_reducible apply Keeps.self
    | with_reducible assumption
    | with_reducible apply KeepsP.mk
    | exact rfl
    | with_reducible apply Keeps.parts
    | (refine fun (p : Part) hp => ?_; cases p <;> first | exact absurd hp (by decide) | simp only [SideState.sameIn])

theorem SideState.atOffset_keeps (s : SideState) (off : Nat) : Keeps (some []) [.off] s (SideState.atOffset s off) := by
  unfold SideState.atOffset
  try dsimp only
  repeat' first
    | with_reducible apply Keeps.self
    | with_reducible assumption
    | exact rfl
    | with_reducible apply Keeps.parts
    | (refine fun (p : Part) hp => ?_; cases p <;> first | exact absurd hp (by decide) | simp only [SideState.sameIn])

theorem SideState.agree_keeps (s : SideState) (key : Nat) : Keeps (some []) [.fault] s (SideState.agree s key) := by
  unfold SideState.agree
  try dsimp only
  repeat' first
    | with_reducible apply Keeps.self
    | with_reducible assumption
    | exact rfl
    | with_reducible apply Keeps.parts
    | (refine fun (p : Part) hp => ?_; cases p <;> first | exact absurd hp (by decide) | simp only [SideState.sameIn])

theorem SideState.owe_keeps (s : SideState) (l : List Nat) : Keeps (some []) [.ecc] s (SideState.owe s l) := by
  unfold SideState.owe
  try dsimp only
  repeat' first
    | with_reducible apply Keeps.self
    | with_reducible assumption
    | with_reducible apply Keeps.foldl
    | exact rfl
    | with_reducible apply Keeps.parts
    | (refine fun (p : Part) hp => ?_; cases p <;> first | exact absurd hp (by decide) | simp only [SideState.sameIn])
    | intro _ _ _

theorem SideState.wr_keeps (s : SideState) (a n v : Nat) : Keeps (some []) [.mem, .ecc] s (SideState.wr s a n v) := by
  unfold SideState.wr
  try dsimp only
  repeat' first
    | with_reducible apply Keeps.self
    | with_reducible assumption
    | with_reducible apply Keeps.step (SideState.wrBytes_keeps _ _ _)
    | exact rfl

theorem SideState.wrF_keeps (s : SideState) (a lo w v : Nat) : Keeps (some []) [.mem, .ecc] s (SideState.wrF s a lo w v) := by
  unfold SideState.wrF
  try dsimp only
  repeat' first
    | with_reducible apply Keeps.self
    | with_reducible assumption
    | with_reducible apply Keeps.step (SideState.wr_keeps _ _ _ _)
    | exact rfl

theorem SideState.tset_keeps (s : SideState) (f : TFld) (i v : Nat) : Keeps (some []) [.mem, .ecc] s (SideState.tset s f i v) := by
  unfold SideState.tset
  try dsimp only
  repeat' first
    | with_reducible apply Keeps.self
    | with_reducible assumption
    | with_reducible apply Keeps.step (SideState.wrF_keeps _ _ _ _ _)
    | exact rfl

theorem SideState.count_keeps (s : SideState) (i n : Nat) : Keeps (some [0x06]) [.perf] s (SideState.count s i n) := by
  unfold SideState.count
  try dsimp only
  repeat' first
    | with_reducible apply Keeps.self
    | with_reducible assumption
    | with_reducible apply Keeps.ite
    | with_reducible apply Keeps.set
    | with_reducible apply Keeps.evt
    | exact rfl
    | (simp only [pageOf_nth]; exact rfl)
    | with_reducible apply Keeps.parts
    | (refine fun (p : Part) hp => ?_; cases p <;> first | exact absurd hp (by decide) | simp only [SideState.sameIn])

theorem SideState.countDiag_keeps (s : SideState) (i n : Nat) : Keeps (some []) [.perf] s (SideState.countDiag s i n) := by
  unfold SideState.countDiag
  try dsimp only
  repeat' first
    | with_reducible apply Keeps.self
    | with_reducible assumption
    | with_reducible apply Keeps.ite
    | exact rfl
    | with_reducible apply Keeps.parts
    | (refine fun (p : Part) hp => ?_; cases p <;> first | exact absurd hp (by decide) | simp only [SideState.sameIn])

theorem SideState.emit_keeps (s : SideState) (r : List Byte) : Keeps (some []) [.twin] s (SideState.emit s r) := by
  unfold SideState.emit
  try dsimp only
  repeat' first
    | with_reducible apply Keeps.self
    | with_reducible assumption
    | with_reducible apply Keeps.ite
    | exact rfl
    | with_reducible apply Keeps.parts
    | (refine fun (p : Part) hp => ?_; cases p <;> first | exact absurd hp (by decide) | simp only [SideState.sameIn])

theorem SideState.emitMem_keeps (s : SideState) (addr n : Nat) : Keeps (some []) [.twin] s (SideState.emitMem s addr n) := by
  unfold SideState.emitMem
  try dsimp only
  repeat' first
    | with_reducible apply Keeps.self
    | with_reducible assumption
    | with_reducible apply Keeps.ite
    | with_reducible apply Keeps.step (SideState.emit_keeps _ _)
    | with_reducible apply Keeps.foldl
    | exact rfl
    | with_reducible apply Keeps.parts
    | intro _ _ _

theorem SideState.placeEntry_keeps (s : SideState) (kind code flags count : Nat) (detail : List Byte) : Keeps (some [0x05]) [.fault] s (SideState.placeEntry s kind code flags count detail) := by
  unfold SideState.placeEntry
  try dsimp only
  repeat' first
    | with_reducible apply Keeps.self
    | with_reducible assumption
    | with_reducible apply Keeps.ite
    | with_reducible apply Keeps.set
    | with_reducible apply Keeps.bump
    | with_reducible apply Keeps.evt
    | exact rfl
    | with_reducible apply Keeps.parts
    | (refine fun (p : Part) hp => ?_; cases p <;> first | exact absurd hp (by decide) | simp only [SideState.sameIn])

theorem SideState.log_keeps (s : SideState) (kind code flags count : Nat) (detail : List Byte) : Keeps (some [0x05]) [.fault] s (SideState.log s kind code flags count detail) := by
  unfold SideState.log
  try dsimp only
  repeat' first
    | with_reducible apply Keeps.self
    | with_reducible assumption
    | with_reducible apply Keeps.ite
    | with_reducible apply Keeps.step (SideState.placeEntry_keeps _ _ _ _ _ _)
    | exact rfl

theorem SideState.enterRole_keeps (s : SideState) (role : Nat) : Keeps (some [0x05, 0x08]) [.twin, .fault] s (SideState.enterRole s role) := by
  unfold SideState.enterRole
  try dsimp only
  repeat' first
    | with_reducible apply Keeps.self
    | with_reducible assumption
    | with_reducible apply Keeps.ite
    | with_reducible apply Keeps.set
    | with_reducible apply Keeps.step (SideState.log_keeps _ _ _ _ _ _)
    | exact rfl
    | with_reducible apply Keeps.parts
    | (refine fun (p : Part) hp => ?_; cases p <;> first | exact absurd hp (by decide) | simp only [SideState.sameIn])

theorem SideState.logFault_keeps (s : SideState) (src cls : Nat) (inj : Bool) (count : Nat) (detail : List Byte) : Keeps (some [0x03, 0x05]) [.fault] s (SideState.logFault s src cls inj count detail) := by
  unfold SideState.logFault
  try dsimp only
  repeat' first
    | with_reducible apply Keeps.self
    | with_reducible assumption
    | with_reducible apply Keeps.ite
    | with_reducible apply Keeps.set
    | with_reducible apply Keeps.setB
    | with_reducible apply Keeps.step (SideState.placeEntry_keeps _ _ _ _ _ _)
    | with_reducible apply Keeps.step (SideState.log_keeps _ _ _ _ _ _)
    | exact rfl

theorem SideState.halt_keeps (s : SideState) : Keeps (some [0x05, 0x06, 0x08, 0x09]) [.twin, .fault, .perf] s (SideState.halt s) := by
  unfold SideState.halt
  try dsimp only
  repeat' first
    | with_reducible apply Keeps.self
    | with_reducible assumption
    | with_reducible apply Keeps.set
    | with_reducible apply Keeps.step (SideState.enterRole_keeps _ _)
    | exact rfl
    | with_reducible apply Keeps.parts
    | (refine fun (p : Part) hp => ?_; cases p <;> first | exact absurd hp (by decide) | simp only [SideState.sameIn])

theorem SideState.fenceSelf_keeps (s : SideState) : Keeps (some [0x05, 0x06, 0x08, 0x09, 0x10, 0x14]) [.twin, .fault, .perf] s (SideState.fenceSelf s) := by
  unfold SideState.fenceSelf
  try dsimp only
  repeat' first
    | with_reducible apply Keeps.self
    | with_reducible assumption
    | with_reducible apply Keeps.ite
    | with_reducible apply Keeps.set
    | with_reducible apply Keeps.step (SideState.halt_keeps _)
    | exact rfl
    | with_reducible apply Keeps.parts
    | (refine fun (p : Part) hp => ?_; cases p <;> first | exact absurd hp (by decide) | simp only [SideState.sameIn])

theorem SideState.resignPulse_keeps (s : SideState) : Keeps (some [0x03]) [.twin] s (SideState.resignPulse s) := by
  unfold SideState.resignPulse
  try dsimp only
  repeat' first
    | with_reducible apply Keeps.self
    | with_reducible assumption
    | with_reducible apply Keeps.set
    | exact rfl
    | with_reducible apply Keeps.parts
    | (refine fun (p : Part) hp => ?_; cases p <;> first | exact absurd hp (by decide) | simp only [SideState.sameIn])

theorem SideState.resignNow_keeps (s : SideState) : Keeps (some [0x03, 0x05, 0x06, 0x08, 0x09, 0x10, 0x14]) [.twin, .fault, .perf] s (SideState.resignNow s) := by
  unfold SideState.resignNow
  try dsimp only
  repeat' first
    | with_reducible apply Keeps.self
    | with_reducible assumption
    | with_reducible apply Keeps.ite
    | with_reducible apply Keeps.step (SideState.resignPulse_keeps _)
    | with_reducible apply Keeps.step (SideState.fenceSelf_keeps _)
    | exact rfl

theorem SideState.enterMajor_keeps (s : SideState) (src : Nat) : Keeps (some [0x03, 0x08, 0x09]) [.twin, .fault] s (SideState.enterMajor s src) := by
  unfold SideState.enterMajor
  try dsimp only
  repeat' first
    | with_reducible apply Keeps.self
    | with_reducible assumption
    | with_reducible apply Keeps.ite
    | with_reducible apply Keeps.set
    | with_reducible apply Keeps.bump
    | exact rfl
    | with_reducible apply Keeps.parts
    | (refine fun (p : Part) hp => ?_; cases p <;> first | exact absurd hp (by decide) | simp only [SideState.sameIn])

theorem SideState.topClass_keeps (s : SideState) (cls : Nat) : Keeps (some []) [.fault] s (SideState.topClass s cls) := by
  unfold SideState.topClass
  try dsimp only
  repeat' first
    | with_reducible apply Keeps.self
    | with_reducible assumption
    | exact rfl
    | with_reducible apply Keeps.parts
    | (refine fun (p : Part) hp => ?_; cases p <;> first | exact absurd hp (by decide) | simp only [SideState.sameIn])

theorem SideState.closeWindow_keeps (s : SideState) (src : Nat) : Keeps (some [0x03]) [.fault] s (SideState.closeWindow s src) := by
  unfold SideState.closeWindow
  try dsimp only
  repeat' first
    | with_reducible apply Keeps.self
    | with_reducible assumption
    | with_reducible apply Keeps.set
    | exact rfl
    | (simp only [pageOf_bank]; exact rfl)
    | with_reducible apply Keeps.parts
    | (refine fun (p : Part) hp => ?_; cases p <;> first | exact absurd hp (by decide) | simp only [SideState.sameIn])

theorem SideState.openWindow_keeps (s : SideState) (src : Nat) : Keeps (some []) [.fault] s (SideState.openWindow s src) := by
  unfold SideState.openWindow
  try dsimp only
  repeat' first
    | with_reducible apply Keeps.self
    | with_reducible assumption
    | exact rfl
    | with_reducible apply Keeps.parts
    | (refine fun (p : Part) hp => ?_; cases p <;> first | exact absurd hp (by decide) | simp only [SideState.sameIn])

theorem SideState.resignOnce_keeps (s : SideState) : KeepsP (some [0x03, 0x05, 0x06, 0x08, 0x09, 0x10, 0x14]) [.twin, .fault, .perf] s (SideState.resignOnce s) := by
  unfold SideState.resignOnce
  try dsimp only
  repeat' first
    | with_reducible apply Keeps.self
    | with_reducible assumption
    | with_reducible apply Keeps.ite
    | with_reducible apply KeepsP.ite
    | with_reducible apply Keeps.step (SideState.fenceSelf_keeps _)
    | with_reducible apply Keeps.step (SideState.resignNow_keeps _)
    | with_reducible apply KeepsP.mk
    | exact rfl

theorem SideState.react_keeps (s : SideState) (src cls : Nat) : KeepsP (some [0x03, 0x05, 0x06, 0x08, 0x09, 0x10, 0x14]) [.twin, .fault, .perf] s (SideState.react s src cls) := by
  unfold SideState.react
  try dsimp only
  repeat' first
    | with_reducible apply Keeps.self
    | with_reducible assumption
    | with_reducible apply Keeps.ite
    | with_reducible apply KeepsP.ite
    | with_reducible apply Keeps.set
    | with_reducible apply Keeps.evt
    | with_reducible apply Keeps.step (SideState.topClass_keeps _ _)
    | with_reducible apply Keeps.step (SideState.enterMajor_keeps _ _)
    | with_reducible apply KeepsP.step (SideState.resignOnce_keeps _)
    | with_reducible apply KeepsP.mk
    | exact rfl
    | with_reducible apply Keeps.step (KeepsP.fst (SideState.resignOnce_keeps _))
    | split
    | with_reducible apply Keeps.parts
    | (refine fun (p : Part) hp => ?_; cases p <;> first | exact absurd hp (by decide) | simp only [SideState.sameIn])

theorem SideState.countEvent_keeps (s : SideState) (src : Nat) (inj : Bool) (detail : List Byte) : KeepsP (some [0x03, 0x05, 0x06, 0x08, 0x09, 0x10, 0x14]) [.twin, .fault, .perf] s (SideState.countEvent s src inj detail) := by
  unfold SideState.countEvent
  try dsimp only
  repeat' first
    | with_reducible apply Keeps.self
    | with_reducible assumption
    | with_reducible apply Keeps.ite
    | with_reducible apply KeepsP.ite
    | with_reducible apply Keeps.set
    | with_reducible apply KeepsP.step (SideState.react_keeps _ _ _)
    | with_reducible apply Keeps.step (SideState.logFault_keeps _ _ _ _ _ _)
    | with_reducible apply Keeps.step (SideState.openWindow_keeps _ _)
    | with_reducible apply Keeps.step (SideState.closeWindow_keeps _ _)
    | with_reducible apply KeepsP.mk
    | exact rfl
    | (simp only [pageOf_bank]; exact rfl)

theorem SideState.safeState_keeps (s : SideState) (src : Nat) (inj : Bool) (detail : List Byte) : KeepsP (some [0x03, 0x05, 0x06, 0x08, 0x09, 0x10, 0x14]) [.twin, .fault, .perf] s (SideState.safeState s src inj detail) := by
  unfold SideState.safeState
  try dsimp only
  repeat' first
    | with_reducible apply Keeps.self
    | with_reducible assumption
    | with_reducible apply Keeps.set
    | with_reducible apply Keeps.step (SideState.logFault_keeps _ _ _ _ _ _)
    | with_reducible apply KeepsP.step (SideState.resignOnce_keeps _)
    | with_reducible apply KeepsP.mk
    | exact rfl
    | with_reducible apply Keeps.step (KeepsP.fst (SideState.resignOnce_keeps _))
    | split

theorem SideState.showInjected_keeps (s : SideState) : Keeps (some [0x03]) [] s (SideState.showInjected s) := by
  unfold SideState.showInjected
  try dsimp only
  repeat' first
    | with_reducible apply Keeps.self
    | with_reducible assumption
    | with_reducible apply Keeps.bump
    | with_reducible apply Keeps.evt
    | exact rfl

theorem SideState.logInjected_keeps (s : SideState) (src : Nat) : Keeps (some [0x03, 0x05, 0x06]) [.fault, .perf] s (SideState.logInjected s src) := by
  unfold SideState.logInjected
  try dsimp only
  repeat' first
    | with_reducible apply Keeps.self
    | with_reducible assumption
    | with_reducible apply Keeps.ite
    | with_reducible apply Keeps.bump
    | with_reducible apply Keeps.step (SideState.count_keeps _ _ _)
    | with_reducible apply Keeps.step (SideState.logFault_keeps _ _ _ _ _ _)
    | exact rfl
    | (simp only [pageOf_bank]; exact rfl)

theorem SideState.consumeInjection_keeps (s : SideState) (i : Injection) : Keeps (some [0x03]) [.fault] s (SideState.consumeInjection s i) := by
  unfold SideState.consumeInjection
  try dsimp only
  repeat' first
    | with_reducible apply Keeps.self
    | with_reducible assumption
    | with_reducible apply Keeps.ite
    | with_reducible apply Keeps.set
    | exact rfl
    | with_reducible apply Keeps.parts
    | (refine fun (p : Part) hp => ?_; cases p <;> first | exact absurd hp (by decide) | simp only [SideState.sameIn])

theorem SideState.mapRead_keeps (s : SideState) : Keeps (some [0x03, 0x05, 0x06]) [.fault, .perf] s (SideState.mapRead s) := by
  unfold SideState.mapRead
  try dsimp only
  repeat' first
    | with_reducible apply Keeps.self
    | with_reducible assumption
    | with_reducible apply Keeps.set
    | with_reducible apply Keeps.step (SideState.consumeInjection_keeps _ _)
    | with_reducible apply Keeps.step (SideState.showInjected_keeps _)
    | with_reducible apply Keeps.step (SideState.logInjected_keeps _ _)
    | exact rfl
    | (simp only [pageOf_bank]; exact rfl)
    | split

theorem SideState.showReal_keeps (s : SideState) (src : Nat) : Keeps (some [0x03]) [] s (SideState.showReal s src) := by
  unfold SideState.showReal
  try dsimp only
  repeat' first
    | with_reducible apply Keeps.self
    | with_reducible assumption
    | with_reducible apply Keeps.ite
    | with_reducible apply Keeps.bump
    | with_reducible apply Keeps.evt
    | exact rfl

theorem SideState.compareEntry_keeps (s : SideState) (src : Nat) : KeepsP (some [0x03]) [.fault] s (SideState.compareEntry s src) := by
  unfold SideState.compareEntry
  generalize hk : (FC_MAP.CLASS.bank src).key = key
  have hp : onPages (some [0x03]) (pageOf (wholeReg key).key) = true := by rw [pageOf_whole, ← hk, pageOf_bank]; rfl
  dsimp only
  have h1 : ∀ u : List (Nat × Nat × Bool), Keeps (some [0x03]) [.fault] s
      { s.set (PAGE_STAT.TV_ERR.onPage 0x03) 1 with fault := { s.fault with upsets := u } } := fun u => by
    with_reducible apply Keeps.parts (Keeps.set (PAGE_STAT.TV_ERR.onPage 0x03) 1 (by decide) Keeps.self)
    refine fun (p : Part) hp => ?_
    cases p <;> first | exact absurd hp (by decide) | exact rfl
  refine KeepsP.ite (KeepsP.mk Keeps.self) (KeepsP.ite (KeepsP.mk ?_) (KeepsP.mk (h1 _)))
  with_reducible apply Keeps.parts (Keeps.set (wholeReg key) (classDefault src) hp (h1 _))
  refine fun (p : Part) hp => ?_
  cases p <;> first | exact absurd hp (by decide) | exact rfl

/-- An answer of a check and, where it says so, one more operation. -/
theorem Keeps.orElse {P E s} {q : SideState × Bool} {g : SideState → SideState} :
    KeepsP P E s q → (∀ x, Keeps P E x (g x)) → Keeps P E s (match q with
      | (t, false) => t
      | (t, true) => g t) := by
  intro h hg
  obtain ⟨t, b⟩ := q
  cases b with
  | false => exact h
  | true => exact Keeps.trans (hg t) h

theorem SideState.collect_keeps (fuel : Nat) (s : SideState) (src : Nat) (inj : Bool) (detail : List Byte) :
    Keeps (some [0x03, 0x05, 0x06, 0x08, 0x09, 0x10, 0x14]) [.twin, .fault, .perf] s (s.collect fuel src inj detail) := by
  induction fuel generalizing s src inj detail with
  | zero => exact Keeps.self
  | succ fuel ih =>
    simp only [SideState.collect]
    have h0 : Keeps (some [0x03, 0x05, 0x06, 0x08, 0x09, 0x10, 0x14]) [.twin, .fault, .perf] s
        (if inj then s else s.showReal src) :=
      Keeps.ite Keeps.self (Keeps.step (SideState.showReal_keeps _ _) rfl rfl Keeps.self)
    generalize (if inj then s else s.showReal src) = x at h0 ⊢
    have h1 : KeepsP (some [0x03, 0x05, 0x06, 0x08, 0x09, 0x10, 0x14]) [.twin, .fault, .perf] s
        (if collectorSource src then (x, false) else x.compareEntry src) :=
      KeepsP.ite (KeepsP.mk h0) (KeepsP.step (SideState.compareEntry_keeps _ _) rfl rfl h0)
    have h2 := Keeps.orElse (g := fun t => t.collect fuel 0xF0 false (leBytes 4 t.off)) h1 (fun x => ih _ _ _ _)
    have h3 := Keeps.bump (FC_STOTAL.EVENTS.bank src) 1 (by rw [pageOf_bank]; rfl)
      (Keeps.step (SideState.count_keeps _ 120 1) rfl rfl h2)
    have h4 : ∀ y : SideState, Keeps (some [0x03, 0x05, 0x06, 0x08, 0x09, 0x10, 0x14]) [.twin, .fault, .perf] s y →
        KeepsP (some [0x03, 0x05, 0x06, 0x08, 0x09, 0x10, 0x14]) [.twin, .fault, .perf] s
          (if collectorSource src then y.safeState src inj detail else y.mapRead.countEvent src inj detail) := fun y h =>
      KeepsP.ite (KeepsP.step (SideState.safeState_keeps _ _ _ _) rfl rfl h)
        (KeepsP.step (SideState.countEvent_keeps _ _ _ _) rfl rfl (Keeps.step (SideState.mapRead_keeps _) rfl rfl h))
    exact Keeps.orElse (g := fun t => t.collect fuel 0x8A false (leBytes 4 t.off)) (h4 _ h3) (fun x => ih _ _ _ _)

theorem SideState.reportDrops_keeps (s : SideState) : Keeps (some [0x03, 0x05, 0x06, 0x08, 0x09, 0x10, 0x14]) [.twin, .fault, .perf] s (SideState.reportDrops s) := by
  unfold SideState.reportDrops
  try dsimp only
  repeat' first
    | with_reducible apply Keeps.self
    | with_reducible assumption
    | with_reducible apply Keeps.ite
    | with_reducible apply Keeps.step (SideState.collect_keeps _ _ _ _ _)
    | exact rfl
    | split
    | with_reducible apply Keeps.parts
    | (refine fun (p : Part) hp => ?_; cases p <;> first | exact absurd hp (by decide) | simp only [SideState.sameIn])

theorem SideState.raiseWith_keeps (s : SideState) (src : Nat) (detail : List Byte) : Keeps (some [0x03, 0x05, 0x06, 0x08, 0x09, 0x10, 0x14]) [.twin, .fault, .perf] s (SideState.raiseWith s src detail) := by
  unfold SideState.raiseWith
  try dsimp only
  repeat' first
    | with_reducible apply Keeps.self
    | with_reducible assumption
    | with_reducible apply Keeps.ite
    | with_reducible apply Keeps.step (SideState.collect_keeps _ _ _ _ _)
    | with_reducible apply Keeps.step (SideState.reportDrops_keeps _)
    | exact rfl

theorem SideState.raise_keeps (s : SideState) (src : Nat) : Keeps (some [0x03, 0x05, 0x06, 0x08, 0x09, 0x10, 0x14]) [.twin, .fault, .perf] s (SideState.raise s src) := by
  unfold SideState.raise
  try dsimp only
  repeat' first
    | with_reducible apply Keeps.self
    | with_reducible assumption
    | with_reducible apply Keeps.step (SideState.raiseWith_keeps _ _ _)
    | exact rfl

theorem SideState.raiseIf_keeps (s : SideState) (b : Bool) (src : Nat) : Keeps (some [0x03, 0x05, 0x06, 0x08, 0x09, 0x10, 0x14]) [.twin, .fault, .perf] s (SideState.raiseIf s b src) := by
  unfold SideState.raiseIf
  try dsimp only
  repeat' first
    | with_reducible apply Keeps.self
    | with_reducible assumption
    | with_reducible apply Keeps.ite
    | with_reducible apply Keeps.step (SideState.raise_keeps _ _)
    | exact rfl

theorem SideState.injected_keeps (s : SideState) (i : Injection) (src : Nat) : Keeps (some [0x03, 0x05, 0x06, 0x08, 0x09, 0x10, 0x14]) [.twin, .fault, .perf] s (SideState.injected s i src) := by
  unfold SideState.injected
  try dsimp only
  repeat' first
    | with_reducible apply Keeps.self
    | with_reducible assumption
    | with_reducible apply Keeps.ite
    | with_reducible apply KeepsP.ite
    | with_reducible apply Keeps.step (SideState.showInjected_keeps _)
    | with_reducible apply KeepsP.step (SideState.react_keeps _ _ _)
    | with_reducible apply Keeps.step (SideState.collect_keeps _ _ _ _ _)
    | with_reducible apply Keeps.step (SideState.logInjected_keeps _ _)
    | exact rfl

theorem SideState.checkAt_keeps (s : SideState) (point : Nat) (ok : Bool) : Keeps (some [0x03, 0x05, 0x06, 0x08, 0x09, 0x10, 0x14]) [.twin, .fault, .perf] s (SideState.checkAt s point ok) := by
  unfold SideState.checkAt
  try dsimp only
  repeat' first
    | with_reducible apply Keeps.self
    | with_reducible assumption
    | with_reducible apply Keeps.ite
    | with_reducible apply Keeps.step (SideState.raiseIf_keeps _ _ _)
    | with_reducible apply Keeps.step (SideState.consumeInjection_keeps _ _)
    | with_reducible apply Keeps.step (SideState.injected_keeps _ _ _)
    | with_reducible apply Keeps.step (SideState.raise_keeps _ _)
    | exact rfl
    | split

theorem Keeps.emitReg {P E s t} {old : SideState} {key : Nat} (he : subParts [.twin] E = true) (h0 : Keeps P E s t) :
    Keeps P E s (t.emitReg old key) := by
  unfold SideState.emitReg
  dsimp only
  refine Keeps.ite h0 (Keeps.ite h0 ?_)
  exact Keeps.step (SideState.emit_keeps _ _) (by cases P <;> rfl) he h0

theorem Keeps.setC {P E s t} {f : Fld} {v : Nat} (hp : onPages P (pageOf f.key) = true) (he : subParts [.twin] E = true)
    (h0 : Keeps P E s t) : Keeps P E s (t.setC f v) := Keeps.emitReg he (Keeps.set f v hp h0)

/-- The interrupt lines follow after every command: only those lines move. -/
theorem SideState.interrupt_keeps (s : SideState) : Keeps (some []) [.lines] s s.interrupt := by
  unfold SideState.interrupt
  dsimp only
  refine Keeps.ite Keeps.self ?_
  with_reducible apply Keeps.parts Keeps.self
  refine fun (p : Part) hp => ?_
  cases p <;> first | exact absurd hp (by decide) | simp only [SideState.sameIn, FaultState.core]

theorem Keeps.interrupt {P E s t} (he : subParts [.lines] E = true) (h0 : Keeps P E s t) : Keeps P E s t.interrupt :=
  Keeps.step t.interrupt_keeps (by cases P <;> rfl) he h0

end Sys2Proof.Machine
end

