-- ==== Sys2Proof/Laws/Operands.lean ====
section
/-! SUPPORT. What each operation of Machine/Operands.lean keeps. -/

set_option Elab.async false

namespace Sys2Proof.Machine

/-- Pages of an event of the collector and of the interconnect. -/
abbrev busPages : Option (List Nat) := some [0x02, 0x03, 0x05, 0x06, 0x08, 0x09, 0x10, 0x14]

/-- Parts that a paired write, an access error or an event moves. -/
abbrev busParts : List Part := [.pairs, .twin, .fault, .perf]
/-- What an error response touches. -/
abbrev errParts : List Part := [.twin, .fault, .perf]

theorem onPages_of_mem {P : Option (List Nat)} {l : List Nat} {p : Nat} (h : subPages (some l) P = true)
    (hp : l.contains p = true) : onPages P p = true := by
  cases P with
  | none => rfl
  | some m => exact List.all_eq_true.mp h p (by simpa using hp)

theorem pageOf_onPage (f : Fld) (p : Nat) (h : f.key < 0x1000) : pageOf (f.onPage p).key = p % 256 := by
  simp only [pageOf, Fld.onPage, bankUnit]
  omega

theorem subPages_trans {P Q R : Option (List Nat)} (h : subPages P Q = true) (k : subPages Q R = true) : subPages P R = true := by
  cases R with
  | none => simp [subPages]
  | some r =>
    cases Q with
    | none => simp [subPages] at k
    | some q =>
      cases P with
      | none => simp [subPages] at h
      | some p => simp_all [subPages]

theorem subParts_trans {E F G : List Part} (h : subParts E F = true) (k : subParts F G = true) : subParts E G = true := by
  simp_all [subParts]

theorem Keeps.raiseWith {P E s t} {src : Nat} {d : List Byte} (hr : subPages busPages P = true) (he : subParts errParts E = true)
    (h0 : Keeps P E s t) : Keeps P E s (t.raiseWith src d) :=
  Keeps.step (t.raiseWith_keeps src d) (subPages_trans rfl hr) (subParts_trans rfl he) h0

theorem Keeps.accessEvent {P E s t} {addr : Nat} {m : Master} (hr : subPages busPages P = true) (he : subParts busParts E = true)
    (hp : onPages P (pageOf addr) = true) (h0 : Keeps P E s t) : Keeps P E s (t.accessEvent addr m) := by
  unfold SideState.accessEvent
  refine Keeps.raiseWith hr (subParts_trans (F := busParts) rfl he) ?_
  split
  · refine Keeps.set _ _ ?_ h0
    rw [pageOf_onPage _ _ (by decide)]
    have : (addr - 0x20000000) / 0x1000 % 256 = pageOf addr := by simp only [pageOf, bankUnit]; omega
    rw [this]; exact hp
  · exact h0

theorem pageOf_regAddr (key : Nat) : pageOf (regAddr key) = pageOf key := by simp only [pageOf, regAddr, bankUnit]; omega

theorem Keeps.ignored {P E s t} {key : Nat} {m : Master} (hr : subPages busPages P = true) (he : subParts busParts E = true)
    (hp : onPages P (pageOf key) = true) (h0 : Keeps P E s t) : Keeps P E s (t.ignored key m) :=
  Keeps.accessEvent hr he (by rw [pageOf_regAddr]; exact hp) h0

/-- A change of the interconnect's counters, or of what it holds of the first error. -/
theorem Keeps.perf {P E s t} {v : PerfState} (he : subParts errParts E = true) (h0 : Keeps P E s t) :
    Keeps P E s { t with perf := v } := by
  refine Keeps.step (E' := [.perf]) (P' := some []) ?_ (by cases P <;> rfl) (subParts_trans (F := errParts) rfl he) h0
  with_reducible apply Keeps.parts Keeps.self
  refine fun (p : Part) hp => ?_
  cases p <;> first | exact absurd hp (by decide) | simp only [SideState.sameIn]

theorem Keeps.errorResponse {P E s t} {addr m kind : Nat} {write : Bool} (hr : subPages busPages P = true)
    (he : subParts errParts E = true) (hp : onPages P (pageOf addr) = true) (h0 : Keeps P E s t) :
    Keeps P E s (t.errorResponse addr m kind write) := by
  have h2 : onPages P 2 = true := onPages_of_mem hr rfl
  unfold SideState.errorResponse
  dsimp only
  refine Keeps.step (SideState.countDiag_keeps _ _ _) (subPages_trans (Q := busPages) rfl hr) (subParts_trans (F := errParts) rfl he) ?_
  refine Keeps.step (SideState.count_keeps _ _ _) (subPages_trans (Q := busPages) rfl hr) (subParts_trans (F := errParts) rfl he) ?_
  refine Keeps.evt _ _ h2 ?_
  have hh := Keeps.perf (v := { t.perf with errHeld := (t.perf.errHeld && t.is ⟨0x0200C, 0, 1⟩) || kind != 0 }) he h0
  have hw := fun (c : Prop) [Decidable c] => Keeps.ite (c := c) (Keeps.setB BX_ERR_INFO.WRITE write h2 (Keeps.set BX_ERR_INFO.KIND kind h2
    (Keeps.set BX_ERR_INFO.TARGET (targetOf addr) h2 (Keeps.set BX_ERR_INFO.MASTER m h2 (Keeps.set BX_ERR_ADDR.ADDR addr h2 hh))))) hh
  refine Keeps.ite (Keeps.set _ _ ?_ (hw _)) (hw _)
  rw [pageOf_onPage _ _ (by decide)]
  have : addr % 0x100000 / 0x1000 % 256 = pageOf addr := by simp only [pageOf, bankUnit]; omega
  rw [this]; exact hp

theorem Keeps.denied {P E s t} {addr : Nat} {m : Master} {write : Bool} (hr : subPages busPages P = true)
    (he : subParts errParts E = true) (hp : onPages P (pageOf addr) = true) (h0 : Keeps P E s t) :
    Keeps P E s (t.denied addr m write) := Keeps.raiseWith hr he (Keeps.errorResponse hr he hp h0)

theorem Keeps.unaligned {P E s t} {addr : Nat} {m : Master} {write : Bool} (hr : subPages busPages P = true)
    (he : subParts errParts E = true) (hp : onPages P (pageOf addr) = true) (h0 : Keeps P E s t) :
    Keeps P E s (t.unaligned addr m write) := Keeps.raiseWith hr he (Keeps.errorResponse hr he hp h0)

/-- A change of the held pairs. -/
theorem Keeps.pairs {P E s t} {v : List (Nat × Word)} (he : subParts busParts E = true) (h0 : Keeps P E s t) :
    Keeps P E s { t with pairs := v } := by
  refine Keeps.step (E' := [.pairs]) (P' := some []) ?_ (by cases P <;> rfl) (subParts_trans (F := busParts) rfl he) h0
  with_reducible apply Keeps.parts Keeps.self
  refine fun (p : Part) hp => ?_
  cases p <;> first | exact absurd hp (by decide) | simp only [SideState.sameIn]

theorem Keeps.breakPair {P E s t} {reason m x logged : Nat} {w : Bool} (hr : subPages busPages P = true)
    (he : subParts busParts E = true) (hp : onPages P (pageOf x) = true) (h0 : Keeps P E s t) :
    Keeps P E s (t.breakPair reason m w x logged) := by
  have hq : ∀ f : Fld, f.key < 0x1000 → onPages P (pageOf (f.onPage (x / 0x1000)).key) = true := by
    intro f hf
    rw [pageOf_onPage _ _ hf]
    have : x / 0x1000 % 256 = pageOf x := by simp only [pageOf, bankUnit]; omega
    rw [this]; exact hp
  unfold SideState.breakPair
  dsimp only
  refine Keeps.raiseWith hr (subParts_trans (F := busParts) rfl he) ?_
  exact Keeps.set _ _ (hq _ (by decide)) (Keeps.set _ _ (hq _ (by decide)) (Keeps.set _ _ (hq _ (by decide))
    (Keeps.set _ _ (hq _ (by decide)) (Keeps.set _ _ (hq _ (by decide)) (Keeps.pairs he h0)))))

theorem pageOf_pairKey (s : SideState) (page : Nat) : pageOf (s.pairKey page) = page % 256 := by
  have : s.get (PAGE_LOCK.OFFSET.onPage page) < 1024 := by
    simp only [SideState.get, bits]
    exact Nat.mod_lt _ (Nat.two_pow_pos _)
  simp only [pageOf, SideState.pairKey, bankUnit]
  omega

theorem Keeps.lapse {P E s t} {page : Nat} (hr : subPages busPages P = true) (he : subParts busParts E = true)
    (hp : onPages P (page % 256) = true) (h0 : Keeps P E s t) : Keeps P E s (t.lapse page) := by
  unfold SideState.lapse
  exact Keeps.ite (Keeps.breakPair hr he (by rw [pageOf_pairKey]; exact hp) h0) h0

theorem pageOf_div (key : Nat) : key / 0x1000 % 256 = pageOf key := by simp only [pageOf, bankUnit]; omega

theorem Keeps.intervene {P E s t} {key : Nat} {m : Master} (hr : subPages busPages P = true) (he : subParts busParts E = true)
    (hp : onPages P (pageOf key) = true) (h0 : Keeps P E s t) : Keeps P E s (t.intervene key m) := by
  unfold SideState.intervene
  dsimp only
  have hl := Keeps.lapse (page := key / 0x1000) hr he (by rw [pageOf_div]; exact hp) h0
  exact Keeps.ite h0 (Keeps.ite (Keeps.breakPair hr he (by rw [pageOf_pairKey, pageOf_div]; exact hp) hl) hl)

theorem Keeps.firstHalf {P E s t} {key : Nat} {m : Master} {v : Word} (hr : subPages busPages P = true)
    (he : subParts busParts E = true) (hp : onPages P (pageOf key) = true) (h0 : Keeps P E s t) :
    Keeps P E s (t.firstHalf key m v) := by
  have hq : ∀ f : Fld, f.key < 0x1000 → onPages P (pageOf (f.onPage (key / 0x1000)).key) = true := by
    intro f hf
    rw [pageOf_onPage _ _ hf, pageOf_div]; exact hp
  unfold SideState.firstHalf
  dsimp only
  exact Keeps.set _ _ (hq _ (by decide)) (Keeps.set _ _ (hq _ (by decide)) (Keeps.set _ _ (hq _ (by decide))
    (Keeps.set _ _ (hq _ (by decide)) (Keeps.pairs he (Keeps.intervene hr he hp h0)))))

theorem KeepsP.secondHalf {P E s t} {key : Nat} {m : Master} {c : Word} (hr : subPages busPages P = true)
    (he : subParts busParts E = true) (hp : onPages P (pageOf key) = true) (h0 : Keeps P E s t) :
    KeepsP P E s (t.secondHalf key m c) := by
  have hq : ∀ f : Fld, f.key < 0x1000 → onPages P (pageOf (f.onPage (key / 0x1000)).key) = true := by
    intro f hf
    rw [pageOf_onPage _ _ hf, pageOf_div]; exact hp
  have hl := Keeps.lapse (page := key / 0x1000) hr he (by rw [pageOf_div]; exact hp) h0
  unfold SideState.secondHalf
  dsimp only
  split
  · exact KeepsP.mk (Keeps.breakPair hr he hp hl)
  · refine KeepsP.ite (KeepsP.mk (Keeps.breakPair hr he hp (Keeps.breakPair hr he ?_ hl))) (KeepsP.ite (KeepsP.mk ?_) ?_)
    · rw [pageOf_pairKey, pageOf_div]; exact hp
    · unfold SideState.completePair
      exact Keeps.set _ _ (hq _ (by decide)) (Keeps.set _ _ (hq _ (by decide)) (Keeps.set _ _ (hq _ (by decide))
        (Keeps.set _ _ (hq _ (by decide)) (Keeps.pairs he hl))))
    · exact KeepsP.mk (Keeps.breakPair hr he hp hl)

theorem SideState.transfer_keeps (s : SideState) (m : Master) : Keeps (some [0x06]) [.perf] s (SideState.transfer s m) := by
  unfold SideState.transfer
  try dsimp only
  repeat' first
    | with_reducible apply Keeps.self
    | with_reducible assumption
    | with_reducible apply Keeps.ite
    | with_reducible apply Keeps.step (SideState.count_keeps _ _ _)
    | with_reducible apply Keeps.step (SideState.countDiag_keeps _ _ _)
    | exact rfl

theorem KeepsP.pairWrite {P E s t} {key : Nat} {m : Master} {w : PairWrite} (hr : subPages busPages P = true)
    (he : subParts busParts E = true) (hp : onPages P (pageOf key) = true) (h0 : Keeps P E s t) :
    KeepsP P E s (t.pairWrite key m w) := by
  have ht : Keeps P E s (t.transfer m) :=
    Keeps.step (t.transfer_keeps m) (subPages_trans (Q := busPages) rfl hr) (subParts_trans (F := busParts) rfl he) h0
  unfold SideState.pairWrite
  dsimp only
  refine KeepsP.ite (KeepsP.mk ht) (KeepsP.ite (KeepsP.mk (Keeps.denied hr (subParts_trans (F := busParts) rfl he) (by rw [pageOf_regAddr]; exact hp) ht)) ?_)
  split
  · exact KeepsP.secondHalf hr he hp ht
  · exact KeepsP.ite (KeepsP.mk ht) (KeepsP.ite (KeepsP.mk (Keeps.unaligned hr (subParts_trans (F := busParts) rfl he) (by rw [pageOf_regAddr]; exact hp) ht))
      (KeepsP.secondHalf hr he hp (Keeps.firstHalf hr he hp ht)))

theorem Keeps.takePair {P E s t} {key : Nat} {v : Word} (hp : onPages P (pageOf key) = true) (h0 : Keeps P E s t) :
    Keeps P E s (t.takePair key v) := Keeps.set (wholeReg key) _ hp h0

/-- A register write with a row of its own keeps what its effect keeps, the access apart. -/
theorem Keeps.regWrite {P E s t} {key : Nat} {m : Master} {f : SideState → SideState} (hr : subPages busPages P = true)
    (he : subParts busParts E = true) (hp : onPages P (pageOf key) = true) (hf : ∀ x, Keeps P E s x → Keeps P E s (f x))
    (h0 : Keeps P E s t) : Keeps P E s (t.regWrite key m f) := by
  have ht : Keeps P E s (t.transfer m) :=
    Keeps.step (t.transfer_keeps m) (subPages_trans (Q := busPages) rfl hr) (subParts_trans (F := busParts) rfl he) h0
  unfold SideState.regWrite
  dsimp only
  exact Keeps.ite ht (Keeps.ite (hf _ (Keeps.intervene hr he hp ht))
    (Keeps.denied hr (subParts_trans (F := busParts) rfl he) (by rw [pageOf_regAddr]; exact hp) ht))

/-- A paired write keeps what its effect keeps, the pair and the access apart. -/
theorem Keeps.onPair {P E s t} {key : Nat} {m : Master} {w : PairWrite} {act : Word → SideState → SideState}
    (hr : subPages busPages P = true) (he : subParts busParts E = true) (hp : onPages P (pageOf key) = true)
    (hf : ∀ v x, Keeps P E s x → Keeps P E s (act v x)) (h0 : Keeps P E s t) : Keeps P E s (t.onPair key m w act) := by
  have hw := KeepsP.pairWrite (w := w) (m := m) hr he hp h0
  unfold SideState.onPair
  split
  · exact KeepsP.of_eq hw (by assumption)
  · exact hf _ _ (Keeps.takePair hp (KeepsP.of_eq hw (by assumption)))

theorem Keeps.accessError {P E s t} {m : Master} {addr width burst : Nat} {write locked : Bool}
    (he : subParts busParts E = true) (hn : P = none) (h0 : Keeps P E s t) :
    Keeps P E s (t.accessError m addr width write locked burst) := by
  subst hn
  have he' : subParts errParts E = true := subParts_trans (F := busParts) rfl he
  unfold SideState.accessError
  dsimp only
  split
  · exact h0
  · exact Keeps.unaligned rfl he' rfl h0
  · exact Keeps.denied rfl he' rfl h0
  · exact Keeps.raiseWith rfl he' (Keeps.errorResponse rfl he' rfl h0)
  · exact Keeps.raiseWith rfl he' (Keeps.errorResponse rfl he' rfl (Keeps.ite (Keeps.intervene rfl he rfl h0) h0))
  · exact Keeps.raiseWith rfl he' (Keeps.errorResponse rfl he' rfl h0)


theorem SideState.engineWrite_keeps (s : SideState) (m : Master) (a : Nat) (b : List Byte) : Keeps none [.mem, .ecc, .twin, .fault, .perf] s (SideState.engineWrite s m a b) := by
  unfold SideState.engineWrite
  try dsimp only
  repeat' first
    | with_reducible apply Keeps.self
    | with_reducible assumption
    | with_reducible apply Keeps.ite
    | with_reducible apply Keeps.step (SideState.countDiag_keeps _ _ _)
    | with_reducible apply Keeps.step (SideState.wrBytes_keeps _ _ _)
    | with_reducible apply Keeps.foldl
    | exact rfl
    | with_reducible apply Keeps.denied
    | with_reducible apply Keeps.raiseWith
    | with_reducible apply Keeps.errorResponse
    | split
    | intro _ _ _

end Sys2Proof.Machine
end

