-- ==== Sys2Proof/Laws/State.lean ====
section
/-! SUPPORT. What the plain updates of a side and of the device leave in each field: one lemma for each field and update. -/

set_option Elab.async false

namespace Sys2Proof.Machine

/-! ### The device's two sides -/

@[simp] theorem State.on_put (s : State) (sd : Side) (x : SideState) : (s.put sd x).on sd = x := by cases sd <;> rfl

@[simp] theorem State.on_put_peer (s : State) (sd : Side) (x : SideState) : (s.put sd x).on sd.peer = s.on sd.peer := by
  cases sd <;> rfl

@[simp] theorem State.put_put (s : State) (sd : Side) (x y : SideState) : (s.put sd x).put sd y = s.put sd y := by cases sd <;> rfl

@[simp] theorem State.put_on (s : State) (sd : Side) : s.put sd (s.on sd) = s := by cases sd <;> rfl

@[simp] theorem State.put_tile (s : State) (sd : Side) (x : SideState) : (s.put sd x).tile = s.tile := by cases sd <;> rfl

@[simp] theorem State.put_tilePresent (s : State) (sd : Side) (x : SideState) : (s.put sd x).tilePresent = s.tilePresent := by
  cases sd <;> rfl

@[simp] theorem State.put_curtainN (s : State) (sd : Side) (x : SideState) : (s.put sd x).curtainN = s.curtainN := by
  cases sd <;> rfl

@[simp] theorem State.put_pending (s : State) (sd : Side) (x : SideState) : (s.put sd x).pending = s.pending := by
  cases sd <;> rfl

@[simp] theorem State.on_side (s : State) (sd : Side) (f : SideState → SideState) :
    (s.side sd f).on sd = (f (s.on sd)).interrupt := by simp [State.side]

@[simp] theorem State.on_side_peer (s : State) (sd : Side) (f : SideState → SideState) :
    (s.side sd f).on sd.peer = s.on sd.peer := by simp [State.side]

@[simp] theorem State.side_pending (s : State) (sd : Side) (f : SideState → SideState) : (s.side sd f).pending = s.pending := by
  simp [State.side]

@[simp] theorem State.side_tile (s : State) (sd : Side) (f : SideState → SideState) : (s.side sd f).tile = s.tile := by
  simp [State.side]

@[simp] theorem State.side_curtainN (s : State) (sd : Side) (f : SideState → SideState) : (s.side sd f).curtainN = s.curtainN := by
  simp [State.side]

@[simp] theorem Side.peer_peer (sd : Side) : sd.peer.peer = sd := by cases sd <;> rfl

/-! ### Writing a register field -/

@[simp] theorem SideState.set_side (s : SideState) (f : Fld) (v : Nat) : (s.set f v).side = s.side := id rfl

@[simp] theorem SideState.set_pairs (s : SideState) (f : Fld) (v : Nat) : (s.set f v).pairs = s.pairs := id rfl

@[simp] theorem SideState.set_mem (s : SideState) (f : Fld) (v : Nat) : (s.set f v).mem = s.mem := id rfl

@[simp] theorem SideState.set_eccSoft (s : SideState) (f : Fld) (v : Nat) : (s.set f v).eccSoft = s.eccSoft := id rfl

@[simp] theorem SideState.set_eccHard (s : SideState) (f : Fld) (v : Nat) : (s.set f v).eccHard = s.eccHard := id rfl

@[simp] theorem SideState.set_hostWrites (s : SideState) (f : Fld) (v : Nat) : (s.set f v).hostWrites = s.hostWrites := id rfl

@[simp] theorem SideState.set_readBack (s : SideState) (f : Fld) (v : Nat) : (s.set f v).readBack = s.readBack := id rfl

@[simp] theorem SideState.set_beatNo (s : SideState) (f : Fld) (v : Nat) : (s.set f v).beatNo = s.beatNo := id rfl

@[simp] theorem SideState.set_produced (s : SideState) (f : Fld) (v : Nat) : (s.set f v).produced = s.produced := id rfl

@[simp] theorem SideState.set_win (s : SideState) (f : Fld) (v : Nat) : (s.set f v).win = s.win := id rfl

@[simp] theorem SideState.set_off (s : SideState) (f : Fld) (v : Nat) : (s.set f v).off = s.off := id rfl

@[simp] theorem SideState.set_drive (s : SideState) (f : Fld) (v : Nat) : (s.set f v).drive = s.drive := id rfl

@[simp] theorem SideState.set_mon (s : SideState) (f : Fld) (v : Nat) : (s.set f v).mon = s.mon := id rfl

@[simp] theorem SideState.set_loops (s : SideState) (f : Fld) (v : Nat) : (s.set f v).loops = s.loops := id rfl

@[simp] theorem SideState.set_scene (s : SideState) (f : Fld) (v : Nat) : (s.set f v).scene = s.scene := id rfl

@[simp] theorem SideState.set_pipe (s : SideState) (f : Fld) (v : Nat) : (s.set f v).pipe = s.pipe := id rfl

@[simp] theorem SideState.set_cal (s : SideState) (f : Fld) (v : Nat) : (s.set f v).cal = s.cal := id rfl

@[simp] theorem SideState.set_watch (s : SideState) (f : Fld) (v : Nat) : (s.set f v).watch = s.watch := id rfl

@[simp] theorem SideState.set_twin (s : SideState) (f : Fld) (v : Nat) : (s.set f v).twin = s.twin := id rfl

@[simp] theorem SideState.set_net (s : SideState) (f : Fld) (v : Nat) : (s.set f v).net = s.net := id rfl

@[simp] theorem SideState.set_time (s : SideState) (f : Fld) (v : Nat) : (s.set f v).time = s.time := id rfl

@[simp] theorem SideState.set_fault (s : SideState) (f : Fld) (v : Nat) : (s.set f v).fault = s.fault := id rfl

@[simp] theorem SideState.set_therm (s : SideState) (f : Fld) (v : Nat) : (s.set f v).therm = s.therm := id rfl

@[simp] theorem SideState.set_perf (s : SideState) (f : Fld) (v : Nat) : (s.set f v).perf = s.perf := id rfl

@[simp] theorem SideState.set_nvm (s : SideState) (f : Fld) (v : Nat) : (s.set f v).nvm = s.nvm := id rfl

@[simp] theorem SideState.set_power (s : SideState) (f : Fld) (v : Nat) : (s.set f v).power = s.power := id rfl

@[simp] theorem SideState.set_rigImage (s : SideState) (f : Fld) (v : Nat) : (s.set f v).rigImage = s.rigImage := id rfl

@[simp] theorem SideState.set_free (s : SideState) (f : Fld) (v : Nat) : (s.set f v).free = s.free := id rfl

@[simp] theorem SideState.set_tap (s : SideState) (f : Fld) (v : Nat) : (s.set f v).tap = s.tap := id rfl

theorem SideState.word_set_self (s : SideState) (f : Fld) (v : Nat) :
    (s.set f v).word f.key = BitVec.ofNat 32 (putBits (s.word f.key).toNat f.lo f.w v) := by rw [s.word_set, if_pos rfl]

theorem SideState.word_set_ne (s : SideState) (f : Fld) (v key : Nat) (h : key ≠ f.key) : (s.set f v).word key = s.word key := by
  rw [s.word_set, if_neg h]

/-- A field holds what was written to it, at its width. -/
theorem SideState.get_set_self (s : SideState) (f : Fld) (v : Nat) (h : f.lo + f.w ≤ 32) : (s.set f v).get f = v % 2 ^ f.w := by
  have hb : f.lo + f.w ≤ 32 := h
  rw [SideState.get, s.word_set_self, bits_ofNat_of_le _ _ _ hb, bits_putBits_self]

/-- A write of a field leaves the fields of other registers. -/
theorem SideState.get_set_key (s : SideState) (f g : Fld) (v : Nat) (h : g.key ≠ f.key) : (s.set f v).get g = s.get g := by
  rw [SideState.get, SideState.get, s.word_set_ne _ _ _ h]

/-- A write of a field leaves the other fields of its register. -/
theorem SideState.get_set_apart (s : SideState) (f g : Fld) (v : Nat) (hg : g.lo + g.w ≤ 32)
    (h : f.lo + f.w ≤ g.lo ∨ g.lo + g.w ≤ f.lo) : (s.set f v).get g = s.get g := by
  by_cases hk : g.key = f.key
  · rw [SideState.get, SideState.get, hk, s.word_set_self, bits_ofNat_of_le _ _ _ hg, bits_putBits_apart _ _ _ _ _ _ h]
  · exact s.get_set_key f g v hk

theorem SideState.evt_eq (s : SideState) (page bit : Nat) : s.evt page bit = s.set (evtBit page bit) 1 := rfl

/-! ### Reading registers of a side with other parts replaced -/

@[simp] theorem SideState.word_mk {side regs pairs mem eccSoft eccHard eccOwed hostWrites readBack readHigh beatNo produced win off drive mon loops scene pipe cal watch twin net time fault therm perf nvm power rigImage free tap boundary} (key : Nat) :
    SideState.word ⟨side, regs, pairs, mem, eccSoft, eccHard, eccOwed, hostWrites, readBack, readHigh, beatNo, produced, win, off, drive, mon, loops, scene, pipe, cal, watch, twin, net, time, fault, therm, perf, nvm, power, rigImage, free, tap, boundary⟩ key =
      Store.read (fun k => BitVec.ofNat 32 (resetWord side k)) regs key := rfl

@[simp] theorem SideState.get_mk {side regs pairs mem eccSoft eccHard eccOwed hostWrites readBack readHigh beatNo produced win off drive mon loops scene pipe cal watch twin net time fault therm perf nvm power rigImage free tap boundary} (f : Fld) :
    SideState.get ⟨side, regs, pairs, mem, eccSoft, eccHard, eccOwed, hostWrites, readBack, readHigh, beatNo, produced, win, off, drive, mon, loops, scene, pipe, cal, watch, twin, net, time, fault, therm, perf, nvm, power, rigImage, free, tap, boundary⟩ f =
      bits (Store.read (fun k => BitVec.ofNat 32 (resetWord side k)) regs f.key).toNat f.lo f.w := rfl

@[simp] theorem SideState.is_mk {side regs pairs mem eccSoft eccHard eccOwed hostWrites readBack readHigh beatNo produced win off drive mon loops scene pipe cal watch twin net time fault therm perf nvm power rigImage free tap boundary} (f : Fld) :
    SideState.is ⟨side, regs, pairs, mem, eccSoft, eccHard, eccOwed, hostWrites, readBack, readHigh, beatNo, produced, win, off, drive, mon, loops, scene, pipe, cal, watch, twin, net, time, fault, therm, perf, nvm, power, rigImage, free, tap, boundary⟩ f =
      (bits (Store.read (fun k => BitVec.ofNat 32 (resetWord side k)) regs f.key).toNat f.lo f.w != 0) := rfl

@[simp] theorem SideState.bits_word (s : SideState) (f : Fld) : bits (s.word f.key).toNat f.lo f.w = s.get f := rfl

/-- The registers of a side, read as such. -/
@[simp] theorem SideState.read_regs (s : SideState) (sd : Side) (key : Nat) (h : sd = s.side) :
    Store.read (fun k => BitVec.ofNat 32 (resetWord sd k)) s.regs key = s.word key := by rw [h]; rfl

theorem SideState.is_eq (s : SideState) (f : Fld) : s.is f = (s.get f != 0) := rfl

/-! ### The interrupt lines -/

@[simp] theorem SideState.interrupt_side (s : SideState) : s.interrupt.side = s.side := by
  unfold SideState.interrupt; split <;> rfl

@[simp] theorem SideState.interrupt_regs (s : SideState) : s.interrupt.regs = s.regs := by
  unfold SideState.interrupt; split <;> rfl

@[simp] theorem SideState.interrupt_pairs (s : SideState) : s.interrupt.pairs = s.pairs := by
  unfold SideState.interrupt; split <;> rfl

@[simp] theorem SideState.interrupt_mem (s : SideState) : s.interrupt.mem = s.mem := by
  unfold SideState.interrupt; split <;> rfl

@[simp] theorem SideState.interrupt_eccSoft (s : SideState) : s.interrupt.eccSoft = s.eccSoft := by
  unfold SideState.interrupt; split <;> rfl

@[simp] theorem SideState.interrupt_eccHard (s : SideState) : s.interrupt.eccHard = s.eccHard := by
  unfold SideState.interrupt; split <;> rfl

@[simp] theorem SideState.interrupt_hostWrites (s : SideState) : s.interrupt.hostWrites = s.hostWrites := by
  unfold SideState.interrupt; split <;> rfl

@[simp] theorem SideState.interrupt_readBack (s : SideState) : s.interrupt.readBack = s.readBack := by
  unfold SideState.interrupt; split <;> rfl

@[simp] theorem SideState.interrupt_beatNo (s : SideState) : s.interrupt.beatNo = s.beatNo := by
  unfold SideState.interrupt; split <;> rfl

@[simp] theorem SideState.interrupt_produced (s : SideState) : s.interrupt.produced = s.produced := by
  unfold SideState.interrupt; split <;> rfl

@[simp] theorem SideState.interrupt_win (s : SideState) : s.interrupt.win = s.win := by
  unfold SideState.interrupt; split <;> rfl

@[simp] theorem SideState.interrupt_off (s : SideState) : s.interrupt.off = s.off := by
  unfold SideState.interrupt; split <;> rfl

@[simp] theorem SideState.interrupt_drive (s : SideState) : s.interrupt.drive = s.drive := by
  unfold SideState.interrupt; split <;> rfl

@[simp] theorem SideState.interrupt_mon (s : SideState) : s.interrupt.mon = s.mon := by
  unfold SideState.interrupt; split <;> rfl

@[simp] theorem SideState.interrupt_loops (s : SideState) : s.interrupt.loops = s.loops := by
  unfold SideState.interrupt; split <;> rfl

@[simp] theorem SideState.interrupt_scene (s : SideState) : s.interrupt.scene = s.scene := by
  unfold SideState.interrupt; split <;> rfl

@[simp] theorem SideState.interrupt_pipe (s : SideState) : s.interrupt.pipe = s.pipe := by
  unfold SideState.interrupt; split <;> rfl

@[simp] theorem SideState.interrupt_cal (s : SideState) : s.interrupt.cal = s.cal := by
  unfold SideState.interrupt; split <;> rfl

@[simp] theorem SideState.interrupt_watch (s : SideState) : s.interrupt.watch = s.watch := by
  unfold SideState.interrupt; split <;> rfl

@[simp] theorem SideState.interrupt_twin (s : SideState) : s.interrupt.twin = s.twin := by
  unfold SideState.interrupt; split <;> rfl

@[simp] theorem SideState.interrupt_net (s : SideState) : s.interrupt.net = s.net := by
  unfold SideState.interrupt; split <;> rfl

@[simp] theorem SideState.interrupt_time (s : SideState) : s.interrupt.time = s.time := by
  unfold SideState.interrupt; split <;> rfl

@[simp] theorem SideState.interrupt_therm (s : SideState) : s.interrupt.therm = s.therm := by
  unfold SideState.interrupt; split <;> rfl

@[simp] theorem SideState.interrupt_perf (s : SideState) : s.interrupt.perf = s.perf := by
  unfold SideState.interrupt; split <;> rfl

@[simp] theorem SideState.interrupt_nvm (s : SideState) : s.interrupt.nvm = s.nvm := by
  unfold SideState.interrupt; split <;> rfl

@[simp] theorem SideState.interrupt_power (s : SideState) : s.interrupt.power = s.power := by
  unfold SideState.interrupt; split <;> rfl

@[simp] theorem SideState.interrupt_rigImage (s : SideState) : s.interrupt.rigImage = s.rigImage := by
  unfold SideState.interrupt; split <;> rfl

@[simp] theorem SideState.interrupt_free (s : SideState) : s.interrupt.free = s.free := by
  unfold SideState.interrupt; split <;> rfl

@[simp] theorem SideState.interrupt_tap (s : SideState) : s.interrupt.tap = s.tap := by
  unfold SideState.interrupt; split <;> rfl

@[simp] theorem SideState.interrupt_core (s : SideState) : s.interrupt.fault.core = s.fault.core := by
  unfold SideState.interrupt; split <;> rfl

@[simp] theorem SideState.interrupt_word (s : SideState) (key : Nat) : s.interrupt.word key = s.word key := by
  unfold SideState.word; rw [SideState.interrupt_side, SideState.interrupt_regs]

@[simp] theorem SideState.interrupt_get (s : SideState) (f : Fld) : s.interrupt.get f = s.get f := by
  unfold SideState.get; rw [SideState.interrupt_word]

@[simp] theorem SideState.interrupt_is (s : SideState) (f : Fld) : s.interrupt.is f = s.is f := by
  unfold SideState.is; rw [SideState.interrupt_get]

theorem SideState.live_of_alive (s : SideState) (f : SideState → SideState) (h : s.alive = true) : s.live f = f s := by
  unfold SideState.live; rw [if_pos h]

theorem SideState.live_of_dead (s : SideState) (f : SideState → SideState) (h : s.alive = false) : s.live f = s := by
  unfold SideState.live; rw [h]; rfl

end Sys2Proof.Machine
end

