-- ==== Sys2Proof/Laws/Within.lean ====
section
/-! SUPPORT. How the frame of a command on one side follows from what its operations keep, and what a register write and a
paired write are where they go through. -/

set_option Elab.async false

namespace Sys2Proof.Machine

/-- The frame on one side: no register outside `K` and no part outside `E` changes. -/
structure Only (K : Nat → Bool) (E : List Part) (s t : SideState) : Prop where
  word : ∀ key, K key = false → t.word key = s.word key
  part : ∀ p, E.contains p = false → s.sameIn t p

theorem Only.self {K E s} : Only K E s s := ⟨fun _ _ => rfl, fun p _ => s.sameIn_refl p⟩

theorem Only.trans {K E s t u} (h : Only K E t u) (h0 : Only K E s t) : Only K E s u :=
  ⟨fun k hk => (h.word k hk).trans (h0.word k hk), fun p hp => SideState.sameIn_trans (h0.part p hp) (h.part p hp)⟩

/-- A smaller frame inside a larger one. -/
theorem Only.inside {l : List Nat} {K E E' s t u} (h : Only (keysOf l) E' t u) (hl : l.all K = true)
    (he : subParts E' E = true) (h0 : Only K E s t) : Only K E s u := by
  refine Only.trans ⟨fun k hk => h.word k ?_, fun p hp => h.part p (contains_of_all he hp)⟩ h0
  cases e : keysOf l k with
  | false => rfl
  | true =>
    have := List.all_eq_true.mp hl k (List.contains_iff_mem.mp e)
    rw [this] at hk; exact absurd hk (by decide)

theorem Only.ite {K E s t u} {c : Prop} [Decidable c] (h : Only K E s t) (k : Only K E s u) :
    Only K E s (if c then t else u) := by
  split <;> assumption

theorem Only.set {K E s t} (f : Fld) (v : Nat) (hk : K f.key = true) (h0 : Only K E s t) : Only K E s (t.set f v) := by
  refine Only.trans ⟨fun k h => ?_, fun p _ => (t.set_keeps f v).part p rfl⟩ h0
  exact t.word_set_ne f v k (fun e => by rw [e, hk] at h; exact absurd h (by decide))

theorem Only.setB {K E s t} (f : Fld) (b : Bool) (hk : K f.key = true) (h0 : Only K E s t) : Only K E s (t.setB f b) :=
  Only.set f _ hk h0

theorem Only.bump {K E s t} (f : Fld) (n : Nat) (hk : K f.key = true) (h0 : Only K E s t) : Only K E s (t.bump f n) :=
  Only.set f _ hk h0

theorem Only.evt {K E s t} (page bit : Nat) (hk : K (page * 0x1000 + 0x00C) = true) (h0 : Only K E s t) :
    Only K E s (t.evt page bit) := Only.set _ _ hk h0

theorem Only.writeRw {K E s t} (key v : Nat) (hk : K key = true) (h0 : Only K E s t) : Only K E s (t.writeRw key v) :=
  Only.set (wholeReg key) _ hk h0

/-- An operation that keeps every register outside some pages. -/
theorem Only.keeps {K E s t u P E'} (h : Keeps P E' t u) (hk : ∀ k, onPages P (pageOf k) = true → K k = true)
    (he : subParts E' E = true) (h0 : Only K E s t) : Only K E s u := by
  refine Only.trans ⟨fun k hf => h.word k ?_, fun p hp => h.part p (contains_of_all he hp)⟩ h0
  cases e : onPages P (pageOf k) with
  | false => rfl
  | true => rw [hk k e] at hf; exact absurd hf (by decide)

/-- An operation that keeps every register. -/
theorem Only.calm {K E s t u E'} (h : Keeps (some []) E' t u) (he : subParts E' E = true) (h0 : Only K E s t) : Only K E s u :=
  Only.keeps h (fun k hk => by simp [onPages] at hk) he h0

/-- The same with the pages given as a list. -/
theorem Only.on {l : List Nat} {E s t u E'} {P : List Nat} (h : Keeps (some P) E' t u)
    (hp : subPages (some P) (some l) = true) (he : subParts E' E = true) (h0 : Only (keysOn l) E s t) : Only (keysOn l) E s u :=
  Only.keeps h (fun k hk => by
    simp only [onPages, subPages, List.all_eq_true] at hk hp
    exact hp _ (List.contains_iff_mem.mp hk)) he h0

theorem Only.parts {K E s t} {pairs eccSoft eccHard eccOwed hostWrites readBack readHigh beatNo produced win off drive mon loops scene pipe cal watch twin net time fault therm perf nvm power rigImage free tap boundary}
    (h0 : Only K E s t)
    (hp : ∀ p, E.contains p = false → SideState.sameIn t ⟨t.side, t.regs, pairs, t.mem, eccSoft, eccHard, eccOwed, hostWrites, readBack, readHigh, beatNo, produced, win, off, drive, mon, loops, scene, pipe, cal, watch, twin, net, time, fault, therm, perf, nvm, power, rigImage, free, tap, boundary⟩ p) :
    Only K E s ⟨t.side, t.regs, pairs, t.mem, eccSoft, eccHard, eccOwed, hostWrites, readBack, readHigh, beatNo, produced, win, off, drive, mon, loops, scene, pipe, cal, watch, twin, net, time, fault, therm, perf, nvm, power, rigImage, free, tap, boundary⟩ :=
  Only.trans (t := t) ⟨fun _ _ => rfl, hp⟩ h0

theorem Only.live {K E s t} {g : SideState → SideState} (h0 : Only K E s t) (h : Only K E s (g t)) : Only K E s (t.live g) := by
  unfold SideState.live
  exact Only.ite h h0

theorem Only.interrupt {K E s t} (he : E.contains .lines = true) (h0 : Only K E s t) : Only K E s t.interrupt :=
  Only.calm t.interrupt_keeps (by simp only [subParts, List.all_cons, he, List.all_nil, Bool.and_self]) h0

/-- The frame of a command that acts on one side. -/
theorem Within.side {K E} {s : State} {sd : Side} {f : SideState → SideState} (he : E.contains .lines = true)
    (h : Only K E (s.on sd) (f (s.on sd))) : Within K E sd s (s.side sd f) := by
  have hi := Only.interrupt he h
  refine ⟨?_, fun k hk => ?_, fun p hp => ?_⟩
  · simp [State.side]
  · rw [State.on_side]; exact hi.word k hk
  · rw [State.on_side]; exact hi.part p hp

/-- A command on one side that does nothing. -/
theorem Within.self {K E} {s : State} {sd : Side} : Within K E sd s s :=
  ⟨by simp, fun _ _ => rfl, fun p _ => (s.on sd).sameIn_refl p⟩

end Sys2Proof.Machine
end

