-- ==== Sys2Proof/Laws/Access.lean ====
section
/-! SUPPORT. A register write and a paired write where they go through: the transfer is counted, and then the block acts. -/

set_option Elab.async false

namespace Sys2Proof.Machine

/-! ### The count of a transfer -/

theorem SideState.count_parts (s : SideState) (i n : Nat) : Only (keysOf [0x0600C, 0x06060 / 0x1000 * 0x1000 + (0x060 + 4 * (i / 32)) % 0x1000]) [.perf] s (s.count i n) := by
  unfold SideState.count
  dsimp only
  refine Only.ite Only.self (Only.ite Only.self ?_)
  have h : Only (keysOf [0x0600C, 0x06060 / 0x1000 * 0x1000 + (0x060 + 4 * (i / 32)) % 0x1000]) [.perf] s
      { s with perf := { s.perf with counters := Tab.put s.perf.counters i ((Tab.getD s.perf.counters i 0 + n) % 2 ^ 48) } } := by
    with_reducible apply Only.parts Only.self
    refine fun (p : Part) hp => ?_
    cases p <;> first | exact absurd hp (by decide) | simp only [SideState.sameIn]
  refine Only.ite h (Only.evt _ _ (by simp [keysOf]) (Only.set _ _ ?_ h))
  simp [keysOf, Fld.nth, PC_OVF.OVF]

/-- Counting a transfer changes the counters, and at a wrap of counter 127 its overflow bit and event. -/
theorem SideState.transfer_only (s : SideState) (m : Master) : Only (keysOf [0x0600C, 0x0606C]) [.perf] s (s.transfer m) := by
  have hd : Only (keysOf [0x0600C, 0x0606C]) [.perf] s (s.countDiag (2 * m.code) 1) := by
    unfold SideState.countDiag
    refine Only.ite Only.self ?_
    with_reducible apply Only.parts Only.self
    refine fun (p : Part) hp => ?_
    cases p <;> first | exact absurd hp (by decide) | simp only [SideState.sameIn]
  unfold SideState.transfer
  dsimp only
  exact Only.ite (Only.trans (SideState.count_parts _ 127 1) hd) hd

theorem SideState.transfer_word (s : SideState) (m : Master) (key : Nat) (h : pageOf key ≠ 6) :
    (s.transfer m).word key = s.word key :=
  (s.transfer_only m).word key (by
    simp only [keysOf, List.contains_cons, List.contains_nil, Bool.or_false, Bool.or_eq_false_iff, beq_eq_false_iff_ne]
    refine ⟨fun e => h (by rw [e]; rfl), fun e => h (by rw [e]; rfl)⟩)

theorem SideState.transfer_get (s : SideState) (m : Master) (f : Fld) (h : pageOf f.key ≠ 6) : (s.transfer m).get f = s.get f := by
  unfold SideState.get; rw [s.transfer_word m _ h]

theorem SideState.transfer_is (s : SideState) (m : Master) (f : Fld) (h : pageOf f.key ≠ 6) : (s.transfer m).is f = s.is f := by
  unfold SideState.is; rw [s.transfer_get m _ h]

@[simp] theorem SideState.transfer_side (s : SideState) (m : Master) : (s.transfer m).side = s.side :=
  (SideState.transfer_keeps s m).side

@[simp] theorem SideState.transfer_pairs (s : SideState) (m : Master) : (s.transfer m).pairs = s.pairs :=
  (s.transfer_only m).part .pairs rfl

@[simp] theorem SideState.transfer_mem (s : SideState) (m : Master) : (s.transfer m).mem = s.mem :=
  congrArg Prod.fst ((s.transfer_only m).part .mem rfl)

@[simp] theorem SideState.transfer_eccSoft (s : SideState) (m : Master) : (s.transfer m).eccSoft = s.eccSoft :=
  congrArg Prod.fst ((s.transfer_only m).part .ecc rfl)

@[simp] theorem SideState.transfer_eccHard (s : SideState) (m : Master) : (s.transfer m).eccHard = s.eccHard :=
  congrArg Prod.snd ((s.transfer_only m).part .mem rfl)

@[simp] theorem SideState.transfer_eccOwed (s : SideState) (m : Master) : (s.transfer m).eccOwed = s.eccOwed :=
  congrArg Prod.snd ((s.transfer_only m).part .ecc rfl)

@[simp] theorem SideState.transfer_hostWrites (s : SideState) (m : Master) : (s.transfer m).hostWrites = s.hostWrites :=
  (s.transfer_only m).part .hostWrites rfl

@[simp] theorem SideState.transfer_readBack (s : SideState) (m : Master) : (s.transfer m).readBack = s.readBack :=
  congrArg Prod.fst ((s.transfer_only m).part .readBack rfl)

@[simp] theorem SideState.transfer_readHigh (s : SideState) (m : Master) : (s.transfer m).readHigh = s.readHigh :=
  congrArg Prod.snd ((s.transfer_only m).part .readBack rfl)

@[simp] theorem SideState.transfer_beatNo (s : SideState) (m : Master) : (s.transfer m).beatNo = s.beatNo :=
  congrArg (fun p => p.1) ((s.transfer_only m).part .clock rfl)

@[simp] theorem SideState.transfer_produced (s : SideState) (m : Master) : (s.transfer m).produced = s.produced :=
  congrArg (fun p => p.2.1) ((s.transfer_only m).part .clock rfl)

@[simp] theorem SideState.transfer_win (s : SideState) (m : Master) : (s.transfer m).win = s.win :=
  congrArg (fun p => p.2.2) ((s.transfer_only m).part .clock rfl)

@[simp] theorem SideState.transfer_off (s : SideState) (m : Master) : (s.transfer m).off = s.off :=
  (s.transfer_only m).part .off rfl

@[simp] theorem SideState.transfer_drive (s : SideState) (m : Master) : (s.transfer m).drive = s.drive :=
  (s.transfer_only m).part .drive rfl

@[simp] theorem SideState.transfer_mon (s : SideState) (m : Master) : (s.transfer m).mon = s.mon :=
  (s.transfer_only m).part .mon rfl

@[simp] theorem SideState.transfer_loops (s : SideState) (m : Master) : (s.transfer m).loops = s.loops :=
  (s.transfer_only m).part .loops rfl

@[simp] theorem SideState.transfer_scene (s : SideState) (m : Master) : (s.transfer m).scene = s.scene :=
  (s.transfer_only m).part .scene rfl

@[simp] theorem SideState.transfer_pipe (s : SideState) (m : Master) : (s.transfer m).pipe = s.pipe :=
  (s.transfer_only m).part .pipe rfl

@[simp] theorem SideState.transfer_cal (s : SideState) (m : Master) : (s.transfer m).cal = s.cal :=
  (s.transfer_only m).part .cal rfl

@[simp] theorem SideState.transfer_watch (s : SideState) (m : Master) : (s.transfer m).watch = s.watch :=
  (s.transfer_only m).part .watch rfl

@[simp] theorem SideState.transfer_twin (s : SideState) (m : Master) : (s.transfer m).twin = s.twin :=
  (s.transfer_only m).part .twin rfl

@[simp] theorem SideState.transfer_net (s : SideState) (m : Master) : (s.transfer m).net = s.net :=
  (s.transfer_only m).part .net rfl

@[simp] theorem SideState.transfer_time (s : SideState) (m : Master) : (s.transfer m).time = s.time :=
  (s.transfer_only m).part .time rfl

@[simp] theorem SideState.transfer_therm (s : SideState) (m : Master) : (s.transfer m).therm = s.therm :=
  (s.transfer_only m).part .therm rfl

@[simp] theorem SideState.transfer_nvm (s : SideState) (m : Master) : (s.transfer m).nvm = s.nvm :=
  (s.transfer_only m).part .nvm rfl

@[simp] theorem SideState.transfer_power (s : SideState) (m : Master) : (s.transfer m).power = s.power :=
  (s.transfer_only m).part .power rfl

@[simp] theorem SideState.transfer_rigImage (s : SideState) (m : Master) : (s.transfer m).rigImage = s.rigImage :=
  (s.transfer_only m).part .rigImage rfl

@[simp] theorem SideState.transfer_free (s : SideState) (m : Master) : (s.transfer m).free = s.free :=
  (s.transfer_only m).part .free rfl

@[simp] theorem SideState.transfer_tap (s : SideState) (m : Master) : (s.transfer m).tap = s.tap :=
  congrArg Prod.fst ((s.transfer_only m).part .tap rfl)

@[simp] theorem SideState.transfer_boundary (s : SideState) (m : Master) : (s.transfer m).boundary = s.boundary :=
  congrArg Prod.snd ((s.transfer_only m).part .tap rfl)

theorem FaultState.eq_of_core {f g : FaultState} (h : f.core = g.core)
    (k : (f.condition, f.intLow, f.msiSent) = (g.condition, g.intLow, g.msiSent)) : f = g := by
  cases f; cases g
  simp_all [FaultState.core]

@[simp] theorem SideState.transfer_fault (s : SideState) (m : Master) : (s.transfer m).fault = s.fault :=
  FaultState.eq_of_core ((s.transfer_only m).part .fault rfl) ((s.transfer_only m).part .lines rfl)

@[simp] theorem SideState.transfer_alive (s : SideState) (m : Master) : (s.transfer m).alive = s.alive := by
  simp [SideState.alive]

@[simp] theorem SideState.transfer_answers (s : SideState) (m : Master) (key : Nat) : (s.transfer m).answers key = s.answers key := by
  unfold SideState.answers SideState.stopped
  rw [SideState.transfer_nvm, SideState.transfer_therm, SideState.transfer_produced]

/-! ### Register writes -/

theorem SideState.lapse_self (s : SideState) (page : Nat) (h : Tab.has s.pairs page = false) : s.lapse page = s := by
  unfold SideState.lapse; rw [h]; rfl

theorem SideState.intervene_self (s : SideState) (key : Nat) (m : Master) (h : Tab.has s.pairs (key / 0x1000) = false) :
    s.intervene key m = s := by
  unfold SideState.intervene
  dsimp only
  rw [s.lapse_self _ h, h]
  split <;> rfl

theorem SideState.takes_alive {s : SideState} {m : Master} {key : Nat} (h : s.takes m key = true) : s.alive = true := by
  simp only [SideState.takes, Bool.and_eq_true] at h; exact h.1.1.1

/-- A register write that goes through: the transfer, then what the register does. -/
theorem SideState.regWrite_takes (s : SideState) (m : Master) (key : Nat) (f : SideState → SideState)
    (h : s.takes m key = true) : s.regWrite key m f = f (s.transfer m) := by
  simp only [SideState.takes, Bool.and_eq_true, Bool.not_eq_true'] at h
  unfold SideState.regWrite
  dsimp only
  rw [SideState.transfer_answers, h.1.1.2]
  simp only [Bool.not_true, Bool.false_eq_true, if_false]
  rw [if_pos h.1.2, SideState.intervene_self _ _ _ (by rw [SideState.transfer_pairs]; exact h.2)]

theorem SideState.live_regWrite (s : SideState) (m : Master) (key : Nat) (f : SideState → SideState)
    (h : s.takes m key = true) : s.live (fun x => x.regWrite key m f) = f (s.transfer m) := by
  rw [SideState.live_of_alive _ _ (SideState.takes_alive h), SideState.regWrite_takes _ _ _ _ h]

/-! ### Paired writes -/

theorem SideState.holds_alive {s : SideState} {m : Master} {key : Nat} {v : Word} (h : s.holds m key v = true) :
    s.alive = true := by
  simp only [SideState.holds, Bool.and_eq_true] at h; exact h.1.1.1.1.1.1

/-- The complement that completes the pair a page holds. -/
theorem SideState.pairWrite_holds (s : SideState) (m : Master) (key : Nat) (v : Word) (h : s.holds m key v = true)
    (hp : pageOf key ≠ 6) :
    s.pairWrite key m (.complement (~~~v)) = ((s.transfer m).completePair (key / 0x1000) m, some v) := by
  have ha := SideState.holds_alive h
  simp only [SideState.holds, Bool.and_eq_true, beq_iff_eq, bne_iff_ne, ne_eq] at h
  obtain ⟨⟨⟨⟨⟨⟨_, hk⟩, hm⟩, hn⟩, hv⟩, hx⟩, hl⟩ := h
  have hq : ∀ f : Fld, f.key < 0x1000 → pageOf (f.onPage (key / 0x1000)).key ≠ 6 := by
    intro f hf
    simp only [pageOf, Fld.onPage, bankUnit] at hp ⊢
    omega
  have hx' : (s.transfer m).pairKey (key / 0x1000) = key := by
    rw [SideState.pairKey, SideState.transfer_get _ _ _ (hq _ (by decide))]; exact hx
  have hl' : (s.transfer m).lapse (key / 0x1000) = s.transfer m := by
    unfold SideState.lapse
    rw [SideState.transfer_get _ _ _ (hq _ (by decide))]
    simp [hl]
  unfold SideState.pairWrite
  dsimp only
  rw [SideState.transfer_answers, hk, hm]
  simp only [Bool.not_true, Bool.false_eq_true, Bool.false_or, beq_iff_eq, hn, if_false]
  unfold SideState.secondHalf
  dsimp only
  rw [hl', SideState.transfer_pairs, hv]
  simp [hx']

theorem SideState.onPair_holds (s : SideState) (m : Master) (key : Nat) (v : Word) (act : Word → SideState → SideState)
    (h : s.holds m key v = true) (hp : pageOf key ≠ 6) :
    s.onPair key m (.complement (~~~v)) act = act v (s.paired m key v) := by
  unfold SideState.onPair SideState.paired
  rw [SideState.pairWrite_holds s m key v h hp]

theorem SideState.live_onPair (s : SideState) (m : Master) (key : Nat) (v : Word) (act : Word → SideState → SideState)
    (h : s.holds m key v = true) (hp : pageOf key ≠ 6) :
    s.live (fun x => x.onPair key m (.complement (~~~v)) act)
      = act v (s.paired m key v) := by
  rw [SideState.live_of_alive _ _ (SideState.holds_alive h), SideState.onPair_holds s m key v act h hp]

/-- Completing a pair changes PAGE_LOCK of its page and the held pairs. -/
theorem SideState.completePair_only (s : SideState) (page : Nat) (m : Master) :
    Only (keysOf [(PAGE_LOCK.STATE.onPage page).key]) [.pairs] s (s.completePair page m) := by
  have h : Only (keysOf [(PAGE_LOCK.STATE.onPage page).key]) [.pairs] s { s with pairs := Tab.del s.pairs page } := by
    with_reducible apply Only.parts Only.self
    refine fun (p : Part) hp => ?_
    cases p <;> first | exact absurd hp (by decide) | simp only [SideState.sameIn]
  unfold SideState.completePair
  dsimp only
  exact Only.set _ _ (by simp [keysOf, Fld.onPage, PAGE_LOCK.STATE, PAGE_LOCK.LEFT])
    (Only.set _ _ (by simp [keysOf, Fld.onPage, PAGE_LOCK.STATE, PAGE_LOCK.MASTER])
      (Only.set _ _ (by simp [keysOf, Fld.onPage, PAGE_LOCK.STATE, PAGE_LOCK.REASON]) (Only.set _ _ (by simp [keysOf]) h)))

/-- A pw field of the register takes its bits of the pair's value. -/
theorem SideState.takePair_get (s : SideState) (key : Nat) (v : Word) (f : Fld) (hk : f.key = key) (hb : f.lo + f.w ≤ 32)
    (hm : bits (pwMask key) f.lo f.w = 2 ^ f.w - 1) : (s.takePair key v).get f = bits v.toNat f.lo f.w := by
  have hw : (s.takePair key v).word f.key = BitVec.ofNat 32 (putBits (s.word key).toNat 0 32
      (Nat.lor (Nat.land (s.word key).toNat (0xFFFFFFFF - pwMask key)) (Nat.land v.toNat (pwMask key)))) := by
    subst hk
    exact s.word_set_self (wholeReg f.key) _
  rw [SideState.get, hw, bits_ofNat_of_le _ _ _ hb]
  apply Nat.eq_of_testBit_eq
  intro i
  rw [testBit_bits, testBit_bits, testBit_putBits]
  by_cases hi : i < f.w
  · have h1 : (0 ≤ f.lo + i ∧ f.lo + i < 0 + 32) := by omega
    have h2 : (pwMask key).testBit (f.lo + i) = true := by
      have := congrArg (fun n => Nat.testBit n i) hm
      simp only [testBit_bits, hi, decide_true, Bool.true_and, Nat.testBit_two_pow_sub_one] at this
      exact this
    have h3 : (0xFFFFFFFF - pwMask key).testBit (f.lo + i) = false := by
      have h4 : (2 ^ 32 - ((pwMask key % 2 ^ 32) + 1)).testBit (f.lo + i) = false := by
        rw [Nat.testBit_two_pow_sub_succ (Nat.mod_lt _ (by decide))]
        rw [Nat.testBit_mod_two_pow, h2]
        simp
      by_cases hl : pwMask key < 2 ^ 32
      · rw [Nat.mod_eq_of_lt hl] at h4
        rw [show 0xFFFFFFFF - pwMask key = 2 ^ 32 - (pwMask key + 1) by omega]; exact h4
      · rw [show 0xFFFFFFFF - pwMask key = 0 by omega]; exact Nat.zero_testBit _
    rw [if_pos h1, Nat.sub_zero]
    change (decide (i < f.w) && ((s.word key).toNat &&& (0xFFFFFFFF - pwMask key) ||| v.toNat &&& pwMask key).testBit (f.lo + i)) = _
    rw [Nat.testBit_or, Nat.testBit_and, Nat.testBit_and, h3, h2, Bool.and_false, Bool.false_or, Bool.and_true]
  · simp [hi]

theorem SideState.takePair_get_ne (s : SideState) (key : Nat) (v : Word) (f : Fld) (h : f.key ≠ key) :
    (s.takePair key v).get f = s.get f := s.get_set_key (wholeReg key) f _ h

/-- PAGE_LOCK once the pair is complete. -/
theorem SideState.completePair_lock (s : SideState) (page : Nat) (m : Master) :
    (s.completePair page m).get (PAGE_LOCK.STATE.onPage page) = 2 ∧ (s.completePair page m).get (PAGE_LOCK.REASON.onPage page) = 0
    ∧ (s.completePair page m).get (PAGE_LOCK.LEFT.onPage page) = 0 ∧ Tab.get? (s.completePair page m).pairs page = none := by
  refine ⟨?_, ?_, ?_, ?_⟩
  · unfold SideState.completePair
    rw [SideState.get_set_apart _ _ _ _ (Nat.le_of_ble_eq_true rfl) (Or.inr (Nat.le_of_ble_eq_true rfl)), SideState.get_set_apart _ _ _ _ (Nat.le_of_ble_eq_true rfl) (Or.inr (Nat.le_of_ble_eq_true rfl)),
      SideState.get_set_apart _ _ _ _ (Nat.le_of_ble_eq_true rfl) (Or.inr (Nat.le_of_ble_eq_true rfl)), SideState.get_set_self _ _ _ (Nat.le_of_ble_eq_true rfl)]
    rfl
  · unfold SideState.completePair
    rw [SideState.get_set_apart _ _ _ _ (Nat.le_of_ble_eq_true rfl) (Or.inr (Nat.le_of_ble_eq_true rfl)), SideState.get_set_apart _ _ _ _ (Nat.le_of_ble_eq_true rfl) (Or.inr (Nat.le_of_ble_eq_true rfl)),
      SideState.get_set_self _ _ _ (Nat.le_of_ble_eq_true rfl)]
    rfl
  · unfold SideState.completePair
    rw [SideState.get_set_self _ _ _ (Nat.le_of_ble_eq_true rfl)]
    rfl
  · unfold SideState.completePair
    simp only [SideState.set_pairs]
    exact Tab.get?_del_self _ _

theorem SideState.completePair_get (s : SideState) (page : Nat) (m : Master) (f : Fld) (h : f.key ≠ 0x018 + page * 0x1000) :
    (s.completePair page m).get f = s.get f := by
  unfold SideState.get
  rw [(s.completePair_only page m).word f.key (by simp [keysOf, Fld.onPage, PAGE_LOCK.STATE]; omega)]

/-! ### The pw bits of the registers that take paired writes (R342) -/

theorem pwMask_02040 : pwMask 0x02040 = 0x1 := by decide +kernel

theorem pwMask_03054 : pwMask 0x03054 = 0xFFFFFF07 := by decide +kernel

theorem pwMask_03068 : pwMask 0x03068 = 0x1 := by decide +kernel

theorem pwMask_05048 : pwMask 0x05048 = 0x1 := by decide +kernel

theorem pwMask_08048 : pwMask 0x08048 = 0x1 := by decide +kernel

theorem pwMask_08054 : pwMask 0x08054 = 0x3 := by decide +kernel

theorem pwMask_08088 : pwMask 0x08088 = 0xFFF0001 := by decide +kernel

theorem pwMask_09050 : pwMask 0x09050 = 0x1 := by decide +kernel

theorem pwMask_0905C : pwMask 0x0905C = 0x1 := by decide +kernel

theorem pwMask_0A04C : pwMask 0x0A04C = 0x1 := by decide +kernel

theorem pwMask_0F088 : pwMask 0x0F088 = 0x3 := by decide +kernel

theorem pwMask_11040 : pwMask 0x11040 = 0x1 := by decide +kernel

theorem pwMask_1E070 : pwMask 0x1E070 = 0xFFFFFFFF := by decide +kernel

theorem pwMask_1F060 : pwMask 0x1F060 = 0x8000001F := by decide +kernel

/-! ### The side with its pair complete -/

/-- A completed pair changes its register, PAGE_LOCK, the held pairs and the counts of the transfer. -/
theorem SideState.paired_only (s : SideState) (m : Master) (key : Nat) (v : Word) :
    Only (keysOf (pairKeys key)) [.pairs, .perf] s (s.paired m key v) := by
  unfold SideState.paired SideState.takePair
  exact Only.set _ _ (by simp [keysOf, pairKeys, accessKeys, wholeReg])
    (Only.inside (SideState.completePair_only _ _ _) (by simp [keysOf, pairKeys, accessKeys]) rfl
      (Only.inside (SideState.transfer_only _ _) (by simp [keysOf, pairKeys, accessKeys]) rfl Only.self))

/-- A field of a register that a completed pair leaves. -/
theorem SideState.paired_get (s : SideState) (m : Master) (key : Nat) (v : Word) (f : Fld) (h : keysOf (pairKeys key) f.key = false) :
    (s.paired m key v).get f = s.get f := by
  unfold SideState.get; rw [(s.paired_only m key v).word _ h]

theorem SideState.paired_is (s : SideState) (m : Master) (key : Nat) (v : Word) (f : Fld) (h : keysOf (pairKeys key) f.key = false) :
    (s.paired m key v).is f = s.is f := by
  unfold SideState.is; rw [s.paired_get m key v f h]

/-- A pw field of the register holds its bits of the pair's value. -/
theorem SideState.paired_pw (s : SideState) (m : Master) (key : Nat) (v : Word) (f : Fld) (hk : f.key = key) (hb : f.lo + f.w ≤ 32)
    (hm : bits (pwMask key) f.lo f.w = 2 ^ f.w - 1) : (s.paired m key v).get f = bits v.toNat f.lo f.w := by
  rw [SideState.paired, SideState.takePair_get _ _ _ _ hk hb hm]

/-- PAGE_LOCK shows the pair complete. -/
theorem SideState.paired_lock (s : SideState) (m : Master) (key : Nat) (v : Word) (h : key % 0x1000 ≠ 0x018) :
    (s.paired m key v).get (PAGE_LOCK.STATE.onPage (key / 0x1000)) = 2
    ∧ (s.paired m key v).get (PAGE_LOCK.REASON.onPage (key / 0x1000)) = 0
    ∧ (s.paired m key v).get (PAGE_LOCK.LEFT.onPage (key / 0x1000)) = 0
    ∧ Tab.get? (s.paired m key v).pairs (key / 0x1000) = none := by
  have hl := (s.transfer m).completePair_lock (key / 0x1000) m
  have hn : 0x018 + key / 0x1000 * 0x1000 ≠ key := by omega
  refine ⟨?_, ?_, ?_, ?_⟩
  · exact (SideState.takePair_get_ne _ _ _ _ hn).trans hl.1
  · exact (SideState.takePair_get_ne _ _ _ _ hn).trans hl.2.1
  · exact (SideState.takePair_get_ne _ _ _ _ hn).trans hl.2.2.1
  · rw [SideState.paired, SideState.takePair, SideState.set_pairs]; exact hl.2.2.2

@[simp] theorem SideState.paired_side (s : SideState) (m : Master) (key : Nat) (v : Word) : (s.paired m key v).side = s.side :=
  by simp [SideState.paired, SideState.takePair, SideState.completePair]

@[simp] theorem SideState.paired_mem (s : SideState) (m : Master) (key : Nat) (v : Word) : (s.paired m key v).mem = s.mem := by
  have h := (s.paired_only m key v).part .mem rfl
  simp only [SideState.sameIn, Prod.mk.injEq] at h
  exact h.1

@[simp] theorem SideState.paired_hostWrites (s : SideState) (m : Master) (key : Nat) (v : Word) : (s.paired m key v).hostWrites = s.hostWrites :=
  (s.paired_only m key v).part .hostWrites rfl

@[simp] theorem SideState.paired_readBack (s : SideState) (m : Master) (key : Nat) (v : Word) : (s.paired m key v).readBack = s.readBack := by
  have h := (s.paired_only m key v).part .readBack rfl
  simp only [SideState.sameIn, Prod.mk.injEq] at h
  exact h.1

@[simp] theorem SideState.paired_off (s : SideState) (m : Master) (key : Nat) (v : Word) : (s.paired m key v).off = s.off :=
  (s.paired_only m key v).part .off rfl

@[simp] theorem SideState.paired_drive (s : SideState) (m : Master) (key : Nat) (v : Word) : (s.paired m key v).drive = s.drive :=
  (s.paired_only m key v).part .drive rfl

@[simp] theorem SideState.paired_mon (s : SideState) (m : Master) (key : Nat) (v : Word) : (s.paired m key v).mon = s.mon :=
  (s.paired_only m key v).part .mon rfl

@[simp] theorem SideState.paired_loops (s : SideState) (m : Master) (key : Nat) (v : Word) : (s.paired m key v).loops = s.loops :=
  (s.paired_only m key v).part .loops rfl

@[simp] theorem SideState.paired_scene (s : SideState) (m : Master) (key : Nat) (v : Word) : (s.paired m key v).scene = s.scene :=
  (s.paired_only m key v).part .scene rfl

@[simp] theorem SideState.paired_pipe (s : SideState) (m : Master) (key : Nat) (v : Word) : (s.paired m key v).pipe = s.pipe :=
  (s.paired_only m key v).part .pipe rfl

@[simp] theorem SideState.paired_cal (s : SideState) (m : Master) (key : Nat) (v : Word) : (s.paired m key v).cal = s.cal :=
  (s.paired_only m key v).part .cal rfl

@[simp] theorem SideState.paired_watch (s : SideState) (m : Master) (key : Nat) (v : Word) : (s.paired m key v).watch = s.watch :=
  (s.paired_only m key v).part .watch rfl

@[simp] theorem SideState.paired_twin (s : SideState) (m : Master) (key : Nat) (v : Word) : (s.paired m key v).twin = s.twin :=
  (s.paired_only m key v).part .twin rfl

@[simp] theorem SideState.paired_net (s : SideState) (m : Master) (key : Nat) (v : Word) : (s.paired m key v).net = s.net :=
  (s.paired_only m key v).part .net rfl

@[simp] theorem SideState.paired_time (s : SideState) (m : Master) (key : Nat) (v : Word) : (s.paired m key v).time = s.time :=
  (s.paired_only m key v).part .time rfl

@[simp] theorem SideState.paired_therm (s : SideState) (m : Master) (key : Nat) (v : Word) : (s.paired m key v).therm = s.therm :=
  (s.paired_only m key v).part .therm rfl

@[simp] theorem SideState.paired_nvm (s : SideState) (m : Master) (key : Nat) (v : Word) : (s.paired m key v).nvm = s.nvm :=
  (s.paired_only m key v).part .nvm rfl

@[simp] theorem SideState.paired_power (s : SideState) (m : Master) (key : Nat) (v : Word) : (s.paired m key v).power = s.power :=
  (s.paired_only m key v).part .power rfl

@[simp] theorem SideState.paired_rigImage (s : SideState) (m : Master) (key : Nat) (v : Word) : (s.paired m key v).rigImage = s.rigImage :=
  (s.paired_only m key v).part .rigImage rfl

@[simp] theorem SideState.paired_free (s : SideState) (m : Master) (key : Nat) (v : Word) : (s.paired m key v).free = s.free :=
  (s.paired_only m key v).part .free rfl

@[simp] theorem SideState.paired_tap (s : SideState) (m : Master) (key : Nat) (v : Word) : (s.paired m key v).tap = s.tap := by
  have h := (s.paired_only m key v).part .tap rfl
  simp only [SideState.sameIn, Prod.mk.injEq] at h
  exact h.1

@[simp] theorem SideState.paired_beatNo (s : SideState) (m : Master) (key : Nat) (v : Word) : (s.paired m key v).beatNo = s.beatNo := by
  have h := (s.paired_only m key v).part .clock rfl
  simp only [SideState.sameIn, Prod.mk.injEq] at h
  exact h.1

@[simp] theorem SideState.paired_produced (s : SideState) (m : Master) (key : Nat) (v : Word) : (s.paired m key v).produced = s.produced := by
  have h := (s.paired_only m key v).part .clock rfl
  simp only [SideState.sameIn, Prod.mk.injEq] at h
  exact h.2.1

@[simp] theorem SideState.paired_win (s : SideState) (m : Master) (key : Nat) (v : Word) : (s.paired m key v).win = s.win := by
  have h := (s.paired_only m key v).part .clock rfl
  simp only [SideState.sameIn, Prod.mk.injEq] at h
  exact h.2.2

@[simp] theorem SideState.paired_fault (s : SideState) (m : Master) (key : Nat) (v : Word) : (s.paired m key v).fault = s.fault :=
  FaultState.eq_of_core ((s.paired_only m key v).part .fault rfl) ((s.paired_only m key v).part .lines rfl)

end Sys2Proof.Machine
end

