-- ==== Sys2Proof/Laws/Tables.lean ====
section
/-! SUPPORT. What each operation of Machine/Tables.lean keeps. -/

set_option Elab.async false

namespace Sys2Proof.Machine

theorem SideState.scrubWords_keeps (s : SideState) (l : List Nat) : Keeps (some [0x06]) [.ecc, .perf] s (SideState.scrubWords s l) := by
  unfold SideState.scrubWords
  try dsimp only
  repeat' first
    | with_reducible apply Keeps.self
    | with_reducible assumption
    | with_reducible apply Keeps.step (SideState.count_keeps _ _ _)
    | exact rfl
    | with_reducible apply Keeps.parts
    | (refine fun (p : Part) hp => ?_; cases p <;> first | exact absurd hp (by decide) | simp only [SideState.sameIn])

theorem SideState.scrubRange_keeps (s : SideState) (addr n : Nat) : Keeps (some [0x06]) [.ecc, .perf] s (SideState.scrubRange s addr n) := by
  unfold SideState.scrubRange
  try dsimp only
  repeat' first
    | with_reducible apply Keeps.self
    | with_reducible assumption
    | with_reducible apply Keeps.step (SideState.scrubWords_keeps _ _)
    | exact rfl

theorem SideState.reCheck_keeps (s : SideState) (n : Nat) : Keeps (some []) [.mem, .ecc] s (SideState.reCheck s n) := by
  unfold SideState.reCheck
  try dsimp only
  repeat' first
    | with_reducible apply Keeps.self
    | with_reducible assumption
    | with_reducible apply Keeps.step (SideState.wr_keeps _ _ _ _)
    | exact rfl

theorem SideState.setFlags_keeps (s : SideState) (n flags : Nat) : Keeps (some []) [.mem, .ecc] s (SideState.setFlags s n flags) := by
  unfold SideState.setFlags
  try dsimp only
  repeat' first
    | with_reducible apply Keeps.self
    | with_reducible assumption
    | with_reducible apply Keeps.step (SideState.wr_keeps _ _ _ _)
    | with_reducible apply Keeps.step (SideState.reCheck_keeps _ _)
    | exact rfl

theorem SideState.setFlag_keeps (s : SideState) (n flag : Nat) (b : Bool) : Keeps (some []) [.mem, .ecc] s (SideState.setFlag s n flag b) := by
  unfold SideState.setFlag
  try dsimp only
  repeat' first
    | with_reducible apply Keeps.self
    | with_reducible assumption
    | with_reducible apply Keeps.ite
    | with_reducible apply Keeps.step (SideState.setFlags_keeps _ _ _)
    | exact rfl

theorem SideState.writeCells_keeps (s : SideState) (n : Nat) (cells : List Nat) : Keeps (some []) [.mem, .ecc] s (SideState.writeCells s n cells) := by
  unfold SideState.writeCells
  try dsimp only
  repeat' first
    | with_reducible apply Keeps.self
    | with_reducible assumption
    | with_reducible apply Keeps.step (SideState.wrBytes_keeps _ _ _)
    | exact rfl

theorem SideState.writeScene_keeps (s : SideState) (n id flags : Nat) (conns : List Conn) : Keeps (some []) [.mem, .ecc] s (SideState.writeScene s n id flags conns) := by
  unfold SideState.writeScene
  try dsimp only
  repeat' first
    | with_reducible apply Keeps.self
    | with_reducible assumption
    | with_reducible apply Keeps.step (SideState.wr_keeps _ _ _ _)
    | with_reducible apply Keeps.step (SideState.wrBytes_keeps _ _ _)
    | with_reducible apply Keeps.step (SideState.reCheck_keeps _ _)
    | exact rfl

end Sys2Proof.Machine
end

