-- ==== Sys2Proof/Laws/Faults.lean ====
section
/-! SUPPORT. What each operation of Machine/Faults.lean keeps. -/

set_option Elab.async false

namespace Sys2Proof.Machine

theorem SideState.eccError_keeps (s : SideState) (f : Fld) (src addr m : Nat) : Keeps none [.pairs, .twin, .fault, .perf] s (SideState.eccError s f src addr m) := by
  unfold SideState.eccError
  try dsimp only
  repeat' first
    | with_reducible apply Keeps.self
    | with_reducible assumption
    | with_reducible apply Keeps.bump
    | with_reducible apply Keeps.evt
    | with_reducible apply Keeps.step (SideState.raise_keeps _ _)
    | with_reducible apply Keeps.errorResponse
    | exact rfl

theorem SideState.eccCorrected_keeps (s : SideState) (f : Fld) : Keeps none [.perf] s (SideState.eccCorrected s f) := by
  unfold SideState.eccCorrected
  try dsimp only
  repeat' first
    | with_reducible apply Keeps.self
    | with_reducible assumption
    | with_reducible apply Keeps.bump
    | with_reducible apply Keeps.evt
    | with_reducible apply Keeps.step (SideState.count_keeps _ _ _)
    | exact rfl

theorem SideState.hardWord_keeps (s : SideState) (a : Nat) : Keeps (some []) [.mem, .ecc] s (SideState.hardWord s a) := by
  unfold SideState.hardWord
  try dsimp only
  repeat' first
    | with_reducible apply Keeps.self
    | with_reducible assumption
    | exact rfl
    | with_reducible apply Keeps.parts
    | (refine fun (p : Part) hp => ?_; cases p <;> first | exact absurd hp (by decide) | simp only [SideState.sameIn])

theorem SideState.tableError_keeps (s : SideState) (point : Nat) (check : CheckOutcome) : Keeps none [.pairs, .mem, .ecc, .twin, .fault, .perf] s (SideState.tableError s point check) := by
  unfold SideState.tableError
  try dsimp only
  repeat' first
    | with_reducible apply Keeps.self
    | with_reducible assumption
    | with_reducible apply Keeps.ite
    | with_reducible apply Keeps.step (SideState.hardWord_keeps _ _)
    | with_reducible apply Keeps.step (SideState.owe_keeps _ _)
    | with_reducible apply Keeps.step (SideState.eccError_keeps _ _ _ _ _)
    | exact rfl
    | with_reducible apply Keeps.parts
    | (refine fun (p : Part) hp => ?_; cases p <;> first | exact absurd hp (by decide) | simp only [SideState.sameIn])

theorem SideState.lostFlit_keeps (s : SideState) : Keeps (some [0x06, 0x08]) [.perf] s (SideState.lostFlit s) := by
  unfold SideState.lostFlit
  try dsimp only
  repeat' first
    | with_reducible apply Keeps.self
    | with_reducible assumption
    | with_reducible apply Keeps.bump
    | with_reducible apply Keeps.step (SideState.count_keeps _ _ _)
    | exact rfl

theorem SideState.lostRecord_keeps (s : SideState) (place : Nat) : Keeps (some []) [.twin] s (SideState.lostRecord s place) := by
  unfold SideState.lostRecord
  try dsimp only
  repeat' first
    | with_reducible apply Keeps.self
    | with_reducible assumption
    | with_reducible apply Keeps.ite
    | exact rfl
    | with_reducible apply Keeps.parts
    | (refine fun (p : Part) hp => ?_; cases p <;> first | exact absurd hp (by decide) | simp only [SideState.sameIn])

theorem SideState.showSupply_keeps (s : SideState) (source : Nat) (good : Bool) : Keeps (some [0x01]) [] s (SideState.showSupply s source good) := by
  unfold SideState.showSupply
  try dsimp only
  repeat' first
    | with_reducible apply Keeps.self
    | with_reducible assumption
    | with_reducible apply Keeps.ite
    | with_reducible apply Keeps.setB
    | with_reducible apply Keeps.evt
    | exact rfl
    | split

theorem SideState.sceneOverrun_keeps (s : SideState) : Keeps (some [0x0B]) [.hostWrites, .cal] s (SideState.sceneOverrun s) := by
  unfold SideState.sceneOverrun
  try dsimp only
  repeat' first
    | with_reducible apply Keeps.self
    | with_reducible assumption
    | with_reducible apply Keeps.ite
    | with_reducible apply Keeps.bump
    | with_reducible apply Keeps.evt
    | exact rfl
    | with_reducible apply Keeps.parts
    | (refine fun (p : Part) hp => ?_; cases p <;> first | exact absurd hp (by decide) | simp only [SideState.sameIn])

theorem SideState.faultEvent_keeps (s : SideState) (source point : Nat) (check : CheckOutcome) : Keeps none [.pairs, .mem, .ecc, .hostWrites, .cal, .twin, .fault, .perf] s (SideState.faultEvent s source point check) := by
  unfold SideState.faultEvent
  try dsimp only
  repeat' first
    | with_reducible apply Keeps.self
    | with_reducible assumption
    | with_reducible apply Keeps.ite
    | with_reducible apply Keeps.step (SideState.tableError_keeps _ _ _)
    | with_reducible apply Keeps.step (SideState.showSupply_keeps _ _ _)
    | with_reducible apply Keeps.step (SideState.sceneOverrun_keeps _)
    | with_reducible apply Keeps.step (SideState.lostFlit_keeps _)
    | with_reducible apply Keeps.step (SideState.lostRecord_keeps _ _)
    | with_reducible apply Keeps.step (SideState.raiseIf_keeps _ _ _)
    | with_reducible apply Keeps.step (SideState.consumeInjection_keeps _ _)
    | with_reducible apply Keeps.step (SideState.raise_keeps _ _)
    | with_reducible apply Keeps.step (SideState.injected_keeps _ _ _)
    | exact rfl
    | split

theorem SideState.writeClassMap_keeps (s : SideState) (m : Master) (v : Word) : Keeps (some [0x02, 0x03, 0x05, 0x06, 0x08, 0x09, 0x10, 0x14]) [.pairs, .twin, .fault, .perf] s (SideState.writeClassMap s m v) := by
  unfold SideState.writeClassMap
  try dsimp only
  repeat' first
    | with_reducible apply Keeps.self
    | with_reducible assumption
    | with_reducible apply Keeps.ite
    | with_reducible apply Keeps.set
    | with_reducible apply Keeps.step (SideState.agree_keeps _ _)
    | exact rfl
    | (simp only [pageOf_whole, pageOf_bank]; exact rfl)
    | with_reducible apply Keeps.ignored
    | with_reducible apply Keeps.parts
    | (refine fun (p : Part) hp => ?_; cases p <;> first | exact absurd hp (by decide) | simp only [SideState.sameIn])

theorem SideState.releaseMajor_keeps (s : SideState) : Keeps (some [0x03]) [.fault] s (SideState.releaseMajor s) := by
  unfold SideState.releaseMajor
  try dsimp only
  repeat' first
    | with_reducible apply Keeps.self
    | with_reducible assumption
    | with_reducible apply Keeps.ite
    | with_reducible apply Keeps.set
    | with_reducible apply Keeps.evt
    | exact rfl
    | split
    | with_reducible apply Keeps.parts
    | (refine fun (p : Part) hp => ?_; cases p <;> first | exact absurd hp (by decide) | simp only [SideState.sameIn])

theorem SideState.endMajor_keeps (s : SideState) : Keeps (some [0x03]) [.twin, .fault] s (SideState.endMajor s) := by
  unfold SideState.endMajor
  try dsimp only
  repeat' first
    | with_reducible apply Keeps.self
    | with_reducible assumption
    | with_reducible apply Keeps.ite
    | with_reducible apply Keeps.set
    | with_reducible apply Keeps.evt
    | with_reducible apply Keeps.step (SideState.closeWindow_keeps _ _)
    | with_reducible apply Keeps.foldl
    | exact rfl
    | with_reducible apply Keeps.parts
    | (refine fun (p : Part) hp => ?_; cases p <;> first | exact absurd hp (by decide) | simp only [SideState.sameIn])
    | intro _ _ _

theorem SideState.classMapInForce_keeps (s : SideState) : Keeps (some [0x03]) [.fault] s (SideState.classMapInForce s) := by
  unfold SideState.classMapInForce
  try dsimp only
  repeat' first
    | with_reducible apply Keeps.self
    | with_reducible assumption
    | with_reducible apply Keeps.ite
    | with_reducible apply Keeps.evt
    | with_reducible apply Keeps.step (SideState.closeWindow_keeps _ _)
    | with_reducible apply Keeps.foldl
    | exact rfl
    | with_reducible apply Keeps.parts
    | (refine fun (p : Part) hp => ?_; cases p <;> first | exact absurd hp (by decide) | simp only [SideState.sameIn])
    | intro _ _ _

theorem SideState.ageWindows_keeps (s : SideState) : Keeps (some []) [.fault] s (SideState.ageWindows s) := by
  unfold SideState.ageWindows
  try dsimp only
  repeat' first
    | with_reducible apply Keeps.self
    | with_reducible assumption
    | exact rfl
    | with_reducible apply Keeps.parts
    | (refine fun (p : Part) hp => ?_; cases p <;> first | exact absurd hp (by decide) | simp only [SideState.sameIn])

theorem SideState.armInjection_keeps (s : SideState) (v : Nat) : Keeps (some [0x03, 0x05, 0x06, 0x08, 0x09, 0x10, 0x14]) [.twin, .fault, .perf] s (SideState.armInjection s v) := by
  unfold SideState.armInjection
  try dsimp only
  repeat' first
    | with_reducible apply Keeps.self
    | with_reducible assumption
    | with_reducible apply Keeps.ite
    | with_reducible apply Keeps.set
    | with_reducible apply KeepsP.step (SideState.react_keeps _ _ _)
    | exact rfl
    | with_reducible apply Keeps.step (KeepsP.fst (SideState.react_keeps _ _ _))
    | with_reducible apply Keeps.step (KeepsP.of_eq (SideState.react_keeps _ _ _) (by assumption))
    | split
    | with_reducible apply Keeps.parts
    | (refine fun (p : Part) hp => ?_; cases p <;> first | exact absurd hp (by decide) | simp only [SideState.sameIn])

end Sys2Proof.Machine
end

