-- ==== Sys2Proof/Laws/Interconnect.lean ====
section
/-! SUPPORT. What each operation of Machine/Interconnect.lean keeps. -/

set_option Elab.async false

namespace Sys2Proof.Machine

theorem SideState.agePairs_keeps (s : SideState) : Keeps none [] s (SideState.agePairs s) := by
  unfold SideState.agePairs
  try dsimp only
  repeat' first
    | with_reducible apply Keeps.self
    | with_reducible assumption
    | with_reducible apply Keeps.set
    | with_reducible apply Keeps.foldl
    | exact rfl
    | with_reducible apply Keeps.parts
    | intro _ _ _

theorem SideState.readLive_keeps (s : SideState) (shadow : Nat) : Keeps (some []) [.readBack, .perf] s (SideState.readLive s shadow) := by
  unfold SideState.readLive
  try dsimp only
  repeat' first
    | with_reducible apply Keeps.self
    | with_reducible assumption
    | exact rfl
    | with_reducible apply Keeps.parts
    | (refine fun (p : Part) hp => ?_; cases p <;> first | exact absurd hp (by decide) | simp only [SideState.sameIn])

theorem SideState.dumpWrite_keeps (s : SideState) (a : Nat) (b : List Byte) : Keeps none [.mem, .ecc, .twin, .fault, .perf] s (SideState.dumpWrite s a b) := by
  unfold SideState.dumpWrite
  try dsimp only
  repeat' first
    | with_reducible apply Keeps.self
    | with_reducible assumption
    | with_reducible apply Keeps.step (SideState.engineWrite_keeps _ _ _ _)
    | exact rfl
    | with_reducible apply Keeps.accessError

end Sys2Proof.Machine
end

