-- ==== Sys2Proof/Laws/Management.lean ====
section
/-! SUPPORT. What each operation of Machine/Management.lean keeps. -/

set_option Elab.async false

namespace Sys2Proof.Machine

theorem SideState.eraseNvm_keeps (s : SideState) (a n : Nat) : Keeps (some []) [.mem] s (s.eraseNvm a n) := by
  refine ⟨rfl, fun k _ => rfl, fun p hp => ?_, fun hc => ?_⟩
  · cases p <;> first | exact absurd hp (by decide) | simp only [SideState.sameIn, SideState.eraseNvm]
  · rw [canonical_iff] at hc ⊢
    exact ⟨hc.1, Store.wf_filterKeys memDefault _ (fun c => !(Nat.ble a c && Nat.blt c (a + n))) hc.2⟩

theorem SideState.writeRecord_keeps (s : SideState) (area : Nat × Nat) (payload : List Byte) : Keeps (some [0x06]) [.mem, .ecc, .perf] s (SideState.writeRecord s area payload) := by
  unfold SideState.writeRecord
  try dsimp only
  repeat' first
    | with_reducible apply Keeps.self
    | with_reducible assumption
    | with_reducible apply Keeps.ite
    | with_reducible apply Keeps.step (SideState.eraseNvm_keeps _ _ _)
    | with_reducible apply Keeps.step (SideState.wrBytes_keeps _ _ _)
    | with_reducible apply Keeps.step (SideState.count_keeps _ _ _)
    | exact rfl
    | split

theorem SideState.startRecord_keeps (s : SideState) (w : RecordWrite) (isOpen : Bool) : Keeps (some [0x0F]) [.nvm] s (SideState.startRecord s w isOpen) := by
  unfold SideState.startRecord
  try dsimp only
  repeat' first
    | with_reducible apply Keeps.self
    | with_reducible assumption
    | with_reducible apply Keeps.ite
    | with_reducible apply Keeps.set
    | exact rfl
    | with_reducible apply Keeps.parts
    | (refine fun (p : Part) hp => ?_; cases p <;> first | exact absurd hp (by decide) | simp only [SideState.sameIn])

theorem SideState.eraseRun_keeps (s : SideState) (r : NvmRun) : Keeps (some []) [.mem, .nvm] s (SideState.eraseRun s r) := by
  unfold SideState.eraseRun
  try dsimp only
  repeat' first
    | with_reducible apply Keeps.self
    | with_reducible assumption
    | with_reducible apply Keeps.ite
    | with_reducible apply Keeps.step (SideState.eraseNvm_keeps _ _ _)
    | exact rfl
    | with_reducible apply Keeps.parts
    | (refine fun (p : Part) hp => ?_; cases p <;> first | exact absurd hp (by decide) | simp only [SideState.sameIn])

theorem SideState.programPages_keeps (s : SideState) (r : NvmRun) (n : Nat) : Keeps (some [0x05, 0x06]) [.mem, .ecc, .perf, .nvm] s (SideState.programPages s r n) := by
  unfold SideState.programPages
  try dsimp only
  repeat' first
    | with_reducible apply Keeps.self
    | with_reducible assumption
    | with_reducible apply Keeps.set
    | with_reducible apply Keeps.step (SideState.wrBytes_keeps _ _ _)
    | with_reducible apply Keeps.step (SideState.count_keeps _ _ _)
    | exact rfl
    | with_reducible apply Keeps.parts
    | (refine fun (p : Part) hp => ?_; cases p <;> first | exact absurd hp (by decide) | simp only [SideState.sameIn])

theorem SideState.pauseProgram_keeps (s : SideState) : Keeps (some [0x05, 0x06]) [.mem, .ecc, .perf, .nvm] s (SideState.pauseProgram s) := by
  unfold SideState.pauseProgram
  try dsimp only
  repeat' first
    | with_reducible apply Keeps.self
    | with_reducible assumption
    | with_reducible apply Keeps.ite
    | with_reducible apply Keeps.set
    | with_reducible apply Keeps.step (SideState.programPages_keeps _ _ _)
    | exact rfl
    | split

theorem SideState.resumeProgram_keeps (s : SideState) : Keeps (some [0x05]) [.mem, .nvm] s (SideState.resumeProgram s) := by
  unfold SideState.resumeProgram
  try dsimp only
  repeat' first
    | with_reducible apply Keeps.self
    | with_reducible assumption
    | with_reducible apply Keeps.ite
    | with_reducible apply Keeps.set
    | with_reducible apply Keeps.step (SideState.eraseRun_keeps _ _)
    | exact rfl
    | split

theorem SideState.directoryWritten_keeps (s : SideState) : Keeps (some [0x06]) [.mem, .ecc, .perf, .nvm] s (SideState.directoryWritten s) := by
  unfold SideState.directoryWritten
  try dsimp only
  repeat' first
    | with_reducible apply Keeps.self
    | with_reducible assumption
    | with_reducible apply Keeps.step (SideState.writeRecord_keeps _ _ _)
    | exact rfl
    | split
    | with_reducible apply Keeps.parts
    | (refine fun (p : Part) hp => ?_; cases p <;> first | exact absurd hp (by decide) | simp only [SideState.sameIn])

theorem SideState.startProgram_keeps (s : SideState) : Keeps (some [0x05]) [.mem, .nvm] s (SideState.startProgram s) := by
  unfold SideState.startProgram
  try dsimp only
  repeat' first
    | with_reducible apply Keeps.self
    | with_reducible assumption
    | with_reducible apply Keeps.ite
    | with_reducible apply Keeps.set
    | with_reducible apply Keeps.step (SideState.resumeProgram_keeps _)
    | exact rfl
    | with_reducible apply Keeps.parts
    | (refine fun (p : Part) hp => ?_; cases p <;> first | exact absurd hp (by decide) | simp only [SideState.sameIn])

theorem SideState.programEntry_keeps (s : SideState) (e : List Byte) : Keeps (some [0x05, 0x06]) [.mem, .ecc, .perf] s (SideState.programEntry s e) := by
  unfold SideState.programEntry
  try dsimp only
  repeat' first
    | with_reducible apply Keeps.self
    | with_reducible assumption
    | with_reducible apply Keeps.ite
    | with_reducible apply Keeps.set
    | with_reducible apply Keeps.step (SideState.wrBytes_keeps _ _ _)
    | with_reducible apply Keeps.step (SideState.count_keeps _ _ _)
    | with_reducible apply Keeps.step (SideState.eraseNvm_keeps _ _ _)
    | exact rfl

theorem SideState.readModule_keeps (s : SideState) (reads : List ModuleRead) (all : Bool) (m : Nat) : Keeps (some [0x03, 0x05, 0x06, 0x08, 0x09, 0x0F, 0x10, 0x14]) [.twin, .fault, .perf, .nvm] s (SideState.readModule s reads all m) := by
  unfold SideState.readModule
  try dsimp only
  repeat' first
    | with_reducible apply Keeps.self
    | with_reducible assumption
    | with_reducible apply Keeps.ite
    | with_reducible apply Keeps.set
    | with_reducible apply Keeps.step (SideState.raise_keeps _ _)
    | exact rfl
    | (dsimp only; exact rfl)
    | split
    | with_reducible apply Keeps.parts
    | (refine fun (p : Part) hp => ?_; cases p <;> first | exact absurd hp (by decide) | simp only [SideState.sameIn])

theorem SideState.storeBlock_keeps (s : SideState) (p : List Byte) : Keeps (some [0x07]) [.mem, .ecc, .off, .net] s (SideState.storeBlock s p) := by
  unfold SideState.storeBlock
  try dsimp only
  repeat' first
    | with_reducible apply Keeps.self
    | with_reducible assumption
    | with_reducible apply Keeps.set
    | with_reducible apply Keeps.step (SideState.wrBytes_keeps _ _ _)
    | exact rfl
    | with_reducible apply Keeps.parts
    | (refine fun (p : Part) hp => ?_; cases p <;> first | exact absurd hp (by decide) | simp only [SideState.sameIn])

theorem SideState.takeImageFrame_keeps (s : SideState) (p : List Byte) : KeepsP (some [0x07]) [.mem, .ecc, .off, .net] s (SideState.takeImageFrame s p) := by
  unfold SideState.takeImageFrame
  try dsimp only
  repeat' first
    | with_reducible apply Keeps.self
    | with_reducible assumption
    | with_reducible apply Keeps.ite
    | with_reducible apply KeepsP.ite
    | with_reducible apply Keeps.set
    | with_reducible apply Keeps.evt
    | with_reducible apply Keeps.step (SideState.storeBlock_keeps _ _)
    | with_reducible apply KeepsP.mk
    | exact rfl
    | split
    | with_reducible apply Keeps.parts
    | (refine fun (p : Part) hp => ?_; cases p <;> first | exact absurd hp (by decide) | simp only [SideState.sameIn])

end Sys2Proof.Machine
end

