-- ==== Sys2Proof/Laws/Drive.lean ====
section
/-! SUPPORT. What each operation of Machine/Drive.lean keeps. -/

set_option Elab.async false

namespace Sys2Proof.Machine

theorem SideState.groupEvt_keeps (s : SideState) (g : Nat) : Keeps (some [0x20, 0x21, 0x22, 0x23, 0x24, 0x25, 0x26, 0x27, 0x28, 0x29]) [] s (SideState.groupEvt s g) := by
  unfold SideState.groupEvt
  try dsimp only
  repeat' first
    | with_reducible apply Keeps.self
    | with_reducible assumption
    | with_reducible apply Keeps.evt
    | exact rfl
    | exact onPages_driveEvt rfl

theorem SideState.putBase_keeps (s : SideState) (d v : Nat) : Keeps (some []) [.drive] s (SideState.putBase s d v) := by
  unfold SideState.putBase
  try dsimp only
  repeat' first
    | with_reducible apply Keeps.self
    | with_reducible assumption
    | exact rfl
    | with_reducible apply Keeps.parts
    | (refine fun (p : Part) hp => ?_; cases p <;> first | exact absurd hp (by decide) | simp only [SideState.sameIn])

theorem SideState.writeBase_keeps (s : SideState) (d v : Nat) : Keeps (some []) [.drive, .twin] s (SideState.writeBase s d v) := by
  unfold SideState.writeBase
  try dsimp only
  repeat' first
    | with_reducible apply Keeps.self
    | with_reducible assumption
    | with_reducible apply Keeps.ite
    | with_reducible apply Keeps.step (SideState.putBase_keeps _ _ _)
    | with_reducible apply Keeps.step (SideState.emit_keeps _ _)
    | exact rfl

theorem SideState.withdrawDo_keeps (s : SideState) (d : Nat) : Keeps (some []) [.twin] s (SideState.withdrawDo s d) := by
  unfold SideState.withdrawDo
  try dsimp only
  repeat' first
    | with_reducible apply Keeps.self
    | with_reducible assumption
    | with_reducible apply Keeps.ite
    | with_reducible apply Keeps.step (SideState.emit_keeps _ _)
    | exact rfl
    | with_reducible apply Keeps.parts
    | (refine fun (p : Part) hp => ?_; cases p <;> first | exact absurd hp (by decide) | simp only [SideState.sameIn])

theorem SideState.setOwn_keeps (s : SideState) (d : Nat) (o : Own) : Keeps (some []) [.drive, .twin] s (SideState.setOwn s d o) := by
  unfold SideState.setOwn
  try dsimp only
  repeat' first
    | with_reducible apply Keeps.self
    | with_reducible assumption
    | with_reducible apply Keeps.ite
    | with_reducible apply Keeps.step (SideState.emit_keeps _ _)
    | with_reducible apply Keeps.step (SideState.writeBase_keeps _ _ _)
    | exact rfl
    | with_reducible apply Keeps.parts
    | (refine fun (p : Part) hp => ?_; cases p <;> first | exact absurd hp (by decide) | simp only [SideState.sameIn])

theorem SideState.foreign_keeps (s : SideState) (d : Nat) : Keeps (some [0x03, 0x05, 0x06, 0x08, 0x09, 0x10, 0x14, 0x20, 0x21, 0x22, 0x23, 0x24, 0x25, 0x26, 0x27, 0x28, 0x29]) [.twin, .fault, .perf] s (SideState.foreign s d) := by
  unfold SideState.foreign
  try dsimp only
  repeat' first
    | with_reducible apply Keeps.self
    | with_reducible assumption
    | with_reducible apply Keeps.bump
    | with_reducible apply Keeps.evt
    | with_reducible apply Keeps.step (SideState.count_keeps _ _ _)
    | with_reducible apply Keeps.step (SideState.raise_keeps _ _)
    | with_reducible apply Keeps.step (SideState.groupEvt_keeps _ _)
    | exact rfl
    | exact onPages_driveGroup rfl (by decide) (by decide)

theorem SideState.apply_keeps (s : SideState) (d v : Nat) (writer : Own) : Keeps (some [0x03, 0x05, 0x06, 0x08, 0x09, 0x10, 0x14, 0x20, 0x21, 0x22, 0x23, 0x24, 0x25, 0x26, 0x27, 0x28, 0x29]) [.drive, .twin, .fault, .perf] s (SideState.apply s d v writer) := by
  unfold SideState.apply
  try dsimp only
  repeat' first
    | with_reducible apply Keeps.self
    | with_reducible assumption
    | with_reducible apply Keeps.ite
    | with_reducible apply Keeps.step (SideState.foreign_keeps _ _)
    | with_reducible apply Keeps.step (SideState.writeBase_keeps _ _ _)
    | exact rfl

theorem SideState.stage_keeps (s : SideState) (d v : Nat) (writer : Own) : Keeps (some []) [.drive, .twin] s (SideState.stage s d v writer) := by
  unfold SideState.stage
  try dsimp only
  repeat' first
    | with_reducible apply Keeps.self
    | with_reducible assumption
    | with_reducible apply Keeps.ite
    | with_reducible apply Keeps.step (SideState.emit_keeps _ _)
    | exact rfl
    | with_reducible apply Keeps.parts
    | (refine fun (p : Part) hp => ?_; cases p <;> first | exact absurd hp (by decide) | simp only [SideState.sameIn])

theorem SideState.applyStaged_keeps (s : SideState) : Keeps (some [0x03, 0x05, 0x06, 0x08, 0x09, 0x10, 0x14, 0x20, 0x21, 0x22, 0x23, 0x24, 0x25, 0x26, 0x27, 0x28, 0x29]) [.drive, .twin, .fault, .perf] s (SideState.applyStaged s) := by
  unfold SideState.applyStaged
  try dsimp only
  repeat' first
    | with_reducible apply Keeps.self
    | with_reducible assumption
    | with_reducible apply Keeps.ite
    | with_reducible apply Keeps.step (SideState.emit_keeps _ _)
    | with_reducible apply Keeps.step (SideState.putBase_keeps _ _ _)
    | with_reducible apply Keeps.step (SideState.count_keeps _ _ _)
    | with_reducible apply Keeps.step (SideState.foreign_keeps _ _)
    | with_reducible apply Keeps.foldl
    | exact rfl
    | with_reducible apply Keeps.parts
    | (refine fun (p : Part) hp => ?_; cases p <;> first | exact absurd hp (by decide) | simp only [SideState.sameIn])
    | intro _ _ _

theorem SideState.emitPhase_keeps (s : SideState) (g : Nat) (t : ToneGen) (commit : Bool) : Keeps (some []) [.twin] s (SideState.emitPhase s g t commit) := by
  unfold SideState.emitPhase
  try dsimp only
  repeat' first
    | with_reducible apply Keeps.self
    | with_reducible assumption
    | with_reducible apply Keeps.ite
    | with_reducible apply Keeps.step (SideState.emit_keeps _ _)
    | exact rfl

theorem SideState.tonePhases_keeps (s : SideState) : Keeps (some []) [.drive, .twin] s (SideState.tonePhases s) := by
  unfold SideState.tonePhases
  try dsimp only
  repeat' first
    | with_reducible apply Keeps.self
    | with_reducible assumption
    | with_reducible apply Keeps.ite
    | with_reducible apply Keeps.step (SideState.emitPhase_keeps _ _ _ _)
    | with_reducible apply Keeps.foldl
    | exact rfl
    | with_reducible apply Keeps.parts
    | (refine fun (p : Part) hp => ?_; cases p <;> first | exact absurd hp (by decide) | simp only [SideState.sameIn])
    | intro _ _ _

theorem SideState.schemesInForce_keeps (s : SideState) : Keeps (some [0x20, 0x21, 0x22, 0x23, 0x24, 0x25, 0x26, 0x27, 0x28, 0x29]) [.drive] s (SideState.schemesInForce s) := by
  unfold SideState.schemesInForce
  try dsimp only
  repeat' first
    | with_reducible apply Keeps.self
    | with_reducible assumption
    | with_reducible apply Keeps.ite
    | with_reducible apply Keeps.set
    | with_reducible apply Keeps.foldl
    | exact rfl
    | exact onPages_driveGroup rfl (by decide) (by decide)
    | with_reducible apply Keeps.parts
    | (refine fun (p : Part) hp => ?_; cases p <;> first | exact absurd hp (by decide) | simp only [SideState.sameIn])
    | intro _ _ _

theorem SideState.takeTone_keeps (s : SideState) (g : Nat) : Keeps (some [0x12]) [.drive] s (SideState.takeTone s g) := by
  unfold SideState.takeTone
  try dsimp only
  repeat' first
    | with_reducible apply Keeps.self
    | with_reducible assumption
    | with_reducible apply Keeps.set
    | exact rfl
    | (simp only [pageOf_bank]; exact rfl)
    | with_reducible apply Keeps.parts
    | (refine fun (p : Part) hp => ?_; cases p <;> first | exact absurd hp (by decide) | simp only [SideState.sameIn])

theorem SideState.emitTone_keeps (s : SideState) (g : Nat) (t : ToneGen) : Keeps (some []) [.twin] s (SideState.emitTone s g t) := by
  unfold SideState.emitTone
  try dsimp only
  repeat' first
    | with_reducible apply Keeps.self
    | with_reducible assumption
    | with_reducible apply Keeps.step (SideState.emit_keeps _ _)
    | exact rfl

theorem SideState.commitTone_keeps (s : SideState) (g : Nat) : Keeps (some [0x03, 0x05, 0x06, 0x08, 0x09, 0x10, 0x12, 0x14]) [.drive, .twin, .fault, .perf] s (SideState.commitTone s g) := by
  unfold SideState.commitTone
  try dsimp only
  repeat' first
    | with_reducible apply Keeps.self
    | with_reducible assumption
    | with_reducible apply Keeps.ite
    | with_reducible apply Keeps.set
    | with_reducible apply Keeps.evt
    | with_reducible apply Keeps.step (SideState.raise_keeps _ _)
    | with_reducible apply Keeps.step (SideState.takeTone_keeps _ _)
    | with_reducible apply Keeps.step (SideState.emitTone_keeps _ _ _)
    | exact rfl
    | (simp only [pageOf_bank]; exact rfl)

theorem SideState.pushFifo_keeps (s : SideState) (group : Nat) (v : Word) : Keeps (some [0x03, 0x05, 0x06, 0x08, 0x09, 0x10, 0x14, 0x20, 0x21, 0x22, 0x23, 0x24, 0x25, 0x26, 0x27, 0x28, 0x29]) [.drive, .twin, .fault, .perf] s (SideState.pushFifo s group v) := by
  unfold SideState.pushFifo
  try dsimp only
  repeat' first
    | with_reducible apply Keeps.self
    | with_reducible assumption
    | with_reducible apply Keeps.ite
    | with_reducible apply Keeps.set
    | with_reducible apply Keeps.bump
    | with_reducible apply Keeps.step (SideState.groupEvt_keeps _ _)
    | with_reducible apply Keeps.step (SideState.raise_keeps _ _)
    | exact rfl
    | exact onPages_driveGroup rfl (by decide) (by decide)
    | with_reducible apply Keeps.parts
    | (refine fun (p : Part) hp => ?_; cases p <;> first | exact absurd hp (by decide) | simp only [SideState.sameIn])

theorem SideState.emitStaged_keeps (s : SideState) (g : Nat) : Keeps (some []) [.twin] s (SideState.emitStaged s g) := by
  unfold SideState.emitStaged
  try dsimp only
  repeat' first
    | with_reducible apply Keeps.self
    | with_reducible assumption
    | with_reducible apply Keeps.step (SideState.emit_keeps _ _)
    | exact rfl

theorem SideState.tonesAtBoundary_keeps (s : SideState) : Keeps (some [0x12]) [.drive, .twin] s (SideState.tonesAtBoundary s) := by
  unfold SideState.tonesAtBoundary
  try dsimp only
  repeat' first
    | with_reducible apply Keeps.self
    | with_reducible assumption
    | with_reducible apply Keeps.ite
    | with_reducible apply Keeps.setB
    | with_reducible apply Keeps.step (SideState.emitPhase_keeps _ _ _ _)
    | with_reducible apply Keeps.foldl
    | exact rfl
    | (simp only [pageOf_bank]; exact rfl)
    | split
    | with_reducible apply Keeps.parts
    | (refine fun (p : Part) hp => ?_; cases p <;> first | exact absurd hp (by decide) | simp only [SideState.sameIn])
    | intro _ _ _

theorem SideState.parkInForce_keeps (s : SideState) : Keeps (some [0x11]) [.drive, .twin] s (SideState.parkInForce s) := by
  unfold SideState.parkInForce
  try dsimp only
  repeat' first
    | with_reducible apply Keeps.self
    | with_reducible assumption
    | with_reducible apply Keeps.ite
    | with_reducible apply Keeps.set
    | with_reducible apply Keeps.evt
    | with_reducible apply Keeps.step (SideState.writeBase_keeps _ _ _)
    | with_reducible apply Keeps.foldl
    | exact rfl
    | with_reducible apply Keeps.parts
    | (refine fun (p : Part) hp => ?_; cases p <;> first | exact absurd hp (by decide) | simp only [SideState.sameIn])
    | intro _ _ _

theorem SideState.rangeStep_keeps (s : SideState) : Keeps (some [0x11]) [.mem, .ecc, .drive, .twin] s (SideState.rangeStep s) := by
  unfold SideState.rangeStep
  try dsimp only
  repeat' first
    | with_reducible apply Keeps.self
    | with_reducible assumption
    | with_reducible apply Keeps.ite
    | with_reducible apply Keeps.set
    | with_reducible apply Keeps.evt
    | with_reducible apply Keeps.step (SideState.tset_keeps _ _ _ _)
    | with_reducible apply Keeps.step (SideState.emitMem_keeps _ _ _)
    | with_reducible apply Keeps.step (SideState.emit_keeps _ _)
    | with_reducible apply Keeps.step (SideState.writeBase_keeps _ _ _)
    | exact rfl
    | split
    | with_reducible apply Keeps.parts
    | (refine fun (p : Part) hp => ?_; cases p <;> first | exact absurd hp (by decide) | simp only [SideState.sameIn])

theorem SideState.scanPins_keeps (s : SideState) : Keeps (some [0x13]) [.drive] s (SideState.scanPins s) := by
  unfold SideState.scanPins
  try dsimp only
  repeat' first
    | with_reducible apply Keeps.self
    | with_reducible assumption
    | with_reducible apply Keeps.ite
    | with_reducible apply Keeps.set
    | with_reducible apply Keeps.foldl
    | exact rfl
    | split
    | with_reducible apply Keeps.parts
    | (refine fun (p : Part) hp => ?_; cases p <;> first | exact absurd hp (by decide) | simp only [SideState.sameIn])
    | intro _ _ _

theorem SideState.isumCheck_keeps (s : SideState) : Keeps (some [0x03, 0x05, 0x06, 0x08, 0x09, 0x10, 0x14]) [.twin, .fault, .perf] s (SideState.isumCheck s) := by
  unfold SideState.isumCheck
  try dsimp only
  repeat' first
    | with_reducible apply Keeps.self
    | with_reducible assumption
    | with_reducible apply Keeps.ite
    | with_reducible apply Keeps.set
    | with_reducible apply Keeps.evt
    | with_reducible apply Keeps.step (SideState.raise_keeps _ _)
    | exact rfl

end Sys2Proof.Machine
end

