-- ==== Sys2Proof/Laws/Monitor.lean ====
section
/-! SUPPORT. What each operation of Machine/Monitor.lean keeps. -/

set_option Elab.async false

namespace Sys2Proof.Machine

theorem SideState.setChan_keeps (s : SideState) (mi : Nat) (f : Channel → Channel) : Keeps (some []) [.mon] s (SideState.setChan s mi f) := by
  unfold SideState.setChan
  try dsimp only
  repeat' first
    | with_reducible apply Keeps.self
    | with_reducible assumption
    | exact rfl
    | with_reducible apply Keeps.parts
    | (refine fun (p : Part) hp => ?_; cases p <;> first | exact absurd hp (by decide) | simp only [SideState.sameIn])

theorem SideState.monEvt_keeps (s : SideState) (g : Nat) : Keeps (some [0x2A, 0x2B, 0x2C, 0x2D, 0x2E, 0x2F]) [] s (SideState.monEvt s g) := by
  unfold SideState.monEvt
  try dsimp only
  repeat' first
    | with_reducible apply Keeps.self
    | with_reducible assumption
    | with_reducible apply Keeps.evt
    | exact rfl
    | exact onPages_monEvt rfl

theorem SideState.monCount_keeps (s : SideState) (f : Fld) (g : Nat) (h : 0x2A000 ≤ f.key) (h' : f.key < 0x2AE00) : Keeps (some [0x2A, 0x2B, 0x2C, 0x2D, 0x2E, 0x2F]) [] s (SideState.monCount s f g) := by
  unfold SideState.monCount
  try dsimp only
  repeat' first
    | with_reducible apply Keeps.self
    | with_reducible assumption
    | with_reducible apply Keeps.ite
    | with_reducible apply Keeps.bump
    | with_reducible apply Keeps.step (SideState.monEvt_keeps _ _)
    | exact rfl
    | exact onPages_monGroup rfl h h'

theorem SideState.monError_keeps (s : SideState) (f : Fld) (g : Nat) (bad : Bool) (h : 0x2A000 ≤ f.key) (h' : f.key < 0x2AE00) : Keeps (some [0x2A, 0x2B, 0x2C, 0x2D, 0x2E, 0x2F]) [] s (SideState.monError s f g bad) := by
  unfold SideState.monError
  try dsimp only
  repeat' first
    | with_reducible apply Keeps.self
    | with_reducible assumption
    | with_reducible apply Keeps.ite
    | with_reducible apply Keeps.setB
    | with_reducible apply Keeps.step (SideState.monEvt_keeps _ _)
    | exact rfl
    | exact onPages_monGroup rfl h h'

theorem SideState.initChannels_keeps (s : SideState) : Keeps (some []) [.mon] s (SideState.initChannels s) := by
  unfold SideState.initChannels
  try dsimp only
  repeat' first
    | with_reducible apply Keeps.self
    | with_reducible assumption
    | with_reducible apply Keeps.ite
    | exact rfl
    | with_reducible apply Keeps.parts
    | (refine fun (p : Part) hp => ?_; cases p <;> first | exact absurd hp (by decide) | simp only [SideState.sameIn])

theorem SideState.connectFrontEnds_keeps (s : SideState) : Keeps (some [0x14]) [.mon] s (SideState.connectFrontEnds s) := by
  unfold SideState.connectFrontEnds
  try dsimp only
  repeat' first
    | with_reducible apply Keeps.self
    | with_reducible assumption
    | with_reducible apply Keeps.ite
    | with_reducible apply Keeps.set
    | exact rfl
    | with_reducible apply Keeps.parts
    | (refine fun (p : Part) hp => ?_; cases p <;> first | exact absurd hp (by decide) | simp only [SideState.sameIn])

theorem SideState.runConverters_keeps (s : SideState) (on : Bool) : Keeps (some [0x14, 0x2A, 0x2B, 0x2C, 0x2D, 0x2E, 0x2F]) [] s (SideState.runConverters s on) := by
  unfold SideState.runConverters
  try dsimp only
  repeat' first
    | with_reducible apply Keeps.self
    | with_reducible assumption
    | with_reducible apply Keeps.setB
    | with_reducible apply Keeps.foldl
    | exact rfl
    | exact onPages_monGroup rfl (by decide) (by decide)
    | with_reducible apply Keeps.parts
    | intro _ _ _

theorem SideState.convert_keeps (s : SideState) (conv mi : Nat) (raw : Option Nat) (overload : Bool) : KeepsP (some [0x06]) [.ecc, .perf, .free] s (SideState.convert s conv mi raw overload) := by
  unfold SideState.convert
  try dsimp only
  repeat' first
    | with_reducible apply Keeps.self
    | with_reducible assumption
    | with_reducible apply Keeps.ite
    | with_reducible apply KeepsP.ite
    | with_reducible apply KeepsP.step (SideState.fresh_keeps _ _)
    | with_reducible apply Keeps.step (SideState.scrubWords_keeps _ _)
    | with_reducible apply KeepsP.mk
    | exact rfl
    | with_reducible apply Keeps.step (KeepsP.fst (SideState.fresh_keeps _ _))
    | with_reducible apply Keeps.step (KeepsP.of_eq (SideState.fresh_keeps _ _) (by assumption))
    | split

theorem SideState.clipped_keeps (s : SideState) (mi : Nat) : Keeps (some [0x03, 0x05, 0x06, 0x08, 0x09, 0x10, 0x14, 0x2A, 0x2B, 0x2C, 0x2D, 0x2E, 0x2F]) [.mon, .twin, .fault, .perf] s (SideState.clipped s mi) := by
  unfold SideState.clipped
  try dsimp only
  repeat' first
    | with_reducible apply Keeps.self
    | with_reducible assumption
    | with_reducible apply Keeps.ite
    | with_reducible apply Keeps.evt
    | with_reducible apply Keeps.step (SideState.monCount_keeps _ _ _ (by decide) (by decide))
    | with_reducible apply Keeps.step (SideState.count_keeps _ _ _)
    | with_reducible apply Keeps.step (SideState.setChan_keeps _ _ _)
    | with_reducible apply Keeps.step (SideState.raise_keeps _ _)
    | with_reducible apply Keeps.step (SideState.raiseIf_keeps _ _ _)
    | exact rfl
    | exact onPages_monGroup rfl (by decide) (by decide)

theorem SideState.stepIn_keeps (s : SideState) (mi code : Nat) : Keeps (some []) [.mon] s (SideState.stepIn s mi code) := by
  unfold SideState.stepIn
  try dsimp only
  repeat' first
    | with_reducible apply Keeps.self
    | with_reducible assumption
    | with_reducible apply Keeps.ite
    | with_reducible apply Keeps.step (SideState.setChan_keeps _ _ _)
    | exact rfl

theorem SideState.compareResult_keeps (s : SideState) (ok : Bool) : KeepsP (some [0x03, 0x05, 0x06, 0x08, 0x09, 0x10, 0x14]) [.twin, .fault, .perf] s (SideState.compareResult s ok) := by
  unfold SideState.compareResult
  try dsimp only
  repeat' first
    | with_reducible apply Keeps.self
    | with_reducible assumption
    | with_reducible apply Keeps.ite
    | with_reducible apply KeepsP.ite
    | with_reducible apply Keeps.step (SideState.checkAt_keeps _ _ _)
    | with_reducible apply Keeps.step (SideState.consumeInjection_keeps _ _)
    | with_reducible apply Keeps.step (SideState.raise_keeps _ _)
    | with_reducible apply KeepsP.mk
    | exact rfl
    | split

theorem SideState.crossCheck_keeps (s : SideState) (mi : Nat) : Keeps (some [0x03, 0x05, 0x06, 0x08, 0x09, 0x10, 0x14, 0x15, 0x2A, 0x2B, 0x2C, 0x2D, 0x2E, 0x2F]) [.mon, .twin, .fault, .perf] s (SideState.crossCheck s mi) := by
  unfold SideState.crossCheck
  try dsimp only
  repeat' first
    | with_reducible apply Keeps.self
    | with_reducible assumption
    | with_reducible apply Keeps.ite
    | with_reducible apply KeepsP.ite
    | with_reducible apply Keeps.set
    | with_reducible apply Keeps.bump
    | with_reducible apply Keeps.evt
    | with_reducible apply Keeps.step (SideState.setChan_keeps _ _ _)
    | with_reducible apply Keeps.step (SideState.count_keeps _ _ _)
    | with_reducible apply KeepsP.step (SideState.compareResult_keeps _ _)
    | with_reducible apply Keeps.step (SideState.monCount_keeps _ _ _ (by decide) (by decide))
    | with_reducible apply Keeps.step (SideState.monEvt_keeps _ _)
    | with_reducible apply Keeps.step (SideState.raise_keeps _ _)
    | exact rfl
    | exact onPages_monGroup rfl (by decide) (by decide)
    | with_reducible apply Keeps.step (KeepsP.fst (SideState.compareResult_keeps _ _))
    | with_reducible apply Keeps.step (KeepsP.of_eq (SideState.compareResult_keeps _ _) (by assumption))
    | split

theorem SideState.primarySlot_keeps (s : SideState) (conv mi : Nat) (raw : Option Nat) (overload : Bool) : Keeps (some [0x03, 0x05, 0x06, 0x08, 0x09, 0x10, 0x14, 0x15, 0x2A, 0x2B, 0x2C, 0x2D, 0x2E, 0x2F]) [.ecc, .mon, .twin, .fault, .perf, .free] s (SideState.primarySlot s conv mi raw overload) := by
  unfold SideState.primarySlot
  try dsimp only
  repeat' first
    | with_reducible apply Keeps.self
    | with_reducible assumption
    | with_reducible apply Keeps.ite
    | with_reducible apply KeepsP.ite
    | with_reducible apply KeepsP.step (SideState.convert_keeps _ _ _ _ _)
    | with_reducible apply Keeps.step (SideState.count_keeps _ _ _)
    | with_reducible apply Keeps.step (SideState.monCount_keeps _ _ _ (by decide) (by decide))
    | with_reducible apply Keeps.step (SideState.raise_keeps _ _)
    | with_reducible apply Keeps.step (SideState.stepIn_keeps _ _ _)
    | with_reducible apply Keeps.step (SideState.setChan_keeps _ _ _)
    | with_reducible apply Keeps.step (SideState.clipped_keeps _ _)
    | with_reducible apply Keeps.step (SideState.crossCheck_keeps _ _)
    | exact rfl
    | exact onPages_monGroup rfl (by decide) (by decide)
    | with_reducible apply Keeps.step (KeepsP.fst (SideState.convert_keeps _ _ _ _ _))
    | with_reducible apply Keeps.step (KeepsP.of_eq (SideState.convert_keeps _ _ _ _ _) (by assumption))
    | split
    | with_reducible apply Keeps.parts
    | (refine fun (p : Part) hp => ?_; cases p <;> first | exact absurd hp (by decide) | simp only [SideState.sameIn])

theorem SideState.referenceSlot_keeps (s : SideState) (conv raw : Nat) : Keeps (some [0x03, 0x05, 0x06, 0x08, 0x09, 0x10, 0x14, 0x2A, 0x2B, 0x2C, 0x2D, 0x2E, 0x2F]) [.mon, .twin, .fault, .perf] s (SideState.referenceSlot s conv raw) := by
  unfold SideState.referenceSlot
  try dsimp only
  repeat' first
    | with_reducible apply Keeps.self
    | with_reducible assumption
    | with_reducible apply Keeps.ite
    | with_reducible apply Keeps.set
    | with_reducible apply Keeps.step (SideState.monError_keeps _ _ _ _ (by decide) (by decide))
    | with_reducible apply Keeps.step (SideState.raiseIf_keeps _ _ _)
    | with_reducible apply Keeps.foldl
    | exact rfl
    | exact onPages_monGroup rfl (by decide) (by decide)
    | with_reducible apply Keeps.parts
    | (refine fun (p : Part) hp => ?_; cases p <;> first | exact absurd hp (by decide) | simp only [SideState.sameIn])
    | intro _ _ _

theorem SideState.serviceSlot_keeps (s : SideState) (conv n : Nat) (raw : Option Nat) (overload : Bool) : Keeps (some [0x03, 0x05, 0x06, 0x08, 0x09, 0x10, 0x14, 0x15, 0x2A, 0x2B, 0x2C, 0x2D, 0x2E, 0x2F]) [.ecc, .mon, .twin, .fault, .perf, .free] s (SideState.serviceSlot s conv n raw overload) := by
  unfold SideState.serviceSlot
  try dsimp only
  repeat' first
    | with_reducible apply Keeps.self
    | with_reducible assumption
    | with_reducible apply Keeps.ite
    | with_reducible apply KeepsP.ite
    | with_reducible apply Keeps.set
    | with_reducible apply Keeps.bump
    | with_reducible apply KeepsP.step (SideState.convert_keeps _ _ _ _ _)
    | with_reducible apply Keeps.step (SideState.setChan_keeps _ _ _)
    | with_reducible apply Keeps.step (SideState.crossCheck_keeps _ _)
    | with_reducible apply Keeps.step (SideState.referenceSlot_keeps _ _ _)
    | exact rfl
    | exact onPages_monGroup rfl (by decide) (by decide)
    | with_reducible apply Keeps.step (KeepsP.fst (SideState.convert_keeps _ _ _ _ _))
    | with_reducible apply Keeps.step (KeepsP.of_eq (SideState.convert_keeps _ _ _ _ _) (by assumption))
    | split
    | with_reducible apply Keeps.parts
    | (refine fun (p : Part) hp => ?_; cases p <;> first | exact absurd hp (by decide) | simp only [SideState.sameIn])

theorem SideState.mapInForce_keeps (s : SideState) (p : SlotMapPending) : Keeps (some [0x15]) [.mon] s (SideState.mapInForce s p) := by
  unfold SideState.mapInForce
  try dsimp only
  repeat' first
    | with_reducible apply Keeps.self
    | with_reducible assumption
    | with_reducible apply Keeps.ite
    | with_reducible apply Keeps.set
    | with_reducible apply Keeps.evt
    | with_reducible apply Keeps.step (SideState.setChan_keeps _ _ _)
    | with_reducible apply Keeps.foldl
    | exact rfl
    | with_reducible apply Keeps.parts
    | (refine fun (p : Part) hp => ?_; cases p <;> first | exact absurd hp (by decide) | simp only [SideState.sameIn])
    | intro _ _ _

theorem SideState.settingInForce_keeps (s : SideState) (p : ChannelPending) : Keeps (some [0x14]) [.mon] s (SideState.settingInForce s p) := by
  unfold SideState.settingInForce
  try dsimp only
  repeat' first
    | with_reducible apply Keeps.self
    | with_reducible assumption
    | with_reducible apply Keeps.ite
    | with_reducible apply Keeps.evt
    | with_reducible apply Keeps.step (SideState.setChan_keeps _ _ _)
    | exact rfl

theorem SideState.stepInForce_keeps (s : SideState) (mi r : Nat) : Keeps (some [0x06, 0x14, 0x2A, 0x2B, 0x2C, 0x2D, 0x2E, 0x2F]) [.mon, .perf] s (SideState.stepInForce s mi r) := by
  unfold SideState.stepInForce
  try dsimp only
  repeat' first
    | with_reducible apply Keeps.self
    | with_reducible assumption
    | with_reducible apply Keeps.ite
    | with_reducible apply Keeps.bump
    | with_reducible apply Keeps.evt
    | with_reducible apply Keeps.step (SideState.setChan_keeps _ _ _)
    | with_reducible apply Keeps.step (SideState.count_keeps _ _ _)
    | with_reducible apply Keeps.step (SideState.monCount_keeps _ _ _ (by decide) (by decide))
    | exact rfl
    | exact onPages_monGroup rfl (by decide) (by decide)

theorem SideState.newZero_keeps (s : SideState) (g : Nat) : Keeps (some [0x03, 0x05, 0x06, 0x08, 0x09, 0x10, 0x14, 0x2A, 0x2B, 0x2C, 0x2D, 0x2E, 0x2F]) [.twin, .fault, .perf] s (SideState.newZero s g) := by
  unfold SideState.newZero
  try dsimp only
  repeat' first
    | with_reducible apply Keeps.self
    | with_reducible assumption
    | with_reducible apply Keeps.ite
    | with_reducible apply Keeps.set
    | with_reducible apply Keeps.step (SideState.monError_keeps _ _ _ _ (by decide) (by decide))
    | with_reducible apply Keeps.step (SideState.raise_keeps _ _)
    | exact rfl
    | exact onPages_monGroup rfl (by decide) (by decide)

theorem SideState.monitorsAtBoundary_keeps (s : SideState) : Keeps (some [0x03, 0x05, 0x06, 0x08, 0x09, 0x10, 0x14, 0x15, 0x2A, 0x2B, 0x2C, 0x2D, 0x2E, 0x2F]) [.mon, .twin, .fault, .perf] s (SideState.monitorsAtBoundary s) := by
  unfold SideState.monitorsAtBoundary
  try dsimp only
  repeat' first
    | with_reducible apply Keeps.self
    | with_reducible assumption
    | with_reducible apply Keeps.ite
    | with_reducible apply Keeps.step (SideState.newZero_keeps _ _)
    | with_reducible apply Keeps.step (SideState.mapInForce_keeps _ _)
    | with_reducible apply Keeps.step (SideState.settingInForce_keeps _ _)
    | with_reducible apply Keeps.step (SideState.stepInForce_keeps _ _ _)
    | with_reducible apply Keeps.foldl
    | exact rfl
    | with_reducible apply Keeps.parts
    | (refine fun (p : Part) hp => ?_; cases p <;> first | exact absurd hp (by decide) | simp only [SideState.sameIn])
    | intro _ _ _

end Sys2Proof.Machine
end

