-- ==== Sys2Proof/Laws/Ownership.lean ====
section
/-! SUPPORT. What each operation of Machine/Ownership.lean keeps. -/

set_option Elab.async false

namespace Sys2Proof.Machine

theorem SideState.loopSet_keeps (s : SideState) (f : TFld) (l v : Nat) : Keeps (some []) [.mem, .ecc, .twin] s (SideState.loopSet s f l v) := by
  unfold SideState.loopSet
  try dsimp only
  repeat' first
    | with_reducible apply Keeps.self
    | with_reducible assumption
    | with_reducible apply Keeps.ite
    | with_reducible apply Keeps.step (SideState.tset_keeps _ _ _ _)
    | with_reducible apply Keeps.step (SideState.emitMem_keeps _ _ _)
    | exact rfl

theorem SideState.endTune_keeps (s : SideState) (r : TuneRun) (result reason : Nat) : Keeps (some [0x06, 0x17, 0x30, 0x31]) [.drive, .loops, .twin, .perf] s (SideState.endTune s r result reason) := by
  unfold SideState.endTune
  try dsimp only
  repeat' first
    | with_reducible apply Keeps.self
    | with_reducible assumption
    | with_reducible apply Keeps.ite
    | with_reducible apply Keeps.set
    | with_reducible apply Keeps.evt
    | with_reducible apply Keeps.step (SideState.count_keeps _ _ _)
    | with_reducible apply Keeps.step (SideState.writeBase_keeps _ _ _)
    | exact rfl
    | exact onPages_lane rfl (by decide) (by decide)
    | with_reducible apply Keeps.parts
    | (refine fun (p : Part) hp => ?_; cases p <;> first | exact absurd hp (by decide) | simp only [SideState.sameIn])

theorem SideState.leaveWait_keeps (s : SideState) (d : Nat) : Keeps (some []) [.loops] s (SideState.leaveWait s d) := by
  unfold SideState.leaveWait
  try dsimp only
  repeat' first
    | with_reducible apply Keeps.self
    | with_reducible assumption
    | exact rfl
    | with_reducible apply Keeps.parts
    | (refine fun (p : Part) hp => ?_; cases p <;> first | exact absurd hp (by decide) | simp only [SideState.sameIn])

theorem SideState.toOwn_keeps (s : SideState) (d : Nat) (o : Own) : Keeps (some [0x06, 0x17, 0x30, 0x31]) [.drive, .loops, .twin, .perf] s (SideState.toOwn s d o) := by
  unfold SideState.toOwn
  try dsimp only
  repeat' first
    | with_reducible apply Keeps.self
    | with_reducible assumption
    | with_reducible apply Keeps.ite
    | with_reducible apply Keeps.step (SideState.setOwn_keeps _ _ _)
    | with_reducible apply Keeps.step (SideState.endTune_keeps _ _ _ _)
    | with_reducible apply Keeps.step (SideState.leaveWait_keeps _ _)
    | exact rfl
    | split

theorem SideState.bumpless_keeps (s : SideState) (l : Nat) : Keeps (some []) [.mem, .ecc, .loops, .free] s (SideState.bumpless s l) := by
  unfold SideState.bumpless
  try dsimp only
  repeat' first
    | with_reducible apply Keeps.self
    | with_reducible assumption
    | with_reducible apply Keeps.step (SideState.tset_keeps _ _ _ _)
    | with_reducible apply KeepsP.step (SideState.fresh_keeps _ _)
    | exact rfl
    | with_reducible apply Keeps.step (KeepsP.fst (SideState.fresh_keeps _ _))
    | split
    | with_reducible apply Keeps.parts
    | (refine fun (p : Part) hp => ?_; cases p <;> first | exact absurd hp (by decide) | simp only [SideState.sameIn])

theorem SideState.waitSample_keeps (s : SideState) (d : Nat) : Keeps (some [0x06, 0x17, 0x30, 0x31]) [.drive, .loops, .twin, .perf] s (SideState.waitSample s d) := by
  unfold SideState.waitSample
  try dsimp only
  repeat' first
    | with_reducible apply Keeps.self
    | with_reducible assumption
    | with_reducible apply Keeps.step (SideState.toOwn_keeps _ _ _)
    | exact rfl
    | with_reducible apply Keeps.parts
    | (refine fun (p : Part) hp => ?_; cases p <;> first | exact absurd hp (by decide) | simp only [SideState.sameIn])

theorem SideState.toLoop_keeps (s : SideState) (d : Nat) : Keeps (some [0x06, 0x17, 0x30, 0x31]) [.mem, .ecc, .drive, .loops, .twin, .perf, .free] s (SideState.toLoop s d) := by
  unfold SideState.toLoop
  try dsimp only
  repeat' first
    | with_reducible apply Keeps.self
    | with_reducible assumption
    | with_reducible apply Keeps.ite
    | with_reducible apply Keeps.step (SideState.toOwn_keeps _ _ _)
    | with_reducible apply Keeps.step (SideState.waitSample_keeps _ _)
    | with_reducible apply Keeps.step (SideState.loopSet_keeps _ _ _ _)
    | with_reducible apply Keeps.step (SideState.bumpless_keeps _ _)
    | exact rfl
    | split

theorem SideState.toEoHold_keeps (s : SideState) (c : Nat) : Keeps (some [0x06, 0x17, 0x30, 0x31]) [.mem, .ecc, .drive, .loops, .twin, .perf, .free] s (SideState.toEoHold s c) := by
  unfold SideState.toEoHold
  try dsimp only
  repeat' first
    | with_reducible apply Keeps.self
    | with_reducible assumption
    | with_reducible apply Keeps.ite
    | with_reducible apply Keeps.step (SideState.toOwn_keeps _ _ _)
    | with_reducible apply Keeps.step (SideState.leaveWait_keeps _ _)
    | with_reducible apply Keeps.step (SideState.loopSet_keeps _ _ _ _)
    | with_reducible apply Keeps.step (SideState.bumpless_keeps _ _)
    | exact rfl
    | split

theorem SideState.waitUntil_keeps (s : SideState) (d due : Nat) : Keeps (some [0x06, 0x17, 0x30, 0x31]) [.drive, .loops, .twin, .perf] s (SideState.waitUntil s d due) := by
  unfold SideState.waitUntil
  try dsimp only
  repeat' first
    | with_reducible apply Keeps.self
    | with_reducible assumption
    | with_reducible apply Keeps.step (SideState.toOwn_keeps _ _ _)
    | exact rfl
    | with_reducible apply Keeps.parts
    | (refine fun (p : Part) hp => ?_; cases p <;> first | exact absurd hp (by decide) | simp only [SideState.sameIn])

theorem SideState.waitsEnd_keeps (s : SideState) : Keeps (some [0x06, 0x17, 0x30, 0x31]) [.mem, .ecc, .drive, .loops, .twin, .perf, .free] s (SideState.waitsEnd s) := by
  unfold SideState.waitsEnd
  try dsimp only
  repeat' first
    | with_reducible apply Keeps.self
    | with_reducible assumption
    | with_reducible apply Keeps.ite
    | with_reducible apply Keeps.step (SideState.toLoop_keeps _ _)
    | with_reducible apply Keeps.step (SideState.leaveWait_keeps _ _)
    | with_reducible apply Keeps.foldl
    | exact rfl
    | split
    | intro _ _ _

theorem SideState.release_keeps (s : SideState) (d : Nat) : Keeps (some [0x06, 0x17, 0x30, 0x31]) [.drive, .loops, .twin, .perf] s (SideState.release s d) := by
  unfold SideState.release
  try dsimp only
  repeat' first
    | with_reducible apply Keeps.self
    | with_reducible assumption
    | with_reducible apply Keeps.ite
    | with_reducible apply Keeps.step (SideState.waitUntil_keeps _ _ _)
    | with_reducible apply Keeps.step (SideState.toOwn_keeps _ _ _)
    | exact rfl
    | split

theorem SideState.takeTo_keeps (s : SideState) (d : Nat) (o : Own) : Keeps (some [0x06, 0x17, 0x30, 0x31]) [.mem, .ecc, .drive, .loops, .twin, .perf] s (SideState.takeTo s d o) := by
  unfold SideState.takeTo
  try dsimp only
  repeat' first
    | with_reducible apply Keeps.self
    | with_reducible assumption
    | with_reducible apply Keeps.ite
    | with_reducible apply Keeps.step (SideState.toOwn_keeps _ _ _)
    | with_reducible apply Keeps.step (SideState.loopSet_keeps _ _ _ _)
    | exact rfl
    | split

theorem SideState.loopEnabled_keeps (s : SideState) (l : Nat) : Keeps (some [0x06, 0x17, 0x30, 0x31]) [.drive, .loops, .twin, .perf] s (SideState.loopEnabled s l) := by
  unfold SideState.loopEnabled
  try dsimp only
  repeat' first
    | with_reducible apply Keeps.self
    | with_reducible assumption
    | with_reducible apply Keeps.ite
    | with_reducible apply Keeps.step (SideState.waitSample_keeps _ _)
    | exact rfl

theorem SideState.loopDisabled_keeps (s : SideState) (l : Nat) : Keeps (some [0x06, 0x17, 0x30, 0x31]) [.mem, .ecc, .drive, .loops, .scene, .twin, .perf] s (SideState.loopDisabled s l) := by
  unfold SideState.loopDisabled
  try dsimp only
  repeat' first
    | with_reducible apply Keeps.self
    | with_reducible assumption
    | with_reducible apply Keeps.ite
    | with_reducible apply Keeps.step (SideState.toOwn_keeps _ _ _)
    | with_reducible apply Keeps.step (SideState.loopSet_keeps _ _ _ _)
    | exact rfl
    | split
    | with_reducible apply Keeps.parts
    | (refine fun (p : Part) hp => ?_; cases p <;> first | exact absurd hp (by decide) | simp only [SideState.sameIn])

theorem SideState.ovrStat_keeps (s : SideState) (result reason : Nat) : Keeps (some [0x16]) [] s (SideState.ovrStat s result reason) := by
  unfold SideState.ovrStat
  try dsimp only
  repeat' first
    | with_reducible apply Keeps.self
    | with_reducible assumption
    | with_reducible apply Keeps.set
    | exact rfl

theorem SideState.overridesAtBoundary_keeps (s : SideState) : Keeps (some [0x06, 0x16, 0x17, 0x30, 0x31]) [.mem, .ecc, .drive, .loops, .twin, .perf] s (SideState.overridesAtBoundary s) := by
  unfold SideState.overridesAtBoundary
  try dsimp only
  repeat' first
    | with_reducible apply Keeps.self
    | with_reducible assumption
    | with_reducible apply Keeps.ite
    | with_reducible apply Keeps.step (SideState.ovrStat_keeps _ _ _)
    | with_reducible apply Keeps.step (SideState.takeTo_keeps _ _ _)
    | with_reducible apply Keeps.step (SideState.release_keeps _ _)
    | with_reducible apply Keeps.foldl
    | exact rfl
    | with_reducible apply Keeps.parts
    | (refine fun (p : Part) hp => ?_; cases p <;> first | exact absurd hp (by decide) | simp only [SideState.sameIn])
    | intro _ _ _

end Sys2Proof.Machine
end

