-- ==== Sys2Proof/Laws/CalBase.lean ====
section
/-! SUPPORT. What each operation of Machine/CalBase.lean keeps. -/

set_option Elab.async false

namespace Sys2Proof.Machine

theorem SideState.showCal_keeps (s : SideState) : Keeps (some [0x0E]) [] s (SideState.showCal s) := by
  unfold SideState.showCal
  try dsimp only
  repeat' first
    | with_reducible apply Keeps.self
    | with_reducible assumption
    | with_reducible apply Keeps.set
    | with_reducible apply Keeps.setB
    | exact rfl

theorem SideState.queueJob_keeps (s : SideState) (j : CalJob) : Keeps (some [0x0E]) [.cal] s (SideState.queueJob s j) := by
  unfold SideState.queueJob
  try dsimp only
  repeat' first
    | with_reducible apply Keeps.self
    | with_reducible assumption
    | with_reducible apply Keeps.ite
    | with_reducible apply Keeps.step (SideState.showCal_keeps _)
    | exact rfl
    | with_reducible apply Keeps.parts
    | (refine fun (p : Part) hp => ?_; cases p <;> first | exact absurd hp (by decide) | simp only [SideState.sameIn])

theorem SideState.trigger_keeps (s : SideState) (j : CalJob) : Keeps (some [0x0E]) [.cal] s (SideState.trigger s j) := by
  unfold SideState.trigger
  try dsimp only
  repeat' first
    | with_reducible apply Keeps.self
    | with_reducible assumption
    | with_reducible apply Keeps.ite
    | with_reducible apply Keeps.step (SideState.queueJob_keeps _ _)
    | exact rfl

theorem SideState.surveysDone_keeps (s : SideState) : Keeps (some [0x0E, 0x0F]) [.cal] s (SideState.surveysDone s) := by
  unfold SideState.surveysDone
  try dsimp only
  repeat' first
    | with_reducible apply Keeps.self
    | with_reducible assumption
    | with_reducible apply Keeps.ite
    | with_reducible apply Keeps.set
    | with_reducible apply Keeps.evt
    | exact rfl
    | with_reducible apply Keeps.parts
    | (refine fun (p : Part) hp => ?_; cases p <;> first | exact absurd hp (by decide) | simp only [SideState.sameIn])

theorem SideState.queueRound_keeps (s : SideState) : Keeps (some [0x0E]) [.cal] s (SideState.queueRound s) := by
  unfold SideState.queueRound
  try dsimp only
  repeat' first
    | with_reducible apply Keeps.self
    | with_reducible assumption
    | with_reducible apply Keeps.ite
    | with_reducible apply Keeps.step (SideState.queueJob_keeps _ _)
    | with_reducible apply Keeps.foldl
    | exact rfl
    | split
    | with_reducible apply Keeps.parts
    | (refine fun (p : Part) hp => ?_; cases p <;> first | exact absurd hp (by decide) | simp only [SideState.sameIn])
    | intro _ _ _

theorem SideState.queueTrimRound_keeps (s : SideState) : Keeps (some [0x0E]) [.cal] s (SideState.queueTrimRound s) := by
  unfold SideState.queueTrimRound
  try dsimp only
  repeat' first
    | with_reducible apply Keeps.self
    | with_reducible assumption
    | with_reducible apply Keeps.step (SideState.queueJob_keeps _ _)
    | with_reducible apply Keeps.foldl
    | exact rfl
    | with_reducible apply Keeps.parts
    | (refine fun (p : Part) hp => ?_; cases p <;> first | exact absurd hp (by decide) | simp only [SideState.sameIn])
    | intro _ _ _

theorem SideState.restoreMonitor_keeps (s : SideState) (r : CalRun) : Keeps (some []) [.mon] s (SideState.restoreMonitor s r) := by
  unfold SideState.restoreMonitor
  try dsimp only
  repeat' first
    | with_reducible apply Keeps.self
    | with_reducible assumption
    | exact rfl
    | split
    | with_reducible apply Keeps.parts
    | (refine fun (p : Part) hp => ?_; cases p <;> first | exact absurd hp (by decide) | simp only [SideState.sameIn])

theorem SideState.dropRun_keeps (s : SideState) (r : CalRun) (keep : List Nat) : Keeps (some [0x06, 0x17, 0x30, 0x31]) [.drive, .mon, .loops, .cal, .twin, .perf] s (SideState.dropRun s r keep) := by
  unfold SideState.dropRun
  try dsimp only
  repeat' first
    | with_reducible apply Keeps.self
    | with_reducible assumption
    | with_reducible apply Keeps.ite
    | with_reducible apply Keeps.step (SideState.release_keeps _ _)
    | with_reducible apply Keeps.step (SideState.restoreMonitor_keeps _ _)
    | with_reducible apply Keeps.foldl
    | exact rfl
    | with_reducible apply Keeps.parts
    | (refine fun (p : Part) hp => ?_; cases p <;> first | exact absurd hp (by decide) | simp only [SideState.sameIn])
    | intro _ _ _

theorem SideState.abortRun_keeps (s : SideState) (r : CalRun) (keep : List Nat) : Keeps (some [0x06, 0x0E, 0x17, 0x30, 0x31]) [.drive, .mon, .loops, .cal, .twin, .perf] s (SideState.abortRun s r keep) := by
  unfold SideState.abortRun
  try dsimp only
  repeat' first
    | with_reducible apply Keeps.self
    | with_reducible assumption
    | with_reducible apply Keeps.bump
    | with_reducible apply Keeps.evt
    | with_reducible apply Keeps.step (SideState.dropRun_keeps _ _ _)
    | with_reducible apply Keeps.step (SideState.count_keeps _ _ _)
    | with_reducible apply Keeps.step (SideState.showCal_keeps _)
    | with_reducible apply Keeps.step (SideState.queueJob_keeps _ _)
    | exact rfl

theorem SideState.abortRuns_keeps (s : SideState) : Keeps (some [0x06, 0x0E, 0x17, 0x30, 0x31]) [.drive, .mon, .loops, .cal, .twin, .perf] s (SideState.abortRuns s) := by
  unfold SideState.abortRuns
  try dsimp only
  repeat' first
    | with_reducible apply Keeps.self
    | with_reducible assumption
    | with_reducible apply Keeps.step (SideState.abortRun_keeps _ _ _)
    | with_reducible apply Keeps.foldl
    | exact rfl
    | with_reducible apply Keeps.parts
    | intro _ _ _

theorem SideState.yieldRuns_keeps (s : SideState) : Keeps (some [0x06, 0x0E, 0x17, 0x30, 0x31]) [.drive, .mon, .loops, .cal, .twin, .perf] s (SideState.yieldRuns s) := by
  unfold SideState.yieldRuns
  try dsimp only
  repeat' first
    | with_reducible apply Keeps.self
    | with_reducible assumption
    | with_reducible apply Keeps.step (SideState.abortRun_keeps _ _ _)
    | with_reducible apply Keeps.foldl
    | exact rfl
    | intro _ _ _

theorem SideState.preempt_keeps (s : SideState) (d : Nat) : Keeps (some [0x06, 0x0E, 0x16, 0x17, 0x30, 0x31]) [.drive, .mon, .loops, .cal, .twin, .perf] s (SideState.preempt s d) := by
  unfold SideState.preempt
  try dsimp only
  repeat' first
    | with_reducible apply Keeps.self
    | with_reducible assumption
    | with_reducible apply Keeps.ite
    | with_reducible apply Keeps.bump
    | with_reducible apply Keeps.evt
    | with_reducible apply Keeps.step (SideState.abortRun_keeps _ _ _)
    | exact rfl
    | split

theorem SideState.bandTrigger_keeps (s : SideState) (l : Nat) : Keeps (some [0x0E]) [.cal] s (SideState.bandTrigger s l) := by
  unfold SideState.bandTrigger
  try dsimp only
  repeat' first
    | with_reducible apply Keeps.self
    | with_reducible assumption
    | with_reducible apply Keeps.ite
    | with_reducible apply Keeps.step (SideState.trigger_keeps _ _)
    | exact rfl

theorem SideState.wakeTrigger_keeps (s : SideState) (l : Nat) (out : Bool) : Keeps (some [0x0E]) [.cal] s (SideState.wakeTrigger s l out) := by
  unfold SideState.wakeTrigger
  try dsimp only
  repeat' first
    | with_reducible apply Keeps.self
    | with_reducible assumption
    | with_reducible apply Keeps.ite
    | with_reducible apply Keeps.step (SideState.trigger_keeps _ _)
    | exact rfl
    | split
    | with_reducible apply Keeps.parts
    | (refine fun (p : Part) hp => ?_; cases p <;> first | exact absurd hp (by decide) | simp only [SideState.sameIn])

end Sys2Proof.Machine
end

