-- ==== Sys2Proof/Laws/Loops.lean ====
section
/-! SUPPORT. What each operation of Machine/Loops.lean keeps. -/

set_option Elab.async false

namespace Sys2Proof.Machine

theorem SideState.outside_keeps (s : SideState) (l y : Nat) : KeepsP (some []) [.mem, .ecc] s (SideState.outside s l y) := by
  unfold SideState.outside
  try dsimp only
  repeat' first
    | with_reducible apply Keeps.self
    | with_reducible assumption
    | with_reducible apply Keeps.ite
    | with_reducible apply KeepsP.ite
    | with_reducible apply Keeps.step (SideState.tset_keeps _ _ _ _)
    | with_reducible apply KeepsP.mk
    | exact rfl

theorem SideState.lawStep_keeps (s : SideState) (l y : Nat) : KeepsP (some []) [.mem, .ecc] s (SideState.lawStep s l y) := by
  unfold SideState.lawStep
  try dsimp only
  repeat' first
    | with_reducible apply Keeps.self
    | with_reducible assumption
    | with_reducible apply Keeps.ite
    | with_reducible apply KeepsP.ite
    | with_reducible apply Keeps.step (SideState.tset_keeps _ _ _ _)
    | with_reducible apply KeepsP.mk
    | exact rfl

theorem SideState.noteEval_keeps (s : SideState) (l : Nat) (e : LastEval) : Keeps (some []) [.loops] s (SideState.noteEval s l e) := by
  unfold SideState.noteEval
  try dsimp only
  repeat' first
    | with_reducible apply Keeps.self
    | with_reducible assumption
    | exact rfl
    | with_reducible apply Keeps.parts
    | (refine fun (p : Part) hp => ?_; cases p <;> first | exact absurd hp (by decide) | simp only [SideState.sameIn])

theorem SideState.blindEval_keeps (s : SideState) (l : Nat) : Keeps (some [0x03, 0x05, 0x06, 0x08, 0x09, 0x10, 0x14, 0x16]) [.mem, .ecc, .loops, .twin, .fault, .perf] s (SideState.blindEval s l) := by
  unfold SideState.blindEval
  try dsimp only
  repeat' first
    | with_reducible apply Keeps.self
    | with_reducible assumption
    | with_reducible apply Keeps.ite
    | with_reducible apply Keeps.bump
    | with_reducible apply Keeps.evt
    | with_reducible apply Keeps.step (SideState.tset_keeps _ _ _ _)
    | with_reducible apply Keeps.step (SideState.count_keeps _ _ _)
    | with_reducible apply Keeps.step (SideState.noteEval_keeps _ _ _)
    | with_reducible apply Keeps.step (SideState.raise_keeps _ _)
    | exact rfl

theorem SideState.dueStep_keeps (s : SideState) (l y : Nat) : Keeps (some [0x03, 0x05, 0x06, 0x08, 0x09, 0x10, 0x14, 0x16]) [.mem, .ecc, .drive, .twin, .fault, .perf] s (SideState.dueStep s l y) := by
  unfold SideState.dueStep
  try dsimp only
  repeat' first
    | with_reducible apply Keeps.self
    | with_reducible assumption
    | with_reducible apply Keeps.ite
    | with_reducible apply KeepsP.ite
    | with_reducible apply Keeps.bump
    | with_reducible apply Keeps.evt
    | with_reducible apply KeepsP.step (SideState.lawStep_keeps _ _ _)
    | with_reducible apply Keeps.step (SideState.scrubWords_keeps _ _)
    | with_reducible apply Keeps.step (SideState.raise_keeps _ _)
    | with_reducible apply Keeps.step (SideState.tset_keeps _ _ _ _)
    | with_reducible apply Keeps.step (SideState.writeBase_keeps _ _ _)
    | with_reducible apply Keeps.step (SideState.count_keeps _ _ _)
    | exact rfl
    | with_reducible apply Keeps.step (KeepsP.fst (SideState.lawStep_keeps _ _ _))

theorem SideState.evaluate_keeps (s : SideState) (l : Nat) : Keeps (some [0x03, 0x05, 0x06, 0x08, 0x09, 0x0E, 0x10, 0x14, 0x16]) [.mem, .ecc, .drive, .loops, .cal, .twin, .fault, .perf, .free] s (SideState.evaluate s l) := by
  unfold SideState.evaluate
  try dsimp only
  repeat' first
    | with_reducible apply Keeps.self
    | with_reducible assumption
    | with_reducible apply Keeps.ite
    | with_reducible apply KeepsP.ite
    | with_reducible apply Keeps.bump
    | with_reducible apply Keeps.evt
    | with_reducible apply KeepsP.step (SideState.fresh_keeps _ _)
    | with_reducible apply Keeps.step (SideState.tset_keeps _ _ _ _)
    | with_reducible apply Keeps.step (SideState.blindEval_keeps _ _)
    | with_reducible apply KeepsP.step (SideState.outside_keeps _ _ _)
    | with_reducible apply Keeps.step (SideState.noteEval_keeps _ _ _)
    | with_reducible apply Keeps.step (SideState.raise_keeps _ _)
    | with_reducible apply Keeps.step (SideState.bandTrigger_keeps _ _)
    | with_reducible apply Keeps.step (SideState.dueStep_keeps _ _ _)
    | with_reducible apply Keeps.step (SideState.wakeTrigger_keeps _ _ _)
    | exact rfl
    | with_reducible apply Keeps.step (KeepsP.fst (SideState.fresh_keeps _ _))
    | with_reducible apply Keeps.step (KeepsP.fst (SideState.outside_keeps _ _ _))
    | split
    | with_reducible apply Keeps.parts
    | (refine fun (p : Part) hp => ?_; cases p <;> first | exact absurd hp (by decide) | simp only [SideState.sameIn])

theorem SideState.putTune_keeps (s : SideState) (r : TuneRun) : Keeps (some []) [.loops] s (SideState.putTune s r) := by
  unfold SideState.putTune
  try dsimp only
  repeat' first
    | with_reducible apply Keeps.self
    | with_reducible assumption
    | with_reducible apply Keeps.ite
    | exact rfl
    | with_reducible apply Keeps.parts
    | (refine fun (p : Part) hp => ?_; cases p <;> first | exact absurd hp (by decide) | simp only [SideState.sameIn])

theorem SideState.finishTune_keeps (s : SideState) (r : TuneRun) : Keeps (some [0x03, 0x05, 0x06, 0x08, 0x09, 0x10, 0x14, 0x17, 0x20, 0x21, 0x22, 0x23, 0x24, 0x25, 0x26, 0x27, 0x28, 0x29, 0x30, 0x31]) [.mem, .ecc, .drive, .loops, .twin, .fault, .perf, .free] s (SideState.finishTune s r) := by
  unfold SideState.finishTune
  try dsimp only
  repeat' first
    | with_reducible apply Keeps.self
    | with_reducible assumption
    | with_reducible apply Keeps.ite
    | with_reducible apply Keeps.set
    | with_reducible apply Keeps.step (SideState.apply_keeps _ _ _ _)
    | with_reducible apply Keeps.step (SideState.loopSet_keeps _ _ _ _)
    | with_reducible apply Keeps.step (SideState.endTune_keeps _ _ _ _)
    | with_reducible apply Keeps.step (SideState.toLoop_keeps _ _)
    | with_reducible apply Keeps.foldl
    | exact rfl
    | intro _ _ _

theorem SideState.relay_keeps (s : SideState) (d : Nat) (v : Int) : Keeps (some [0x06]) [.ecc, .drive, .twin, .perf] s (SideState.relay s d v) := by
  unfold SideState.relay
  try dsimp only
  repeat' first
    | with_reducible apply Keeps.self
    | with_reducible assumption
    | with_reducible apply Keeps.ite
    | with_reducible apply Keeps.step (SideState.scrubWords_keeps _ _)
    | with_reducible apply Keeps.step (SideState.writeBase_keeps _ _ _)
    | exact rfl

theorem SideState.tuneEval_keeps (s : SideState) (r : TuneRun) : Keeps (some [0x03, 0x05, 0x06, 0x08, 0x09, 0x10, 0x14, 0x16, 0x17, 0x20, 0x21, 0x22, 0x23, 0x24, 0x25, 0x26, 0x27, 0x28, 0x29, 0x30, 0x31]) [.mem, .ecc, .drive, .loops, .twin, .fault, .perf, .free] s (SideState.tuneEval s r) := by
  unfold SideState.tuneEval
  try dsimp only
  repeat' first
    | with_reducible apply Keeps.self
    | with_reducible assumption
    | with_reducible apply Keeps.ite
    | with_reducible apply KeepsP.ite
    | with_reducible apply Keeps.step (SideState.blindEval_keeps _ _)
    | with_reducible apply Keeps.step (SideState.tset_keeps _ _ _ _)
    | with_reducible apply Keeps.step (SideState.endTune_keeps _ _ _ _)
    | with_reducible apply Keeps.step (SideState.toLoop_keeps _ _)
    | with_reducible apply Keeps.step (SideState.raise_keeps _ _)
    | with_reducible apply KeepsP.step (SideState.lawStep_keeps _ _ _)
    | with_reducible apply Keeps.step (SideState.relay_keeps _ _ _)
    | with_reducible apply Keeps.step (SideState.finishTune_keeps _ _)
    | with_reducible apply Keeps.step (SideState.putTune_keeps _ _)
    | exact rfl
    | with_reducible apply Keeps.step (KeepsP.fst (SideState.lawStep_keeps _ _ _))
    | split

theorem SideState.tunesAtBoundary_keeps (s : SideState) : Keeps (some [0x06, 0x17, 0x30, 0x31]) [.drive, .loops, .twin, .perf] s (SideState.tunesAtBoundary s) := by
  unfold SideState.tunesAtBoundary
  try dsimp only
  repeat' first
    | with_reducible apply Keeps.self
    | with_reducible assumption
    | with_reducible apply Keeps.ite
    | with_reducible apply Keeps.set
    | with_reducible apply Keeps.step (SideState.endTune_keeps _ _ _ _)
    | with_reducible apply Keeps.step (SideState.putTune_keeps _ _)
    | with_reducible apply Keeps.step (SideState.toOwn_keeps _ _ _)
    | with_reducible apply Keeps.foldl
    | exact rfl
    | exact onPages_lane rfl (by decide) (by decide)
    | with_reducible apply Keeps.parts
    | intro _ _ _

theorem SideState.abortTunes_keeps (s : SideState) (reason : Nat) : Keeps (some [0x06, 0x17, 0x30, 0x31]) [.mem, .ecc, .drive, .loops, .twin, .perf, .free] s (SideState.abortTunes s reason) := by
  unfold SideState.abortTunes
  try dsimp only
  repeat' first
    | with_reducible apply Keeps.self
    | with_reducible assumption
    | with_reducible apply Keeps.ite
    | with_reducible apply Keeps.step (SideState.endTune_keeps _ _ _ _)
    | with_reducible apply Keeps.step (SideState.toLoop_keeps _ _)
    | with_reducible apply Keeps.foldl
    | exact rfl
    | intro _ _ _

theorem SideState.laneStep_keeps (s : SideState) (capacity : Nat) (w : LaneWork) : KeepsP (some [0x03, 0x05, 0x06, 0x08, 0x09, 0x0E, 0x10, 0x14, 0x16, 0x17, 0x20, 0x21, 0x22, 0x23, 0x24, 0x25, 0x26, 0x27, 0x28, 0x29, 0x30, 0x31]) [.mem, .ecc, .drive, .loops, .cal, .twin, .fault, .perf, .free] s (SideState.laneStep s capacity w) := by
  unfold SideState.laneStep
  try dsimp only
  repeat' first
    | with_reducible apply Keeps.self
    | with_reducible assumption
    | with_reducible apply Keeps.ite
    | with_reducible apply KeepsP.ite
    | with_reducible apply Keeps.bump
    | with_reducible apply Keeps.evt
    | with_reducible apply Keeps.step (SideState.count_keeps _ _ _)
    | with_reducible apply Keeps.step (SideState.checkAt_keeps _ _ _)
    | with_reducible apply Keeps.step (SideState.owe_keeps _ _)
    | with_reducible apply Keeps.step (SideState.tuneEval_keeps _ _)
    | with_reducible apply Keeps.step (SideState.evaluate_keeps _ _)
    | with_reducible apply KeepsP.mk
    | exact rfl
    | exact onPages_lane rfl (by decide) (by decide)
    | split
    | with_reducible apply Keeps.parts
    | (refine fun (p : Part) hp => ?_; cases p <;> first | exact absurd hp (by decide) | simp only [SideState.sameIn])

theorem SideState.lanesStep_keeps (s : SideState) (capacity : Nat) (l : List LaneWork) :
    KeepsP (some [0x03, 0x05, 0x06, 0x08, 0x09, 0x0E, 0x10, 0x14, 0x16, 0x17, 0x20, 0x21, 0x22, 0x23, 0x24, 0x25, 0x26, 0x27, 0x28, 0x29, 0x30, 0x31]) [.mem, .ecc, .drive, .loops, .cal, .twin, .fault, .perf, .free] s (s.lanesStep capacity l) := by
  induction l generalizing s with
  | nil => exact KeepsP.mk Keeps.self
  | cons w t ih => exact KeepsP.mk (Keeps.trans (ih _) (KeepsP.step (SideState.laneStep_keeps _ _ _) rfl rfl Keeps.self))

theorem SideState.lanesRun_keeps (capacity n : Nat) (s : SideState) (ws : List LaneWork) :
    KeepsP (some [0x03, 0x05, 0x06, 0x08, 0x09, 0x0E, 0x10, 0x14, 0x16, 0x17, 0x20, 0x21, 0x22, 0x23, 0x24, 0x25, 0x26, 0x27, 0x28, 0x29, 0x30, 0x31]) [.mem, .ecc, .drive, .loops, .cal, .twin, .fault, .perf, .free] s (SideState.lanesRun capacity n s ws) := by
  induction n generalizing s ws with
  | zero => exact KeepsP.mk Keeps.self
  | succ n ih => exact KeepsP.mk (Keeps.trans (ih _ _) (KeepsP.step (SideState.lanesStep_keeps _ _ _) rfl rfl Keeps.self))

theorem Keeps.loopPart {P E s t} {v : LoopState} (he : subParts [.loops] E = true) (h0 : Keeps P E s t) :
    Keeps P E s { t with loops := v } := by
  refine Keeps.step (E' := [.loops]) (P' := some []) ?_ (by cases P <;> rfl) he h0
  with_reducible apply Keeps.parts Keeps.self
  refine fun (p : Part) hp => ?_
  cases p <;> first | exact absurd hp (by decide) | simp only [SideState.sameIn]

theorem SideState.idleLanes_keeps (s : SideState) : Keeps (some [0x16, 0x30, 0x31]) [.loops] s (SideState.idleLanes s) := by
  unfold SideState.idleLanes
  try dsimp only
  repeat' first
    | with_reducible apply Keeps.self
    | with_reducible assumption
    | with_reducible apply Keeps.set
    | with_reducible apply Keeps.foldl
    | exact rfl
    | exact onPages_lane rfl (by decide) (by decide)
    | with_reducible apply Keeps.parts
    | (refine fun (p : Part) hp => ?_; cases p <;> first | exact absurd hp (by decide) | simp only [SideState.sameIn])
    | intro _ _ _

theorem SideState.runLoops_keeps (s : SideState) (capacity : Nat) :
    Keeps (some [0x03, 0x05, 0x06, 0x08, 0x09, 0x0E, 0x10, 0x14, 0x16, 0x17, 0x20, 0x21, 0x22, 0x23, 0x24, 0x25, 0x26, 0x27, 0x28, 0x29, 0x30, 0x31]) [.mem, .ecc, .drive, .loops, .cal, .twin, .fault, .perf, .free] s (s.runLoops capacity) := by
  unfold SideState.runLoops
  dsimp only
  refine Keeps.ite (Keeps.step (SideState.idleLanes_keeps _) rfl rfl Keeps.self) ?_
  with_reducible apply Keeps.foldl
  rotate_left
  · with_reducible apply KeepsP.fst
    with_reducible apply KeepsP.step (SideState.lanesRun_keeps _ _ _ _)
    · rfl
    · rfl
    · with_reducible apply Keeps.loopPart
      · rfl
      · with_reducible apply Keeps.foldl
        · intro x w h
          exact Keeps.set _ _ (onPages_lane rfl (by decide) (by decide)) h
        · exact Keeps.set _ _ rfl Keeps.self
  · intro x w h
    have h2 := Keeps.set (LN_TIME.CYCLES.inLane w.lane) w.used (onPages_lane rfl (by decide) (by decide))
      (Keeps.set (LN_STAT.DONE.inLane w.lane) w.made (onPages_lane rfl (by decide) (by decide)) h)
    exact Keeps.ite h2 (Keeps.loopPart rfl h2)

theorem SideState.loopOverrun_keeps (s : SideState) : Keeps (some [0x03, 0x05, 0x06, 0x08, 0x09, 0x10, 0x14, 0x30, 0x31]) [.twin, .fault, .perf] s (SideState.loopOverrun s) := by
  unfold SideState.loopOverrun
  try dsimp only
  repeat' first
    | with_reducible apply Keeps.self
    | with_reducible assumption
    | with_reducible apply Keeps.bump
    | with_reducible apply Keeps.evt
    | with_reducible apply Keeps.step (SideState.count_keeps _ _ _)
    | with_reducible apply Keeps.step (SideState.raise_keeps _ _)
    | with_reducible apply Keeps.foldl
    | exact rfl
    | exact onPages_lane rfl (by decide) (by decide)
    | exact onPages_laneEvt rfl
    | with_reducible apply Keeps.parts
    | intro _ _ _

end Sys2Proof.Machine
end

