-- ==== Sys2Proof/Laws/Network.lean ====
section
/-! SUPPORT. What each operation of Machine/Network.lean keeps. -/

set_option Elab.async false

namespace Sys2Proof.Machine

theorem SideState.setQueue_keeps (s : SideState) (port q : Nat) (l : List Frame) : Keeps (some []) [.net] s (SideState.setQueue s port q l) := by
  unfold SideState.setQueue
  try dsimp only
  repeat' first
    | with_reducible apply Keeps.self
    | with_reducible assumption
    | with_reducible apply Keeps.ite
    | exact rfl
    | with_reducible apply Keeps.parts
    | (refine fun (p : Part) hp => ?_; cases p <;> first | exact absurd hp (by decide) | simp only [SideState.sameIn])

theorem SideState.dropEgress_keeps (s : SideState) (port : Nat) : Keeps (some [0x06]) [.perf] s (SideState.dropEgress s port) := by
  unfold SideState.dropEgress
  try dsimp only
  repeat' first
    | with_reducible apply Keeps.self
    | with_reducible assumption
    | with_reducible apply Keeps.step (SideState.count_keeps _ _ _)
    | exact rfl

theorem SideState.dropOversize_keeps (s : SideState) (port q n : Nat) :
    Keeps (some [0x03, 0x05, 0x06, 0x08, 0x09, 0x10, 0x14, 0x1B]) [.twin, .net, .fault, .perf] s (s.dropOversize port q n) := by
  induction n generalizing s with
  | zero => exact Keeps.self
  | succ n ih =>
    unfold SideState.dropOversize
    split
    · exact Keeps.self
    · dsimp only
      refine Keeps.ite (Keeps.trans (ih _) ?_) Keeps.self
      with_reducible apply Keeps.step (SideState.raise_keeps _ _)
      · exact rfl
      · exact rfl
      with_reducible apply Keeps.step (SideState.dropEgress_keeps _ _)
      · exact rfl
      · exact rfl
      with_reducible apply Keeps.evt
      · exact rfl
      with_reducible apply Keeps.bump
      · simp only [pageOf_bank]; rfl
      with_reducible apply Keeps.step (SideState.setQueue_keeps _ _ _ _)
      · exact rfl
      · exact rfl
      exact Keeps.self

theorem SideState.checkHead_keeps (s : SideState) (port q : Nat) : Keeps (some [0x03, 0x05, 0x06, 0x08, 0x09, 0x10, 0x14, 0x1B]) [.twin, .net, .fault, .perf] s (SideState.checkHead s port q) := by
  unfold SideState.checkHead
  try dsimp only
  repeat' first
    | with_reducible apply Keeps.self
    | with_reducible assumption
    | with_reducible apply Keeps.step (SideState.dropOversize_keeps _ _ _ _)
    | exact rfl

theorem SideState.checkHeads_keeps (s : SideState) (port : Nat) : Keeps (some [0x03, 0x05, 0x06, 0x08, 0x09, 0x10, 0x14, 0x1B]) [.twin, .net, .fault, .perf] s (SideState.checkHeads s port) := by
  unfold SideState.checkHeads
  try dsimp only
  repeat' first
    | with_reducible apply Keeps.self
    | with_reducible assumption
    | with_reducible apply Keeps.step (SideState.checkHead_keeps _ _ _)
    | with_reducible apply Keeps.foldl
    | exact rfl
    | with_reducible apply Keeps.parts
    | intro _ _ _

theorem SideState.markHeads_keeps (s : SideState) (port : Nat) : Keeps (some [0x06]) [.net, .perf] s (SideState.markHeads s port) := by
  unfold SideState.markHeads
  try dsimp only
  repeat' first
    | with_reducible apply Keeps.self
    | with_reducible assumption
    | with_reducible apply Keeps.ite
    | with_reducible apply Keeps.step (SideState.count_keeps _ _ _)
    | with_reducible apply Keeps.step (SideState.setQueue_keeps _ _ _ _)
    | with_reducible apply Keeps.foldl
    | exact rfl
    | split
    | with_reducible apply Keeps.parts
    | intro _ _ _

theorem SideState.dmaTransfers_keeps (s : SideState) (f : Frame) : Keeps (some []) [.perf] s (SideState.dmaTransfers s f) := by
  unfold SideState.dmaTransfers
  try dsimp only
  repeat' first
    | with_reducible apply Keeps.self
    | with_reducible assumption
    | with_reducible apply Keeps.step (SideState.countDiag_keeps _ _ _)
    | exact rfl

theorem SideState.enqueue_keeps (s : SideState) (port q : Nat) (f : Frame) : Keeps (some [0x03, 0x05, 0x06, 0x08, 0x09, 0x10, 0x14, 0x1B]) [.twin, .net, .fault, .perf] s (SideState.enqueue s port q f) := by
  unfold SideState.enqueue
  try dsimp only
  repeat' first
    | with_reducible apply Keeps.self
    | with_reducible assumption
    | with_reducible apply Keeps.ite
    | with_reducible apply Keeps.bump
    | with_reducible apply Keeps.evt
    | with_reducible apply Keeps.step (SideState.setQueue_keeps _ _ _ _)
    | with_reducible apply Keeps.step (SideState.dmaTransfers_keeps _ _)
    | with_reducible apply Keeps.step (SideState.checkHead_keeps _ _ _)
    | with_reducible apply Keeps.step (SideState.count_keeps _ _ _)
    | with_reducible apply Keeps.step (SideState.dropEgress_keeps _ _)
    | with_reducible apply Keeps.step (SideState.raise_keeps _ _)
    | exact rfl
    | (simp only [pageOf_bank]; exact rfl)

theorem SideState.dropIngress_keeps (s : SideState) (port : Nat) : Keeps (some [0x06, 0x18, 0x19, 0x1A]) [.perf] s (SideState.dropIngress s port) := by
  unfold SideState.dropIngress
  try dsimp only
  repeat' first
    | with_reducible apply Keeps.self
    | with_reducible assumption
    | with_reducible apply Keeps.ite
    | with_reducible apply Keeps.evt
    | with_reducible apply Keeps.step (SideState.count_keeps _ _ _)
    | exact rfl
    | exact onPages_portEvt rfl

theorem Keeps.bumpPort {P E s t} {f : Fld} {port : Nat} (hP : subPages (some [0x18, 0x19, 0x1A]) P = true)
    (h : 0x18000 ≤ f.key) (h' : f.key < 0x19000) (h0 : Keeps P E s t) : Keeps P E s (t.bumpPort port f) := by
  unfold SideState.bumpPort
  exact Keeps.ite h0 (Keeps.bump _ _ (onPages_port hP h h') h0)

theorem SideState.refreshPolicer_keeps (s : SideState) (i : Nat) : Keeps (some []) [.net] s (SideState.refreshPolicer s i) := by
  unfold SideState.refreshPolicer
  try dsimp only
  repeat' first
    | with_reducible apply Keeps.self
    | with_reducible assumption
    | exact rfl
    | with_reducible apply Keeps.parts
    | (refine fun (p : Part) hp => ?_; cases p <;> first | exact absurd hp (by decide) | simp only [SideState.sameIn])

theorem SideState.police_keeps (s : SideState) (port pcp vid etype len : Nat) : KeepsP (some [0x03, 0x05, 0x06, 0x08, 0x09, 0x10, 0x14, 0x18, 0x19, 0x1A, 0x1C]) [.twin, .net, .fault, .perf] s (SideState.police s port pcp vid etype len) := by
  unfold SideState.police
  try dsimp only
  repeat' first
    | with_reducible apply Keeps.self
    | with_reducible assumption
    | with_reducible apply Keeps.ite
    | with_reducible apply KeepsP.ite
    | with_reducible apply Keeps.bump
    | with_reducible apply Keeps.evt
    | with_reducible apply Keeps.bumpPort
    | with_reducible apply Keeps.step (SideState.dropIngress_keeps _ _)
    | with_reducible apply Keeps.step (SideState.raise_keeps _ _)
    | with_reducible apply Keeps.step (SideState.refreshPolicer_keeps _ _)
    | with_reducible apply KeepsP.mk
    | exact rfl
    | (simp only [pageOf_bank]; exact rfl)
    | decide
    | split
    | with_reducible apply Keeps.parts
    | (refine fun (p : Part) hp => ?_; cases p <;> first | exact absurd hp (by decide) | simp only [SideState.sameIn])

theorem SideState.learn_keeps (s : SideState) (port src vid : Nat) : Keeps (some [0x06]) [.net, .perf] s (SideState.learn s port src vid) := by
  unfold SideState.learn
  try dsimp only
  repeat' first
    | with_reducible apply Keeps.self
    | with_reducible assumption
    | with_reducible apply Keeps.ite
    | with_reducible apply Keeps.step (SideState.count_keeps _ _ _)
    | exact rfl
    | with_reducible apply Keeps.parts
    | (refine fun (p : Part) hp => ?_; cases p <;> first | exact absurd hp (by decide) | simp only [SideState.sameIn])

theorem SideState.showNodes_keeps (s : SideState) : Keeps (some [0x1B]) [] s (SideState.showNodes s) := by
  unfold SideState.showNodes
  try dsimp only
  repeat' first
    | with_reducible apply Keeps.self
    | with_reducible assumption
    | with_reducible apply Keeps.set
    | with_reducible apply Keeps.setB
    | exact rfl

theorem SideState.judgeRedundant_keeps (s : SideState) (port src seq : Nat) : KeepsP (some [0x03, 0x05, 0x06, 0x08, 0x09, 0x10, 0x14, 0x1B]) [.twin, .net, .fault, .perf] s (SideState.judgeRedundant s port src seq) := by
  unfold SideState.judgeRedundant
  try dsimp only
  repeat' first
    | with_reducible apply Keeps.self
    | with_reducible assumption
    | with_reducible apply Keeps.ite
    | with_reducible apply KeepsP.ite
    | with_reducible apply Keeps.bump
    | with_reducible apply Keeps.evt
    | with_reducible apply Keeps.step (SideState.showNodes_keeps _)
    | with_reducible apply Keeps.step (SideState.raise_keeps _ _)
    | with_reducible apply KeepsP.mk
    | exact rfl
    | split
    | with_reducible apply Keeps.parts
    | (refine fun (p : Part) hp => ?_; cases p <;> first | exact absurd hp (by decide) | simp only [SideState.sameIn])

theorem SideState.forward_keeps (s : SideState) (port pcp vid entry : Nat) (stamp : Int) (p : Packet) : Keeps (some [0x03, 0x05, 0x06, 0x08, 0x09, 0x10, 0x14, 0x1B]) [.twin, .net, .fault, .perf] s (SideState.forward s port pcp vid entry stamp p) := by
  unfold SideState.forward
  try dsimp only
  repeat' first
    | with_reducible apply Keeps.self
    | with_reducible assumption
    | with_reducible apply Keeps.ite
    | with_reducible apply Keeps.step (SideState.count_keeps _ _ _)
    | with_reducible apply Keeps.step (SideState.enqueue_keeps _ _ _ _)
    | with_reducible apply Keeps.foldl
    | exact rfl
    | with_reducible apply Keeps.parts
    | (refine fun (p : Part) hp => ?_; cases p <;> first | exact absurd hp (by decide) | simp only [SideState.sameIn])
    | intro _ _ _

theorem SideState.classifyFrame_keeps (s : SideState) (port len : Nat) (stamp : Int) (p : Packet) : Keeps (some [0x03, 0x05, 0x06, 0x08, 0x09, 0x10, 0x14, 0x18, 0x19, 0x1A, 0x1B, 0x1C]) [.twin, .net, .fault, .perf] s (SideState.classifyFrame s port len stamp p) := by
  unfold SideState.classifyFrame
  try dsimp only
  repeat' first
    | with_reducible apply Keeps.self
    | with_reducible assumption
    | with_reducible apply Keeps.ite
    | with_reducible apply Keeps.step (SideState.dropIngress_keeps _ _)
    | with_reducible apply KeepsP.step (SideState.police_keeps _ _ _ _ _ _)
    | with_reducible apply Keeps.step (SideState.forward_keeps _ _ _ _ _ _ _)
    | with_reducible apply Keeps.step (SideState.learn_keeps _ _ _ _)
    | with_reducible apply Keeps.bumpPort
    | exact rfl
    | decide
    | with_reducible apply Keeps.step (KeepsP.fst (SideState.police_keeps _ _ _ _ _ _))
    | with_reducible apply Keeps.step (KeepsP.of_eq (SideState.police_keeps _ _ _ _ _ _) (by assumption))
    | split

theorem SideState.receiveFrame_keeps (s : SideState) (port : Nat) (fcsOk : Bool) (f : List Byte) : Keeps (some [0x03, 0x05, 0x06, 0x08, 0x09, 0x10, 0x14, 0x18, 0x19, 0x1A, 0x1B, 0x1C]) [.twin, .net, .fault, .perf] s (SideState.receiveFrame s port fcsOk f) := by
  unfold SideState.receiveFrame
  try dsimp only
  repeat' first
    | with_reducible apply Keeps.self
    | with_reducible assumption
    | with_reducible apply Keeps.ite
    | with_reducible apply Keeps.evt
    | with_reducible apply Keeps.bumpPort
    | with_reducible apply KeepsP.step (SideState.judgeRedundant_keeps _ _ _ _)
    | with_reducible apply Keeps.step (SideState.count_keeps _ _ _)
    | with_reducible apply Keeps.step (SideState.dropIngress_keeps _ _)
    | with_reducible apply Keeps.step (SideState.classifyFrame_keeps _ _ _ _ _)
    | exact rfl
    | decide
    | exact onPages_portEvt rfl
    | with_reducible apply Keeps.step (KeepsP.fst (SideState.judgeRedundant_keeps _ _ _ _))
    | with_reducible apply Keeps.step (KeepsP.of_eq (SideState.judgeRedundant_keeps _ _ _ _) (by assumption))
    | split

theorem SideState.refreshShaper_keeps (s : SideState) (k : Nat) : Keeps (some []) [.net] s (SideState.refreshShaper s k) := by
  unfold SideState.refreshShaper
  try dsimp only
  repeat' first
    | with_reducible apply Keeps.self
    | with_reducible assumption
    | exact rfl
    | with_reducible apply Keeps.parts
    | (refine fun (p : Part) hp => ?_; cases p <;> first | exact absurd hp (by decide) | simp only [SideState.sameIn])

theorem SideState.residence_keeps (s : SideState) (n : Nat) (f : Frame) : KeepsP (some []) [.net] s (SideState.residence s n f) := by
  unfold SideState.residence
  try dsimp only
  repeat' first
    | with_reducible apply Keeps.self
    | with_reducible assumption
    | with_reducible apply Keeps.ite
    | with_reducible apply KeepsP.ite
    | with_reducible apply KeepsP.mk
    | exact rfl
    | split
    | with_reducible apply Keeps.parts
    | (refine fun (p : Part) hp => ?_; cases p <;> first | exact absurd hp (by decide) | simp only [SideState.sameIn])

theorem SideState.stampSent_keeps (s : SideState) (n : Nat) (f : Frame) : Keeps (some []) [.net] s (SideState.stampSent s n f) := by
  unfold SideState.stampSent
  try dsimp only
  repeat' first
    | with_reducible apply Keeps.self
    | with_reducible assumption
    | with_reducible apply Keeps.ite
    | exact rfl
    | with_reducible apply Keeps.parts
    | (refine fun (p : Part) hp => ?_; cases p <;> first | exact absurd hp (by decide) | simp only [SideState.sameIn])

theorem SideState.startFrame_keeps (s : SideState) (n q : Nat) : Keeps (some [0x03, 0x05, 0x06, 0x08, 0x09, 0x10, 0x14, 0x1B]) [.twin, .net, .fault, .perf] s (SideState.startFrame s n q) := by
  unfold SideState.startFrame
  try dsimp only
  repeat' first
    | with_reducible apply Keeps.self
    | with_reducible assumption
    | with_reducible apply Keeps.ite
    | with_reducible apply KeepsP.ite
    | with_reducible apply Keeps.step (SideState.setQueue_keeps _ _ _ _)
    | with_reducible apply Keeps.step (SideState.stampSent_keeps _ _ _)
    | with_reducible apply KeepsP.step (SideState.residence_keeps _ _ _)
    | with_reducible apply Keeps.step (SideState.checkHead_keeps _ _ _)
    | exact rfl
    | with_reducible apply Keeps.step (KeepsP.fst (SideState.residence_keeps _ _ _))
    | with_reducible apply Keeps.step (KeepsP.of_eq (SideState.residence_keeps _ _ _) (by assumption))
    | split
    | with_reducible apply Keeps.parts
    | (refine fun (p : Part) hp => ?_; cases p <;> first | exact absurd hp (by decide) | simp only [SideState.sameIn])

theorem SideState.selectEgress_keeps (s : SideState) (n : Nat) : Keeps (some [0x03, 0x05, 0x06, 0x08, 0x09, 0x10, 0x14, 0x1B]) [.twin, .net, .fault, .perf] s (SideState.selectEgress s n) := by
  unfold SideState.selectEgress
  try dsimp only
  repeat' first
    | with_reducible apply Keeps.self
    | with_reducible assumption
    | with_reducible apply Keeps.ite
    | with_reducible apply Keeps.step (SideState.markHeads_keeps _ _)
    | with_reducible apply Keeps.step (SideState.startFrame_keeps _ _ _)
    | with_reducible apply Keeps.step (SideState.refreshShaper_keeps _ _)
    | with_reducible apply Keeps.foldl
    | exact rfl
    | split
    | with_reducible apply Keeps.parts
    | intro _ _ _

theorem SideState.offerCue_keeps (s : SideState) (f : Frame) : Keeps (some []) [.net] s (SideState.offerCue s f) := by
  unfold SideState.offerCue
  try dsimp only
  repeat' first
    | with_reducible apply Keeps.self
    | with_reducible assumption
    | exact rfl
    | with_reducible apply Keeps.parts
    | (refine fun (p : Part) hp => ?_; cases p <;> first | exact absurd hp (by decide) | simp only [SideState.sameIn])

theorem SideState.offerImage_keeps (s : SideState) (f : Frame) : Keeps (some []) [.net] s (SideState.offerImage s f) := by
  unfold SideState.offerImage
  try dsimp only
  repeat' first
    | with_reducible apply Keeps.self
    | with_reducible assumption
    | exact rfl
    | with_reducible apply Keeps.parts
    | (refine fun (p : Part) hp => ?_; cases p <;> first | exact absurd hp (by decide) | simp only [SideState.sameIn])

theorem SideState.describe_keeps (s : SideState) (f : Frame) : Keeps (some []) [.net] s (SideState.describe s f) := by
  unfold SideState.describe
  try dsimp only
  repeat' first
    | with_reducible apply Keeps.self
    | with_reducible assumption
    | exact rfl
    | with_reducible apply Keeps.parts
    | (refine fun (p : Part) hp => ?_; cases p <;> first | exact absurd hp (by decide) | simp only [SideState.sameIn])

theorem SideState.sendPtp_keeps (s : SideState) (n port : Nat) (stamp : Int) (seq : Nat) (f : List Byte) : Keeps (some [0x03, 0x05, 0x06, 0x08, 0x09, 0x10, 0x14, 0x1B]) [.twin, .net, .fault, .perf] s (SideState.sendPtp s n port stamp seq f) := by
  unfold SideState.sendPtp
  try dsimp only
  repeat' first
    | with_reducible apply Keeps.self
    | with_reducible assumption
    | with_reducible apply Keeps.step (SideState.enqueue_keeps _ _ _ _)
    | exact rfl

theorem SideState.nextRedun_keeps (s : SideState) : Keeps (some []) [.net] s (SideState.nextRedun s) := by
  unfold SideState.nextRedun
  try dsimp only
  repeat' first
    | with_reducible apply Keeps.self
    | with_reducible assumption
    | with_reducible apply Keeps.ite
    | exact rfl
    | with_reducible apply Keeps.parts
    | (refine fun (p : Part) hp => ?_; cases p <;> first | exact absurd hp (by decide) | simp only [SideState.sameIn])

theorem SideState.answerPdelay_keeps (s : SideState) (f : Frame) : Keeps (some [0x03, 0x05, 0x06, 0x08, 0x09, 0x10, 0x14, 0x1B]) [.twin, .net, .fault, .perf] s (SideState.answerPdelay s f) := by
  unfold SideState.answerPdelay
  try dsimp only
  repeat' first
    | with_reducible apply Keeps.self
    | with_reducible assumption
    | with_reducible apply Keeps.ite
    | with_reducible apply Keeps.step (SideState.sendPtp_keeps _ _ _ _ _ _)
    | with_reducible apply Keeps.step (SideState.nextRedun_keeps _)
    | exact rfl
    | split

theorem SideState.changeSheet_keeps (s : SideState) (port : Nat) : Keeps (some [0x1D]) [.net] s (SideState.changeSheet s port) := by
  unfold SideState.changeSheet
  try dsimp only
  repeat' first
    | with_reducible apply Keeps.self
    | with_reducible assumption
    | with_reducible apply Keeps.ite
    | with_reducible apply Keeps.set
    | exact rfl
    | (dsimp only; exact rfl)
    | with_reducible apply Keeps.parts
    | (refine fun (p : Part) hp => ?_; cases p <;> first | exact absurd hp (by decide) | simp only [SideState.sameIn])

theorem SideState.writeFrames_keeps (s : SideState) (off : Nat) (l : List Byte) :
    Keeps (some []) [.net] s (s.writeFrames off l) := by
  induction l generalizing s off with
  | nil => exact Keeps.self
  | cons b t ih =>
    refine Keeps.trans (ih _ _) (Keeps.parts Keeps.self (fun (p : Part) hp => ?_))
    cases p <;> first | exact absurd hp (by decide) | simp only [SideState.sameIn]

end Sys2Proof.Machine
end

