-- ==== Sys2Proof/Laws/Time.lean ====
section
/-! SUPPORT. What each operation of Machine/Time.lean keeps. -/

set_option Elab.async false

namespace Sys2Proof.Machine

theorem SideState.setClock_keeps (s : SideState) (t : Nat) : Keeps (some []) [.time] s (SideState.setClock s t) := by
  unfold SideState.setClock
  try dsimp only
  repeat' first
    | with_reducible apply Keeps.self
    | with_reducible assumption
    | exact rfl
    | with_reducible apply Keeps.parts
    | (refine fun (p : Part) hp => ?_; cases p <;> first | exact absurd hp (by decide) | simp only [SideState.sameIn])

theorem SideState.unlock_keeps (s : SideState) : Keeps (some [0x1E]) [] s (SideState.unlock s) := by
  unfold SideState.unlock
  try dsimp only
  repeat' first
    | with_reducible apply Keeps.self
    | with_reducible assumption
    | with_reducible apply Keeps.ite
    | with_reducible apply Keeps.set
    | with_reducible apply Keeps.evt
    | exact rfl

theorem SideState.restartServo_keeps (s : SideState) : Keeps (some []) [.time] s (SideState.restartServo s) := by
  unfold SideState.restartServo
  try dsimp only
  repeat' first
    | with_reducible apply Keeps.self
    | with_reducible assumption
    | exact rfl
    | with_reducible apply Keeps.parts
    | (refine fun (p : Part) hp => ?_; cases p <;> first | exact absurd hp (by decide) | simp only [SideState.sameIn])

theorem SideState.recheckSheets_keeps (s : SideState) : Keeps (some [0x06]) [.net, .perf] s (SideState.recheckSheets s) := by
  unfold SideState.recheckSheets
  try dsimp only
  repeat' first
    | with_reducible apply Keeps.self
    | with_reducible assumption
    | with_reducible apply Keeps.ite
    | with_reducible apply Keeps.step (SideState.markHeads_keeps _ _)
    | with_reducible apply Keeps.foldl
    | exact rfl
    | with_reducible apply Keeps.parts
    | (refine fun (p : Part) hp => ?_; cases p <;> first | exact absurd hp (by decide) | simp only [SideState.sameIn])
    | intro _ _ _

theorem SideState.stepClock_keeps (s : SideState) (d : Int) : Keeps (some [0x03, 0x05, 0x06, 0x08, 0x09, 0x10, 0x14, 0x1E]) [.twin, .net, .time, .fault, .perf] s (SideState.stepClock s d) := by
  unfold SideState.stepClock
  try dsimp only
  repeat' first
    | with_reducible apply Keeps.self
    | with_reducible assumption
    | with_reducible apply Keeps.bump
    | with_reducible apply Keeps.evt
    | with_reducible apply Keeps.step (SideState.setClock_keeps _ _)
    | with_reducible apply Keeps.step (SideState.unlock_keeps _)
    | with_reducible apply Keeps.step (SideState.restartServo_keeps _)
    | with_reducible apply Keeps.step (SideState.count_keeps _ _ _)
    | with_reducible apply Keeps.step (SideState.recheckSheets_keeps _)
    | with_reducible apply Keeps.step (SideState.raise_keeps _ _)
    | exact rfl
    | with_reducible apply Keeps.parts
    | (refine fun (p : Part) hp => ?_; cases p <;> first | exact absurd hp (by decide) | simp only [SideState.sameIn])

theorem SideState.advanceClock_keeps (s : SideState) : Keeps (some []) [.time] s (SideState.advanceClock s) := by
  unfold SideState.advanceClock
  try dsimp only
  repeat' first
    | with_reducible apply Keeps.self
    | with_reducible assumption
    | with_reducible apply Keeps.step (SideState.setClock_keeps _ _)
    | exact rfl
    | with_reducible apply Keeps.parts
    | (refine fun (p : Part) hp => ?_; cases p <;> first | exact absurd hp (by decide) | simp only [SideState.sameIn])

theorem SideState.tryLock_keeps (s : SideState) : Keeps (some [0x1E]) [] s (SideState.tryLock s) := by
  unfold SideState.tryLock
  try dsimp only
  repeat' first
    | with_reducible apply Keeps.self
    | with_reducible assumption
    | with_reducible apply Keeps.ite
    | with_reducible apply Keeps.set
    | with_reducible apply Keeps.evt
    | exact rfl

theorem SideState.showPhase_keeps (s : SideState) : Keeps (some [0x1E]) [] s (SideState.showPhase s) := by
  unfold SideState.showPhase
  try dsimp only
  repeat' first
    | with_reducible apply Keeps.self
    | with_reducible assumption
    | with_reducible apply Keeps.set
    | with_reducible apply Keeps.setB
    | with_reducible apply Keeps.step (SideState.tryLock_keeps _)
    | exact rfl

theorem SideState.piUpdate_keeps (s : SideState) (o : Int) : Keeps (some [0x1E]) [] s (SideState.piUpdate s o) := by
  unfold SideState.piUpdate
  try dsimp only
  repeat' first
    | with_reducible apply Keeps.self
    | with_reducible assumption
    | with_reducible apply Keeps.set
    | exact rfl

theorem SideState.countLock_keeps (s : SideState) (o : Int) : Keeps (some [0x03, 0x05, 0x06, 0x08, 0x09, 0x10, 0x14, 0x1E]) [.twin, .time, .fault, .perf] s (SideState.countLock s o) := by
  unfold SideState.countLock
  try dsimp only
  repeat' first
    | with_reducible apply Keeps.self
    | with_reducible assumption
    | with_reducible apply Keeps.ite
    | with_reducible apply Keeps.step (SideState.unlock_keeps _)
    | with_reducible apply Keeps.step (SideState.raise_keeps _ _)
    | with_reducible apply Keeps.step (SideState.tryLock_keeps _)
    | exact rfl
    | with_reducible apply Keeps.parts
    | (refine fun (p : Part) hp => ?_; cases p <;> first | exact absurd hp (by decide) | simp only [SideState.sameIn])

theorem SideState.servo_keeps (s : SideState) (o : Int) (ptp : Bool) : Keeps (some [0x03, 0x05, 0x06, 0x08, 0x09, 0x10, 0x14, 0x1E]) [.twin, .net, .time, .fault, .perf] s (SideState.servo s o ptp) := by
  unfold SideState.servo
  try dsimp only
  repeat' first
    | with_reducible apply Keeps.self
    | with_reducible assumption
    | with_reducible apply Keeps.ite
    | with_reducible apply Keeps.set
    | with_reducible apply Keeps.step (SideState.stepClock_keeps _ _)
    | with_reducible apply Keeps.step (SideState.piUpdate_keeps _ _)
    | with_reducible apply Keeps.step (SideState.countLock_keeps _ _)
    | exact rfl
    | with_reducible apply Keeps.parts
    | (refine fun (p : Part) hp => ?_; cases p <;> first | exact absurd hp (by decide) | simp only [SideState.sameIn])

theorem SideState.selectMaster_keeps (s : SideState) : Keeps (some [0x03, 0x05, 0x06, 0x08, 0x09, 0x10, 0x14, 0x1E]) [.twin, .time, .fault, .perf] s (SideState.selectMaster s) := by
  unfold SideState.selectMaster
  try dsimp only
  repeat' first
    | with_reducible apply Keeps.self
    | with_reducible assumption
    | with_reducible apply Keeps.ite
    | with_reducible apply Keeps.set
    | with_reducible apply Keeps.evt
    | with_reducible apply Keeps.step (SideState.raise_keeps _ _)
    | exact rfl
    | split
    | with_reducible apply Keeps.parts
    | (refine fun (p : Part) hp => ?_; cases p <;> first | exact absurd hp (by decide) | simp only [SideState.sameIn])

theorem SideState.watchRate_keeps (s : SideState) : Keeps (some []) [.time] s (SideState.watchRate s) := by
  unfold SideState.watchRate
  try dsimp only
  repeat' first
    | with_reducible apply Keeps.self
    | with_reducible assumption
    | with_reducible apply Keeps.ite
    | exact rfl
    | with_reducible apply Keeps.parts
    | (refine fun (p : Part) hp => ?_; cases p <;> first | exact absurd hp (by decide) | simp only [SideState.sameIn])

end Sys2Proof.Machine
end

