-- ==== Sys2Proof/Laws/Tracks.lean ====
section
/-! SUPPORT. What each operation of Machine/Tracks.lean keeps. -/

set_option Elab.async false

namespace Sys2Proof.Machine

theorem SideState.showPipe_keeps (s : SideState) : Keeps (some [0x0B]) [] s (SideState.showPipe s) := by
  unfold SideState.showPipe
  try dsimp only
  repeat' first
    | with_reducible apply Keeps.self
    | with_reducible assumption
    | with_reducible apply Keeps.set
    | exact rfl

theorem SideState.setTrk_keeps (s : SideState) (e : Nat) (t : TrkEntry) : Keeps (some [0x0B]) [.pipe, .twin] s (SideState.setTrk s e t) := by
  unfold SideState.setTrk
  try dsimp only
  repeat' first
    | with_reducible apply Keeps.self
    | with_reducible assumption
    | with_reducible apply Keeps.ite
    | with_reducible apply Keeps.step (SideState.showPipe_keeps _)
    | with_reducible apply Keeps.step (SideState.emit_keeps _ _)
    | exact rfl
    | with_reducible apply Keeps.parts
    | (refine fun (p : Part) hp => ?_; cases p <;> first | exact absurd hp (by decide) | simp only [SideState.sameIn])

theorem SideState.sendStatus_keeps (s : SideState) (r : Status) : Keeps (some [0x03, 0x05, 0x06, 0x08, 0x09, 0x10, 0x14, 0x18, 0x19, 0x1A, 0x1B, 0x1C]) [.twin, .net, .fault, .perf] s (SideState.sendStatus s r) := by
  unfold SideState.sendStatus
  try dsimp only
  repeat' first
    | with_reducible apply Keeps.self
    | with_reducible assumption
    | with_reducible apply Keeps.ite
    | with_reducible apply Keeps.step (SideState.receiveFrame_keeps _ _ _ _)
    | exact rfl

theorem SideState.reply_keeps (s : SideState) (e : Nat) : Keeps (some [0x03, 0x05, 0x06, 0x08, 0x09, 0x10, 0x14, 0x18, 0x19, 0x1A, 0x1B, 0x1C]) [.twin, .net, .fault, .perf] s (SideState.reply s e) := by
  unfold SideState.reply
  try dsimp only
  repeat' first
    | with_reducible apply Keeps.self
    | with_reducible assumption
    | with_reducible apply Keeps.ite
    | with_reducible apply Keeps.step (SideState.sendStatus_keeps _ _)
    | exact rfl

theorem SideState.writeArea_keeps (s : SideState) (e code cycles : Nat) (list : List DistEntry) : Keeps (some [0x03, 0x05, 0x06, 0x08, 0x09, 0x0C, 0x10, 0x14]) [.mem, .ecc, .twin, .fault, .perf] s (SideState.writeArea s e code cycles list) := by
  unfold SideState.writeArea
  try dsimp only
  repeat' first
    | with_reducible apply Keeps.self
    | with_reducible assumption
    | with_reducible apply Keeps.ite
    | with_reducible apply Keeps.evt
    | with_reducible apply Keeps.step (SideState.raise_keeps _ _)
    | with_reducible apply Keeps.step (SideState.wrBytes_keeps _ _ _)
    | exact rfl

theorem SideState.engineEnd_keeps (s : SideState) (e code cycles incr : Nat) (list : List DistEntry) (attempt2 byIncr : Bool) : Keeps (some [0x03, 0x05, 0x06, 0x08, 0x09, 0x0C, 0x10, 0x14]) [.mem, .ecc, .pipe, .twin, .fault, .perf] s (SideState.engineEnd s e code cycles incr list attempt2 byIncr) := by
  unfold SideState.engineEnd
  try dsimp only
  repeat' first
    | with_reducible apply Keeps.self
    | with_reducible assumption
    | with_reducible apply Keeps.ite
    | with_reducible apply Keeps.set
    | with_reducible apply Keeps.setB
    | with_reducible apply Keeps.bump
    | with_reducible apply Keeps.evt
    | with_reducible apply Keeps.step (SideState.writeArea_keeps _ _ _ _ _)
    | with_reducible apply Keeps.step (SideState.count_keeps _ _ _)
    | with_reducible apply Keeps.step (SideState.raise_keeps _ _)
    | exact rfl
    | with_reducible apply Keeps.parts
    | (refine fun (p : Part) hp => ?_; cases p <;> first | exact absurd hp (by decide) | simp only [SideState.sameIn])

theorem SideState.engineAbort_keeps (s : SideState) (e : Nat) : Keeps (some [0x03, 0x05, 0x06, 0x08, 0x09, 0x0C, 0x10, 0x14]) [.mem, .ecc, .pipe, .twin, .fault, .perf] s (SideState.engineAbort s e) := by
  unfold SideState.engineAbort
  try dsimp only
  repeat' first
    | with_reducible apply Keeps.self
    | with_reducible assumption
    | with_reducible apply Keeps.step (SideState.engineEnd_keeps _ _ _ _ _ _ _ _)
    | exact rfl

theorem SideState.emitEdge_keeps (s : SideState) (c : Nat) : Keeps (some []) [.twin] s (SideState.emitEdge s c) := by
  unfold SideState.emitEdge
  try dsimp only
  repeat' first
    | with_reducible apply Keeps.self
    | with_reducible assumption
    | with_reducible apply Keeps.step (SideState.emit_keeps _ _)
    | exact rfl

theorem SideState.unstageCell_keeps (s : SideState) (p : CellPlan) : Keeps (some []) [.mem, .ecc, .scene, .twin] s (SideState.unstageCell s p) := by
  unfold SideState.unstageCell
  try dsimp only
  repeat' first
    | with_reducible apply Keeps.self
    | with_reducible assumption
    | with_reducible apply Keeps.ite
    | with_reducible apply Keeps.step (SideState.wrBytes_keeps _ _ _)
    | with_reducible apply Keeps.step (SideState.emitEdge_keeps _ _)
    | with_reducible apply Keeps.step (SideState.withdrawDo_keeps _ _)
    | with_reducible apply Keeps.step (SideState.emit_keeps _ _)
    | exact rfl
    | split
    | with_reducible apply Keeps.parts
    | (refine fun (p : Part) hp => ?_; cases p <;> first | exact absurd hp (by decide) | simp only [SideState.sameIn])

theorem SideState.withdrawCurtain_keeps (s : SideState) (e : Nat) : Keeps (some [0x09]) [.watch] s (SideState.withdrawCurtain s e) := by
  unfold SideState.withdrawCurtain
  try dsimp only
  repeat' first
    | with_reducible apply Keeps.self
    | with_reducible assumption
    | with_reducible apply Keeps.ite
    | with_reducible apply Keeps.set
    | exact rfl
    | with_reducible apply Keeps.parts
    | (refine fun (p : Part) hp => ?_; cases p <;> first | exact absurd hp (by decide) | simp only [SideState.sameIn])

theorem SideState.unstage_keeps (s : SideState) (e : Nat) : Keeps (some [0x03, 0x05, 0x06, 0x08, 0x09, 0x0C, 0x10, 0x14]) [.mem, .ecc, .scene, .pipe, .twin, .fault, .perf] s (SideState.unstage s e) := by
  unfold SideState.unstage
  try dsimp only
  repeat' first
    | with_reducible apply Keeps.self
    | with_reducible assumption
    | with_reducible apply Keeps.ite
    | with_reducible apply Keeps.step (SideState.unstageCell_keeps _ _)
    | with_reducible apply Keeps.step (SideState.engineAbort_keeps _ _)
    | with_reducible apply Keeps.foldl
    | exact rfl
    | with_reducible apply Keeps.parts
    | (refine fun (p : Part) hp => ?_; cases p <;> first | exact absurd hp (by decide) | simp only [SideState.sameIn])
    | intro _ _ _

theorem SideState.closeCue_keeps (s : SideState) (e : Nat) (st : CueState) (reason : Nat) : Keeps (some [0x03, 0x05, 0x06, 0x08, 0x09, 0x0B, 0x0C, 0x10, 0x14, 0x18, 0x19, 0x1A, 0x1B, 0x1C]) [.mem, .ecc, .scene, .pipe, .twin, .net, .fault, .perf] s (SideState.closeCue s e st reason) := by
  unfold SideState.closeCue
  try dsimp only
  repeat' first
    | with_reducible apply Keeps.self
    | with_reducible assumption
    | with_reducible apply Keeps.ite
    | with_reducible apply Keeps.evt
    | with_reducible apply Keeps.step (SideState.unstage_keeps _ _)
    | with_reducible apply Keeps.step (SideState.setTrk_keeps _ _ _)
    | with_reducible apply Keeps.step (SideState.count_keeps _ _ _)
    | with_reducible apply Keeps.step (SideState.reply_keeps _ _)
    | exact rfl
    | split
    | with_reducible apply Keeps.parts
    | (refine fun (p : Part) hp => ?_; cases p <;> first | exact absurd hp (by decide) | simp only [SideState.sameIn])

theorem SideState.dropCue_keeps (s : SideState) (e : Nat) (st : CueState) (reason : Nat) : Keeps (some [0x03, 0x05, 0x06, 0x08, 0x09, 0x0B, 0x0C, 0x10, 0x14, 0x18, 0x19, 0x1A, 0x1B, 0x1C]) [.mem, .ecc, .scene, .pipe, .watch, .twin, .net, .fault, .perf] s (SideState.dropCue s e st reason) := by
  unfold SideState.dropCue
  try dsimp only
  repeat' first
    | with_reducible apply Keeps.self
    | with_reducible assumption
    | with_reducible apply Keeps.ite
    | with_reducible apply Keeps.step (SideState.closeCue_keeps _ _ _ _)
    | with_reducible apply Keeps.step (SideState.withdrawCurtain_keeps _ _)
    | exact rfl

theorem SideState.endCue_keeps (s : SideState) (e : Nat) (st : CueState) (reason : Nat) : Keeps (some [0x03, 0x05, 0x06, 0x08, 0x09, 0x0B, 0x0C, 0x10, 0x14, 0x18, 0x19, 0x1A, 0x1B, 0x1C]) [.mem, .ecc, .scene, .pipe, .watch, .twin, .net, .fault, .perf] s (SideState.endCue s e st reason) := by
  unfold SideState.endCue
  try dsimp only
  repeat' first
    | with_reducible apply Keeps.self
    | with_reducible assumption
    | with_reducible apply Keeps.ite
    | with_reducible apply Keeps.step (SideState.dropCue_keeps _ _ _ _)
    | with_reducible apply Keeps.step (SideState.closeCue_keeps _ _ _ _)
    | with_reducible apply Keeps.foldl
    | exact rfl
    | intro _ _ _

theorem SideState.cancelAll_keeps (s : SideState) (reason : Nat) (which : TrkEntry → Bool) : Keeps (some [0x03, 0x05, 0x06, 0x08, 0x09, 0x0B, 0x0C, 0x10, 0x14, 0x18, 0x19, 0x1A, 0x1B, 0x1C]) [.mem, .ecc, .scene, .pipe, .twin, .net, .fault, .perf] s (SideState.cancelAll s reason which) := by
  unfold SideState.cancelAll
  try dsimp only
  repeat' first
    | with_reducible apply Keeps.self
    | with_reducible assumption
    | with_reducible apply Keeps.step (SideState.closeCue_keeps _ _ _ _)
    | with_reducible apply Keeps.foldl
    | exact rfl
    | intro _ _ _

theorem SideState.cancelUnarmed_keeps (s : SideState) (reason : Nat) : Keeps (some [0x03, 0x05, 0x06, 0x08, 0x09, 0x0B, 0x0C, 0x10, 0x14, 0x18, 0x19, 0x1A, 0x1B, 0x1C]) [.mem, .ecc, .scene, .pipe, .twin, .net, .fault, .perf] s (SideState.cancelUnarmed s reason) := by
  unfold SideState.cancelUnarmed
  try dsimp only
  repeat' first
    | with_reducible apply Keeps.self
    | with_reducible assumption
    | with_reducible apply Keeps.step (SideState.cancelAll_keeps _ _ _)
    | exact rfl

theorem SideState.takeSlot_keeps (s : SideState) : KeepsP (some [0x0B]) [.pipe, .twin] s (SideState.takeSlot s) := by
  unfold SideState.takeSlot
  try dsimp only
  repeat' first
    | with_reducible apply Keeps.self
    | with_reducible assumption
    | with_reducible apply Keeps.step (SideState.setTrk_keeps _ _ _)
    | with_reducible apply KeepsP.mk
    | exact rfl
    | split

theorem SideState.abortEntry_keeps (s : SideState) (e : Nat) : Keeps (some [0x03, 0x05, 0x06, 0x08, 0x09, 0x0B, 0x0C, 0x10, 0x14, 0x18, 0x19, 0x1A, 0x1B, 0x1C]) [.mem, .ecc, .scene, .pipe, .watch, .twin, .net, .fault, .perf] s (SideState.abortEntry s e) := by
  unfold SideState.abortEntry
  try dsimp only
  repeat' first
    | with_reducible apply Keeps.self
    | with_reducible assumption
    | with_reducible apply Keeps.ite
    | with_reducible apply Keeps.set
    | with_reducible apply Keeps.evt
    | with_reducible apply Keeps.step (SideState.endCue_keeps _ _ _ _)
    | exact rfl

end Sys2Proof.Machine
end

