-- ==== Sys2Proof/Laws/Engine.lean ====
section
/-! SUPPORT. What each operation of Machine/Engine.lean keeps. -/

set_option Elab.async false

namespace Sys2Proof.Machine

theorem SideState.readSlot_keeps (s : SideState) (n : Nat) : Keeps (some [0x06]) [.ecc, .perf] s (SideState.readSlot s n) := by
  unfold SideState.readSlot
  try dsimp only
  repeat' first
    | with_reducible apply Keeps.self
    | with_reducible assumption
    | with_reducible apply Keeps.step (SideState.scrubRange_keeps _ _ _)
    | exact rfl

theorem SideState.writeResult_keeps (s : SideState) (n : Nat) (cells : List Nat) : Keeps (some []) [.mem, .ecc, .twin, .perf] s (SideState.writeResult s n cells) := by
  unfold SideState.writeResult
  try dsimp only
  repeat' first
    | with_reducible apply Keeps.self
    | with_reducible assumption
    | with_reducible apply Keeps.step (SideState.countDiag_keeps _ _ _)
    | with_reducible apply Keeps.step (SideState.writeCells_keeps _ _ _)
    | with_reducible apply Keeps.step (SideState.setFlag_keeps _ _ _ _)
    | with_reducible apply Keeps.step (SideState.emitMem_keeps _ _ _)
    | exact rfl

theorem SideState.solveEnds_keeps (s : SideState) (e : Nat) (r : SolveResult) (fault : Option Nat) : Keeps (some [0x03, 0x05, 0x06, 0x08, 0x09, 0x0B, 0x0C, 0x10, 0x14, 0x18, 0x19, 0x1A, 0x1B, 0x1C]) [.mem, .ecc, .scene, .pipe, .watch, .twin, .net, .fault, .perf] s (SideState.solveEnds s e r fault) := by
  unfold SideState.solveEnds
  try dsimp only
  repeat' first
    | with_reducible apply Keeps.self
    | with_reducible assumption
    | with_reducible apply Keeps.ite
    | with_reducible apply Keeps.step (SideState.writeResult_keeps _ _ _)
    | with_reducible apply Keeps.step (SideState.engineEnd_keeps _ _ _ _ _ _ _ _)
    | with_reducible apply Keeps.step (SideState.raise_keeps _ _)
    | with_reducible apply Keeps.step (SideState.setTrk_keeps _ _ _)
    | with_reducible apply Keeps.step (SideState.endCue_keeps _ _ _ _)
    | exact rfl
    | split

theorem SideState.traceCurtain_keeps (s : SideState) : Keeps (some [0x03, 0x05, 0x06, 0x08, 0x09, 0x10, 0x14]) [.twin, .fault, .perf] s (SideState.traceCurtain s) := by
  unfold SideState.traceCurtain
  try dsimp only
  repeat' first
    | with_reducible apply Keeps.self
    | with_reducible assumption
    | with_reducible apply Keeps.ite
    | with_reducible apply Keeps.set
    | with_reducible apply Keeps.step (SideState.raise_keeps _ _)
    | exact rfl

theorem SideState.solveCurtain_keeps (s : SideState) (memoryFault : Bool) : Keeps (some [0x03, 0x05, 0x06, 0x08, 0x09, 0x10, 0x14]) [.mem, .ecc, .pipe, .twin, .fault, .perf] s (SideState.solveCurtain s memoryFault) := by
  unfold SideState.solveCurtain
  try dsimp only
  repeat' first
    | with_reducible apply Keeps.self
    | with_reducible assumption
    | with_reducible apply Keeps.ite
    | with_reducible apply Keeps.set
    | with_reducible apply Keeps.step (SideState.readSlot_keeps _ _)
    | with_reducible apply Keeps.step (SideState.count_keeps _ _ _)
    | with_reducible apply Keeps.step (SideState.checkAt_keeps _ _ _)
    | with_reducible apply Keeps.step (SideState.raiseIf_keeps _ _ _)
    | with_reducible apply Keeps.step (SideState.writeResult_keeps _ _ _)
    | with_reducible apply Keeps.step (SideState.traceCurtain_keeps _)
    | with_reducible apply Keeps.step (SideState.raise_keeps _ _)
    | exact rfl
    | with_reducible apply Keeps.parts
    | (refine fun (p : Part) hp => ?_; cases p <;> first | exact absurd hp (by decide) | simp only [SideState.sameIn])

end Sys2Proof.Machine
end

