-- ==== Sys2Proof/Laws/Edges.lean ====
section
/-! SUPPORT. What each operation of Machine/Edges.lean keeps. -/

set_option Elab.async false

namespace Sys2Proof.Machine

theorem SideState.recordPlan_keeps (s : SideState) (e : Nat) : Keeps (some [0x0B, 0x0D]) [.pipe, .twin] s (SideState.recordPlan s e) := by
  unfold SideState.recordPlan
  try dsimp only
  repeat' first
    | with_reducible apply Keeps.self
    | with_reducible assumption
    | with_reducible apply Keeps.evt
    | with_reducible apply Keeps.step (SideState.setTrk_keeps _ _ _)
    | exact rfl
    | split

theorem SideState.showHandovers_keeps (s : SideState) : Keeps (some [0x0D]) [] s (SideState.showHandovers s) := by
  unfold SideState.showHandovers
  try dsimp only
  repeat' first
    | with_reducible apply Keeps.self
    | with_reducible assumption
    | with_reducible apply Keeps.set
    | exact rfl

theorem SideState.dropStep_keeps (s : SideState) (c : Nat) : Keeps (some []) [.scene, .twin] s (SideState.dropStep s c) := by
  unfold SideState.dropStep
  try dsimp only
  repeat' first
    | with_reducible apply Keeps.self
    | with_reducible assumption
    | with_reducible apply Keeps.ite
    | with_reducible apply Keeps.step (SideState.withdrawDo_keeps _ _)
    | exact rfl
    | split
    | with_reducible apply Keeps.parts
    | (refine fun (p : Part) hp => ?_; cases p <;> first | exact absurd hp (by decide) | simp only [SideState.sameIn])

theorem SideState.armCell_keeps (s : SideState) (eff : Nat) (p : CellPlan) : Keeps (some [0x03, 0x05, 0x06, 0x08, 0x09, 0x0D, 0x10, 0x14]) [.mem, .ecc, .scene, .twin, .fault, .perf] s (SideState.armCell s eff p) := by
  unfold SideState.armCell
  try dsimp only
  repeat' first
    | with_reducible apply Keeps.self
    | with_reducible assumption
    | with_reducible apply Keeps.ite
    | with_reducible apply Keeps.evt
    | with_reducible apply Keeps.step (SideState.dropStep_keeps _ _)
    | with_reducible apply Keeps.step (SideState.tset_keeps _ _ _ _)
    | with_reducible apply Keeps.step (SideState.emitEdge_keeps _ _)
    | with_reducible apply Keeps.step (SideState.emit_keeps _ _)
    | with_reducible apply Keeps.step (SideState.raise_keeps _ _)
    | exact rfl
    | split

theorem SideState.stageScene_keeps (s : SideState) (entry : Option Nat) (n : Nat) (dark : Bool) (cells : List CellPlan) (outs : List OutPlan) : Keeps (some [0x03, 0x05, 0x06, 0x08, 0x09, 0x0D, 0x10, 0x14]) [.mem, .ecc, .scene, .twin, .fault, .perf] s (SideState.stageScene s entry n dark cells outs) := by
  unfold SideState.stageScene
  try dsimp only
  repeat' first
    | with_reducible apply Keeps.self
    | with_reducible assumption
    | with_reducible apply Keeps.set
    | with_reducible apply Keeps.setB
    | with_reducible apply Keeps.step (SideState.armCell_keeps _ _ _)
    | with_reducible apply Keeps.foldl
    | exact rfl
    | with_reducible apply Keeps.parts
    | (refine fun (p : Part) hp => ?_; cases p <;> first | exact absurd hp (by decide) | simp only [SideState.sameIn])
    | intro _ _ _

theorem SideState.degrade_keeps (s : SideState) (bit : Nat) : Keeps (some []) [.watch] s (SideState.degrade s bit) := by
  unfold SideState.degrade
  try dsimp only
  repeat' first
    | with_reducible apply Keeps.self
    | with_reducible assumption
    | exact rfl
    | with_reducible apply Keeps.parts
    | (refine fun (p : Part) hp => ?_; cases p <;> first | exact absurd hp (by decide) | simp only [SideState.sameIn])

theorem SideState.armEntry_keeps (s : SideState) (e n : Nat) : Keeps (some [0x03, 0x05, 0x06, 0x08, 0x09, 0x0B, 0x0C, 0x0D, 0x10, 0x14, 0x18, 0x19, 0x1A, 0x1B, 0x1C]) [.mem, .ecc, .scene, .pipe, .watch, .twin, .net, .fault, .perf] s (SideState.armEntry s e n) := by
  unfold SideState.armEntry
  try dsimp only
  repeat' first
    | with_reducible apply Keeps.self
    | with_reducible assumption
    | with_reducible apply Keeps.ite
    | with_reducible apply Keeps.step (SideState.degrade_keeps _ _)
    | with_reducible apply Keeps.step (SideState.endCue_keeps _ _ _ _)
    | with_reducible apply Keeps.step (SideState.owe_keeps _ _)
    | with_reducible apply Keeps.step (SideState.scrubWords_keeps _ _)
    | with_reducible apply Keeps.step (SideState.checkAt_keeps _ _ _)
    | with_reducible apply Keeps.step (SideState.stageScene_keeps _ _ _ _ _ _)
    | with_reducible apply Keeps.step (SideState.setTrk_keeps _ _ _)
    | with_reducible apply Keeps.step (SideState.count_keeps _ _ _)
    | with_reducible apply Keeps.step (SideState.reply_keeps _ _)
    | exact rfl

theorem SideState.armCurtain_keeps (s : SideState) : Keeps (some [0x03, 0x05, 0x06, 0x08, 0x09, 0x0B, 0x0C, 0x0D, 0x10, 0x14, 0x18, 0x19, 0x1A, 0x1B, 0x1C]) [.mem, .ecc, .scene, .pipe, .watch, .twin, .net, .fault, .perf] s (SideState.armCurtain s) := by
  unfold SideState.armCurtain
  try dsimp only
  repeat' first
    | with_reducible apply Keeps.self
    | with_reducible assumption
    | with_reducible apply Keeps.ite
    | with_reducible apply Keeps.set
    | with_reducible apply Keeps.step (SideState.owe_keeps _ _)
    | with_reducible apply Keeps.step (SideState.scrubWords_keeps _ _)
    | with_reducible apply Keeps.step (SideState.checkAt_keeps _ _ _)
    | with_reducible apply Keeps.step (SideState.endCue_keeps _ _ _ _)
    | with_reducible apply Keeps.step (SideState.stageScene_keeps _ _ _ _ _ _)
    | with_reducible apply Keeps.step (SideState.setTrk_keeps _ _ _)
    | with_reducible apply Keeps.step (SideState.count_keeps _ _ _)
    | with_reducible apply Keeps.step (SideState.reply_keeps _ _)
    | with_reducible apply Keeps.foldl
    | exact rfl
    | with_reducible apply Keeps.parts
    | (refine fun (p : Part) hp => ?_; cases p <;> first | exact absurd hp (by decide) | simp only [SideState.sameIn])
    | intro _ _ _

theorem SideState.askCurtain_keeps (s : SideState) (latch : Bool) : Keeps (some [0x03, 0x05, 0x06, 0x08, 0x09, 0x0B, 0x0C, 0x10, 0x14, 0x18, 0x19, 0x1A, 0x1B, 0x1C]) [.mem, .ecc, .scene, .pipe, .watch, .twin, .net, .fault, .perf] s (SideState.askCurtain s latch) := by
  unfold SideState.askCurtain
  try dsimp only
  repeat' first
    | with_reducible apply Keeps.self
    | with_reducible assumption
    | with_reducible apply Keeps.ite
    | with_reducible apply Keeps.set
    | with_reducible apply Keeps.step (SideState.count_keeps _ _ _)
    | with_reducible apply Keeps.step (SideState.cancelUnarmed_keeps _ _)
    | exact rfl
    | with_reducible apply Keeps.setC
    | split
    | with_reducible apply Keeps.parts
    | (refine fun (p : Part) hp => ?_; cases p <;> first | exact absurd hp (by decide) | simp only [SideState.sameIn])

theorem SideState.keepResume_keeps (s : SideState) (d : Nat) : Keeps (some []) [.mem, .ecc, .twin] s (SideState.keepResume s d) := by
  unfold SideState.keepResume
  try dsimp only
  repeat' first
    | with_reducible apply Keeps.self
    | with_reducible assumption
    | with_reducible apply Keeps.step (SideState.loopSet_keeps _ _ _ _)
    | exact rfl
    | split

theorem SideState.sceneValue_keeps (s : SideState) (d v : Nat) : Keeps (some []) [.drive, .twin] s (SideState.sceneValue s d v) := by
  unfold SideState.sceneValue
  try dsimp only
  repeat' first
    | with_reducible apply Keeps.self
    | with_reducible assumption
    | with_reducible apply Keeps.ite
    | with_reducible apply Keeps.step (SideState.writeBase_keeps _ _ _)
    | exact rfl

theorem SideState.darken_keeps (s : SideState) (q d : Nat) (toDark : Bool) : Keeps (some [0x06, 0x0E, 0x16, 0x17, 0x30, 0x31]) [.mem, .ecc, .drive, .mon, .loops, .cal, .twin, .perf] s (SideState.darken s q d toDark) := by
  unfold SideState.darken
  try dsimp only
  repeat' first
    | with_reducible apply Keeps.self
    | with_reducible assumption
    | with_reducible apply Keeps.ite
    | with_reducible apply Keeps.step (SideState.preempt_keeps _ _)
    | with_reducible apply Keeps.step (SideState.keepResume_keeps _ _)
    | with_reducible apply Keeps.step (SideState.toOwn_keeps _ _ _)
    | with_reducible apply Keeps.step (SideState.sceneValue_keeps _ _ _)
    | exact rfl

theorem SideState.relight_keeps (s : SideState) (d value due : Nat) : Keeps (some [0x06, 0x0E, 0x16, 0x17, 0x30, 0x31]) [.drive, .mon, .loops, .cal, .twin, .perf] s (SideState.relight s d value due) := by
  unfold SideState.relight
  try dsimp only
  repeat' first
    | with_reducible apply Keeps.self
    | with_reducible assumption
    | with_reducible apply Keeps.step (SideState.waitUntil_keeps _ _ _)
    | with_reducible apply Keeps.step (SideState.sceneValue_keeps _ _ _)
    | with_reducible apply Keeps.step (SideState.preempt_keeps _ _)
    | with_reducible apply Keeps.step (SideState.toOwn_keeps _ _ _)
    | exact rfl
    | split

theorem SideState.startBlank_keeps (s : SideState) (o : OutPlan) (edge : Nat) : Keeps (some [0x06, 0x0E, 0x16, 0x17, 0x30, 0x31]) [.mem, .ecc, .drive, .mon, .loops, .scene, .cal, .twin, .perf] s (SideState.startBlank s o edge) := by
  unfold SideState.startBlank
  try dsimp only
  repeat' first
    | with_reducible apply Keeps.self
    | with_reducible assumption
    | with_reducible apply Keeps.ite
    | with_reducible apply Keeps.step (SideState.darken_keeps _ _ _ _)
    | exact rfl
    | split
    | with_reducible apply Keeps.parts
    | (refine fun (p : Part) hp => ?_; cases p <;> first | exact absurd hp (by decide) | simp only [SideState.sameIn])

theorem SideState.endBlank_keeps (s : SideState) (b : Blanked) : Keeps (some [0x06, 0x0E, 0x16, 0x17, 0x30, 0x31]) [.drive, .mon, .loops, .scene, .cal, .twin, .perf] s (SideState.endBlank s b) := by
  unfold SideState.endBlank
  try dsimp only
  repeat' first
    | with_reducible apply Keeps.self
    | with_reducible assumption
    | with_reducible apply Keeps.ite
    | with_reducible apply Keeps.step (SideState.relight_keeps _ _ _ _)
    | with_reducible apply Keeps.step (SideState.sceneValue_keeps _ _ _)
    | exact rfl
    | split
    | with_reducible apply Keeps.parts
    | (refine fun (p : Part) hp => ?_; cases p <;> first | exact absurd hp (by decide) | simp only [SideState.sameIn])

theorem SideState.fires_keeps (s : SideState) (d : Nat) : Keeps (some []) [.scene] s (SideState.fires s d) := by
  unfold SideState.fires
  try dsimp only
  repeat' first
    | with_reducible apply Keeps.self
    | with_reducible assumption
    | exact rfl
    | with_reducible apply Keeps.parts
    | (refine fun (p : Part) hp => ?_; cases p <;> first | exact absurd hp (by decide) | simp only [SideState.sameIn])

theorem SideState.edgeOut_keeps (s : SideState) (o : OutPlan) : Keeps (some [0x06, 0x0E, 0x16, 0x17, 0x30, 0x31]) [.mem, .ecc, .drive, .mon, .loops, .scene, .cal, .twin, .perf] s (SideState.edgeOut s o) := by
  unfold SideState.edgeOut
  try dsimp only
  repeat' first
    | with_reducible apply Keeps.self
    | with_reducible assumption
    | with_reducible apply Keeps.ite
    | with_reducible apply Keeps.step (SideState.darken_keeps _ _ _ _)
    | with_reducible apply Keeps.step (SideState.count_keeps _ _ _)
    | with_reducible apply Keeps.step (SideState.fires_keeps _ _)
    | with_reducible apply Keeps.step (SideState.relight_keeps _ _ _ _)
    | exact rfl
    | split

theorem SideState.dropHandover_keeps (s : SideState) (c : Nat) : Keeps (some []) [.scene, .cal] s (SideState.dropHandover s c) := by
  unfold SideState.dropHandover
  try dsimp only
  repeat' first
    | with_reducible apply Keeps.self
    | with_reducible assumption
    | exact rfl
    | with_reducible apply Keeps.parts
    | (refine fun (p : Part) hp => ?_; cases p <;> first | exact absurd hp (by decide) | simp only [SideState.sameIn])

theorem SideState.setHo_keeps (s : SideState) (c ho paused step pause : Nat) : Keeps (some []) [.mem, .ecc, .twin] s (SideState.setHo s c ho paused step pause) := by
  unfold SideState.setHo
  try dsimp only
  repeat' first
    | with_reducible apply Keeps.self
    | with_reducible assumption
    | with_reducible apply Keeps.step (SideState.tset_keeps _ _ _ _)
    | with_reducible apply Keeps.step (SideState.emit_keeps _ _)
    | exact rfl

theorem SideState.took_keeps (s : SideState) (d : Nat) : Keeps (some []) [.scene] s (SideState.took s d) := by
  unfold SideState.took
  try dsimp only
  repeat' first
    | with_reducible apply Keeps.self
    | with_reducible assumption
    | exact rfl
    | with_reducible apply Keeps.parts
    | (refine fun (p : Part) hp => ?_; cases p <;> first | exact absurd hp (by decide) | simp only [SideState.sameIn])

theorem SideState.loopWaits_keeps (s : SideState) (c : Nat) : Keeps (some [0x06, 0x0E, 0x16, 0x17, 0x30, 0x31]) [.mem, .ecc, .drive, .mon, .loops, .scene, .cal, .twin, .perf] s (SideState.loopWaits s c) := by
  unfold SideState.loopWaits
  try dsimp only
  repeat' first
    | with_reducible apply Keeps.self
    | with_reducible assumption
    | with_reducible apply Keeps.ite
    | with_reducible apply Keeps.step (SideState.preempt_keeps _ _)
    | with_reducible apply Keeps.step (SideState.took_keeps _ _)
    | with_reducible apply Keeps.step (SideState.toOwn_keeps _ _ _)
    | with_reducible apply Keeps.step (SideState.loopSet_keeps _ _ _ _)
    | exact rfl
    | split

theorem SideState.sceneHolds_keeps (s : SideState) (c : Nat) (v : Option Nat) : Keeps (some [0x06, 0x0E, 0x16, 0x17, 0x30, 0x31]) [.drive, .mon, .loops, .scene, .cal, .twin, .perf] s (SideState.sceneHolds s c v) := by
  unfold SideState.sceneHolds
  try dsimp only
  repeat' first
    | with_reducible apply Keeps.self
    | with_reducible assumption
    | with_reducible apply Keeps.ite
    | with_reducible apply Keeps.step (SideState.preempt_keeps _ _)
    | with_reducible apply Keeps.step (SideState.took_keeps _ _)
    | with_reducible apply Keeps.step (SideState.toOwn_keeps _ _ _)
    | with_reducible apply Keeps.step (SideState.putBase_keeps _ _ _)
    | exact rfl
    | split

theorem SideState.polTo_keeps (s : SideState) (c l : Nat) (b owed : Bool) : Keeps (some [0x0E]) [.mem, .ecc, .cal, .twin] s (SideState.polTo s c l b owed) := by
  unfold SideState.polTo
  try dsimp only
  repeat' first
    | with_reducible apply Keeps.self
    | with_reducible assumption
    | with_reducible apply Keeps.ite
    | with_reducible apply Keeps.step (SideState.loopSet_keeps _ _ _ _)
    | with_reducible apply Keeps.step (SideState.trigger_keeps _ _)
    | exact rfl
    | with_reducible apply Keeps.parts
    | (refine fun (p : Part) hp => ?_; cases p <;> first | exact absurd hp (by decide) | simp only [SideState.sameIn])

theorem SideState.edgeCell_keeps (s : SideState) (p : CellPlan) : Keeps (some [0x06, 0x0E, 0x16, 0x17, 0x30, 0x31]) [.mem, .ecc, .drive, .mon, .loops, .scene, .cal, .twin, .perf] s (SideState.edgeCell s p) := by
  unfold SideState.edgeCell
  try dsimp only
  repeat' first
    | with_reducible apply Keeps.self
    | with_reducible assumption
    | with_reducible apply Keeps.ite
    | with_reducible apply Keeps.step (SideState.dropHandover_keeps _ _)
    | with_reducible apply Keeps.step (SideState.sceneHolds_keeps _ _ _)
    | with_reducible apply Keeps.step (SideState.withdrawDo_keeps _ _)
    | with_reducible apply Keeps.step (SideState.loopWaits_keeps _ _)
    | with_reducible apply Keeps.step (SideState.count_keeps _ _ _)
    | with_reducible apply Keeps.step (SideState.fires_keeps _ _)
    | with_reducible apply Keeps.step (SideState.setHo_keeps _ _ _ _ _ _)
    | with_reducible apply Keeps.step (SideState.polTo_keeps _ _ _ _ _)
    | exact rfl
    | split
    | with_reducible apply Keeps.parts
    | (refine fun (p : Part) hp => ?_; cases p <;> first | exact absurd hp (by decide) | simp only [SideState.sameIn])

theorem SideState.activate_keeps (s : SideState) (n : Nat) (dark : Bool) : Keeps (some [0x0B]) [.mem, .ecc, .scene, .twin] s (SideState.activate s n dark) := by
  unfold SideState.activate
  try dsimp only
  repeat' first
    | with_reducible apply Keeps.self
    | with_reducible assumption
    | with_reducible apply Keeps.ite
    | with_reducible apply Keeps.set
    | with_reducible apply Keeps.setB
    | with_reducible apply Keeps.step (SideState.setFlag_keeps _ _ _ _)
    | with_reducible apply Keeps.step (SideState.emitMem_keeps _ _ _)
    | exact rfl
    | with_reducible apply Keeps.parts
    | (refine fun (p : Part) hp => ?_; cases p <;> first | exact absurd hp (by decide) | simp only [SideState.sameIn])

theorem SideState.litPols_keeps (s : SideState) (v : SceneView) (changed : List Nat) : Keeps (some [0x0E]) [.mem, .ecc, .cal, .twin] s (SideState.litPols s v changed) := by
  unfold SideState.litPols
  try dsimp only
  repeat' first
    | with_reducible apply Keeps.self
    | with_reducible assumption
    | with_reducible apply Keeps.step (SideState.polTo_keeps _ _ _ _ _)
    | with_reducible apply Keeps.foldl
    | exact rfl
    | split
    | intro _ _ _

theorem SideState.fireStaged_keeps (s : SideState) (g : Staged) : Keeps (some [0x06, 0x0B, 0x0D, 0x0E, 0x16, 0x17, 0x30, 0x31]) [.mem, .ecc, .drive, .mon, .loops, .scene, .pipe, .cal, .twin, .perf] s (SideState.fireStaged s g) := by
  unfold SideState.fireStaged
  try dsimp only
  repeat' first
    | with_reducible apply Keeps.self
    | with_reducible assumption
    | with_reducible apply Keeps.ite
    | with_reducible apply Keeps.evt
    | with_reducible apply Keeps.step (SideState.startBlank_keeps _ _ _)
    | with_reducible apply Keeps.step (SideState.edgeCell_keeps _ _)
    | with_reducible apply Keeps.step (SideState.litPols_keeps _ _ _)
    | with_reducible apply Keeps.step (SideState.edgeOut_keeps _ _)
    | with_reducible apply Keeps.step (SideState.activate_keeps _ _ _)
    | with_reducible apply Keeps.step (SideState.setTrk_keeps _ _ _)
    | with_reducible apply Keeps.foldl
    | exact rfl
    | with_reducible apply Keeps.parts
    | (refine fun (p : Part) hp => ?_; cases p <;> first | exact absurd hp (by decide) | simp only [SideState.sameIn])
    | intro _ _ _

theorem SideState.fireDue_keeps (s : SideState) : Keeps (some [0x06, 0x09, 0x0B, 0x0D, 0x0E, 0x16, 0x17, 0x30, 0x31]) [.mem, .ecc, .drive, .mon, .loops, .scene, .pipe, .cal, .watch, .twin, .perf] s (SideState.fireDue s) := by
  unfold SideState.fireDue
  try dsimp only
  repeat' first
    | with_reducible apply Keeps.self
    | with_reducible assumption
    | with_reducible apply Keeps.ite
    | with_reducible apply Keeps.set
    | with_reducible apply Keeps.step (SideState.fireStaged_keeps _ _)
    | with_reducible apply Keeps.foldl
    | exact rfl
    | with_reducible apply Keeps.parts
    | (refine fun (p : Part) hp => ?_; cases p <;> first | exact absurd hp (by decide) | simp only [SideState.sameIn])
    | intro _ _ _

theorem SideState.clippedResult_keeps (s : SideState) : Keeps (some [0x03, 0x05, 0x06, 0x08, 0x09, 0x0E, 0x10, 0x14]) [.twin, .fault, .perf] s (SideState.clippedResult s) := by
  unfold SideState.clippedResult
  try dsimp only
  repeat' first
    | with_reducible apply Keeps.self
    | with_reducible assumption
    | with_reducible apply Keeps.bump
    | with_reducible apply Keeps.evt
    | with_reducible apply Keeps.step (SideState.raise_keeps _ _)
    | exact rfl

theorem SideState.stageResult_keeps (s : SideState) (r : CalResult) : Keeps (some []) [.cal] s (SideState.stageResult s r) := by
  unfold SideState.stageResult
  try dsimp only
  repeat' first
    | with_reducible apply Keeps.self
    | with_reducible assumption
    | exact rfl
    | with_reducible apply Keeps.parts
    | (refine fun (p : Part) hp => ?_; cases p <;> first | exact absurd hp (by decide) | simp only [SideState.sameIn])

theorem SideState.recordResidual_keeps (s : SideState) (h : Handover) (e l : Nat) : Keeps (some [0x03, 0x05, 0x06, 0x08, 0x09, 0x0E, 0x10, 0x14]) [.scene, .cal, .twin, .fault, .perf] s (SideState.recordResidual s h e l) := by
  unfold SideState.recordResidual
  try dsimp only
  repeat' first
    | with_reducible apply Keeps.self
    | with_reducible assumption
    | with_reducible apply Keeps.ite
    | with_reducible apply Keeps.step (SideState.clippedResult_keeps _)
    | with_reducible apply Keeps.step (SideState.raise_keeps _ _)
    | with_reducible apply Keeps.step (SideState.stageResult_keeps _ _)
    | exact rfl
    | with_reducible apply Keeps.parts
    | (refine fun (p : Part) hp => ?_; cases p <;> first | exact absurd hp (by decide) | simp only [SideState.sameIn])

theorem SideState.endHandover_keeps (s : SideState) (h : Handover) : Keeps (some [0x06, 0x0E]) [.mem, .ecc, .scene, .cal, .twin, .perf] s (SideState.endHandover s h) := by
  unfold SideState.endHandover
  try dsimp only
  repeat' first
    | with_reducible apply Keeps.self
    | with_reducible assumption
    | with_reducible apply Keeps.ite
    | with_reducible apply Keeps.step (SideState.dropHandover_keeps _ _)
    | with_reducible apply Keeps.step (SideState.setHo_keeps _ _ _ _ _ _)
    | with_reducible apply Keeps.step (SideState.count_keeps _ _ _)
    | with_reducible apply Keeps.step (SideState.trigger_keeps _ _)
    | exact rfl
    | split
    | with_reducible apply Keeps.parts
    | (refine fun (p : Part) hp => ?_; cases p <;> first | exact absurd hp (by decide) | simp only [SideState.sameIn])

theorem SideState.startRamp_keeps (s : SideState) (h : Handover) (e l : Nat) : Keeps (some [0x03, 0x05, 0x06, 0x08, 0x09, 0x0E, 0x10, 0x14, 0x17, 0x30, 0x31]) [.mem, .ecc, .drive, .loops, .scene, .cal, .twin, .fault, .perf, .free] s (SideState.startRamp s h e l) := by
  unfold SideState.startRamp
  try dsimp only
  repeat' first
    | with_reducible apply Keeps.self
    | with_reducible assumption
    | with_reducible apply Keeps.ite
    | with_reducible apply Keeps.step (SideState.recordResidual_keeps _ _ _ _)
    | with_reducible apply Keeps.step (SideState.toOwn_keeps _ _ _)
    | with_reducible apply Keeps.step (SideState.toLoop_keeps _ _)
    | with_reducible apply Keeps.step (SideState.loopSet_keeps _ _ _ _)
    | with_reducible apply Keeps.step (SideState.endHandover_keeps _ _)
    | with_reducible apply Keeps.step (SideState.setHo_keeps _ _ _ _ _ _)
    | exact rfl
    | with_reducible apply Keeps.parts
    | (refine fun (p : Part) hp => ?_; cases p <;> first | exact absurd hp (by decide) | simp only [SideState.sameIn])

theorem SideState.readEdge_keeps (s : SideState) (c : Nat) : Keeps (some [0x06]) [.ecc, .perf] s (SideState.readEdge s c) := by
  unfold SideState.readEdge
  try dsimp only
  repeat' first
    | with_reducible apply Keeps.self
    | with_reducible assumption
    | with_reducible apply Keeps.step (SideState.scrubRange_keeps _ _ _)
    | exact rfl

theorem SideState.handoverStep_keeps (s : SideState) (h : Handover) : Keeps (some [0x03, 0x05, 0x06, 0x08, 0x09, 0x0E, 0x10, 0x14, 0x17, 0x30, 0x31]) [.mem, .ecc, .drive, .loops, .scene, .cal, .twin, .fault, .perf, .free] s (SideState.handoverStep s h) := by
  unfold SideState.handoverStep
  try dsimp only
  repeat' first
    | with_reducible apply Keeps.self
    | with_reducible assumption
    | with_reducible apply Keeps.ite
    | with_reducible apply Keeps.step (SideState.readEdge_keeps _ _)
    | with_reducible apply Keeps.step (SideState.toEoHold_keeps _ _)
    | with_reducible apply Keeps.step (SideState.setHo_keeps _ _ _ _ _ _)
    | with_reducible apply Keeps.step (SideState.startRamp_keeps _ _ _ _)
    | with_reducible apply Keeps.step (SideState.putBase_keeps _ _ _)
    | with_reducible apply Keeps.step (SideState.count_keeps _ _ _)
    | with_reducible apply Keeps.step (SideState.endHandover_keeps _ _)
    | exact rfl
    | split
    | with_reducible apply Keeps.parts
    | (refine fun (p : Part) hp => ?_; cases p <;> first | exact absurd hp (by decide) | simp only [SideState.sameIn])

theorem SideState.stall_keeps (s : SideState) (c : Nat) : Keeps (some [0x03, 0x05, 0x06, 0x08, 0x09, 0x0D, 0x10, 0x14]) [.mem, .ecc, .scene, .twin, .fault, .perf] s (SideState.stall s c) := by
  unfold SideState.stall
  try dsimp only
  repeat' first
    | with_reducible apply Keeps.self
    | with_reducible assumption
    | with_reducible apply Keeps.bump
    | with_reducible apply Keeps.evt
    | with_reducible apply Keeps.step (SideState.dropStep_keeps _ _)
    | with_reducible apply Keeps.step (SideState.setHo_keeps _ _ _ _ _ _)
    | with_reducible apply Keeps.step (SideState.count_keeps _ _ _)
    | with_reducible apply Keeps.step (SideState.raise_keeps _ _)
    | with_reducible apply Keeps.step (SideState.showHandovers_keeps _)
    | exact rfl
    | with_reducible apply Keeps.parts
    | (refine fun (p : Part) hp => ?_; cases p <;> first | exact absurd hp (by decide) | simp only [SideState.sameIn])

theorem SideState.stallsAtBoundary_keeps (s : SideState) : Keeps (some [0x03, 0x05, 0x06, 0x08, 0x09, 0x0D, 0x10, 0x14, 0x17, 0x30, 0x31]) [.mem, .ecc, .drive, .loops, .scene, .twin, .fault, .perf, .free] s (SideState.stallsAtBoundary s) := by
  unfold SideState.stallsAtBoundary
  try dsimp only
  repeat' first
    | with_reducible apply Keeps.self
    | with_reducible assumption
    | with_reducible apply Keeps.ite
    | with_reducible apply Keeps.step (SideState.stall_keeps _ _)
    | with_reducible apply Keeps.step (SideState.toEoHold_keeps _ _)
    | with_reducible apply Keeps.foldl
    | exact rfl
    | split
    | with_reducible apply Keeps.parts
    | (refine fun (p : Part) hp => ?_; cases p <;> first | exact absurd hp (by decide) | simp only [SideState.sameIn])
    | intro _ _ _

theorem SideState.retriesAtBoundary_keeps (s : SideState) : Keeps (some [0x06, 0x0E, 0x16, 0x17, 0x30, 0x31]) [.mem, .ecc, .drive, .mon, .loops, .scene, .cal, .twin, .perf, .free] s (SideState.retriesAtBoundary s) := by
  unfold SideState.retriesAtBoundary
  try dsimp only
  repeat' first
    | with_reducible apply Keeps.self
    | with_reducible assumption
    | with_reducible apply Keeps.ite
    | with_reducible apply Keeps.step (SideState.toEoHold_keeps _ _)
    | with_reducible apply Keeps.step (SideState.sceneHolds_keeps _ _ _)
    | with_reducible apply Keeps.step (SideState.setHo_keeps _ _ _ _ _ _)
    | with_reducible apply Keeps.foldl
    | exact rfl
    | split
    | with_reducible apply Keeps.parts
    | (refine fun (p : Part) hp => ?_; cases p <;> first | exact absurd hp (by decide) | simp only [SideState.sameIn])
    | intro _ _ _

theorem SideState.handoversAtBoundary_keeps (s : SideState) : Keeps (some [0x03, 0x05, 0x06, 0x08, 0x09, 0x0D, 0x0E, 0x10, 0x14, 0x16, 0x17, 0x30, 0x31]) [.mem, .ecc, .drive, .mon, .loops, .scene, .cal, .twin, .fault, .perf, .free] s (SideState.handoversAtBoundary s) := by
  unfold SideState.handoversAtBoundary
  try dsimp only
  repeat' first
    | with_reducible apply Keeps.self
    | with_reducible assumption
    | with_reducible apply Keeps.step (SideState.handoverStep_keeps _ _)
    | with_reducible apply Keeps.step (SideState.stallsAtBoundary_keeps _)
    | with_reducible apply Keeps.step (SideState.retriesAtBoundary_keeps _)
    | with_reducible apply Keeps.step (SideState.showHandovers_keeps _)
    | with_reducible apply Keeps.foldl
    | exact rfl
    | intro _ _ _

theorem SideState.rampCell_keeps (s : SideState) (h : Handover) : Keeps (some [0x06, 0x0D]) [.mem, .ecc, .scene, .twin, .perf] s (SideState.rampCell s h) := by
  unfold SideState.rampCell
  try dsimp only
  repeat' first
    | with_reducible apply Keeps.self
    | with_reducible assumption
    | with_reducible apply Keeps.ite
    | with_reducible apply Keeps.bump
    | with_reducible apply Keeps.step (SideState.readEdge_keeps _ _)
    | with_reducible apply Keeps.step (SideState.setHo_keeps _ _ _ _ _ _)
    | with_reducible apply Keeps.step (SideState.emit_keeps _ _)
    | with_reducible apply Keeps.step (SideState.count_keeps _ _ _)
    | exact rfl
    | split
    | with_reducible apply Keeps.parts
    | (refine fun (p : Part) hp => ?_; cases p <;> first | exact absurd hp (by decide) | simp only [SideState.sameIn])

theorem SideState.rampWindow_keeps (s : SideState) : Keeps (some [0x06, 0x0D]) [.mem, .ecc, .scene, .twin, .perf] s (SideState.rampWindow s) := by
  unfold SideState.rampWindow
  try dsimp only
  repeat' first
    | with_reducible apply Keeps.self
    | with_reducible assumption
    | with_reducible apply Keeps.ite
    | with_reducible apply Keeps.step (SideState.rampCell_keeps _ _)
    | with_reducible apply Keeps.foldl
    | exact rfl
    | with_reducible apply Keeps.parts
    | (refine fun (p : Part) hp => ?_; cases p <;> first | exact absurd hp (by decide) | simp only [SideState.sameIn])
    | intro _ _ _

theorem SideState.settle_keeps (s : SideState) : Keeps (some [0x03, 0x05, 0x06, 0x08, 0x09, 0x0B, 0x0C, 0x0D, 0x10, 0x14, 0x18, 0x19, 0x1A, 0x1B, 0x1C]) [.mem, .ecc, .scene, .pipe, .watch, .twin, .net, .fault, .perf] s (SideState.settle s) := by
  unfold SideState.settle
  try dsimp only
  repeat' first
    | with_reducible apply Keeps.self
    | with_reducible assumption
    | with_reducible apply Keeps.ite
    | with_reducible apply Keeps.evt
    | with_reducible apply Keeps.step (SideState.endCue_keeps _ _ _ _)
    | with_reducible apply Keeps.foldl
    | exact rfl
    | with_reducible apply Keeps.parts
    | (refine fun (p : Part) hp => ?_; cases p <;> first | exact absurd hp (by decide) | simp only [SideState.sameIn])
    | intro _ _ _

theorem SideState.firstMiss_keeps (s : SideState) (c : Nat) : Keeps (some [0x03, 0x05, 0x06, 0x08, 0x09, 0x0D, 0x10, 0x14]) [.mem, .ecc, .scene, .twin, .fault, .perf] s (SideState.firstMiss s c) := by
  unfold SideState.firstMiss
  try dsimp only
  repeat' first
    | with_reducible apply Keeps.self
    | with_reducible assumption
    | with_reducible apply Keeps.bump
    | with_reducible apply Keeps.evt
    | with_reducible apply Keeps.step (SideState.dropStep_keeps _ _)
    | with_reducible apply Keeps.step (SideState.emit_keeps _ _)
    | with_reducible apply Keeps.step (SideState.tset_keeps _ _ _ _)
    | with_reducible apply Keeps.step (SideState.emitEdge_keeps _ _)
    | with_reducible apply Keeps.step (SideState.setHo_keeps _ _ _ _ _ _)
    | with_reducible apply Keeps.step (SideState.raise_keeps _ _)
    | exact rfl
    | split
    | with_reducible apply Keeps.parts
    | (refine fun (p : Part) hp => ?_; cases p <;> first | exact absurd hp (by decide) | simp only [SideState.sameIn])

theorem SideState.secondMiss_keeps (s : SideState) (c : Nat) : Keeps (some [0x03, 0x05, 0x06, 0x08, 0x09, 0x0D, 0x0E, 0x10, 0x14, 0x16, 0x17, 0x30, 0x31]) [.mem, .ecc, .drive, .mon, .loops, .scene, .cal, .twin, .fault, .perf] s (SideState.secondMiss s c) := by
  unfold SideState.secondMiss
  try dsimp only
  repeat' first
    | with_reducible apply Keeps.self
    | with_reducible assumption
    | with_reducible apply Keeps.ite
    | with_reducible apply Keeps.set
    | with_reducible apply Keeps.bump
    | with_reducible apply Keeps.evt
    | with_reducible apply Keeps.step (SideState.dropHandover_keeps _ _)
    | with_reducible apply Keeps.step (SideState.tset_keeps _ _ _ _)
    | with_reducible apply Keeps.step (SideState.sceneHolds_keeps _ _ _)
    | with_reducible apply Keeps.step (SideState.loopWaits_keeps _ _)
    | with_reducible apply Keeps.step (SideState.setHo_keeps _ _ _ _ _ _)
    | with_reducible apply Keeps.step (SideState.emitEdge_keeps _ _)
    | with_reducible apply Keeps.step (SideState.raise_keeps _ _)
    | with_reducible apply Keeps.foldl
    | exact rfl
    | with_reducible apply Keeps.parts
    | (refine fun (p : Part) hp => ?_; cases p <;> first | exact absurd hp (by decide) | simp only [SideState.sameIn])
    | intro _ _ _

theorem SideState.declared_keeps (s : SideState) (c : Nat) : Keeps (some [0x03, 0x05, 0x06, 0x08, 0x09, 0x0D, 0x0E, 0x10, 0x14, 0x16, 0x17, 0x30, 0x31]) [.mem, .ecc, .drive, .mon, .loops, .scene, .cal, .twin, .fault, .perf] s (SideState.declared s c) := by
  unfold SideState.declared
  try dsimp only
  repeat' first
    | with_reducible apply Keeps.self
    | with_reducible assumption
    | with_reducible apply Keeps.step (SideState.firstMiss_keeps _ _)
    | with_reducible apply Keeps.step (SideState.showHandovers_keeps _)
    | with_reducible apply Keeps.step (SideState.secondMiss_keeps _ _)
    | exact rfl
    | split

theorem SideState.refiresAtBoundary_keeps (s : SideState) : Keeps (some [0x06, 0x0E, 0x16, 0x17, 0x30, 0x31]) [.mem, .ecc, .drive, .mon, .loops, .scene, .cal, .twin, .perf] s (SideState.refiresAtBoundary s) := by
  unfold SideState.refiresAtBoundary
  try dsimp only
  repeat' first
    | with_reducible apply Keeps.self
    | with_reducible assumption
    | with_reducible apply Keeps.step (SideState.dropHandover_keeps _ _)
    | with_reducible apply Keeps.step (SideState.sceneHolds_keeps _ _ _)
    | with_reducible apply Keeps.step (SideState.loopWaits_keeps _ _)
    | with_reducible apply Keeps.step (SideState.setHo_keeps _ _ _ _ _ _)
    | with_reducible apply Keeps.step (SideState.count_keeps _ _ _)
    | with_reducible apply Keeps.foldl
    | exact rfl
    | split
    | with_reducible apply Keeps.parts
    | (refine fun (p : Part) hp => ?_; cases p <;> first | exact absurd hp (by decide) | simp only [SideState.sameIn])
    | intro _ _ _

theorem SideState.missOutputs_keeps (s : SideState) : Keeps (some [0x06, 0x0E, 0x16, 0x17, 0x30, 0x31]) [.mem, .ecc, .drive, .mon, .loops, .scene, .cal, .twin, .perf] s (SideState.missOutputs s) := by
  unfold SideState.missOutputs
  try dsimp only
  repeat' first
    | with_reducible apply Keeps.self
    | with_reducible assumption
    | with_reducible apply Keeps.ite
    | with_reducible apply Keeps.step (SideState.loopSet_keeps _ _ _ _)
    | with_reducible apply Keeps.step (SideState.darken_keeps _ _ _ _)
    | with_reducible apply Keeps.step (SideState.count_keeps _ _ _)
    | with_reducible apply Keeps.step (SideState.relight_keeps _ _ _ _)
    | with_reducible apply Keeps.foldl
    | exact rfl
    | split
    | with_reducible apply Keeps.parts
    | (refine fun (p : Part) hp => ?_; cases p <;> first | exact absurd hp (by decide) | simp only [SideState.sameIn])
    | intro _ _ _

theorem SideState.sceneAtBoundary_keeps (s : SideState) : Keeps (some [0x03, 0x05, 0x06, 0x08, 0x09, 0x0B, 0x0C, 0x0D, 0x0E, 0x10, 0x14, 0x16, 0x17, 0x18, 0x19, 0x1A, 0x1B, 0x1C, 0x30, 0x31]) [.mem, .ecc, .drive, .mon, .loops, .scene, .pipe, .cal, .watch, .twin, .net, .fault, .perf, .free] s (SideState.sceneAtBoundary s) := by
  unfold SideState.sceneAtBoundary
  try dsimp only
  repeat' first
    | with_reducible apply Keeps.self
    | with_reducible assumption
    | with_reducible apply Keeps.ite
    | with_reducible apply Keeps.step (SideState.showHandovers_keeps _)
    | with_reducible apply Keeps.step (SideState.fireDue_keeps _)
    | with_reducible apply Keeps.step (SideState.refiresAtBoundary_keeps _)
    | with_reducible apply Keeps.step (SideState.missOutputs_keeps _)
    | with_reducible apply Keeps.step (SideState.handoversAtBoundary_keeps _)
    | with_reducible apply Keeps.step (SideState.settle_keeps _)
    | with_reducible apply Keeps.foldl
    | exact rfl
    | with_reducible apply Keeps.parts
    | (refine fun (p : Part) hp => ?_; cases p <;> first | exact absurd hp (by decide) | simp only [SideState.sameIn])
    | intro _ _ _

end Sys2Proof.Machine
end

