-- ==== Sys2Proof/Laws/Calibration.lean ====
section
/-! SUPPORT. What each operation of Machine/Calibration.lean keeps. -/

set_option Elab.async false

namespace Sys2Proof.Machine

theorem SideState.calStat_keeps (s : SideState) (result reason : Nat) : Keeps (some [0x0E]) [] s (SideState.calStat s result reason) := by
  unfold SideState.calStat
  try dsimp only
  repeat' first
    | with_reducible apply Keeps.self
    | with_reducible assumption
    | with_reducible apply Keeps.set
    | exact rfl

theorem SideState.calRequest_keeps (s : SideState) (v kind : Nat) : Keeps (some [0x0E]) [.cal] s (SideState.calRequest s v kind) := by
  unfold SideState.calRequest
  try dsimp only
  repeat' first
    | with_reducible apply Keeps.self
    | with_reducible assumption
    | with_reducible apply Keeps.ite
    | with_reducible apply Keeps.writeRw
    | with_reducible apply Keeps.step (SideState.calStat_keeps _ _ _)
    | with_reducible apply Keeps.step (SideState.queueTrimRound_keeps _)
    | with_reducible apply Keeps.step (SideState.queueJob_keeps _ _)
    | exact rfl

theorem SideState.temperatureTrigger_keeps (s : SideState) : Keeps (some [0x0E]) [.cal] s (SideState.temperatureTrigger s) := by
  unfold SideState.temperatureTrigger
  try dsimp only
  repeat' first
    | with_reducible apply Keeps.self
    | with_reducible assumption
    | with_reducible apply Keeps.ite
    | with_reducible apply Keeps.step (SideState.queueRound_keeps _)
    | exact rfl

theorem SideState.calWrite_keeps (s : SideState) (last : Bool) (p : Nat × Nat) : Keeps (some [0x03, 0x05, 0x06, 0x08, 0x09, 0x10, 0x14, 0x20, 0x21, 0x22, 0x23, 0x24, 0x25, 0x26, 0x27, 0x28, 0x29]) [.drive, .twin, .fault, .perf] s (SideState.calWrite s last p) := by
  unfold SideState.calWrite
  try dsimp only
  repeat' first
    | with_reducible apply Keeps.self
    | with_reducible assumption
    | with_reducible apply Keeps.ite
    | with_reducible apply Keeps.step (SideState.pushFifo_keeps _ _ _)
    | exact rfl
    | exact onPages_driveGroup rfl (by decide) (by decide)
    | with_reducible apply Keeps.parts
    | (refine fun (p : Part) hp => ?_; cases p <;> first | exact absurd hp (by decide) | simp only [SideState.sameIn])

theorem SideState.putRun_keeps (s : SideState) (r : CalRun) : Keeps (some []) [.cal] s (SideState.putRun s r) := by
  unfold SideState.putRun
  try dsimp only
  repeat' first
    | with_reducible apply Keeps.self
    | with_reducible assumption
    | with_reducible apply Keeps.ite
    | exact rfl
    | with_reducible apply Keeps.parts
    | (refine fun (p : Part) hp => ?_; cases p <;> first | exact absurd hp (by decide) | simp only [SideState.sameIn])

theorem SideState.calWrites_keeps (s : SideState) (l : List (Nat × Nat)) :
    Keeps (some [0x03, 0x05, 0x06, 0x08, 0x09, 0x10, 0x14, 0x20, 0x21, 0x22, 0x23, 0x24, 0x25, 0x26, 0x27, 0x28, 0x29]) [.drive, .twin, .fault, .perf] s (s.calWrites l) := by
  induction l generalizing s with
  | nil => exact Keeps.self
  | cons p t ih => exact Keeps.trans (ih _) (Keeps.step (SideState.calWrite_keeps _ _ _) rfl rfl Keeps.self)

theorem SideState.beginPoint_keeps (s : SideState) (r : CalRun) : Keeps (some [0x03, 0x05, 0x06, 0x08, 0x09, 0x10, 0x14, 0x20, 0x21, 0x22, 0x23, 0x24, 0x25, 0x26, 0x27, 0x28, 0x29]) [.ecc, .drive, .cal, .twin, .fault, .perf] s (SideState.beginPoint s r) := by
  unfold SideState.beginPoint
  try dsimp only
  repeat' first
    | with_reducible apply Keeps.self
    | with_reducible assumption
    | with_reducible apply Keeps.step (SideState.putRun_keeps _ _)
    | with_reducible apply Keeps.step (SideState.scrubWords_keeps _ _)
    | with_reducible apply Keeps.step (SideState.calWrites_keeps _ _)
    | exact rfl
    | split

theorem SideState.advanceRun_keeps (s : SideState) (r : CalRun) : Keeps (some [0x03, 0x05, 0x06, 0x08, 0x09, 0x10, 0x14, 0x20, 0x21, 0x22, 0x23, 0x24, 0x25, 0x26, 0x27, 0x28, 0x29]) [.ecc, .drive, .cal, .twin, .fault, .perf] s (SideState.advanceRun s r) := by
  unfold SideState.advanceRun
  try dsimp only
  repeat' first
    | with_reducible apply Keeps.self
    | with_reducible assumption
    | with_reducible apply Keeps.ite
    | with_reducible apply Keeps.step (SideState.beginPoint_keeps _ _)
    | exact rfl
    | split

theorem SideState.moveMonitor_keeps (s : SideState) (r : CalRun) (mi : Nat) : KeepsP (some []) [.mon] s (SideState.moveMonitor s r mi) := by
  unfold SideState.moveMonitor
  try dsimp only
  repeat' first
    | with_reducible apply Keeps.self
    | with_reducible assumption
    | with_reducible apply Keeps.ite
    | with_reducible apply KeepsP.ite
    | with_reducible apply KeepsP.mk
    | exact rfl
    | with_reducible apply Keeps.parts
    | (refine fun (p : Part) hp => ?_; cases p <;> first | exact absurd hp (by decide) | simp only [SideState.sameIn])

theorem SideState.calTake_keeps (s : SideState) (d : Nat) : Keeps (some [0x06, 0x17, 0x30, 0x31]) [.mem, .ecc, .drive, .loops, .scene, .cal, .twin, .perf] s (SideState.calTake s d) := by
  unfold SideState.calTake
  try dsimp only
  repeat' first
    | with_reducible apply Keeps.self
    | with_reducible assumption
    | with_reducible apply Keeps.ite
    | with_reducible apply Keeps.step (SideState.toOwn_keeps _ _ _)
    | with_reducible apply Keeps.step (SideState.loopSet_keeps _ _ _ _)
    | with_reducible apply Keeps.step (SideState.dropHandover_keeps _ _)
    | with_reducible apply Keeps.step (SideState.setHo_keeps _ _ _ _ _ _)
    | exact rfl
    | split

theorem SideState.takeRun_keeps (s : SideState) (r : CalRun) : Keeps (some [0x03, 0x05, 0x06, 0x08, 0x09, 0x0D, 0x0E, 0x10, 0x14, 0x17, 0x20, 0x21, 0x22, 0x23, 0x24, 0x25, 0x26, 0x27, 0x28, 0x29, 0x30, 0x31]) [.mem, .ecc, .drive, .mon, .loops, .scene, .cal, .twin, .fault, .perf] s (SideState.takeRun s r) := by
  unfold SideState.takeRun
  try dsimp only
  repeat' first
    | with_reducible apply Keeps.self
    | with_reducible assumption
    | with_reducible apply Keeps.ite
    | with_reducible apply KeepsP.ite
    | with_reducible apply Keeps.step (SideState.calTake_keeps _ _)
    | with_reducible apply Keeps.step (SideState.showHandovers_keeps _)
    | with_reducible apply KeepsP.step (SideState.moveMonitor_keeps _ _ _)
    | with_reducible apply Keeps.step (SideState.beginPoint_keeps _ _)
    | with_reducible apply Keeps.step (SideState.abortRun_keeps _ _ _)
    | with_reducible apply Keeps.foldl
    | exact rfl
    | with_reducible apply Keeps.step (KeepsP.fst (SideState.moveMonitor_keeps _ _ _))
    | with_reducible apply Keeps.step (KeepsP.of_eq (SideState.moveMonitor_keeps _ _ _) (by assumption))
    | split
    | intro _ _ _

theorem SideState.addSample_keeps (s : SideState) (r : CalRun) (c : CalSet) : KeepsP (some [0x03, 0x05, 0x06, 0x08, 0x09, 0x10, 0x14]) [.twin, .fault, .perf] s (SideState.addSample s r c) := by
  unfold SideState.addSample
  try dsimp only
  repeat' first
    | with_reducible apply Keeps.self
    | with_reducible assumption
    | with_reducible apply Keeps.ite
    | with_reducible apply KeepsP.ite
    | with_reducible apply Keeps.step (SideState.raise_keeps _ _)
    | with_reducible apply KeepsP.mk
    | exact rfl
    | split

theorem SideState.phaseDone_keeps (s : SideState) (r : CalRun) : Keeps (some [0x03, 0x05, 0x06, 0x08, 0x09, 0x10, 0x14, 0x20, 0x21, 0x22, 0x23, 0x24, 0x25, 0x26, 0x27, 0x28, 0x29]) [.drive, .mon, .cal, .twin, .fault, .perf] s (SideState.phaseDone s r) := by
  unfold SideState.phaseDone
  try dsimp only
  repeat' first
    | with_reducible apply Keeps.self
    | with_reducible assumption
    | with_reducible apply Keeps.ite
    | with_reducible apply KeepsP.ite
    | with_reducible apply Keeps.step (SideState.putRun_keeps _ _)
    | with_reducible apply Keeps.step (SideState.calWrite_keeps _ _ _)
    | with_reducible apply Keeps.step (SideState.restoreMonitor_keeps _ _)
    | with_reducible apply KeepsP.step (SideState.moveMonitor_keeps _ _ _)
    | exact rfl
    | with_reducible apply Keeps.step (KeepsP.fst (SideState.moveMonitor_keeps _ _ _))
    | with_reducible apply Keeps.step (KeepsP.of_eq (SideState.moveMonitor_keeps _ _ _) (by assumption))
    | split

theorem SideState.sampleRun_keeps (s : SideState) (r : CalRun) : Keeps (some [0x03, 0x05, 0x06, 0x08, 0x09, 0x10, 0x14, 0x20, 0x21, 0x22, 0x23, 0x24, 0x25, 0x26, 0x27, 0x28, 0x29]) [.drive, .mon, .cal, .twin, .fault, .perf] s (SideState.sampleRun s r) := by
  unfold SideState.sampleRun
  try dsimp only
  repeat' first
    | with_reducible apply Keeps.self
    | with_reducible assumption
    | with_reducible apply Keeps.ite
    | with_reducible apply KeepsP.ite
    | with_reducible apply KeepsP.step (SideState.addSample_keeps _ _ _)
    | with_reducible apply Keeps.step (SideState.putRun_keeps _ _)
    | with_reducible apply Keeps.step (SideState.phaseDone_keeps _ _)
    | exact rfl
    | with_reducible apply Keeps.step (KeepsP.fst (SideState.addSample_keeps _ _ _))
    | with_reducible apply Keeps.step (KeepsP.of_eq (SideState.addSample_keeps _ _ _) (by assumption))
    | split

theorem SideState.within_keeps (s : SideState) (free : Bool) (lo hi v : Nat) : KeepsP (some [0x03, 0x05, 0x06, 0x08, 0x09, 0x0E, 0x10, 0x14]) [.twin, .fault, .perf] s (SideState.within s free lo hi v) := by
  unfold SideState.within
  try dsimp only
  repeat' first
    | with_reducible apply Keeps.self
    | with_reducible assumption
    | with_reducible apply Keeps.ite
    | with_reducible apply KeepsP.ite
    | with_reducible apply Keeps.step (SideState.clippedResult_keeps _)
    | with_reducible apply KeepsP.mk
    | exact rfl

theorem SideState.markBand_keeps (s : SideState) (free : Bool) (l mark : Nat) (band : Nat → Nat) : KeepsP (some [0x03, 0x05, 0x06, 0x08, 0x09, 0x0E, 0x10, 0x14]) [.twin, .fault, .perf] s (SideState.markBand s free l mark band) := by
  unfold SideState.markBand
  try dsimp only
  repeat' first
    | with_reducible apply Keeps.self
    | with_reducible assumption
    | with_reducible apply KeepsP.step (SideState.within_keeps _ _ _ _ _)
    | with_reducible apply KeepsP.mk
    | exact rfl
    | with_reducible apply Keeps.step (KeepsP.fst (SideState.within_keeps _ _ _ _ _))

theorem SideState.cellMarks_keeps (s : SideState) (r : CalRun) (free : Bool) (floor : Nat) (sets : List CalSet) (res : CalResult) : KeepsP (some [0x03, 0x05, 0x06, 0x08, 0x09, 0x0E, 0x10, 0x14]) [.twin, .fault, .perf] s (SideState.cellMarks s r free floor sets res) := by
  unfold SideState.cellMarks
  try dsimp only
  repeat' first
    | with_reducible apply Keeps.self
    | with_reducible assumption
    | with_reducible apply KeepsP.step (SideState.markBand_keeps _ _ _ _ _)
    | with_reducible apply KeepsP.mk
    | exact rfl
    | with_reducible apply Keeps.step (KeepsP.fst (SideState.markBand_keeps _ _ _ _ _))
    | with_reducible apply Keeps.step (KeepsP.of_eq (SideState.markBand_keeps _ _ _ _ _) (by assumption))
    | split

theorem SideState.knowLevel_keeps (s : SideState) (d : Nat) (capped : Bool) : Keeps (some []) [.cal, .free] s (SideState.knowLevel s d capped) := by
  unfold SideState.knowLevel
  try dsimp only
  repeat' first
    | with_reducible apply Keeps.self
    | with_reducible assumption
    | with_reducible apply Keeps.ite
    | with_reducible apply KeepsP.ite
    | with_reducible apply KeepsP.step (SideState.fresh_keeps _ _)
    | exact rfl
    | with_reducible apply Keeps.step (KeepsP.fst (SideState.fresh_keeps _ _))
    | split
    | with_reducible apply Keeps.parts
    | (refine fun (p : Part) hp => ?_; cases p <;> first | exact absurd hp (by decide) | simp only [SideState.sameIn])

theorem SideState.portMarks_keeps (s : SideState) (r : CalRun) (free capped : Bool) (d : Nat) (sets : List CalSet) (mid : CalSet) (res : CalResult) : KeepsP (some [0x03, 0x05, 0x06, 0x08, 0x09, 0x0E, 0x10, 0x14]) [.cal, .twin, .fault, .perf, .free] s (SideState.portMarks s r free capped d sets mid res) := by
  unfold SideState.portMarks
  try dsimp only
  repeat' first
    | with_reducible apply Keeps.self
    | with_reducible assumption
    | with_reducible apply Keeps.ite
    | with_reducible apply KeepsP.ite
    | with_reducible apply Keeps.step (SideState.knowLevel_keeps _ _ _)
    | with_reducible apply KeepsP.step (SideState.markBand_keeps _ _ _ _ _)
    | with_reducible apply KeepsP.step (SideState.within_keeps _ _ _ _ _)
    | with_reducible apply KeepsP.mk
    | exact rfl
    | with_reducible apply Keeps.step (KeepsP.fst (SideState.markBand_keeps _ _ _ _ _))
    | with_reducible apply Keeps.step (KeepsP.of_eq (SideState.markBand_keeps _ _ _ _ _) (by assumption))
    | with_reducible apply Keeps.step (KeepsP.fst (SideState.within_keeps _ _ _ _ _))
    | with_reducible apply Keeps.step (KeepsP.of_eq (SideState.within_keeps _ _ _ _ _) (by assumption))
    | split

theorem SideState.halfWave_keeps (s : SideState) (r : CalRun) (c e : Nat) (sets : List CalSet) (res : CalResult) : KeepsP (some [0x03, 0x05, 0x06, 0x08, 0x09, 0x10, 0x14]) [.twin, .fault, .perf] s (SideState.halfWave s r c e sets res) := by
  unfold SideState.halfWave
  try dsimp only
  repeat' first
    | with_reducible apply Keeps.self
    | with_reducible assumption
    | with_reducible apply Keeps.ite
    | with_reducible apply KeepsP.ite
    | with_reducible apply Keeps.step (SideState.raise_keeps _ _)
    | with_reducible apply KeepsP.mk
    | exact rfl
    | split

theorem SideState.leaveAt_keeps (s : SideState) (d v : Nat) : Keeps (some [0x03, 0x05, 0x06, 0x08, 0x09, 0x10, 0x14, 0x20, 0x21, 0x22, 0x23, 0x24, 0x25, 0x26, 0x27, 0x28, 0x29]) [.drive, .twin, .fault, .perf] s (SideState.leaveAt s d v) := by
  unfold SideState.leaveAt
  try dsimp only
  repeat' first
    | with_reducible apply Keeps.self
    | with_reducible assumption
    | with_reducible apply Keeps.ite
    | with_reducible apply Keeps.step (SideState.calWrite_keeps _ _ _)
    | exact rfl

theorem SideState.probeResult_keeps (s : SideState) (r : CalRun) (res : CalResult) : KeepsP (some [0x03, 0x05, 0x06, 0x08, 0x09, 0x10, 0x14]) [.twin, .fault, .perf, .free, .tap] s (SideState.probeResult s r res) := by
  unfold SideState.probeResult
  try dsimp only
  repeat' first
    | with_reducible apply Keeps.self
    | with_reducible assumption
    | with_reducible apply Keeps.ite
    | with_reducible apply KeepsP.ite
    | with_reducible apply Keeps.step (SideState.raise_keeps _ _)
    | with_reducible apply KeepsP.step (SideState.fresh_keeps _ _)
    | with_reducible apply Keeps.step (SideState.raiseIf_keeps _ _ _)
    | with_reducible apply KeepsP.mk
    | exact rfl
    | with_reducible apply Keeps.step (KeepsP.fst (SideState.fresh_keeps _ _))
    | with_reducible apply Keeps.step (KeepsP.of_eq (SideState.fresh_keeps _ _) (by assumption))
    | split
    | with_reducible apply Keeps.parts
    | (refine fun (p : Part) hp => ?_; cases p <;> first | exact absurd hp (by decide) | simp only [SideState.sameIn])

theorem SideState.sweepResult_keeps (s : SideState) (r : CalRun) (forecast : Option Nat) (res : CalResult) : KeepsP (some [0x03, 0x05, 0x06, 0x08, 0x09, 0x0E, 0x10, 0x14, 0x20, 0x21, 0x22, 0x23, 0x24, 0x25, 0x26, 0x27, 0x28, 0x29]) [.drive, .cal, .twin, .fault, .perf, .free] s (SideState.sweepResult s r forecast res) := by
  unfold SideState.sweepResult
  try dsimp only
  repeat' first
    | with_reducible apply Keeps.self
    | with_reducible assumption
    | with_reducible apply Keeps.ite
    | with_reducible apply KeepsP.ite
    | with_reducible apply Keeps.step (SideState.leaveAt_keeps _ _ _)
    | with_reducible apply KeepsP.step (SideState.cellMarks_keeps _ _ _ _ _ _)
    | with_reducible apply KeepsP.step (SideState.halfWave_keeps _ _ _ _ _ _)
    | with_reducible apply KeepsP.step (SideState.portMarks_keeps _ _ _ _ _ _ _ _)
    | with_reducible apply Keeps.step (SideState.raiseIf_keeps _ _ _)
    | with_reducible apply KeepsP.mk
    | exact rfl
    | with_reducible apply Keeps.step (KeepsP.fst (SideState.cellMarks_keeps _ _ _ _ _ _))
    | with_reducible apply Keeps.step (KeepsP.of_eq (SideState.cellMarks_keeps _ _ _ _ _ _) (by assumption))
    | with_reducible apply Keeps.step (KeepsP.fst (SideState.halfWave_keeps _ _ _ _ _ _))
    | with_reducible apply Keeps.step (KeepsP.of_eq (SideState.halfWave_keeps _ _ _ _ _ _) (by assumption))
    | with_reducible apply Keeps.step (KeepsP.fst (SideState.portMarks_keeps _ _ _ _ _ _ _ _))
    | with_reducible apply Keeps.step (KeepsP.of_eq (SideState.portMarks_keeps _ _ _ _ _ _ _ _) (by assumption))
    | split
    | with_reducible apply Keeps.parts
    | (refine fun (p : Part) hp => ?_; cases p <;> first | exact absurd hp (by decide) | simp only [SideState.sameIn])

theorem SideState.replanHalfWaves_keeps (s : SideState) : Keeps (some [0x03, 0x05, 0x06, 0x08, 0x09, 0x10, 0x14]) [.cal, .twin, .fault, .perf] s (SideState.replanHalfWaves s) := by
  unfold SideState.replanHalfWaves
  try dsimp only
  repeat' first
    | with_reducible apply Keeps.self
    | with_reducible assumption
    | with_reducible apply Keeps.ite
    | with_reducible apply Keeps.step (SideState.stageResult_keeps _ _)
    | with_reducible apply Keeps.step (SideState.raise_keeps _ _)
    | with_reducible apply Keeps.foldl
    | exact rfl
    | split
    | intro _ _ _

theorem SideState.roundDone_keeps (s : SideState) (t : Int) : Keeps (some [0x03, 0x05, 0x06, 0x08, 0x09, 0x0E, 0x10, 0x14]) [.cal, .twin, .fault, .perf] s (SideState.roundDone s t) := by
  unfold SideState.roundDone
  try dsimp only
  repeat' first
    | with_reducible apply Keeps.self
    | with_reducible assumption
    | with_reducible apply Keeps.set
    | with_reducible apply Keeps.step (SideState.replanHalfWaves_keeps _)
    | exact rfl
    | with_reducible apply Keeps.parts
    | (refine fun (p : Part) hp => ?_; cases p <;> first | exact absurd hp (by decide) | simp only [SideState.sameIn])

theorem SideState.roundEnd_keeps (s : SideState) : Keeps (some [0x03, 0x05, 0x06, 0x08, 0x09, 0x0E, 0x10, 0x14]) [.cal, .twin, .fault, .perf] s (SideState.roundEnd s) := by
  unfold SideState.roundEnd
  try dsimp only
  repeat' first
    | with_reducible apply Keeps.self
    | with_reducible assumption
    | with_reducible apply Keeps.ite
    | with_reducible apply Keeps.step (SideState.roundDone_keeps _ _)
    | with_reducible apply Keeps.step (SideState.calStat_keeps _ _ _)
    | exact rfl
    | split
    | with_reducible apply Keeps.parts
    | (refine fun (p : Part) hp => ?_; cases p <;> first | exact absurd hp (by decide) | simp only [SideState.sameIn])

theorem SideState.calLoopField_keeps (s : SideState) (f : TFld) (l : Nat) (v : Option Nat) : Keeps (some []) [.mem, .ecc, .loops, .twin] s (SideState.calLoopField s f l v) := by
  unfold SideState.calLoopField
  try dsimp only
  repeat' first
    | with_reducible apply Keeps.self
    | with_reducible assumption
    | with_reducible apply Keeps.step (SideState.loopSet_keeps _ _ _ _)
    | exact rfl
    | split
    | with_reducible apply Keeps.parts
    | (refine fun (p : Part) hp => ?_; cases p <;> first | exact absurd hp (by decide) | simp only [SideState.sameIn])

theorem SideState.noteSurvey_keeps (s : SideState) (d : Nat) : Keeps (some [0x0E, 0x0F]) [.cal] s (SideState.noteSurvey s d) := by
  unfold SideState.noteSurvey
  try dsimp only
  repeat' first
    | with_reducible apply Keeps.self
    | with_reducible assumption
    | with_reducible apply Keeps.ite
    | with_reducible apply Keeps.set
    | with_reducible apply Keeps.step (SideState.surveysDone_keeps _)
    | exact rfl
    | with_reducible apply Keeps.parts
    | (refine fun (p : Part) hp => ?_; cases p <;> first | exact absurd hp (by decide) | simp only [SideState.sameIn])

theorem SideState.resultLoop_keeps (s : SideState) (r : CalResult) (l : Nat) : Keeps (some []) [.mem, .ecc, .loops, .twin] s (SideState.resultLoop s r l) := by
  unfold SideState.resultLoop
  try dsimp only
  repeat' first
    | with_reducible apply Keeps.self
    | with_reducible assumption
    | with_reducible apply Keeps.ite
    | with_reducible apply Keeps.step (SideState.calLoopField_keeps _ _ _ _)
    | with_reducible apply Keeps.step (SideState.tset_keeps _ _ _ _)
    | exact rfl

theorem SideState.calCellField_keeps (s : SideState) (f : TFld) (c : Nat) (v : Option Nat) : Keeps (some []) [.mem, .ecc] s (SideState.calCellField s f c v) := by
  unfold SideState.calCellField
  try dsimp only
  repeat' first
    | with_reducible apply Keeps.self
    | with_reducible assumption
    | with_reducible apply Keeps.step (SideState.tset_keeps _ _ _ _)
    | exact rfl
    | split

theorem SideState.resultPair_keeps (s : SideState) (r : CalResult) (c : Nat) : Keeps (some [0x03, 0x05, 0x06, 0x08, 0x09, 0x10, 0x14]) [.mem, .ecc, .twin, .fault, .perf] s (SideState.resultPair s r c) := by
  unfold SideState.resultPair
  try dsimp only
  repeat' first
    | with_reducible apply Keeps.self
    | with_reducible assumption
    | with_reducible apply Keeps.ite
    | with_reducible apply Keeps.step (SideState.calCellField_keeps _ _ _ _)
    | with_reducible apply Keeps.step (SideState.emitMem_keeps _ _ _)
    | with_reducible apply Keeps.step (SideState.raise_keeps _ _)
    | exact rfl
    | split

theorem SideState.resultCell_keeps (s : SideState) (r : CalResult) (c : Nat) : Keeps (some [0x03, 0x05, 0x06, 0x08, 0x09, 0x10, 0x14]) [.mem, .ecc, .twin, .fault, .perf] s (SideState.resultCell s r c) := by
  unfold SideState.resultCell
  try dsimp only
  repeat' first
    | with_reducible apply Keeps.self
    | with_reducible assumption
    | with_reducible apply Keeps.ite
    | with_reducible apply Keeps.step (SideState.resultPair_keeps _ _ _)
    | with_reducible apply Keeps.step (SideState.calCellField_keeps _ _ _ _)
    | with_reducible apply Keeps.step (SideState.emitEdge_keeps _ _)
    | exact rfl

theorem SideState.resultInForce_keeps (s : SideState) (r : CalResult) : Keeps (some [0x03, 0x05, 0x06, 0x08, 0x09, 0x0E, 0x0F, 0x10, 0x12, 0x14]) [.mem, .ecc, .drive, .loops, .cal, .twin, .fault, .perf] s (SideState.resultInForce s r) := by
  unfold SideState.resultInForce
  try dsimp only
  repeat' first
    | with_reducible apply Keeps.self
    | with_reducible assumption
    | with_reducible apply Keeps.ite
    | with_reducible apply Keeps.set
    | with_reducible apply Keeps.step (SideState.resultLoop_keeps _ _ _)
    | with_reducible apply Keeps.step (SideState.resultCell_keeps _ _ _)
    | with_reducible apply Keeps.step (SideState.tset_keeps _ _ _ _)
    | with_reducible apply Keeps.step (SideState.emitMem_keeps _ _ _)
    | with_reducible apply Keeps.step (SideState.commitTone_keeps _ _)
    | with_reducible apply Keeps.step (SideState.noteSurvey_keeps _ _)
    | exact rfl
    | with_reducible apply Keeps.elim
    | (simp only [pageOf_bank]; exact rfl)
    | intro _

theorem SideState.resultsAtBoundary_keeps (s : SideState) : Keeps (some [0x03, 0x05, 0x06, 0x08, 0x09, 0x0E, 0x0F, 0x10, 0x12, 0x14]) [.mem, .ecc, .drive, .loops, .cal, .twin, .fault, .perf] s (SideState.resultsAtBoundary s) := by
  unfold SideState.resultsAtBoundary
  try dsimp only
  repeat' first
    | with_reducible apply Keeps.self
    | with_reducible assumption
    | with_reducible apply Keeps.ite
    | with_reducible apply Keeps.step (SideState.resultInForce_keeps _ _)
    | with_reducible apply Keeps.foldl
    | exact rfl
    | split
    | with_reducible apply Keeps.parts
    | (refine fun (p : Part) hp => ?_; cases p <;> first | exact absurd hp (by decide) | simp only [SideState.sameIn])
    | intro _ _ _

theorem SideState.calAtBoundary_keeps (s : SideState) : Keeps (some [0x03, 0x05, 0x06, 0x08, 0x09, 0x0D, 0x0E, 0x0F, 0x10, 0x12, 0x14, 0x17, 0x20, 0x21, 0x22, 0x23, 0x24, 0x25, 0x26, 0x27, 0x28, 0x29, 0x30, 0x31]) [.mem, .ecc, .drive, .mon, .loops, .scene, .cal, .twin, .fault, .perf] s (SideState.calAtBoundary s) := by
  unfold SideState.calAtBoundary
  try dsimp only
  repeat' first
    | with_reducible apply Keeps.self
    | with_reducible assumption
    | with_reducible apply Keeps.ite
    | with_reducible apply Keeps.step (SideState.release_keeps _ _)
    | with_reducible apply Keeps.step (SideState.advanceRun_keeps _ _)
    | with_reducible apply Keeps.step (SideState.takeRun_keeps _ _)
    | with_reducible apply Keeps.step (SideState.resultsAtBoundary_keeps _)
    | with_reducible apply Keeps.step (SideState.roundEnd_keeps _)
    | with_reducible apply Keeps.step (SideState.showCal_keeps _)
    | with_reducible apply Keeps.foldl
    | exact rfl
    | with_reducible apply Keeps.parts
    | (refine fun (p : Part) hp => ?_; cases p <;> first | exact absurd hp (by decide) | simp only [SideState.sameIn])
    | intro _ _ _

theorem SideState.darkBeat_keeps (s : SideState) (mi : Nat) (dark : Bool) : Keeps (some []) [.cal] s (SideState.darkBeat s mi dark) := by
  unfold SideState.darkBeat
  try dsimp only
  repeat' first
    | with_reducible apply Keeps.self
    | with_reducible assumption
    | with_reducible apply Keeps.ite
    | exact rfl
    | with_reducible apply Keeps.parts
    | (refine fun (p : Part) hp => ?_; cases p <;> first | exact absurd hp (by decide) | simp only [SideState.sameIn])

theorem SideState.darkWatch_keeps (s : SideState) : Keeps (some []) [.cal] s (SideState.darkWatch s) := by
  unfold SideState.darkWatch
  try dsimp only
  repeat' first
    | with_reducible apply Keeps.self
    | with_reducible assumption
    | with_reducible apply Keeps.ite
    | with_reducible apply Keeps.step (SideState.darkBeat_keeps _ _ _)
    | with_reducible apply Keeps.foldl
    | exact rfl
    | split
    | with_reducible apply Keeps.parts
    | intro _ _ _

theorem SideState.endDarkRuns_keeps (s : SideState) : Keeps (some []) [.cal] s (SideState.endDarkRuns s) := by
  unfold SideState.endDarkRuns
  try dsimp only
  repeat' first
    | with_reducible apply Keeps.self
    | with_reducible assumption
    | exact rfl
    | with_reducible apply Keeps.parts
    | (refine fun (p : Part) hp => ?_; cases p <;> first | exact absurd hp (by decide) | simp only [SideState.sameIn])

theorem SideState.calWindow_keeps (s : SideState) : Keeps (some [0x03, 0x05, 0x06, 0x08, 0x09, 0x10, 0x14, 0x20, 0x21, 0x22, 0x23, 0x24, 0x25, 0x26, 0x27, 0x28, 0x29]) [.drive, .mon, .cal, .twin, .fault, .perf] s (SideState.calWindow s) := by
  unfold SideState.calWindow
  try dsimp only
  repeat' first
    | with_reducible apply Keeps.self
    | with_reducible assumption
    | with_reducible apply Keeps.ite
    | with_reducible apply Keeps.step (SideState.endDarkRuns_keeps _)
    | with_reducible apply Keeps.step (SideState.sampleRun_keeps _ _)
    | with_reducible apply Keeps.step (SideState.darkWatch_keeps _)
    | with_reducible apply Keeps.foldl
    | exact rfl
    | intro _ _ _

theorem SideState.startAged_keeps (s : SideState) (k : RecordKind) (payload : List Byte) (isOpen : Bool) : Keeps (some [0x03, 0x05, 0x06, 0x08, 0x09, 0x0E, 0x0F, 0x10, 0x14]) [.twin, .fault, .perf, .nvm] s (SideState.startAged s k payload isOpen) := by
  unfold SideState.startAged
  try dsimp only
  repeat' first
    | with_reducible apply Keeps.self
    | with_reducible assumption
    | with_reducible apply Keeps.ite
    | with_reducible apply Keeps.evt
    | with_reducible apply Keeps.step (SideState.startRecord_keeps _ _ _)
    | with_reducible apply Keeps.step (SideState.raise_keeps _ _)
    | exact rfl

theorem SideState.calRecordStart_keeps (s : SideState) (bothOpen : Bool) : Keeps (some [0x03, 0x05, 0x06, 0x08, 0x09, 0x0E, 0x0F, 0x10, 0x14]) [.cal, .twin, .fault, .perf, .nvm] s (SideState.calRecordStart s bothOpen) := by
  unfold SideState.calRecordStart
  try dsimp only
  repeat' first
    | with_reducible apply Keeps.self
    | with_reducible assumption
    | with_reducible apply Keeps.ite
    | with_reducible apply Keeps.step (SideState.startAged_keeps _ _ _ _)
    | exact rfl
    | with_reducible apply Keeps.parts
    | (refine fun (p : Part) hp => ?_; cases p <;> first | exact absurd hp (by decide) | simp only [SideState.sameIn])

end Sys2Proof.Machine
end

