-- ==== Sys2Proof/Laws/Ageing.lean ====
section
/-! SUPPORT. What each operation of Machine/Ageing.lean keeps. -/

set_option Elab.async false

namespace Sys2Proof.Machine

theorem SideState.surveyValue_keeps (s : SideState) (q : Nat) (v : Int) : KeepsP (some []) [.free] s (SideState.surveyValue s q v) := by
  unfold SideState.surveyValue
  try dsimp only
  repeat' first
    | with_reducible apply Keeps.self
    | with_reducible assumption
    | with_reducible apply Keeps.ite
    | with_reducible apply KeepsP.ite
    | with_reducible apply KeepsP.step (SideState.fresh_keeps _ _)
    | with_reducible apply KeepsP.mk
    | exact rfl
    | with_reducible apply Keeps.step (KeepsP.fst (SideState.fresh_keeps _ _))
    | split

theorem SideState.recordAge_keeps (s : SideState) (q e : Nat) (v : Int) : Keeps (some [0x03, 0x05, 0x06, 0x08, 0x09, 0x0E, 0x10, 0x14]) [.cal, .twin, .fault, .perf, .free] s (SideState.recordAge s q e v) := by
  unfold SideState.recordAge
  try dsimp only
  repeat' first
    | with_reducible apply Keeps.self
    | with_reducible assumption
    | with_reducible apply Keeps.ite
    | with_reducible apply KeepsP.ite
    | with_reducible apply Keeps.evt
    | with_reducible apply KeepsP.step (SideState.surveyValue_keeps _ _ _)
    | with_reducible apply Keeps.step (SideState.raise_keeps _ _)
    | exact rfl
    | with_reducible apply Keeps.step (KeepsP.fst (SideState.surveyValue_keeps _ _ _))
    | with_reducible apply Keeps.step (KeepsP.of_eq (SideState.surveyValue_keeps _ _ _) (by assumption))
    | split
    | with_reducible apply Keeps.parts
    | (refine fun (p : Part) hp => ?_; cases p <;> first | exact absurd hp (by decide) | simp only [SideState.sameIn])

theorem SideState.ageSamples_keeps (s : SideState) : Keeps (some []) [.cal] s (SideState.ageSamples s) := by
  unfold SideState.ageSamples
  try dsimp only
  repeat' first
    | with_reducible apply Keeps.self
    | with_reducible assumption
    | with_reducible apply Keeps.ite
    | with_reducible apply Keeps.foldl
    | exact rfl
    | with_reducible apply Keeps.parts
    | (refine fun (p : Part) hp => ?_; cases p <;> first | exact absurd hp (by decide) | simp only [SideState.sameIn])

theorem SideState.recordAges_keeps (s : SideState) (bothOpen : Bool) : Keeps (some [0x03, 0x05, 0x06, 0x08, 0x09, 0x0E, 0x0F, 0x10, 0x14]) [.cal, .twin, .fault, .perf, .nvm, .free] s (SideState.recordAges s bothOpen) := by
  unfold SideState.recordAges
  try dsimp only
  repeat' first
    | with_reducible apply Keeps.self
    | with_reducible assumption
    | with_reducible apply Keeps.ite
    | with_reducible apply Keeps.set
    | with_reducible apply Keeps.step (SideState.recordAge_keeps _ _ _ _)
    | with_reducible apply Keeps.step (SideState.startAged_keeps _ _ _ _)
    | with_reducible apply Keeps.foldl
    | exact rfl
    | with_reducible apply Keeps.parts
    | (refine fun (p : Part) hp => ?_; cases p <;> first | exact absurd hp (by decide) | simp only [SideState.sameIn])
    | intro _ _ _

end Sys2Proof.Machine
end

