-- ==== Sys2Proof/Laws/Watch.lean ====
section
/-! SUPPORT. What each operation of Machine/Watch.lean keeps. -/

set_option Elab.async false

namespace Sys2Proof.Machine

theorem SideState.traceStat_keeps (s : SideState) (e code index : Nat) : Keeps (some [0x09]) [] s (SideState.traceStat s e code index) := by
  unfold SideState.traceStat
  try dsimp only
  repeat' first
    | with_reducible apply Keeps.self
    | with_reducible assumption
    | with_reducible apply Keeps.set
    | with_reducible apply Keeps.setB
    | exact rfl

theorem SideState.traceFails_keeps (s : SideState) (e code index : Nat) : Keeps (some [0x03, 0x05, 0x06, 0x08, 0x09, 0x0B, 0x0C, 0x10, 0x14, 0x18, 0x19, 0x1A, 0x1B, 0x1C]) [.mem, .ecc, .scene, .pipe, .watch, .twin, .net, .fault, .perf] s (SideState.traceFails s e code index) := by
  unfold SideState.traceFails
  try dsimp only
  repeat' first
    | with_reducible apply Keeps.self
    | with_reducible assumption
    | with_reducible apply Keeps.ite
    | with_reducible apply Keeps.bump
    | with_reducible apply Keeps.evt
    | with_reducible apply Keeps.step (SideState.traceStat_keeps _ _ _ _)
    | with_reducible apply Keeps.step (SideState.raise_keeps _ _)
    | with_reducible apply Keeps.step (SideState.degrade_keeps _ _)
    | with_reducible apply Keeps.step (SideState.endCue_keeps _ _ _ _)
    | exact rfl

theorem SideState.preCheck_keeps (s : SideState) (e : Nat) : Keeps (some [0x03, 0x05, 0x06, 0x08, 0x09, 0x0B, 0x0C, 0x0D, 0x10, 0x14, 0x18, 0x19, 0x1A, 0x1B, 0x1C]) [.mem, .ecc, .scene, .pipe, .watch, .twin, .net, .fault, .perf] s (SideState.preCheck s e) := by
  unfold SideState.preCheck
  try dsimp only
  repeat' first
    | with_reducible apply Keeps.self
    | with_reducible assumption
    | with_reducible apply Keeps.ite
    | with_reducible apply Keeps.step (SideState.traceFails_keeps _ _ _ _)
    | with_reducible apply Keeps.step (SideState.setTrk_keeps _ _ _)
    | with_reducible apply Keeps.step (SideState.recordPlan_keeps _ _)
    | with_reducible apply Keeps.step (SideState.endCue_keeps _ _ _ _)
    | exact rfl
    | split

theorem SideState.preChecks_keeps (s : SideState) : Keeps (some [0x03, 0x05, 0x06, 0x08, 0x09, 0x0B, 0x0C, 0x0D, 0x10, 0x14, 0x18, 0x19, 0x1A, 0x1B, 0x1C]) [.mem, .ecc, .scene, .pipe, .watch, .twin, .net, .fault, .perf] s (SideState.preChecks s) := by
  unfold SideState.preChecks
  try dsimp only
  repeat' first
    | with_reducible apply Keeps.self
    | with_reducible assumption
    | with_reducible apply Keeps.step (SideState.preCheck_keeps _ _)
    | with_reducible apply Keeps.foldl
    | exact rfl
    | intro _ _ _

theorem SideState.declare_keeps (s : SideState) (c : Nat) : Keeps (some [0x03, 0x05, 0x06, 0x08, 0x09, 0x0D, 0x0E, 0x10, 0x14, 0x16, 0x17, 0x30, 0x31]) [.mem, .ecc, .drive, .mon, .loops, .scene, .cal, .watch, .twin, .fault, .perf] s (SideState.declare s c) := by
  unfold SideState.declare
  try dsimp only
  repeat' first
    | with_reducible apply Keeps.self
    | with_reducible assumption
    | with_reducible apply Keeps.ite
    | with_reducible apply Keeps.set
    | with_reducible apply Keeps.bump
    | with_reducible apply Keeps.evt
    | with_reducible apply Keeps.step (SideState.declared_keeps _ _)
    | with_reducible apply Keeps.step (SideState.count_keeps _ _ _)
    | with_reducible apply Keeps.step (SideState.raise_keeps _ _)
    | exact rfl
    | with_reducible apply Keeps.parts
    | (refine fun (p : Part) hp => ?_; cases p <;> first | exact absurd hp (by decide) | simp only [SideState.sameIn])

theorem SideState.checkCell_keeps (s : SideState) (c : Nat) : Keeps (some [0x03, 0x05, 0x06, 0x08, 0x09, 0x0D, 0x0E, 0x10, 0x14, 0x16, 0x17, 0x30, 0x31]) [.mem, .ecc, .drive, .mon, .loops, .scene, .cal, .watch, .twin, .fault, .perf] s (SideState.checkCell s c) := by
  unfold SideState.checkCell
  try dsimp only
  repeat' first
    | with_reducible apply Keeps.self
    | with_reducible assumption
    | with_reducible apply Keeps.ite
    | with_reducible apply Keeps.step (SideState.scrubWords_keeps _ _)
    | with_reducible apply Keeps.step (SideState.count_keeps _ _ _)
    | with_reducible apply Keeps.step (SideState.declared_keeps _ _)
    | with_reducible apply Keeps.step (SideState.declare_keeps _ _)
    | exact rfl
    | split
    | with_reducible apply Keeps.parts
    | (refine fun (p : Part) hp => ?_; cases p <;> first | exact absurd hp (by decide) | simp only [SideState.sameIn])

theorem SideState.cellCheck_keeps (s : SideState) : Keeps (some [0x03, 0x05, 0x06, 0x08, 0x09, 0x0D, 0x0E, 0x10, 0x14, 0x16, 0x17, 0x30, 0x31]) [.mem, .ecc, .drive, .mon, .loops, .scene, .cal, .watch, .twin, .fault, .perf] s (SideState.cellCheck s) := by
  unfold SideState.cellCheck
  try dsimp only
  repeat' first
    | with_reducible apply Keeps.self
    | with_reducible assumption
    | with_reducible apply Keeps.ite
    | with_reducible apply Keeps.set
    | with_reducible apply Keeps.step (SideState.checkCell_keeps _ _)
    | with_reducible apply Keeps.step (SideState.declared_keeps _ _)
    | with_reducible apply Keeps.foldl
    | exact rfl
    | intro _ _ _

theorem SideState.physCompare_keeps (s : SideState) : Keeps (some [0x03, 0x05, 0x06, 0x08, 0x09, 0x10, 0x14]) [.ecc, .twin, .fault, .perf] s (SideState.physCompare s) := by
  unfold SideState.physCompare
  try dsimp only
  repeat' first
    | with_reducible apply Keeps.self
    | with_reducible assumption
    | with_reducible apply Keeps.ite
    | with_reducible apply Keeps.step (SideState.scrubWords_keeps _ _)
    | with_reducible apply Keeps.step (SideState.raiseIf_keeps _ _ _)
    | with_reducible apply Keeps.foldl
    | exact rfl
    | intro _ _ _

theorem SideState.pilotSample_keeps (s : SideState) (q : Nat) : Keeps (some []) [.watch] s (SideState.pilotSample s q) := by
  unfold SideState.pilotSample
  try dsimp only
  repeat' first
    | with_reducible apply Keeps.self
    | with_reducible assumption
    | with_reducible apply Keeps.ite
    | exact rfl
    | with_reducible apply Keeps.parts
    | (refine fun (p : Part) hp => ?_; cases p <;> first | exact absurd hp (by decide) | simp only [SideState.sameIn])

theorem SideState.pilotCollect_keeps (s : SideState) : Keeps (some []) [.watch] s (SideState.pilotCollect s) := by
  unfold SideState.pilotCollect
  try dsimp only
  repeat' first
    | with_reducible apply Keeps.self
    | with_reducible assumption
    | with_reducible apply Keeps.ite
    | with_reducible apply Keeps.step (SideState.pilotSample_keeps _ _)
    | with_reducible apply Keeps.foldl
    | exact rfl
    | with_reducible apply Keeps.parts
    | intro _ _ _

theorem SideState.reportOut_keeps (s : SideState) (q : Nat) (r : PilotResult) : Keeps (some [0x03, 0x05, 0x06, 0x08, 0x09, 0x10, 0x14]) [.mem, .ecc, .twin, .fault, .perf] s (SideState.reportOut s q r) := by
  unfold SideState.reportOut
  try dsimp only
  repeat' first
    | with_reducible apply Keeps.self
    | with_reducible assumption
    | with_reducible apply Keeps.set
    | with_reducible apply Keeps.evt
    | with_reducible apply Keeps.step (SideState.wr_keeps _ _ _ _)
    | with_reducible apply Keeps.step (SideState.count_keeps _ _ _)
    | with_reducible apply Keeps.step (SideState.raise_keeps _ _)
    | exact rfl
    | split

theorem SideState.pilotJudge_keeps (s : SideState) : Keeps (some [0x03, 0x05, 0x06, 0x08, 0x09, 0x10, 0x14]) [.mem, .ecc, .watch, .twin, .fault, .perf] s (SideState.pilotJudge s) := by
  unfold SideState.pilotJudge
  try dsimp only
  repeat' first
    | with_reducible apply Keeps.self
    | with_reducible assumption
    | with_reducible apply Keeps.set
    | with_reducible apply Keeps.evt
    | with_reducible apply Keeps.step (SideState.reportOut_keeps _ _ _)
    | with_reducible apply Keeps.foldl
    | exact rfl
    | with_reducible apply Keeps.parts
    | (refine fun (p : Part) hp => ?_; cases p <;> first | exact absurd hp (by decide) | simp only [SideState.sameIn])
    | intro _ _ _

theorem SideState.pilotBoundary_keeps (s : SideState) : Keeps (some []) [.watch] s (SideState.pilotBoundary s) := by
  unfold SideState.pilotBoundary
  try dsimp only
  repeat' first
    | with_reducible apply Keeps.self
    | with_reducible assumption
    | with_reducible apply Keeps.ite
    | exact rfl
    | with_reducible apply Keeps.parts
    | (refine fun (p : Part) hp => ?_; cases p <;> first | exact absurd hp (by decide) | simp only [SideState.sameIn])

theorem SideState.pilotSkips_keeps (s : SideState) (l : List Staged) : Keeps (some []) [.watch] s (SideState.pilotSkips s l) := by
  unfold SideState.pilotSkips
  try dsimp only
  repeat' first
    | with_reducible apply Keeps.self
    | with_reducible assumption
    | with_reducible apply Keeps.foldl
    | exact rfl
    | with_reducible apply Keeps.parts
    | (refine fun (p : Part) hp => ?_; cases p <;> first | exact absurd hp (by decide) | simp only [SideState.sameIn])

theorem SideState.voidBlock_keeps (s : SideState) : Keeps (some []) [.watch] s (SideState.voidBlock s) := by
  unfold SideState.voidBlock
  try dsimp only
  repeat' first
    | with_reducible apply Keeps.self
    | with_reducible assumption
    | exact rfl
    | with_reducible apply Keeps.parts
    | (refine fun (p : Part) hp => ?_; cases p <;> first | exact absurd hp (by decide) | simp only [SideState.sameIn])

theorem SideState.requestCurtain_keeps (s : SideState) (latch : Bool) : Keeps (some [0x03, 0x05, 0x06, 0x08, 0x09, 0x0B, 0x0C, 0x10, 0x14, 0x18, 0x19, 0x1A, 0x1B, 0x1C]) [.mem, .ecc, .scene, .pipe, .watch, .twin, .net, .fault, .therm, .perf] s (SideState.requestCurtain s latch) := by
  unfold SideState.requestCurtain
  try dsimp only
  repeat' first
    | with_reducible apply Keeps.self
    | with_reducible assumption
    | with_reducible apply Keeps.ite
    | with_reducible apply Keeps.step (SideState.askCurtain_keeps _ _)
    | exact rfl
    | with_reducible apply Keeps.setC
    | with_reducible apply Keeps.parts
    | (refine fun (p : Part) hp => ?_; cases p <;> first | exact absurd hp (by decide) | simp only [SideState.sameIn])

theorem SideState.curtainPin_keeps (s : SideState) (low : Bool) : Keeps (some [0x03, 0x05, 0x06, 0x08, 0x09, 0x0B, 0x0C, 0x10, 0x14, 0x18, 0x19, 0x1A, 0x1B, 0x1C]) [.mem, .ecc, .scene, .pipe, .watch, .twin, .net, .fault, .therm, .perf] s (SideState.curtainPin s low) := by
  unfold SideState.curtainPin
  try dsimp only
  repeat' first
    | with_reducible apply Keeps.self
    | with_reducible assumption
    | with_reducible apply Keeps.ite
    | with_reducible apply Keeps.set
    | with_reducible apply Keeps.step (SideState.raise_keeps _ _)
    | with_reducible apply Keeps.step (SideState.requestCurtain_keeps _ _)
    | exact rfl

theorem SideState.selfItem_keeps (s : SideState) (item : Nat) (ok : Bool) : Keeps (some []) [.twin] s (SideState.selfItem s item ok) := by
  unfold SideState.selfItem
  try dsimp only
  repeat' first
    | with_reducible apply Keeps.self
    | with_reducible assumption
    | with_reducible apply Keeps.ite
    | exact rfl
    | with_reducible apply Keeps.parts
    | (refine fun (p : Part) hp => ?_; cases p <;> first | exact absurd hp (by decide) | simp only [SideState.sameIn])

theorem SideState.keyOneTest_keeps (s : SideState) (ok : Bool) : Keeps (some [0x03, 0x05, 0x06, 0x08, 0x09, 0x0A, 0x10, 0x14]) [.watch, .twin, .fault, .perf] s (SideState.keyOneTest s ok) := by
  unfold SideState.keyOneTest
  try dsimp only
  repeat' first
    | with_reducible apply Keeps.self
    | with_reducible assumption
    | with_reducible apply Keeps.ite
    | with_reducible apply Keeps.setB
    | with_reducible apply Keeps.evt
    | with_reducible apply Keeps.step (SideState.degrade_keeps _ _)
    | with_reducible apply Keeps.step (SideState.selfItem_keeps _ _ _)
    | with_reducible apply Keeps.step (SideState.raise_keeps _ _)
    | exact rfl

theorem SideState.keyTwoTest_keeps (s : SideState) (ok : Bool) : Keeps (some [0x03, 0x05, 0x06, 0x08, 0x09, 0x10, 0x14]) [.watch, .twin, .fault, .perf] s (SideState.keyTwoTest s ok) := by
  unfold SideState.keyTwoTest
  try dsimp only
  repeat' first
    | with_reducible apply Keeps.self
    | with_reducible assumption
    | with_reducible apply Keeps.ite
    | with_reducible apply Keeps.setB
    | with_reducible apply Keeps.evt
    | with_reducible apply Keeps.step (SideState.degrade_keeps _ _)
    | with_reducible apply Keeps.step (SideState.selfItem_keeps _ _ _)
    | with_reducible apply Keeps.step (SideState.raise_keeps _ _)
    | exact rfl

theorem SideState.heartbeat_keeps (s : SideState) (seen : Bool) : Keeps (some [0x03, 0x05, 0x06, 0x08, 0x09, 0x0A, 0x10, 0x14]) [.watch, .twin, .fault, .perf] s (SideState.heartbeat s seen) := by
  unfold SideState.heartbeat
  try dsimp only
  repeat' first
    | with_reducible apply Keeps.self
    | with_reducible assumption
    | with_reducible apply Keeps.ite
    | with_reducible apply Keeps.setB
    | with_reducible apply Keeps.evt
    | with_reducible apply Keeps.step (SideState.degrade_keeps _ _)
    | with_reducible apply Keeps.step (SideState.raise_keeps _ _)
    | exact rfl
    | with_reducible apply Keeps.parts
    | (refine fun (p : Part) hp => ?_; cases p <;> first | exact absurd hp (by decide) | simp only [SideState.sameIn])

theorem SideState.compareScene_keeps (s : SideState) : Keeps (some [0x03, 0x05, 0x06, 0x08, 0x09, 0x10, 0x14]) [.watch, .twin, .fault, .perf] s (SideState.compareScene s) := by
  unfold SideState.compareScene
  try dsimp only
  repeat' first
    | with_reducible apply Keeps.self
    | with_reducible assumption
    | with_reducible apply Keeps.ite
    | with_reducible apply Keeps.step (SideState.raise_keeps _ _)
    | with_reducible apply Keeps.step (SideState.degrade_keeps _ _)
    | exact rfl

theorem SideState.afterFire_keeps (s : SideState) (l : List Staged) : Keeps (some [0x03, 0x05, 0x06, 0x08, 0x09, 0x10, 0x14]) [.watch, .twin, .fault, .perf] s (SideState.afterFire s l) := by
  unfold SideState.afterFire
  try dsimp only
  repeat' first
    | with_reducible apply Keeps.self
    | with_reducible assumption
    | with_reducible apply Keeps.ite
    | with_reducible apply Keeps.evt
    | with_reducible apply Keeps.step (SideState.compareScene_keeps _)
    | with_reducible apply Keeps.step (SideState.pilotSkips_keeps _ _)
    | exact rfl
    | split
    | with_reducible apply Keeps.parts
    | (refine fun (p : Part) hp => ?_; cases p <;> first | exact absurd hp (by decide) | simp only [SideState.sameIn])

theorem SideState.sceneBoundary_keeps (s : SideState) : Keeps (some [0x03, 0x05, 0x06, 0x08, 0x09, 0x0B, 0x0C, 0x0D, 0x0E, 0x10, 0x14, 0x16, 0x17, 0x18, 0x19, 0x1A, 0x1B, 0x1C, 0x30, 0x31]) [.mem, .ecc, .drive, .mon, .loops, .scene, .pipe, .cal, .watch, .twin, .net, .fault, .perf, .free] s (SideState.sceneBoundary s) := by
  unfold SideState.sceneBoundary
  try dsimp only
  repeat' first
    | with_reducible apply Keeps.self
    | with_reducible assumption
    | with_reducible apply Keeps.step (SideState.sceneAtBoundary_keeps _)
    | with_reducible apply Keeps.step (SideState.afterFire_keeps _ _)
    | exact rfl

theorem SideState.degradedAtBoundary_keeps (s : SideState) (cause : Nat) : Keeps (some [0x03, 0x05, 0x06, 0x08, 0x09, 0x0B, 0x0C, 0x10, 0x14, 0x18, 0x19, 0x1A, 0x1B, 0x1C]) [.mem, .ecc, .scene, .pipe, .watch, .twin, .net, .fault, .perf, .free] s (SideState.degradedAtBoundary s cause) := by
  unfold SideState.degradedAtBoundary
  try dsimp only
  repeat' first
    | with_reducible apply Keeps.self
    | with_reducible assumption
    | with_reducible apply Keeps.ite
    | with_reducible apply Keeps.set
    | with_reducible apply Keeps.evt
    | with_reducible apply Keeps.step (SideState.cancelUnarmed_keeps _ _)
    | with_reducible apply Keeps.step (SideState.raise_keeps _ _)
    | exact rfl
    | with_reducible apply Keeps.setC
    | split
    | with_reducible apply Keeps.parts
    | (refine fun (p : Part) hp => ?_; cases p <;> first | exact absurd hp (by decide) | simp only [SideState.sameIn])

theorem SideState.takePolicy_keeps (s : SideState) (b : List Byte) : Keeps (some [0x0A]) [.watch] s (SideState.takePolicy s b) := by
  unfold SideState.takePolicy
  try dsimp only
  repeat' first
    | with_reducible apply Keeps.self
    | with_reducible assumption
    | with_reducible apply Keeps.set
    | exact rfl
    | with_reducible apply Keeps.parts
    | (refine fun (p : Part) hp => ?_; cases p <;> first | exact absurd hp (by decide) | simp only [SideState.sameIn])

theorem SideState.dropPolicy_keeps (s : SideState) : Keeps (some [0x0A]) [.watch] s (SideState.dropPolicy s) := by
  unfold SideState.dropPolicy
  try dsimp only
  repeat' first
    | with_reducible apply Keeps.self
    | with_reducible assumption
    | with_reducible apply Keeps.ite
    | with_reducible apply Keeps.set
    | exact rfl
    | with_reducible apply Keeps.parts
    | (refine fun (p : Part) hp => ?_; cases p <;> first | exact absurd hp (by decide) | simp only [SideState.sameIn])

theorem SideState.emitPolicy_keeps (s : SideState) (b : List Byte) : Keeps (some []) [.twin] s (SideState.emitPolicy s b) := by
  unfold SideState.emitPolicy
  try dsimp only
  repeat' first
    | with_reducible apply Keeps.self
    | with_reducible assumption
    | with_reducible apply Keeps.step (SideState.emit_keeps _ _)
    | with_reducible apply Keeps.foldl
    | exact rfl
    | intro _ _ _

end Sys2Proof.Machine
end

