-- ==== Sys2Proof/Laws/Rig.lean ====
section
/-! SUPPORT. What each operation of Machine/Rig.lean keeps. -/

set_option Elab.async false

namespace Sys2Proof.Machine

theorem SideState.expandTables_keeps (s : SideState) (m : RigMap) : Keeps (some []) [.mem, .ecc] s (SideState.expandTables s m) := by
  unfold SideState.expandTables
  try dsimp only
  repeat' first
    | with_reducible apply Keeps.self
    | with_reducible assumption
    | with_reducible apply Keeps.step (SideState.wrBytes_keeps _ _ _)
    | with_reducible apply Keeps.step (SideState.wr_keeps _ _ _ _)
    | with_reducible apply Keeps.foldl
    | exact rfl
    | intro _ _ _

theorem SideState.rigRegisters_keeps (s : SideState) (img : List Byte) : Keeps (some [0x0F]) [] s (SideState.rigRegisters s img) := by
  unfold SideState.rigRegisters
  try dsimp only
  repeat' first
    | with_reducible apply Keeps.self
    | with_reducible assumption
    | with_reducible apply Keeps.set
    | exact rfl

theorem SideState.setSerial_keeps (s : SideState) (f : Fld) (b : List Byte) : Keeps none [] s (SideState.setSerial s f b) := by
  unfold SideState.setSerial
  try dsimp only
  repeat' first
    | with_reducible apply Keeps.self
    | with_reducible assumption
    | with_reducible apply Keeps.set
    | with_reducible apply Keeps.foldl
    | exact rfl
    | with_reducible apply Keeps.parts
    | intro _ _ _

theorem SideState.rigInForce_keeps (s : SideState) (img : List Byte) : Keeps (some [0x0F, 0x10]) [.mem, .ecc, .mon, .pipe, .power, .rigImage] s (SideState.rigInForce s img) := by
  unfold SideState.rigInForce
  try dsimp only
  repeat' first
    | with_reducible apply Keeps.self
    | with_reducible assumption
    | with_reducible apply Keeps.set
    | with_reducible apply Keeps.setB
    | with_reducible apply Keeps.evt
    | with_reducible apply Keeps.step (SideState.rigRegisters_keeps _ _)
    | with_reducible apply Keeps.step (SideState.expandTables_keeps _ _)
    | with_reducible apply Keeps.step (SideState.initChannels_keeps _)
    | exact rfl
    | with_reducible apply Keeps.parts
    | (refine fun (p : Part) hp => ?_; cases p <;> first | exact absurd hp (by decide) | simp only [SideState.sameIn])

theorem SideState.loadCalCell_keeps (s : SideState) (b : List Byte) (c : Nat) : Keeps (some []) [.mem, .ecc] s (SideState.loadCalCell s b c) := by
  unfold SideState.loadCalCell
  try dsimp only
  repeat' first
    | with_reducible apply Keeps.self
    | with_reducible assumption
    | with_reducible apply Keeps.step (SideState.wr_keeps _ _ _ _)
    | with_reducible apply Keeps.step (SideState.tset_keeps _ _ _ _)
    | exact rfl

theorem SideState.loadCalLoop_keeps (s : SideState) (b : List Byte) (l : Nat) : Keeps (some []) [.mem, .ecc] s (SideState.loadCalLoop s b l) := by
  unfold SideState.loadCalLoop
  try dsimp only
  repeat' first
    | with_reducible apply Keeps.self
    | with_reducible assumption
    | with_reducible apply Keeps.step (SideState.tset_keeps _ _ _ _)
    | exact rfl

theorem SideState.loadCal_keeps (s : SideState) (b : List Byte) : Keeps (some []) [.mem, .ecc, .cal] s (SideState.loadCal s b) := by
  unfold SideState.loadCal
  try dsimp only
  repeat' first
    | with_reducible apply Keeps.self
    | with_reducible assumption
    | with_reducible apply Keeps.step (SideState.tset_keeps _ _ _ _)
    | with_reducible apply Keeps.step (SideState.wr_keeps _ _ _ _)
    | with_reducible apply Keeps.step (SideState.loadCalLoop_keeps _ _ _)
    | with_reducible apply Keeps.step (SideState.loadCalCell_keeps _ _ _)
    | with_reducible apply Keeps.foldl
    | exact rfl
    | with_reducible apply Keeps.parts
    | (refine fun (p : Part) hp => ?_; cases p <;> first | exact absurd hp (by decide) | simp only [SideState.sameIn])
    | intro _ _ _

theorem SideState.restoreAges_keeps (s : SideState) : Keeps (some [0x0E]) [.cal] s (SideState.restoreAges s) := by
  unfold SideState.restoreAges
  try dsimp only
  repeat' first
    | with_reducible apply Keeps.self
    | with_reducible assumption
    | with_reducible apply Keeps.ite
    | with_reducible apply Keeps.set
    | exact rfl
    | split
    | with_reducible apply Keeps.parts
    | (refine fun (p : Part) hp => ?_; cases p <;> first | exact absurd hp (by decide) | simp only [SideState.sameIn])

theorem SideState.calAtStart_keeps (s : SideState) : Keeps (some [0x03, 0x05, 0x06, 0x08, 0x09, 0x0E, 0x0F, 0x10, 0x14]) [.mem, .ecc, .cal, .twin, .fault, .perf, .power] s (SideState.calAtStart s) := by
  unfold SideState.calAtStart
  try dsimp only
  repeat' first
    | with_reducible apply Keeps.self
    | with_reducible assumption
    | with_reducible apply Keeps.ite
    | with_reducible apply Keeps.set
    | with_reducible apply Keeps.step (SideState.loadCal_keeps _ _)
    | with_reducible apply Keeps.step (SideState.restoreAges_keeps _)
    | with_reducible apply Keeps.step (SideState.raise_keeps _ _)
    | exact rfl
    | split
    | with_reducible apply Keeps.parts
    | (refine fun (p : Part) hp => ?_; cases p <;> first | exact absurd hp (by decide) | simp only [SideState.sameIn])

theorem SideState.parkAtStart_keeps (s : SideState) : Keeps (some [0x03, 0x05, 0x06, 0x08, 0x09, 0x10, 0x14]) [.mem, .ecc, .drive, .twin, .fault, .perf] s (SideState.parkAtStart s) := by
  unfold SideState.parkAtStart
  try dsimp only
  repeat' first
    | with_reducible apply Keeps.self
    | with_reducible assumption
    | with_reducible apply Keeps.ite
    | with_reducible apply Keeps.step (SideState.wrBytes_keeps _ _ _)
    | with_reducible apply Keeps.step (SideState.raiseIf_keeps _ _ _)
    | with_reducible apply Keeps.step (SideState.raise_keeps _ _)
    | exact rfl
    | with_reducible apply Keeps.parts
    | (refine fun (p : Part) hp => ?_; cases p <;> first | exact absurd hp (by decide) | simp only [SideState.sameIn])

theorem SideState.padsDone_keeps (s : SideState) : Keeps (some [0x01]) [] s (SideState.padsDone s) := by
  unfold SideState.padsDone
  try dsimp only
  repeat' first
    | with_reducible apply Keeps.self
    | with_reducible assumption
    | with_reducible apply Keeps.ite
    | with_reducible apply Keeps.set
    | exact rfl

theorem SideState.padsAtStart_keeps (s : SideState) : Keeps (some [0x01, 0x10, 0x14, 0x2A, 0x2B, 0x2C, 0x2D, 0x2E, 0x2F]) [.drive, .mon] s (SideState.padsAtStart s) := by
  unfold SideState.padsAtStart
  try dsimp only
  repeat' first
    | with_reducible apply Keeps.self
    | with_reducible assumption
    | with_reducible apply Keeps.set
    | with_reducible apply Keeps.evt
    | with_reducible apply Keeps.step (SideState.putBase_keeps _ _ _)
    | with_reducible apply Keeps.step (SideState.connectFrontEnds_keeps _)
    | with_reducible apply Keeps.step (SideState.runConverters_keeps _ _)
    | with_reducible apply Keeps.step (SideState.padsDone_keeps _)
    | with_reducible apply Keeps.foldl
    | exact rfl
    | with_reducible apply Keeps.parts
    | (refine fun (p : Part) hp => ?_; cases p <;> first | exact absurd hp (by decide) | simp only [SideState.sameIn])
    | intro _ _ _

theorem SideState.padsAtBoundary_keeps (s : SideState) (peerRequest : Bool) : Keeps (some [0x01, 0x08, 0x10, 0x14, 0x2A, 0x2B, 0x2C, 0x2D, 0x2E, 0x2F]) [.drive, .mon, .power] s (SideState.padsAtBoundary s peerRequest) := by
  unfold SideState.padsAtBoundary
  try dsimp only
  repeat' first
    | with_reducible apply Keeps.self
    | with_reducible assumption
    | with_reducible apply Keeps.ite
    | with_reducible apply Keeps.set
    | with_reducible apply Keeps.step (SideState.padsAtStart_keeps _)
    | exact rfl
    | split
    | with_reducible apply Keeps.parts
    | (refine fun (p : Part) hp => ?_; cases p <;> first | exact absurd hp (by decide) | simp only [SideState.sameIn])

theorem SideState.padsSoon_keeps (s : SideState) : Keeps (some []) [.power] s (SideState.padsSoon s) := by
  unfold SideState.padsSoon
  try dsimp only
  repeat' first
    | with_reducible apply Keeps.self
    | with_reducible assumption
    | exact rfl
    | with_reducible apply Keeps.parts
    | (refine fun (p : Part) hp => ?_; cases p <;> first | exact absurd hp (by decide) | simp only [SideState.sameIn])

theorem SideState.rejectImage_keeps (s : SideState) (reason : Nat) : Keeps (some [0x03, 0x05, 0x06, 0x08, 0x09, 0x0F, 0x10, 0x14]) [.twin, .fault, .perf] s (SideState.rejectImage s reason) := by
  unfold SideState.rejectImage
  try dsimp only
  repeat' first
    | with_reducible apply Keeps.self
    | with_reducible assumption
    | with_reducible apply Keeps.set
    | with_reducible apply Keeps.evt
    | with_reducible apply Keeps.step (SideState.raise_keeps _ _)
    | exact rfl

theorem SideState.startRewrite_keeps (s : SideState) (img : List Byte) : Keeps (some [0x03, 0x05, 0x06, 0x08, 0x09, 0x0F, 0x10, 0x14]) [.twin, .fault, .perf, .nvm] s (SideState.startRewrite s img) := by
  unfold SideState.startRewrite
  try dsimp only
  repeat' first
    | with_reducible apply Keeps.self
    | with_reducible assumption
    | with_reducible apply Keeps.set
    | with_reducible apply Keeps.evt
    | with_reducible apply Keeps.step (SideState.raise_keeps _ _)
    | exact rfl
    | with_reducible apply Keeps.parts
    | (refine fun (p : Part) hp => ?_; cases p <;> first | exact absurd hp (by decide) | simp only [SideState.sameIn])

theorem SideState.replacedTile_keeps (s : SideState) (v : TileView) : Keeps (some [0x03, 0x05, 0x06, 0x08, 0x09, 0x0B, 0x0C, 0x0F, 0x10, 0x14, 0x18, 0x19, 0x1A, 0x1B, 0x1C]) [.mem, .ecc, .mon, .scene, .pipe, .cal, .watch, .twin, .net, .fault, .therm, .perf, .nvm, .power, .rigImage] s (SideState.replacedTile s v) := by
  unfold SideState.replacedTile
  try dsimp only
  repeat' first
    | with_reducible apply Keeps.self
    | with_reducible assumption
    | with_reducible apply Keeps.ite
    | with_reducible apply Keeps.set
    | with_reducible apply Keeps.evt
    | with_reducible apply Keeps.step (SideState.raiseIf_keeps _ _ _)
    | with_reducible apply Keeps.step (SideState.rejectImage_keeps _ _)
    | with_reducible apply Keeps.step (SideState.rigInForce_keeps _ _)
    | with_reducible apply Keeps.step (SideState.startRecord_keeps _ _ _)
    | with_reducible apply Keeps.step (SideState.padsSoon_keeps _)
    | with_reducible apply Keeps.step (SideState.requestCurtain_keeps _ _)
    | exact rfl
    | with_reducible apply Keeps.parts
    | (refine fun (p : Part) hp => ?_; cases p <;> first | exact absurd hp (by decide) | simp only [SideState.sameIn])

theorem SideState.knownTile_keeps (s : SideState) (img : List Byte) (v : TileView) : Keeps (some [0x03, 0x05, 0x06, 0x08, 0x09, 0x0E, 0x0F, 0x10, 0x14]) [.mem, .ecc, .drive, .mon, .pipe, .cal, .twin, .fault, .perf, .nvm, .power, .rigImage] s (SideState.knownTile s img v) := by
  unfold SideState.knownTile
  try dsimp only
  repeat' first
    | with_reducible apply Keeps.self
    | with_reducible assumption
    | with_reducible apply Keeps.ite
    | with_reducible apply Keeps.set
    | with_reducible apply Keeps.step (SideState.rigInForce_keeps _ _)
    | with_reducible apply Keeps.step (SideState.rejectImage_keeps _ _)
    | with_reducible apply Keeps.step (SideState.startRewrite_keeps _ _)
    | with_reducible apply Keeps.step (SideState.parkAtStart_keeps _)
    | with_reducible apply Keeps.step (SideState.calAtStart_keeps _)
    | with_reducible apply Keeps.step (SideState.padsSoon_keeps _)
    | exact rfl

theorem SideState.decideRig_keeps (s : SideState) (v : TileView) : Keeps none [.mem, .ecc, .drive, .mon, .scene, .pipe, .cal, .watch, .twin, .net, .fault, .therm, .perf, .nvm, .power, .rigImage] s (SideState.decideRig s v) := by
  unfold SideState.decideRig
  try dsimp only
  repeat' first
    | with_reducible apply Keeps.self
    | with_reducible assumption
    | with_reducible apply Keeps.ite
    | with_reducible apply Keeps.set
    | with_reducible apply Keeps.evt
    | with_reducible apply Keeps.step (SideState.setSerial_keeps _ _ _)
    | with_reducible apply Keeps.step (SideState.raise_keeps _ _)
    | with_reducible apply Keeps.step (SideState.rejectImage_keeps _ _)
    | with_reducible apply Keeps.step (SideState.knownTile_keeps _ _ _)
    | with_reducible apply Keeps.step (SideState.replacedTile_keeps _ _)
    | exact rfl
    | split

theorem SideState.startCommit_keeps (s : SideState) (img : List Byte) : Keeps (some [0x0F]) [.nvm] s (SideState.startCommit s img) := by
  unfold SideState.startCommit
  try dsimp only
  repeat' first
    | with_reducible apply Keeps.self
    | with_reducible assumption
    | with_reducible apply Keeps.set
    | with_reducible apply Keeps.step (SideState.startRecord_keeps _ _ _)
    | exact rfl
    | with_reducible apply Keeps.parts
    | (refine fun (p : Part) hp => ?_; cases p <;> first | exact absurd hp (by decide) | simp only [SideState.sameIn])

theorem SideState.tableIgnored_keeps (s : SideState) (a : Nat) (m : Master) : Keeps (some [0x03, 0x05, 0x06, 0x08, 0x09, 0x10, 0x14]) [.twin, .fault, .perf] s (SideState.tableIgnored s a m) := by
  unfold SideState.tableIgnored
  try dsimp only
  repeat' first
    | with_reducible apply Keeps.self
    | with_reducible assumption
    | with_reducible apply Keeps.step (SideState.raiseWith_keeps _ _ _)
    | exact rfl

theorem SideState.storeTableWord_keeps (s : SideState) (a v : Nat) : Keeps (some []) [.mem, .ecc, .twin] s (SideState.storeTableWord s a v) := by
  unfold SideState.storeTableWord
  try dsimp only
  repeat' first
    | with_reducible apply Keeps.self
    | with_reducible assumption
    | with_reducible apply Keeps.step (SideState.wr_keeps _ _ _ _)
    | with_reducible apply Keeps.step (SideState.emitMem_keeps _ _ _)
    | exact rfl
    | with_reducible apply Keeps.parts
    | (refine fun (p : Part) hp => ?_; cases p <;> first | exact absurd hp (by decide) | simp only [SideState.sameIn])

theorem SideState.writeTableWord_keeps (s : SideState) (m : Master) (a v : Nat) : Keeps (some [0x03, 0x05, 0x06, 0x08, 0x09, 0x10, 0x14]) [.mem, .ecc, .hostWrites, .twin, .fault, .perf] s (SideState.writeTableWord s m a v) := by
  unfold SideState.writeTableWord
  try dsimp only
  repeat' first
    | with_reducible apply Keeps.self
    | with_reducible assumption
    | with_reducible apply Keeps.ite
    | with_reducible apply Keeps.step (SideState.tableIgnored_keeps _ _ _)
    | with_reducible apply Keeps.step (SideState.storeTableWord_keeps _ _ _)
    | exact rfl
    | with_reducible apply Keeps.parts
    | (refine fun (p : Part) hp => ?_; cases p <;> first | exact absurd hp (by decide) | simp only [SideState.sameIn])

theorem SideState.rewriteMapEntry_keeps (s : SideState) (m : RigMap) (cal : Option (List Byte)) (a : Nat) : Keeps (some []) [.mem, .ecc] s (SideState.rewriteMapEntry s m cal a) := by
  unfold SideState.rewriteMapEntry
  try dsimp only
  repeat' first
    | with_reducible apply Keeps.self
    | with_reducible assumption
    | with_reducible apply Keeps.ite
    | with_reducible apply Keeps.step (SideState.wrBytes_keeps _ _ _)
    | with_reducible apply Keeps.step (SideState.tset_keeps _ _ _ _)
    | exact rfl
    | split

theorem SideState.rewriteLoop_keeps (s : SideState) (m : RigMap) (cal : Option (List Byte)) (l : Nat) : Keeps (some [0x06, 0x17, 0x30, 0x31]) [.mem, .ecc, .drive, .loops, .twin, .perf] s (SideState.rewriteLoop s m cal l) := by
  unfold SideState.rewriteLoop
  try dsimp only
  repeat' first
    | with_reducible apply Keeps.self
    | with_reducible assumption
    | with_reducible apply Keeps.ite
    | with_reducible apply Keeps.step (SideState.wrBytes_keeps _ _ _)
    | with_reducible apply Keeps.step (SideState.loadCalLoop_keeps _ _ _)
    | with_reducible apply Keeps.step (SideState.tset_keeps _ _ _ _)
    | with_reducible apply Keeps.step (SideState.waitSample_keeps _ _)
    | exact rfl
    | split

theorem SideState.rewriteEdge_keeps (s : SideState) (cal : Option (List Byte)) (c : Nat) : Keeps (some []) [.mem, .ecc] s (SideState.rewriteEdge s cal c) := by
  unfold SideState.rewriteEdge
  try dsimp only
  repeat' first
    | with_reducible apply Keeps.self
    | with_reducible assumption
    | with_reducible apply Keeps.ite
    | with_reducible apply Keeps.step (SideState.wrBytes_keeps _ _ _)
    | with_reducible apply Keeps.step (SideState.loadCalCell_keeps _ _ _)
    | with_reducible apply Keeps.step (SideState.tset_keeps _ _ _ _)
    | exact rfl
    | split

theorem SideState.rewriteEntry_keeps (s : SideState) (a : Nat) : Keeps (some [0x06, 0x0D, 0x17, 0x30, 0x31]) [.mem, .ecc, .drive, .loops, .twin, .perf] s (SideState.rewriteEntry s a) := by
  unfold SideState.rewriteEntry
  try dsimp only
  repeat' first
    | with_reducible apply Keeps.self
    | with_reducible assumption
    | with_reducible apply Keeps.ite
    | with_reducible apply Keeps.step (SideState.rewriteMapEntry_keeps _ _ _ _)
    | with_reducible apply Keeps.step (SideState.rewriteLoop_keeps _ _ _ _)
    | with_reducible apply Keeps.step (SideState.rewriteEdge_keeps _ _ _)
    | with_reducible apply Keeps.step (SideState.showHandovers_keeps _)
    | with_reducible apply Keeps.step (SideState.emitMem_keeps _ _ _)
    | exact rfl
    | with_reducible apply Keeps.parts
    | (refine fun (p : Part) hp => ?_; cases p <;> first | exact absurd hp (by decide) | simp only [SideState.sameIn])

end Sys2Proof.Machine
end

