-- ==== Sys2Proof/Laws/Reset.lean ====
section
/-! SUPPORT. What each operation of Machine/Reset.lean keeps. -/

set_option Elab.async false

namespace Sys2Proof.Machine

theorem SideState.resign_keeps (s : SideState) : Keeps (some [0x03, 0x05, 0x06, 0x08, 0x09, 0x10, 0x14]) [.twin, .fault, .perf] s (SideState.resign s) := by
  unfold SideState.resign
  try dsimp only
  repeat' first
    | with_reducible apply Keeps.self
    | with_reducible assumption
    | with_reducible apply KeepsP.step (SideState.resignOnce_keeps _)
    | with_reducible apply Keeps.step (SideState.raiseIf_keeps _ _ _)
    | exact rfl
    | with_reducible apply Keeps.step (KeepsP.fst (SideState.resignOnce_keeps _))
    | split

theorem SideState.leaveRole_keeps (s : SideState) : Keeps (some [0x05, 0x06, 0x08]) [.twin, .fault, .perf] s (SideState.leaveRole s) := by
  unfold SideState.leaveRole
  try dsimp only
  repeat' first
    | with_reducible apply Keeps.self
    | with_reducible assumption
    | with_reducible apply Keeps.step (SideState.enterRole_keeps _ _)
    | exact rfl
    | with_reducible apply Keeps.parts
    | (refine fun (p : Part) hp => ?_; cases p <;> first | exact absurd hp (by decide) | simp only [SideState.sameIn])

theorem SideState.findLog_keeps (s : SideState) : Keeps (some [0x05]) [.fault] s (SideState.findLog s) := by
  unfold SideState.findLog
  try dsimp only
  repeat' first
    | with_reducible apply Keeps.self
    | with_reducible assumption
    | with_reducible apply Keeps.set
    | exact rfl
    | split
    | with_reducible apply Keeps.parts
    | (refine fun (p : Part) hp => ?_; cases p <;> first | exact absurd hp (by decide) | simp only [SideState.sameIn])

theorem SideState.showStored_keeps (s : SideState) : Keeps (some [0x1F]) [] s (SideState.showStored s) := by
  unfold SideState.showStored
  try dsimp only
  repeat' first
    | with_reducible apply Keeps.self
    | with_reducible assumption
    | with_reducible apply Keeps.set
    | with_reducible apply Keeps.foldl
    | exact rfl

theorem SideState.bootUp_keeps (s : SideState) : Keeps (some [0x01, 0x05, 0x08, 0x1E, 0x1F]) [.fault] s (SideState.bootUp s) := by
  unfold SideState.bootUp
  try dsimp only
  repeat' first
    | with_reducible apply Keeps.self
    | with_reducible assumption
    | with_reducible apply Keeps.set
    | with_reducible apply Keeps.setB
    | with_reducible apply Keeps.step (SideState.showStored_keeps _)
    | with_reducible apply Keeps.step (SideState.findLog_keeps _)
    | exact rfl

theorem SideState.bare_keeps (s : SideState) : Keeps none [.pairs, .mem, .ecc, .hostWrites, .readBack, .clock, .off, .drive, .mon, .loops, .scene, .pipe, .cal, .watch, .twin, .net, .time, .fault, .lines, .therm, .perf, .nvm, .power, .rigImage, .tap] s s.bare := by
  refine ⟨rfl, fun k hk => absurd hk (by simp [onPages]), fun p hp => ?_, fun hc => ?_⟩
  · cases p <;> first | exact absurd hp (by decide) | rfl
  · rw [canonical_iff] at hc ⊢
    exact ⟨rfl, Store.wf_filterKeys memDefault _ (fun c => Nat.ble 0x40000000 c && Nat.blt c 0x42000000) hc.2⟩

theorem SideState.coldStart_keeps (s : SideState) (compat rolePref : Bool) : Keeps none [.pairs, .mem, .ecc, .hostWrites, .readBack, .clock, .off, .drive, .mon, .loops, .scene, .pipe, .cal, .watch, .twin, .net, .time, .fault, .lines, .therm, .perf, .nvm, .power, .rigImage, .tap] s (SideState.coldStart s compat rolePref) := by
  unfold SideState.coldStart
  try dsimp only
  repeat' first
    | with_reducible apply Keeps.self
    | with_reducible assumption
    | with_reducible apply Keeps.set
    | with_reducible apply Keeps.setB
    | with_reducible apply Keeps.step (SideState.bootUp_keeps _)
    | with_reducible apply Keeps.step (SideState.bare_keeps _)
    | exact rfl

theorem SideState.restart_keeps (s : SideState) (cause : Nat) : Keeps none [.pairs, .mem, .ecc, .hostWrites, .readBack, .clock, .off, .drive, .mon, .loops, .scene, .pipe, .cal, .watch, .twin, .net, .time, .fault, .lines, .therm, .perf, .nvm, .power, .rigImage, .tap] s (SideState.restart s cause) := by
  unfold SideState.restart
  try dsimp only
  repeat' first
    | with_reducible apply Keeps.self
    | with_reducible assumption
    | with_reducible apply Keeps.set
    | with_reducible apply Keeps.bump
    | with_reducible apply Keeps.step (SideState.bare_keeps _)
    | with_reducible apply Keeps.step (SideState.bootUp_keeps _)
    | exact rfl
    | with_reducible apply Keeps.parts
    | (refine fun (p : Part) hp => ?_; cases p <;> first | exact absurd hp (by decide) | simp only [SideState.sameIn])

theorem SideState.peerWake_keeps (s : SideState) (peerRuns : Bool) : Keeps (some []) [.therm] s (SideState.peerWake s peerRuns) := by
  unfold SideState.peerWake
  try dsimp only
  repeat' first
    | with_reducible apply Keeps.self
    | with_reducible assumption
    | with_reducible apply Keeps.ite
    | exact rfl
    | with_reducible apply Keeps.parts
    | (refine fun (p : Part) hp => ?_; cases p <;> first | exact absurd hp (by decide) | simp only [SideState.sameIn])

end Sys2Proof.Machine
end

