-- ==== Sys2Proof/Laws/Voted.lean ====
section
/-! SUPPORT. What each operation of Machine/Voted.lean keeps. -/

set_option Elab.async false

namespace Sys2Proof.Machine

theorem SideState.enterSafe_keeps (s : SideState) : Keeps (some [0x03, 0x05, 0x06, 0x08, 0x09, 0x10, 0x14]) [.twin, .fault, .perf] s (SideState.enterSafe s) := by
  unfold SideState.enterSafe
  try dsimp only
  repeat' first
    | with_reducible apply Keeps.self
    | with_reducible assumption
    | with_reducible apply Keeps.set
    | with_reducible apply Keeps.step (SideState.resign_keeps _)
    | with_reducible apply Keeps.step (SideState.fenceSelf_keeps _)
    | exact rfl

theorem SideState.reloadRig_keeps (s : SideState) : Keeps (some [0x0F]) [.pipe] s (SideState.reloadRig s) := by
  unfold SideState.reloadRig
  try dsimp only
  repeat' first
    | with_reducible apply Keeps.self
    | with_reducible assumption
    | with_reducible apply Keeps.ite
    | with_reducible apply Keeps.step (SideState.rigRegisters_keeps _ _)
    | exact rfl
    | split
    | with_reducible apply Keeps.parts
    | (refine fun (p : Part) hp => ?_; cases p <;> first | exact absurd hp (by decide) | simp only [SideState.sameIn])

theorem SideState.emitConn_keeps (s : SideState) (i : Nat) : Keeps (some []) [.twin] s (SideState.emitConn s i) := by
  unfold SideState.emitConn
  try dsimp only
  repeat' first
    | with_reducible apply Keeps.self
    | with_reducible assumption
    | with_reducible apply Keeps.step (SideState.emit_keeps _ _)
    | exact rfl

theorem SideState.voteLost_keeps (s : SideState) (key : Nat) (peerLow : Bool) : Keeps none [.pipe, .twin, .fault, .perf] s (SideState.voteLost s key peerLow) := by
  have hs (x : SideState) (f : Fld) (v : Nat) (h : Keeps none [.pipe, .twin, .fault, .perf] s x) :
      Keeps none [.pipe, .twin, .fault, .perf] s (x.set f v) := Keeps.set f v rfl h
  have hf (x : SideState) (v : FaultState) (hl : (v.condition, v.intLow, v.msiSent) = (x.fault.condition, x.fault.intLow, x.fault.msiSent))
      (h : Keeps none [.pipe, .twin, .fault, .perf] s x) : Keeps none [.pipe, .twin, .fault, .perf] s { x with fault := v } := by
    with_reducible apply Keeps.parts h
    refine fun (p : Part) hp => ?_
    cases p <;> first | exact absurd hp (by decide) | simp only [SideState.sameIn, hl]
  have hq (x : SideState) (v : PipeState) (h : Keeps none [.pipe, .twin, .fault, .perf] s x) :
      Keeps none [.pipe, .twin, .fault, .perf] s { x with pipe := v } := by
    with_reducible apply Keeps.parts h
    refine fun (p : Part) hp => ?_
    cases p <;> first | exact absurd hp (by decide) | simp only [SideState.sameIn]
  unfold SideState.voteLost
  dsimp only
  refine Keeps.ite (hs _ _ _ (Keeps.setB _ _ rfl (Keeps.step (SideState.enterRole_keeps _ _) rfl rfl
    (Keeps.step (SideState.enterSafe_keeps _) rfl rfl Keeps.self)))) ?_
  refine Keeps.ite (hf _ _ rfl (hs _ _ _ Keeps.self)) ?_
  refine Keeps.ite (hs _ _ _ (hs _ _ _ Keeps.self)) (Keeps.ite Keeps.self ?_)
  refine Keeps.ite (hs _ _ _ (hq _ _ Keeps.self)) ?_
  refine Keeps.ite (hq _ _ (Keeps.emitReg rfl (hs _ _ _ Keeps.self))) ?_
  refine Keeps.ite (Keeps.step (SideState.emitConn_keeps _ _) rfl rfl (hs _ _ _ (Keeps.ite ?_ ?_))) Keeps.self
  · exact hs _ _ _ Keeps.self
  · exact hs _ _ _ Keeps.self

theorem SideState.statLost_keeps (s : SideState) (lo : Nat) : Keeps (some [0x03, 0x05, 0x06, 0x08, 0x09, 0x0B, 0x0C, 0x10, 0x14, 0x18, 0x19, 0x1A, 0x1B, 0x1C]) [.mem, .ecc, .scene, .pipe, .watch, .twin, .net, .fault, .therm, .perf] s (SideState.statLost s lo) := by
  unfold SideState.statLost
  try dsimp only
  repeat' first
    | with_reducible apply Keeps.self
    | with_reducible assumption
    | with_reducible apply Keeps.ite
    | with_reducible apply Keeps.set
    | with_reducible apply Keeps.step (SideState.requestCurtain_keeps _ _)
    | exact rfl
    | with_reducible apply Keeps.parts
    | (refine fun (p : Part) hp => ?_; cases p <;> first | exact absurd hp (by decide) | simp only [SideState.sameIn])

theorem SideState.voteDiffers_keeps (s : SideState) (f : Fld) (all peerLow : Bool) (reader : Nat) : Keeps none [.mem, .ecc, .scene, .pipe, .watch, .twin, .net, .fault, .therm, .perf] s (SideState.voteDiffers s f all peerLow reader) := by
  unfold SideState.voteDiffers
  try dsimp only
  repeat' first
    | with_reducible apply Keeps.self
    | with_reducible assumption
    | with_reducible apply Keeps.ite
    | with_reducible apply Keeps.set
    | with_reducible apply Keeps.evt
    | with_reducible apply Keeps.step (SideState.statLost_keeps _ _)
    | with_reducible apply Keeps.step (SideState.voteLost_keeps _ _ _)
    | with_reducible apply Keeps.step (SideState.raiseWith_keeps _ _ _)
    | with_reducible apply Keeps.step (SideState.raise_keeps _ _)
    | exact rfl
    | (simp only [pageOf_bank]; exact rfl)

theorem SideState.sramError_keeps (s : SideState) (point : Nat) (check : CheckOutcome) : Keeps none [.pairs, .twin, .fault, .perf] s (SideState.sramError s point check) := by
  unfold SideState.sramError
  try dsimp only
  repeat' first
    | with_reducible apply Keeps.self
    | with_reducible assumption
    | with_reducible apply Keeps.ite
    | with_reducible apply Keeps.step (SideState.eccCorrected_keeps _ _)
    | with_reducible apply Keeps.step (SideState.eccError_keeps _ _ _ _ _)
    | exact rfl

theorem SideState.compareCopies_keeps (s : SideState) (p : Nat → Bool) (peerLow : Bool) (reader : Nat) : Keeps none [.mem, .ecc, .scene, .pipe, .watch, .twin, .net, .fault, .therm, .perf] s (SideState.compareCopies s p peerLow reader) := by
  unfold SideState.compareCopies
  try dsimp only
  repeat' first
    | with_reducible apply Keeps.self
    | with_reducible assumption
    | with_reducible apply Keeps.step (SideState.voteDiffers_keeps _ _ _ _ _)
    | with_reducible apply Keeps.foldl
    | exact rfl
    | with_reducible apply Keeps.parts
    | (refine fun (p : Part) hp => ?_; cases p <;> first | exact absurd hp (by decide) | simp only [SideState.sameIn])
    | intro _ _ _

theorem SideState.voteCheck_keeps (s : SideState) (point page : Nat) : Keeps none [.twin, .fault, .perf] s (SideState.voteCheck s point page) := by
  unfold SideState.voteCheck
  try dsimp only
  repeat' first
    | with_reducible apply Keeps.self
    | with_reducible assumption
    | with_reducible apply Keeps.set
    | with_reducible apply Keeps.step (SideState.checkAt_keeps _ _ _)
    | exact rfl
    | (simp only [pageOf_bank]; exact rfl)
    | split

theorem SideState.compareAtBoundary_keeps (s : SideState) (peerLow : Bool) : Keeps none [.mem, .ecc, .scene, .pipe, .watch, .twin, .net, .fault, .therm, .perf] s (SideState.compareAtBoundary s peerLow) := by
  unfold SideState.compareAtBoundary
  try dsimp only
  repeat' first
    | with_reducible apply Keeps.self
    | with_reducible assumption
    | with_reducible apply Keeps.step (SideState.compareCopies_keeps _ _ _ _)
    | with_reducible apply Keeps.step (SideState.voteCheck_keeps _ _ _)
    | exact rfl

theorem SideState.readsNode_keeps (s : SideState) : Keeps none [.mem, .ecc, .scene, .pipe, .watch, .twin, .net, .fault, .therm, .perf] s (SideState.readsNode s) := by
  unfold SideState.readsNode
  try dsimp only
  repeat' first
    | with_reducible apply Keeps.self
    | with_reducible assumption
    | with_reducible apply Keeps.step (SideState.compareCopies_keeps _ _ _ _)
    | exact rfl

theorem SideState.eventOf_keeps (s : SideState) (source point : Nat) (check : CheckOutcome) (peerLow : Bool) : Keeps none [.pairs, .mem, .ecc, .hostWrites, .scene, .pipe, .cal, .watch, .twin, .net, .fault, .therm, .perf] s (SideState.eventOf s source point check peerLow) := by
  unfold SideState.eventOf
  try dsimp only
  repeat' first
    | with_reducible apply Keeps.self
    | with_reducible assumption
    | with_reducible apply Keeps.ite
    | with_reducible apply Keeps.set
    | with_reducible apply Keeps.step (SideState.voteDiffers_keeps _ _ _ _ _)
    | with_reducible apply Keeps.step (SideState.consumeInjection_keeps _ _)
    | with_reducible apply Keeps.step (SideState.faultEvent_keeps _ _ _ _)
    | with_reducible apply Keeps.step (SideState.sramError_keeps _ _ _)
    | with_reducible apply Keeps.step (SideState.hardWord_keeps _ _)
    | exact rfl
    | (simp only [pageOf_bank]; exact rfl)
    | split
    | with_reducible apply Keeps.parts
    | (refine fun (p : Part) hp => ?_; cases p <;> first | exact absurd hp (by decide) | simp only [SideState.sameIn])

end Sys2Proof.Machine
end

