-- ==== Sys2Proof/Laws/Cues.lean ====
section
/-! SUPPORT. What each operation of Machine/Cues.lean keeps. -/

set_option Elab.async false

namespace Sys2Proof.Machine

theorem SideState.setDeadline_keeps (s : SideState) (i : Nat) (d : Option Nat) : Keeps (some []) [.pipe] s (SideState.setDeadline s i d) := by
  unfold SideState.setDeadline
  try dsimp only
  repeat' first
    | with_reducible apply Keeps.self
    | with_reducible assumption
    | exact rfl
    | split
    | with_reducible apply Keeps.parts
    | (refine fun (p : Part) hp => ?_; cases p <;> first | exact absurd hp (by decide) | simp only [SideState.sameIn])

theorem SideState.writeConnCfg_keeps (s : SideState) (i v : Nat) : Keeps (some [0x0A]) [.pipe, .twin, .fault] s (SideState.writeConnCfg s i v) := by
  unfold SideState.writeConnCfg
  try dsimp only
  repeat' first
    | with_reducible apply Keeps.self
    | with_reducible assumption
    | with_reducible apply Keeps.ite
    | with_reducible apply Keeps.set
    | with_reducible apply Keeps.evt
    | with_reducible apply Keeps.step (SideState.agree_keeps _ _)
    | with_reducible apply Keeps.step (SideState.emitConn_keeps _ _)
    | with_reducible apply Keeps.step (SideState.setDeadline_keeps _ _ _)
    | exact rfl
    | (simp only [pageOf_bank]; exact rfl)

theorem SideState.discardCue_keeps (s : SideState) (detail conn : Nat) : Keeps (some [0x03, 0x05, 0x06, 0x08, 0x09, 0x0A, 0x10, 0x14]) [.twin, .fault, .perf] s (SideState.discardCue s detail conn) := by
  unfold SideState.discardCue
  try dsimp only
  repeat' first
    | with_reducible apply Keeps.self
    | with_reducible assumption
    | with_reducible apply Keeps.ite
    | with_reducible apply Keeps.set
    | with_reducible apply Keeps.bump
    | with_reducible apply Keeps.evt
    | with_reducible apply Keeps.step (SideState.count_keeps _ _ _)
    | with_reducible apply Keeps.step (SideState.checkAt_keeps _ _ _)
    | with_reducible apply Keeps.step (SideState.raise_keeps _ _)
    | exact rfl
    | ((repeat' split) <;> exact rfl)

theorem SideState.dropAssembly_keeps (s : SideState) (id : Nat) : Keeps (some []) [.pipe] s (SideState.dropAssembly s id) := by
  unfold SideState.dropAssembly
  try dsimp only
  repeat' first
    | with_reducible apply Keeps.self
    | with_reducible assumption
    | exact rfl
    | with_reducible apply Keeps.parts
    | (refine fun (p : Part) hp => ?_; cases p <;> first | exact absurd hp (by decide) | simp only [SideState.sameIn])

theorem SideState.cueComplete_keeps (s : SideState) (cue : Cue) (origin last : CueOrigin) (conn received : Nat) : Keeps (some []) [.pipe] s (SideState.cueComplete s cue origin last conn received) := by
  unfold SideState.cueComplete
  try dsimp only
  repeat' first
    | with_reducible apply Keeps.self
    | with_reducible assumption
    | exact rfl
    | with_reducible apply Keeps.parts
    | (refine fun (p : Part) hp => ?_; cases p <;> first | exact absurd hp (by decide) | simp only [SideState.sameIn])

theorem SideState.firstFragment_keeps (s : SideState) (cue : Cue) (origin : CueOrigin) (conn received : Nat) : KeepsP (some [0x03, 0x05, 0x06, 0x08, 0x09, 0x0A, 0x10, 0x14]) [.pipe, .twin, .fault, .perf] s (SideState.firstFragment s cue origin conn received) := by
  unfold SideState.firstFragment
  try dsimp only
  repeat' first
    | with_reducible apply Keeps.self
    | with_reducible assumption
    | with_reducible apply Keeps.ite
    | with_reducible apply KeepsP.ite
    | with_reducible apply Keeps.step (SideState.cueComplete_keeps _ _ _ _ _ _)
    | with_reducible apply Keeps.step (SideState.discardCue_keeps _ _ _)
    | with_reducible apply KeepsP.mk
    | exact rfl
    | with_reducible apply Keeps.parts
    | (refine fun (p : Part) hp => ?_; cases p <;> first | exact absurd hp (by decide) | simp only [SideState.sameIn])

theorem SideState.joinFragment_keeps (s : SideState) (a : Assembly) (cue : Cue) (last : CueOrigin) (conn received : Nat) : KeepsP (some []) [.pipe] s (SideState.joinFragment s a cue last conn received) := by
  unfold SideState.joinFragment
  try dsimp only
  repeat' first
    | with_reducible apply Keeps.self
    | with_reducible assumption
    | with_reducible apply Keeps.ite
    | with_reducible apply KeepsP.ite
    | with_reducible apply Keeps.step (SideState.dropAssembly_keeps _ _)
    | with_reducible apply Keeps.step (SideState.cueComplete_keeps _ _ _ _ _ _)
    | with_reducible apply KeepsP.mk
    | exact rfl
    | with_reducible apply Keeps.parts
    | (refine fun (p : Part) hp => ?_; cases p <;> first | exact absurd hp (by decide) | simp only [SideState.sameIn])

theorem SideState.assemble_keeps (s : SideState) (cue : Cue) (origin : CueOrigin) (conn received : Nat) : KeepsP (some [0x03, 0x05, 0x06, 0x08, 0x09, 0x0A, 0x10, 0x14]) [.pipe, .twin, .fault, .perf] s (SideState.assemble s cue origin conn received) := by
  unfold SideState.assemble
  try dsimp only
  repeat' first
    | with_reducible apply Keeps.self
    | with_reducible assumption
    | with_reducible apply Keeps.ite
    | with_reducible apply KeepsP.ite
    | with_reducible apply Keeps.bump
    | with_reducible apply KeepsP.step (SideState.firstFragment_keeps _ _ _ _ _)
    | with_reducible apply Keeps.step (SideState.dropAssembly_keeps _ _)
    | with_reducible apply Keeps.step (SideState.discardCue_keeps _ _ _)
    | with_reducible apply KeepsP.step (SideState.joinFragment_keeps _ _ _ _ _ _)
    | with_reducible apply KeepsP.mk
    | exact rfl
    | with_reducible apply Keeps.step (KeepsP.fst (SideState.firstFragment_keeps _ _ _ _ _))
    | with_reducible apply Keeps.step (KeepsP.of_eq (SideState.firstFragment_keeps _ _ _ _ _) (by assumption))
    | with_reducible apply Keeps.step (KeepsP.fst (SideState.joinFragment_keeps _ _ _ _ _ _))
    | with_reducible apply Keeps.step (KeepsP.of_eq (SideState.joinFragment_keeps _ _ _ _ _ _) (by assumption))
    | split

theorem SideState.intake_keeps (s : SideState) (origin : CueOrigin) (p : List Byte) (received : Nat) : KeepsP none [.mem, .ecc, .scene, .pipe, .watch, .twin, .net, .fault, .therm, .perf] s (SideState.intake s origin p received) := by
  unfold SideState.intake
  try dsimp only
  repeat' first
    | with_reducible apply Keeps.self
    | with_reducible assumption
    | with_reducible apply Keeps.ite
    | with_reducible apply KeepsP.ite
    | with_reducible apply Keeps.step (SideState.readsNode_keeps _)
    | with_reducible apply Keeps.step (SideState.checkAt_keeps _ _ _)
    | with_reducible apply Keeps.step (SideState.discardCue_keeps _ _ _)
    | with_reducible apply KeepsP.step (SideState.assemble_keeps _ _ _ _ _)
    | with_reducible apply KeepsP.mk
    | exact rfl
    | with_reducible apply Keeps.step (KeepsP.fst (SideState.assemble_keeps _ _ _ _ _))
    | with_reducible apply Keeps.step (KeepsP.of_eq (SideState.assemble_keeps _ _ _ _ _) (by assumption))
    | split

theorem SideState.acceptSeq_keeps (s : SideState) (w : WaitingCue) : Keeps (some [0x0A]) [.pipe, .twin] s (SideState.acceptSeq s w) := by
  unfold SideState.acceptSeq
  try dsimp only
  repeat' first
    | with_reducible apply Keeps.self
    | with_reducible assumption
    | with_reducible apply Keeps.ite
    | with_reducible apply Keeps.set
    | with_reducible apply Keeps.step (SideState.setDeadline_keeps _ _ _)
    | with_reducible apply Keeps.step (SideState.emitConn_keeps _ _)
    | exact rfl
    | (simp only [pageOf_bank]; exact rfl)

theorem SideState.replyWithout_keeps (s : SideState) (w : WaitingCue) (word : Nat) : Keeps (some [0x03, 0x05, 0x06, 0x08, 0x09, 0x10, 0x14, 0x18, 0x19, 0x1A, 0x1B, 0x1C]) [.twin, .net, .fault, .perf] s (SideState.replyWithout s w word) := by
  unfold SideState.replyWithout
  try dsimp only
  repeat' first
    | with_reducible apply Keeps.self
    | with_reducible assumption
    | with_reducible apply Keeps.ite
    | with_reducible apply Keeps.step (SideState.reply_keeps _ _)
    | with_reducible apply Keeps.step (SideState.sendStatus_keeps _ _)
    | exact rfl
    | split

theorem SideState.mailboxDone_keeps (s : SideState) (result entry detail : Nat) : Keeps (some [0x0A]) [] s (SideState.mailboxDone s result entry detail) := by
  unfold SideState.mailboxDone
  try dsimp only
  repeat' first
    | with_reducible apply Keeps.self
    | with_reducible assumption
    | with_reducible apply Keeps.set
    | with_reducible apply Keeps.evt
    | exact rfl

theorem SideState.mailboxTaken_keeps (s : SideState) (w : WaitingCue) (entry : Nat) : Keeps (some [0x0A]) [] s (SideState.mailboxTaken s w entry) := by
  unfold SideState.mailboxTaken
  try dsimp only
  repeat' first
    | with_reducible apply Keeps.self
    | with_reducible assumption
    | with_reducible apply Keeps.ite
    | with_reducible apply Keeps.step (SideState.mailboxDone_keeps _ _ _ _)
    | exact rfl

theorem SideState.safetyFails_keeps (s : SideState) (w : WaitingCue) (entry detail : Nat) : Keeps (some [0x03, 0x05, 0x06, 0x08, 0x09, 0x0A, 0x10, 0x14]) [.twin, .fault, .perf] s (SideState.safetyFails s w entry detail) := by
  unfold SideState.safetyFails
  try dsimp only
  repeat' first
    | with_reducible apply Keeps.self
    | with_reducible assumption
    | with_reducible apply Keeps.set
    | with_reducible apply Keeps.evt
    | with_reducible apply Keeps.step (SideState.raise_keeps _ _)
    | exact rfl

theorem SideState.refuseCue_keeps (s : SideState) (w : WaitingCue) (e reason detail : Nat) : Keeps (some [0x03, 0x05, 0x06, 0x08, 0x09, 0x0A, 0x0B, 0x0C, 0x10, 0x14, 0x18, 0x19, 0x1A, 0x1B, 0x1C]) [.mem, .ecc, .scene, .pipe, .twin, .net, .fault, .perf] s (SideState.refuseCue s w e reason detail) := by
  unfold SideState.refuseCue
  try dsimp only
  repeat' first
    | with_reducible apply Keeps.self
    | with_reducible assumption
    | with_reducible apply Keeps.ite
    | with_reducible apply Keeps.bump
    | with_reducible apply Keeps.step (SideState.safetyFails_keeps _ _ _ _)
    | with_reducible apply Keeps.step (SideState.setTrk_keeps _ _ _)
    | with_reducible apply Keeps.step (SideState.closeCue_keeps _ _ _ _)
    | exact rfl

theorem SideState.admitScene_keeps (s : SideState) (w : WaitingCue) (e : Nat) (pred target : List Conn) : Keeps (some [0x03, 0x05, 0x06, 0x08, 0x09, 0x0A, 0x0B, 0x0C, 0x10, 0x14, 0x18, 0x19, 0x1A, 0x1B, 0x1C]) [.mem, .ecc, .scene, .pipe, .watch, .twin, .net, .fault, .perf] s (SideState.admitScene s w e pred target) := by
  unfold SideState.admitScene
  try dsimp only
  repeat' first
    | with_reducible apply Keeps.self
    | with_reducible assumption
    | with_reducible apply Keeps.ite
    | with_reducible apply KeepsP.ite
    | with_reducible apply KeepsP.step (SideState.takeSlot_keeps _)
    | with_reducible apply Keeps.step (SideState.refuseCue_keeps _ _ _ _ _)
    | with_reducible apply Keeps.step (SideState.wrBytes_keeps _ _ _)
    | with_reducible apply Keeps.step (SideState.emitMem_keeps _ _ _)
    | with_reducible apply Keeps.step (SideState.countDiag_keeps _ _ _)
    | with_reducible apply Keeps.step (SideState.writeScene_keeps _ _ _ _ _)
    | with_reducible apply Keeps.step (SideState.setTrk_keeps _ _ _)
    | exact rfl
    | with_reducible apply Keeps.step (KeepsP.fst (SideState.takeSlot_keeps _))
    | with_reducible apply Keeps.step (KeepsP.of_eq (SideState.takeSlot_keeps _) (by assumption))
    | split
    | with_reducible apply Keeps.parts
    | (refine fun (p : Part) hp => ?_; cases p <;> first | exact absurd hp (by decide) | simp only [SideState.sameIn])

theorem SideState.admitCurtain_keeps (s : SideState) (e : Nat) : Keeps (some [0x03, 0x05, 0x06, 0x08, 0x09, 0x0B, 0x0C, 0x10, 0x14, 0x18, 0x19, 0x1A, 0x1B, 0x1C]) [.mem, .ecc, .scene, .pipe, .watch, .twin, .net, .fault, .perf] s (SideState.admitCurtain s e) := by
  unfold SideState.admitCurtain
  try dsimp only
  repeat' first
    | with_reducible apply Keeps.self
    | with_reducible assumption
    | with_reducible apply Keeps.step (SideState.askCurtain_keeps _ _)
    | with_reducible apply Keeps.step (SideState.setTrk_keeps _ _ _)
    | exact rfl
    | with_reducible apply Keeps.parts
    | (refine fun (p : Part) hp => ?_; cases p <;> first | exact absurd hp (by decide) | simp only [SideState.sameIn])

theorem SideState.takeIn_keeps (s : SideState) (w : WaitingCue) (e : Nat) (pred target : List Conn) : Keeps (some [0x03, 0x05, 0x06, 0x08, 0x09, 0x0A, 0x0B, 0x0C, 0x10, 0x14, 0x18, 0x19, 0x1A, 0x1B, 0x1C]) [.mem, .ecc, .scene, .pipe, .watch, .twin, .net, .fault, .therm, .perf] s (SideState.takeIn s w e pred target) := by
  unfold SideState.takeIn
  try dsimp only
  repeat' first
    | with_reducible apply Keeps.self
    | with_reducible assumption
    | with_reducible apply Keeps.bump
    | with_reducible apply Keeps.step (SideState.count_keeps _ _ _)
    | with_reducible apply Keeps.step (SideState.closeCue_keeps _ _ _ _)
    | with_reducible apply Keeps.step (SideState.admitCurtain_keeps _ _)
    | with_reducible apply Keeps.step (SideState.admitScene_keeps _ _ _ _ _)
    | exact rfl
    | split

theorem SideState.checkEntry_keeps (s : SideState) (w : WaitingCue) (e : Nat) : Keeps (some [0x03, 0x05, 0x06, 0x08, 0x09, 0x0A, 0x0B, 0x0C, 0x10, 0x14, 0x18, 0x19, 0x1A, 0x1B, 0x1C]) [.mem, .ecc, .scene, .pipe, .watch, .twin, .net, .fault, .therm, .perf] s (SideState.checkEntry s w e) := by
  unfold SideState.checkEntry
  try dsimp only
  repeat' first
    | with_reducible apply Keeps.self
    | with_reducible assumption
    | with_reducible apply Keeps.ite
    | with_reducible apply Keeps.step (SideState.setTrk_keeps _ _ _)
    | with_reducible apply Keeps.step (SideState.acceptSeq_keeps _ _)
    | with_reducible apply Keeps.step (SideState.refuseCue_keeps _ _ _ _ _)
    | with_reducible apply Keeps.step (SideState.takeIn_keeps _ _ _ _ _)
    | exact rfl

theorem SideState.checkAbort_keeps (s : SideState) (w : WaitingCue) : Keeps (some [0x03, 0x05, 0x06, 0x08, 0x09, 0x0A, 0x0B, 0x0C, 0x10, 0x14, 0x18, 0x19, 0x1A, 0x1B, 0x1C]) [.mem, .ecc, .scene, .pipe, .watch, .twin, .net, .fault, .perf] s (SideState.checkAbort s w) := by
  unfold SideState.checkAbort
  try dsimp only
  repeat' first
    | with_reducible apply Keeps.self
    | with_reducible assumption
    | with_reducible apply Keeps.ite
    | with_reducible apply Keeps.set
    | with_reducible apply Keeps.bump
    | with_reducible apply Keeps.step (SideState.acceptSeq_keeps _ _)
    | with_reducible apply Keeps.step (SideState.safetyFails_keeps _ _ _ _)
    | with_reducible apply Keeps.step (SideState.count_keeps _ _ _)
    | with_reducible apply Keeps.step (SideState.abortEntry_keeps _ _)
    | with_reducible apply Keeps.step (SideState.replyWithout_keeps _ _ _)
    | exact rfl
    | split

theorem SideState.policyWithout_keeps (s : SideState) (w : WaitingCue) : Keeps (some [0x03, 0x05, 0x06, 0x08, 0x09, 0x0A, 0x10, 0x14, 0x18, 0x19, 0x1A, 0x1B, 0x1C]) [.pipe, .twin, .net, .fault, .perf] s (SideState.policyWithout s w) := by
  unfold SideState.policyWithout
  try dsimp only
  repeat' first
    | with_reducible apply Keeps.self
    | with_reducible assumption
    | with_reducible apply Keeps.ite
    | with_reducible apply Keeps.bump
    | with_reducible apply Keeps.step (SideState.acceptSeq_keeps _ _)
    | with_reducible apply Keeps.step (SideState.replyWithout_keeps _ _ _)
    | with_reducible apply Keeps.step (SideState.count_keeps _ _ _)
    | exact rfl

theorem SideState.clearKeyData_keeps (s : SideState) : Keeps (some [0x1F]) [.nvm] s (SideState.clearKeyData s) := by
  unfold SideState.clearKeyData
  try dsimp only
  repeat' first
    | with_reducible apply Keeps.self
    | with_reducible assumption
    | with_reducible apply Keeps.set
    | with_reducible apply Keeps.foldl
    | exact rfl
    | (simp only [pageOf_nth]; exact rfl)
    | with_reducible apply Keeps.parts
    | (refine fun (p : Part) hp => ?_; cases p <;> first | exact absurd hp (by decide) | simp only [SideState.sameIn])
    | intro _ _ _

theorem SideState.keyCommand_keeps (s : SideState) (v : Nat) (isOpen : Bool) : Keeps (some [0x03, 0x05, 0x06, 0x08, 0x09, 0x0F, 0x10, 0x14, 0x1F]) [.twin, .fault, .perf, .nvm] s (SideState.keyCommand s v isOpen) := by
  unfold SideState.keyCommand
  try dsimp only
  repeat' first
    | with_reducible apply Keeps.self
    | with_reducible assumption
    | with_reducible apply Keeps.ite
    | with_reducible apply Keeps.set
    | with_reducible apply Keeps.evt
    | with_reducible apply Keeps.step (SideState.clearKeyData_keeps _)
    | with_reducible apply Keeps.step (SideState.raise_keeps _ _)
    | with_reducible apply Keeps.step (SideState.startRecord_keeps _ _ _)
    | exact rfl

end Sys2Proof.Machine
end

