-- ==== Sys2Proof/Laws/Startup.lean ====
section
/-! SUPPORT. What each operation of Machine/Startup.lean keeps. -/

set_option Elab.async false

namespace Sys2Proof.Machine

theorem SideState.alignTo_keeps (s p : SideState) (v : ArbView) : Keeps (some []) [.clock, .time] s (SideState.alignTo s p v) := by
  unfold SideState.alignTo
  try dsimp only
  repeat' first
    | with_reducible apply Keeps.self
    | with_reducible assumption
    | with_reducible apply Keeps.ite
    | exact rfl
    | with_reducible apply Keeps.parts
    | (refine fun (p : Part) hp => ?_; cases p <;> first | exact absurd hp (by decide) | simp only [SideState.sameIn])

theorem SideState.decideRole_keeps (s : SideState) (row role : Nat) : Keeps (some [0x01, 0x05, 0x06, 0x08, 0x09, 0x10, 0x14]) [.twin, .fault, .perf, .power] s (SideState.decideRole s row role) := by
  unfold SideState.decideRole
  try dsimp only
  repeat' first
    | with_reducible apply Keeps.self
    | with_reducible assumption
    | with_reducible apply Keeps.ite
    | with_reducible apply Keeps.set
    | with_reducible apply Keeps.step (SideState.enterRole_keeps _ _)
    | with_reducible apply Keeps.step (SideState.padsDone_keeps _)
    | with_reducible apply Keeps.step (SideState.fenceSelf_keeps _)
    | exact rfl
    | split
    | with_reducible apply Keeps.parts
    | (refine fun (p : Part) hp => ?_; cases p <;> first | exact absurd hp (by decide) | simp only [SideState.sameIn])

theorem SideState.arbitrate_keeps (s p : SideState) (eligible : Bool) (v : ArbView) : Keeps (some [0x01, 0x03, 0x05, 0x06, 0x08, 0x09, 0x10, 0x14]) [.clock, .twin, .time, .fault, .perf, .power] s (SideState.arbitrate s p eligible v) := by
  unfold SideState.arbitrate
  try dsimp only
  repeat' first
    | with_reducible apply Keeps.self
    | with_reducible assumption
    | with_reducible apply Keeps.ite
    | with_reducible apply Keeps.set
    | with_reducible apply Keeps.setB
    | with_reducible apply Keeps.step (SideState.alignTo_keeps _ _ _)
    | with_reducible apply Keeps.step (SideState.raiseIf_keeps _ _ _)
    | with_reducible apply Keeps.step (SideState.decideRole_keeps _ _ _)
    | exact rfl
    | split
    | with_reducible apply Keeps.parts
    | (refine fun (p : Part) hp => ?_; cases p <;> first | exact absurd hp (by decide) | simp only [SideState.sameIn])

theorem SideState.unsupply_keeps (s : SideState) : Keeps (some [0x05, 0x06, 0x08, 0x09, 0x10, 0x14]) [.twin, .fault, .perf, .power] s (SideState.unsupply s) := by
  unfold SideState.unsupply
  try dsimp only
  repeat' first
    | with_reducible apply Keeps.self
    | with_reducible assumption
    | with_reducible apply Keeps.step (SideState.fenceSelf_keeps _)
    | exact rfl
    | with_reducible apply Keeps.parts
    | (refine fun (p : Part) hp => ?_; cases p <;> first | exact absurd hp (by decide) | simp only [SideState.sameIn])

theorem SideState.writeDirectory_keeps (s : SideState) (d : SlotDirectory) : Keeps (some [0x06]) [.mem, .ecc, .perf, .nvm] s (SideState.writeDirectory s d) := by
  unfold SideState.writeDirectory
  try dsimp only
  repeat' first
    | with_reducible apply Keeps.self
    | with_reducible assumption
    | with_reducible apply Keeps.ite
    | with_reducible apply Keeps.step (SideState.directoryWritten_keeps _)
    | exact rfl
    | with_reducible apply Keeps.parts
    | (refine fun (p : Part) hp => ?_; cases p <;> first | exact absurd hp (by decide) | simp only [SideState.sameIn])

theorem SideState.loadMac_keeps (s : SideState) : Keeps (some [0x1B]) [] s (SideState.loadMac s) := by
  unfold SideState.loadMac
  try dsimp only
  repeat' first
    | with_reducible apply Keeps.self
    | with_reducible assumption
    | with_reducible apply Keeps.set
    | exact rfl

theorem SideState.loadCurtain_keeps (s : SideState) : Keeps (some [0x03, 0x05, 0x06, 0x08, 0x09, 0x10, 0x14]) [.mem, .ecc, .scene, .pipe, .watch, .twin, .fault, .perf, .power] s (SideState.loadCurtain s) := by
  unfold SideState.loadCurtain
  try dsimp only
  repeat' first
    | with_reducible apply Keeps.self
    | with_reducible assumption
    | with_reducible apply Keeps.step (SideState.wrBytes_keeps _ _ _)
    | with_reducible apply Keeps.step (SideState.raise_keeps _ _)
    | with_reducible apply Keeps.step (SideState.setFlag_keeps _ _ _ _)
    | exact rfl
    | split
    | with_reducible apply Keeps.parts
    | (refine fun (p : Part) hp => ?_; cases p <;> first | exact absurd hp (by decide) | simp only [SideState.sameIn])

theorem SideState.understudyRecords_keeps (s : SideState) : Keeps none [.mem, .ecc, .drive, .mon, .pipe, .cal, .twin, .fault, .perf, .power, .rigImage] s (SideState.understudyRecords s) := by
  unfold SideState.understudyRecords
  try dsimp only
  repeat' first
    | with_reducible apply Keeps.self
    | with_reducible assumption
    | with_reducible apply Keeps.ite
    | with_reducible apply Keeps.step (SideState.rigInForce_keeps _ _)
    | with_reducible apply Keeps.step (SideState.setSerial_keeps _ _ _)
    | with_reducible apply Keeps.step (SideState.parkAtStart_keeps _)
    | with_reducible apply Keeps.step (SideState.calAtStart_keeps _)
    | with_reducible apply Keeps.step (SideState.raise_keeps _ _)
    | exact rfl
    | split

theorem SideState.recordsAtStart_keeps (s : SideState) : Keeps (some [0x03, 0x05, 0x06, 0x08, 0x09, 0x10, 0x14]) [.twin, .fault, .perf] s (SideState.recordsAtStart s) := by
  unfold SideState.recordsAtStart
  try dsimp only
  repeat' first
    | with_reducible apply Keeps.self
    | with_reducible assumption
    | with_reducible apply Keeps.step (SideState.raiseIf_keeps _ _ _)
    | exact rfl

theorem SideState.runFirmware_keeps (s : SideState) (slot : Nat) (fallback : Bool) (trial : Bool) : Keeps none [.mem, .ecc, .drive, .mon, .scene, .pipe, .cal, .watch, .twin, .fault, .perf, .power, .rigImage] s (SideState.runFirmware s slot fallback trial) := by
  unfold SideState.runFirmware
  try dsimp only
  repeat' first
    | with_reducible apply Keeps.self
    | with_reducible assumption
    | with_reducible apply Keeps.ite
    | with_reducible apply Keeps.set
    | with_reducible apply Keeps.setB
    | with_reducible apply Keeps.step (SideState.runConverters_keeps _ _)
    | with_reducible apply Keeps.step (SideState.loadMac_keeps _)
    | with_reducible apply Keeps.step (SideState.log_keeps _ _ _ _ _ _)
    | with_reducible apply Keeps.step (SideState.loadCurtain_keeps _)
    | with_reducible apply Keeps.step (SideState.understudyRecords_keeps _)
    | with_reducible apply Keeps.step (SideState.recordsAtStart_keeps _)
    | exact rfl
    | with_reducible apply Keeps.parts
    | (refine fun (p : Part) hp => ?_; cases p <;> first | exact absurd hp (by decide) | simp only [SideState.sameIn])

theorem SideState.stayInRom_keeps (s : SideState) : Keeps (some [0x05, 0x06, 0x08, 0x09, 0x10, 0x14]) [.twin, .fault, .perf, .nvm] s (SideState.stayInRom s) := by
  unfold SideState.stayInRom
  try dsimp only
  repeat' first
    | with_reducible apply Keeps.self
    | with_reducible assumption
    | with_reducible apply Keeps.ite
    | with_reducible apply Keeps.step (SideState.enterRole_keeps _ _)
    | with_reducible apply Keeps.step (SideState.fenceSelf_keeps _)
    | exact rfl
    | with_reducible apply Keeps.parts
    | (refine fun (p : Part) hp => ?_; cases p <;> first | exact absurd hp (by decide) | simp only [SideState.sameIn])

theorem SideState.showCheck_keeps (s : SideState) (reason key : Nat) : Keeps (some [0x1F]) [] s (SideState.showCheck s reason key) := by
  unfold SideState.showCheck
  try dsimp only
  repeat' first
    | with_reducible apply Keeps.self
    | with_reducible assumption
    | with_reducible apply Keeps.ite
    | with_reducible apply Keeps.set
    | with_reducible apply Keeps.evt
    | exact rfl

theorem SideState.checkSlot_keeps (s : SideState) (slot : Nat) (c : SlotCheck) : KeepsP (some [0x03, 0x05, 0x06, 0x08, 0x09, 0x10, 0x14, 0x1F]) [.twin, .fault, .perf] s (SideState.checkSlot s slot c) := by
  unfold SideState.checkSlot
  try dsimp only
  repeat' first
    | with_reducible apply Keeps.self
    | with_reducible assumption
    | with_reducible apply Keeps.step (SideState.showCheck_keeps _ _ _)
    | with_reducible apply Keeps.step (SideState.raiseIf_keeps _ _ _)
    | with_reducible apply KeepsP.mk
    | exact rfl

theorem SideState.bootSlots_keeps (s : SideState) (slot0 slot1 : SlotCheck) : Keeps none [.mem, .ecc, .drive, .mon, .scene, .pipe, .cal, .watch, .twin, .fault, .perf, .nvm, .power, .rigImage] s (SideState.bootSlots s slot0 slot1) := by
  unfold SideState.bootSlots
  try dsimp only
  repeat' first
    | with_reducible apply Keeps.self
    | with_reducible assumption
    | with_reducible apply Keeps.ite
    | with_reducible apply KeepsP.ite
    | with_reducible apply Keeps.evt
    | with_reducible apply Keeps.step (SideState.raiseIf_keeps _ _ _)
    | with_reducible apply KeepsP.step (SideState.checkSlot_keeps _ _ _)
    | with_reducible apply Keeps.step (SideState.runFirmware_keeps _ _ _ _)
    | with_reducible apply Keeps.step (SideState.writeDirectory_keeps _ _)
    | with_reducible apply Keeps.step (SideState.raise_keeps _ _)
    | with_reducible apply Keeps.step (SideState.showCheck_keeps _ _ _)
    | with_reducible apply Keeps.step (SideState.stayInRom_keeps _)
    | exact rfl
    | with_reducible apply Keeps.step (KeepsP.fst (SideState.checkSlot_keeps _ _ _))
    | with_reducible apply Keeps.step (KeepsP.of_eq (SideState.checkSlot_keeps _ _ _) (by assumption))
    | split

theorem SideState.surveyTrigger_keeps (s : SideState) : Keeps (some [0x0E]) [.cal] s (SideState.surveyTrigger s) := by
  unfold SideState.surveyTrigger
  try dsimp only
  repeat' first
    | with_reducible apply Keeps.self
    | with_reducible assumption
    | with_reducible apply Keeps.ite
    | with_reducible apply Keeps.step (SideState.queueJob_keeps _ _)
    | with_reducible apply Keeps.step (SideState.queueRound_keeps _)
    | with_reducible apply Keeps.foldl
    | exact rfl
    | intro _ _ _

theorem SideState.service_keeps (s : SideState) : Keeps (some [0x01, 0x03, 0x05, 0x06, 0x08, 0x09, 0x0B, 0x0C, 0x0E, 0x10, 0x14, 0x17, 0x18, 0x19, 0x1A, 0x1B, 0x1C, 0x30, 0x31]) [.mem, .ecc, .drive, .loops, .scene, .pipe, .cal, .watch, .twin, .net, .fault, .therm, .perf] s (SideState.service s) := by
  unfold SideState.service
  try dsimp only
  repeat' first
    | with_reducible apply Keeps.self
    | with_reducible assumption
    | with_reducible apply Keeps.ite
    | with_reducible apply Keeps.set
    | with_reducible apply Keeps.evt
    | with_reducible apply Keeps.step (SideState.loopEnabled_keeps _ _)
    | with_reducible apply Keeps.step (SideState.toOwn_keeps _ _ _)
    | with_reducible apply Keeps.step (SideState.surveyTrigger_keeps _)
    | with_reducible apply Keeps.step (SideState.requestCurtain_keeps _ _)
    | with_reducible apply Keeps.foldl
    | exact rfl
    | intro _ _ _

end Sys2Proof.Machine
end

