-- ==== Sys2Proof/Laws/Twin.lean ====
section
/-! SUPPORT. What each operation of Machine/Twin.lean keeps. -/

set_option Elab.async false

namespace Sys2Proof.Machine

theorem SideState.emitLoops_keeps (s : SideState) : Keeps (some [0x06]) [.ecc, .twin, .perf] s (SideState.emitLoops s) := by
  unfold SideState.emitLoops
  try dsimp only
  repeat' first
    | with_reducible apply Keeps.self
    | with_reducible assumption
    | with_reducible apply Keeps.ite
    | with_reducible apply Keeps.step (SideState.scrubRange_keeps _ _ _)
    | with_reducible apply Keeps.step (SideState.emit_keeps _ _)
    | with_reducible apply Keeps.foldl
    | exact rfl
    | intro _ _ _

theorem SideState.bulkBlock_keeps (s : SideState) : Keeps (some [0x06, 0x08]) [.ecc, .twin, .perf] s (SideState.bulkBlock s) := by
  unfold SideState.bulkBlock
  try dsimp only
  repeat' first
    | with_reducible apply Keeps.self
    | with_reducible assumption
    | with_reducible apply Keeps.ite
    | with_reducible apply Keeps.set
    | with_reducible apply Keeps.step (SideState.scrubRange_keeps _ _ _)
    | with_reducible apply Keeps.step (SideState.countDiag_keeps _ _ _)
    | with_reducible apply Keeps.step (SideState.emitMem_keeps _ _ _)
    | with_reducible apply Keeps.step (SideState.emit_keeps _ _)
    | with_reducible apply Keeps.foldl
    | exact rfl
    | split
    | with_reducible apply Keeps.parts
    | (refine fun (p : Part) hp => ?_; cases p <;> first | exact absurd hp (by decide) | simp only [SideState.sameIn])
    | intro _ _ _

theorem SideState.closeCopy_keeps (s : SideState) (quiet : Bool) : Keeps (some [0x03, 0x05, 0x06, 0x08, 0x09, 0x0B, 0x10, 0x14]) [.ecc, .twin, .fault, .perf] s (SideState.closeCopy s quiet) := by
  unfold SideState.closeCopy
  try dsimp only
  repeat' first
    | with_reducible apply Keeps.self
    | with_reducible assumption
    | with_reducible apply Keeps.ite
    | with_reducible apply Keeps.set
    | with_reducible apply Keeps.bump
    | with_reducible apply Keeps.evt
    | with_reducible apply Keeps.step (SideState.emitLoops_keeps _)
    | with_reducible apply Keeps.step (SideState.bulkBlock_keeps _)
    | with_reducible apply Keeps.step (SideState.raiseIf_keeps _ _ _)
    | with_reducible apply Keeps.step (SideState.count_keeps _ _ _)
    | exact rfl
    | with_reducible apply Keeps.parts
    | (refine fun (p : Part) hp => ?_; cases p <;> first | exact absurd hp (by decide) | simp only [SideState.sameIn])

theorem SideState.dropSwap_keeps (s : SideState) : Keeps (some [0x03, 0x05, 0x06, 0x08, 0x09, 0x10, 0x14]) [.twin, .fault, .perf] s (SideState.dropSwap s) := by
  unfold SideState.dropSwap
  try dsimp only
  repeat' first
    | with_reducible apply Keeps.self
    | with_reducible assumption
    | with_reducible apply Keeps.ite
    | with_reducible apply Keeps.set
    | with_reducible apply Keeps.step (SideState.raise_keeps _ _)
    | exact rfl
    | with_reducible apply Keeps.parts
    | (refine fun (p : Part) hp => ?_; cases p <;> first | exact absurd hp (by decide) | simp only [SideState.sameIn])

theorem SideState.leaveAtBoundary_keeps (s : SideState) (peerFit : Bool) : Keeps (some [0x03, 0x05, 0x06, 0x08, 0x09, 0x10, 0x14]) [.twin, .fault, .perf] s (SideState.leaveAtBoundary s peerFit) := by
  unfold SideState.leaveAtBoundary
  try dsimp only
  repeat' first
    | with_reducible apply Keeps.self
    | with_reducible assumption
    | with_reducible apply Keeps.ite
    | with_reducible apply Keeps.step (SideState.fenceSelf_keeps _)
    | with_reducible apply Keeps.step (SideState.dropSwap_keeps _)
    | with_reducible apply Keeps.step (SideState.enterRole_keeps _ _)
    | exact rfl

theorem SideState.showFit_keeps (s : SideState) : Keeps (some [0x08]) [] s (SideState.showFit s) := by
  unfold SideState.showFit
  try dsimp only
  repeat' first
    | with_reducible apply Keeps.self
    | with_reducible assumption
    | with_reducible apply Keeps.ite
    | with_reducible apply Keeps.setB
    | exact rfl

theorem SideState.decideTakeover_keeps (s : SideState) (boundary cause : Nat) (again : Bool) : Keeps (some [0x03, 0x05, 0x06, 0x08, 0x09, 0x10, 0x14]) [.twin, .fault, .perf] s (SideState.decideTakeover s boundary cause again) := by
  unfold SideState.decideTakeover
  try dsimp only
  repeat' first
    | with_reducible apply Keeps.self
    | with_reducible assumption
    | with_reducible apply Keeps.ite
    | with_reducible apply Keeps.set
    | with_reducible apply Keeps.step (SideState.raise_keeps _ _)
    | exact rfl
    | split
    | with_reducible apply Keeps.parts
    | (refine fun (p : Part) hp => ?_; cases p <;> first | exact absurd hp (by decide) | simp only [SideState.sameIn])

theorem SideState.discardCopy_keeps (s : SideState) : Keeps (some [0x03, 0x05, 0x06, 0x08, 0x09, 0x10, 0x14]) [.twin, .fault, .perf] s (SideState.discardCopy s) := by
  unfold SideState.discardCopy
  try dsimp only
  repeat' first
    | with_reducible apply Keeps.self
    | with_reducible assumption
    | with_reducible apply Keeps.set
    | with_reducible apply Keeps.evt
    | with_reducible apply Keeps.step (SideState.raise_keeps _ _)
    | with_reducible apply Keeps.step (SideState.showFit_keeps _)
    | exact rfl
    | with_reducible apply Keeps.parts
    | (refine fun (p : Part) hp => ?_; cases p <;> first | exact absurd hp (by decide) | simp only [SideState.sameIn])

theorem SideState.takeMarker_keeps (s : SideState) (w0 beat : Nat) : Keeps (some [0x03, 0x05, 0x06, 0x08, 0x09, 0x10, 0x14]) [.twin, .fault, .perf] s (SideState.takeMarker s w0 beat) := by
  unfold SideState.takeMarker
  try dsimp only
  repeat' first
    | with_reducible apply Keeps.self
    | with_reducible assumption
    | with_reducible apply Keeps.ite
    | with_reducible apply Keeps.set
    | with_reducible apply Keeps.step (SideState.count_keeps _ _ _)
    | with_reducible apply Keeps.step (SideState.discardCopy_keeps _)
    | with_reducible apply Keeps.step (SideState.decideTakeover_keeps _ _ _ _)
    | exact rfl
    | with_reducible apply Keeps.parts
    | (refine fun (p : Part) hp => ?_; cases p <;> first | exact absurd hp (by decide) | simp only [SideState.sameIn])

theorem SideState.judgeBeat_keeps (s : SideState) : Keeps (some [0x03, 0x05, 0x06, 0x08, 0x09, 0x10, 0x14]) [.twin, .fault, .perf] s (SideState.judgeBeat s) := by
  unfold SideState.judgeBeat
  try dsimp only
  repeat' first
    | with_reducible apply Keeps.self
    | with_reducible assumption
    | with_reducible apply Keeps.ite
    | with_reducible apply Keeps.set
    | with_reducible apply Keeps.setB
    | with_reducible apply Keeps.evt
    | with_reducible apply Keeps.step (SideState.raise_keeps _ _)
    | with_reducible apply Keeps.step (SideState.decideTakeover_keeps _ _ _ _)
    | exact rfl
    | with_reducible apply Keeps.parts
    | (refine fun (p : Part) hp => ?_; cases p <;> first | exact absurd hp (by decide) | simp only [SideState.sameIn])

theorem SideState.applyReg_keeps (s : SideState) (key value mask : Nat) : Keeps none [.drive, .twin, .fault, .perf] s (SideState.applyReg s key value mask) := by
  unfold SideState.applyReg
  try dsimp only
  repeat' first
    | with_reducible apply Keeps.self
    | with_reducible assumption
    | with_reducible apply Keeps.ite
    | with_reducible apply Keeps.set
    | with_reducible apply Keeps.step (SideState.countDiag_keeps _ _ _)
    | with_reducible apply Keeps.step (SideState.takeTone_keeps _ _)
    | exact rfl

theorem SideState.applyPhase_keeps (s : SideState) (g : Nat) (data : List Byte) : Keeps (some []) [.drive] s (SideState.applyPhase s g data) := by
  unfold SideState.applyPhase
  try dsimp only
  repeat' first
    | with_reducible apply Keeps.self
    | with_reducible assumption
    | with_reducible apply Keeps.ite
    | exact rfl
    | with_reducible apply Keeps.parts
    | (refine fun (p : Part) hp => ?_; cases p <;> first | exact absurd hp (by decide) | simp only [SideState.sameIn])

theorem SideState.applyMem_keeps (s : SideState) (addr : Nat) (data : List Byte) : Keeps none [.mem, .ecc, .drive, .twin, .fault, .perf] s (SideState.applyMem s addr data) := by
  unfold SideState.applyMem
  try dsimp only
  repeat' first
    | with_reducible apply Keeps.self
    | with_reducible assumption
    | with_reducible apply Keeps.ite
    | with_reducible apply Keeps.step (SideState.applyPhase_keeps _ _ _)
    | with_reducible apply Keeps.step (SideState.engineWrite_keeps _ _ _ _)
    | exact rfl
    | with_reducible apply Keeps.parts
    | (refine fun (p : Part) hp => ?_; cases p <;> first | exact absurd hp (by decide) | simp only [SideState.sameIn])

theorem SideState.applyTrk_keeps (s : SideState) (e stat eff : Nat) : Keeps (some [0x0B]) [.pipe] s (SideState.applyTrk s e stat eff) := by
  unfold SideState.applyTrk
  try dsimp only
  repeat' first
    | with_reducible apply Keeps.self
    | with_reducible assumption
    | with_reducible apply Keeps.ite
    | with_reducible apply Keeps.step (SideState.showPipe_keeps _)
    | exact rfl
    | with_reducible apply Keeps.parts
    | (refine fun (p : Part) hp => ?_; cases p <;> first | exact absurd hp (by decide) | simp only [SideState.sameIn])

theorem SideState.applyConn_keeps (s : SideState) (b : List Byte) : Keeps (some [0x0A]) [.pipe, .fault] s (SideState.applyConn s b) := by
  unfold SideState.applyConn
  try dsimp only
  repeat' first
    | with_reducible apply Keeps.self
    | with_reducible assumption
    | with_reducible apply Keeps.ite
    | with_reducible apply Keeps.set
    | with_reducible apply Keeps.step (SideState.agree_keeps _ _)
    | with_reducible apply Keeps.step (SideState.setDeadline_keeps _ _ _)
    | exact rfl
    | (simp only [pageOf_whole, pageOf_bank]; exact rfl)
    | (simp only [pageOf_bank]; exact rfl)
    | (simp only [pageOf_whole]; exact rfl)

theorem SideState.applyPol_keeps (old s : SideState) (addr : Nat) : Keeps (some []) [.cal] s (SideState.applyPol old s addr) := by
  unfold SideState.applyPol
  try dsimp only
  repeat' first
    | with_reducible apply Keeps.self
    | with_reducible assumption
    | with_reducible apply Keeps.ite
    | exact rfl
    | with_reducible apply Keeps.parts
    | (refine fun (p : Part) hp => ?_; cases p <;> first | exact absurd hp (by decide) | simp only [SideState.sameIn])

theorem SideState.applyHoEnd_keeps (s : SideState) (c ho : Nat) : Keeps (some []) [.cal] s (SideState.applyHoEnd s c ho) := by
  unfold SideState.applyHoEnd
  try dsimp only
  repeat' first
    | with_reducible apply Keeps.self
    | with_reducible assumption
    | with_reducible apply Keeps.ite
    | exact rfl
    | split
    | with_reducible apply Keeps.parts
    | (refine fun (p : Part) hp => ?_; cases p <;> first | exact absurd hp (by decide) | simp only [SideState.sameIn])

theorem SideState.applyRecord_keeps (s : SideState) (b : List Byte) : Keeps none [.mem, .ecc, .drive, .loops, .pipe, .cal, .twin, .fault, .perf] s (SideState.applyRecord s b) := by
  unfold SideState.applyRecord
  try dsimp only
  repeat' first
    | with_reducible apply Keeps.self
    | with_reducible assumption
    | with_reducible apply Keeps.ite
    | with_reducible apply Keeps.step (SideState.countDiag_keeps _ _ _)
    | with_reducible apply Keeps.step (SideState.putBase_keeps _ _ _)
    | with_reducible apply Keeps.step (SideState.tset_keeps _ _ _ _)
    | with_reducible apply Keeps.step (SideState.applyHoEnd_keeps _ _ _)
    | with_reducible apply Keeps.step (SideState.wrBytes_keeps _ _ _)
    | with_reducible apply Keeps.step (SideState.applyTrk_keeps _ _ _ _)
    | with_reducible apply Keeps.step (SideState.applyPol_keeps _ _ _)
    | with_reducible apply Keeps.step (SideState.applyMem_keeps _ _ _)
    | with_reducible apply Keeps.step (SideState.applyReg_keeps _ _ _ _)
    | with_reducible apply Keeps.step (SideState.applyConn_keeps _ _)
    | exact rfl
    | split
    | with_reducible apply Keeps.parts
    | (refine fun (p : Part) hp => ?_; cases p <;> first | exact absurd hp (by decide) | simp only [SideState.sameIn])

theorem SideState.applyStagedRecords_keeps (s : SideState) (l : List (List Byte)) : Keeps (some []) [.drive] s (SideState.applyStagedRecords s l) := by
  unfold SideState.applyStagedRecords
  try dsimp only
  repeat' first
    | with_reducible apply Keeps.self
    | with_reducible assumption
    | with_reducible apply Keeps.ite
    | with_reducible apply Keeps.step (SideState.putBase_keeps _ _ _)
    | with_reducible apply Keeps.foldl
    | exact rfl
    | intro _ _ _

theorem SideState.applyAll_keeps (s : SideState) (staged l : List (List Byte)) :
    Keeps none [.mem, .ecc, .drive, .loops, .pipe, .cal, .twin, .fault, .perf] s (s.applyAll staged l) := by
  induction l generalizing s staged with
  | nil =>
    unfold SideState.applyAll
    exact Keeps.step (SideState.applyStagedRecords_keeps _ _) rfl rfl Keeps.self
  | cons b t ih =>
    have h1 : ∀ x : SideState, Keeps none [.mem, .ecc, .drive, .loops, .pipe, .cal, .twin, .fault, .perf] s x → Keeps none [.mem, .ecc, .drive, .loops, .pipe, .cal, .twin, .fault, .perf] s (x.applyAll [] t) := fun x h => Keeps.trans (ih x []) h
    unfold SideState.applyAll
    split
    · exact ih _ _
    · exact h1 _ (Keeps.step (SideState.applyStagedRecords_keeps _ _) rfl rfl Keeps.self)
    · exact Keeps.trans (ih _ _) (Keeps.step (SideState.applyRecord_keeps _ _) rfl rfl Keeps.self)

theorem SideState.takeCopiedPolicy_keeps (s : SideState) (l : List (List Byte)) : Keeps (some [0x0A]) [.watch] s (SideState.takeCopiedPolicy s l) := by
  unfold SideState.takeCopiedPolicy
  try dsimp only
  repeat' first
    | with_reducible apply Keeps.self
    | with_reducible assumption
    | with_reducible apply Keeps.ite
    | with_reducible apply Keeps.step (SideState.takePolicy_keeps _ _)
    | exact rfl
    | split
    | with_reducible apply Keeps.parts
    | (refine fun (p : Part) hp => ?_; cases p <;> first | exact absurd hp (by decide) | simp only [SideState.sameIn])

theorem SideState.applyCopy_keeps (s : SideState) : Keeps none [.mem, .ecc, .drive, .loops, .pipe, .cal, .watch, .twin, .fault, .perf] s s.applyCopy := by
  unfold SideState.applyCopy
  refine Keeps.ite Keeps.self ?_
  dsimp only
  refine Keeps.step (SideState.takeCopiedPolicy_keeps _ _) rfl rfl (Keeps.step (SideState.applyAll_keeps _ _ _) rfl rfl ?_)
  with_reducible apply Keeps.parts Keeps.self
  refine fun (p : Part) hp => ?_
  cases p <;> first | exact absurd hp (by decide) | simp only [SideState.sameIn]

end Sys2Proof.Machine
end

