-- ==== Sys2Proof/Laws/Takeover.lean ====
section
/-! SUPPORT. What each operation of Machine/Takeover.lean keeps. -/

set_option Elab.async false

namespace Sys2Proof.Machine

theorem SideState.restage_keeps (s : SideState) (e : Nat) : Keeps (some [0x03, 0x05, 0x06, 0x08, 0x09, 0x0B, 0x0C, 0x10, 0x14, 0x18, 0x19, 0x1A, 0x1B, 0x1C]) [.mem, .ecc, .scene, .pipe, .watch, .twin, .net, .fault, .perf] s (SideState.restage s e) := by
  unfold SideState.restage
  try dsimp only
  repeat' first
    | with_reducible apply Keeps.self
    | with_reducible assumption
    | with_reducible apply Keeps.ite
    | with_reducible apply Keeps.step (SideState.closeCue_keeps _ _ _ _)
    | with_reducible apply Keeps.step (SideState.setTrk_keeps _ _ _)
    | exact rfl
    | split
    | with_reducible apply Keeps.parts
    | (refine fun (p : Part) hp => ?_; cases p <;> first | exact absurd hp (by decide) | simp only [SideState.sameIn])

theorem SideState.takeActive_keeps (s : SideState) : Keeps (some [0x0B]) [.scene, .watch] s (SideState.takeActive s) := by
  unfold SideState.takeActive
  try dsimp only
  repeat' first
    | with_reducible apply Keeps.self
    | with_reducible assumption
    | with_reducible apply Keeps.ite
    | with_reducible apply Keeps.set
    | with_reducible apply Keeps.setB
    | exact rfl
    | with_reducible apply Keeps.parts
    | (refine fun (p : Part) hp => ?_; cases p <;> first | exact absurd hp (by decide) | simp only [SideState.sameIn])

theorem SideState.takeMisses_keeps (s : SideState) : Keeps (some []) [.scene] s (SideState.takeMisses s) := by
  unfold SideState.takeMisses
  try dsimp only
  repeat' first
    | with_reducible apply Keeps.self
    | with_reducible assumption
    | exact rfl
    | split
    | with_reducible apply Keeps.parts
    | (refine fun (p : Part) hp => ?_; cases p <;> first | exact absurd hp (by decide) | simp only [SideState.sameIn])

theorem SideState.takeCues_keeps (s : SideState) : Keeps (some [0x03, 0x05, 0x06, 0x08, 0x09, 0x0B, 0x0C, 0x10, 0x14, 0x18, 0x19, 0x1A, 0x1B, 0x1C]) [.mem, .ecc, .scene, .pipe, .watch, .twin, .net, .fault, .perf] s (SideState.takeCues s) := by
  unfold SideState.takeCues
  try dsimp only
  repeat' first
    | with_reducible apply Keeps.self
    | with_reducible assumption
    | with_reducible apply Keeps.ite
    | with_reducible apply Keeps.step (SideState.takeActive_keeps _)
    | with_reducible apply Keeps.step (SideState.takeMisses_keeps _)
    | with_reducible apply Keeps.step (SideState.closeCue_keeps _ _ _ _)
    | with_reducible apply Keeps.step (SideState.restage_keeps _ _)
    | with_reducible apply Keeps.foldl
    | exact rfl
    | intro _ _ _

theorem SideState.takeRefire_keeps (s : SideState) (c : Nat) : Keeps (some [0x06, 0x0E, 0x16, 0x17, 0x30, 0x31]) [.mem, .ecc, .drive, .mon, .loops, .scene, .cal, .twin, .perf] s (SideState.takeRefire s c) := by
  unfold SideState.takeRefire
  try dsimp only
  repeat' first
    | with_reducible apply Keeps.self
    | with_reducible assumption
    | with_reducible apply Keeps.ite
    | with_reducible apply Keeps.step (SideState.sceneHolds_keeps _ _ _)
    | with_reducible apply Keeps.step (SideState.loopWaits_keeps _ _)
    | exact rfl

theorem SideState.takeStall_keeps (s : SideState) (c : Nat) : Keeps (some [0x06, 0x17, 0x30, 0x31]) [.mem, .ecc, .drive, .loops, .twin, .perf, .free] s (SideState.takeStall s c) := by
  unfold SideState.takeStall
  try dsimp only
  repeat' first
    | with_reducible apply Keeps.self
    | with_reducible assumption
    | with_reducible apply Keeps.ite
    | with_reducible apply Keeps.step (SideState.toEoHold_keeps _ _)
    | exact rfl
    | split

theorem SideState.takeHandovers_keeps (s : SideState) : Keeps (some [0x06, 0x0E, 0x16, 0x17, 0x30, 0x31]) [.mem, .ecc, .drive, .mon, .loops, .scene, .cal, .twin, .perf, .free] s (SideState.takeHandovers s) := by
  unfold SideState.takeHandovers
  try dsimp only
  repeat' first
    | with_reducible apply Keeps.self
    | with_reducible assumption
    | with_reducible apply Keeps.step (SideState.takeRefire_keeps _ _)
    | with_reducible apply Keeps.step (SideState.takeStall_keeps _ _)
    | with_reducible apply Keeps.foldl
    | exact rfl
    | with_reducible apply Keeps.parts
    | (refine fun (p : Part) hp => ?_; cases p <;> first | exact absurd hp (by decide) | simp only [SideState.sameIn])
    | intro _ _ _

theorem SideState.takeOwner_keeps (s : SideState) (d : Nat) (o : Own) : Keeps (some [0x06, 0x17, 0x30, 0x31]) [.drive, .loops, .twin, .perf] s (SideState.takeOwner s d o) := by
  unfold SideState.takeOwner
  try dsimp only
  repeat' first
    | with_reducible apply Keeps.self
    | with_reducible assumption
    | with_reducible apply Keeps.ite
    | with_reducible apply Keeps.set
    | with_reducible apply Keeps.evt
    | with_reducible apply Keeps.step (SideState.waitSample_keeps _ _)
    | with_reducible apply Keeps.step (SideState.writeBase_keeps _ _ _)
    | with_reducible apply Keeps.step (SideState.toOwn_keeps _ _ _)
    | exact rfl
    | split

theorem SideState.takeOwners_keeps (s : SideState) : Keeps (some [0x06, 0x17, 0x30, 0x31]) [.drive, .loops, .twin, .perf] s (SideState.takeOwners s) := by
  unfold SideState.takeOwners
  try dsimp only
  repeat' first
    | with_reducible apply Keeps.self
    | with_reducible assumption
    | with_reducible apply Keeps.step (SideState.takeOwner_keeps _ _ _)
    | with_reducible apply Keeps.foldl
    | exact rfl
    | with_reducible apply Keeps.parts
    | (refine fun (p : Part) hp => ?_; cases p <;> first | exact absurd hp (by decide) | simp only [SideState.sameIn])
    | intro _ _ _

theorem SideState.dropDrive_keeps (s : SideState) : Keeps (some [0x11, 0x13, 0x20, 0x21, 0x22, 0x23, 0x24, 0x25, 0x26, 0x27, 0x28, 0x29]) [] s (SideState.dropDrive s) := by
  unfold SideState.dropDrive
  try dsimp only
  repeat' first
    | with_reducible apply Keeps.self
    | with_reducible assumption
    | with_reducible apply Keeps.ite
    | with_reducible apply Keeps.set
    | with_reducible apply Keeps.foldl
    | exact rfl
    | exact onPages_driveGroup rfl (by decide) (by decide)
    | intro _ _ _

theorem SideState.freshLead_keeps (s : SideState) : Keeps (some [0x11, 0x13, 0x20, 0x21, 0x22, 0x23, 0x24, 0x25, 0x26, 0x27, 0x28, 0x29]) [.drive, .mon, .loops, .scene, .pipe, .cal, .watch, .twin] s (SideState.freshLead s) := by
  unfold SideState.freshLead
  try dsimp only
  repeat' first
    | with_reducible apply Keeps.self
    | with_reducible assumption
    | with_reducible apply Keeps.step (SideState.dropDrive_keeps _)
    | exact rfl
    | with_reducible apply Keeps.parts
    | (refine fun (p : Part) hp => ?_; cases p <;> first | exact absurd hp (by decide) | simp only [SideState.sameIn])

theorem SideState.freshDegraded_keeps (s : SideState) : Keeps (some [0x03, 0x05, 0x06, 0x08, 0x09, 0x0B, 0x0C, 0x10, 0x14, 0x18, 0x19, 0x1A, 0x1B, 0x1C]) [.mem, .ecc, .scene, .pipe, .watch, .twin, .net, .fault, .perf, .free] s (SideState.freshDegraded s) := by
  unfold SideState.freshDegraded
  try dsimp only
  repeat' first
    | with_reducible apply Keeps.self
    | with_reducible assumption
    | with_reducible apply Keeps.set
    | with_reducible apply Keeps.step (SideState.degradedAtBoundary_keeps _ _)
    | exact rfl
    | with_reducible apply Keeps.parts
    | (refine fun (p : Part) hp => ?_; cases p <;> first | exact absurd hp (by decide) | simp only [SideState.sameIn])

theorem SideState.takeLead_keeps (s : SideState) (cause : Nat) : Keeps (some [0x01, 0x03, 0x05, 0x06, 0x08, 0x09, 0x0B, 0x0C, 0x0D, 0x0E, 0x0F, 0x10, 0x11, 0x13, 0x14, 0x16, 0x17, 0x18, 0x19, 0x1A, 0x1B, 0x1C, 0x20, 0x21, 0x22, 0x23, 0x24, 0x25, 0x26, 0x27, 0x28, 0x29, 0x30, 0x31]) [.mem, .ecc, .drive, .mon, .loops, .scene, .pipe, .cal, .watch, .twin, .net, .fault, .perf, .free] s (SideState.takeLead s cause) := by
  unfold SideState.takeLead
  try dsimp only
  repeat' first
    | with_reducible apply Keeps.self
    | with_reducible assumption
    | with_reducible apply Keeps.ite
    | with_reducible apply Keeps.set
    | with_reducible apply Keeps.evt
    | with_reducible apply Keeps.step (SideState.surveysDone_keeps _)
    | with_reducible apply Keeps.step (SideState.freshLead_keeps _)
    | with_reducible apply Keeps.step (SideState.showCal_keeps _)
    | with_reducible apply Keeps.step (SideState.restoreAges_keeps _)
    | with_reducible apply Keeps.step (SideState.enterRole_keeps _ _)
    | with_reducible apply Keeps.step (SideState.takeCues_keeps _)
    | with_reducible apply Keeps.step (SideState.takeHandovers_keeps _)
    | with_reducible apply Keeps.step (SideState.takeOwners_keeps _)
    | with_reducible apply Keeps.step (SideState.voidBlock_keeps _)
    | with_reducible apply Keeps.step (SideState.surveyTrigger_keeps _)
    | with_reducible apply Keeps.step (SideState.showHandovers_keeps _)
    | with_reducible apply Keeps.step (SideState.freshDegraded_keeps _)
    | with_reducible apply Keeps.step (SideState.sceneBoundary_keeps _)
    | exact rfl

theorem SideState.showStep_keeps (s : SideState) (step reason : Nat) : Keeps (some [0x05, 0x06, 0x08]) [.fault, .perf] s (SideState.showStep s step reason) := by
  unfold SideState.showStep
  try dsimp only
  repeat' first
    | with_reducible apply Keeps.self
    | with_reducible assumption
    | with_reducible apply Keeps.set
    | with_reducible apply Keeps.evt
    | with_reducible apply Keeps.step (SideState.log_keeps _ _ _ _ _ _)
    | exact rfl

theorem SideState.failUpdate_keeps (s : SideState) (reason : Nat) : Keeps (some [0x03, 0x05, 0x06, 0x08, 0x09, 0x10, 0x14]) [.twin, .fault, .perf] s (SideState.failUpdate s reason) := by
  unfold SideState.failUpdate
  try dsimp only
  repeat' first
    | with_reducible apply Keeps.self
    | with_reducible assumption
    | with_reducible apply Keeps.step (SideState.raise_keeps _ _)
    | with_reducible apply Keeps.step (SideState.showStep_keeps _ _ _)
    | exact rfl
    | with_reducible apply Keeps.parts
    | (refine fun (p : Part) hp => ?_; cases p <;> first | exact absurd hp (by decide) | simp only [SideState.sameIn])

theorem SideState.markFailed_keeps (s : SideState) : Keeps (some [0x06]) [.mem, .ecc, .perf, .nvm] s (SideState.markFailed s) := by
  unfold SideState.markFailed
  try dsimp only
  repeat' first
    | with_reducible apply Keeps.self
    | with_reducible assumption
    | with_reducible apply Keeps.ite
    | with_reducible apply Keeps.step (SideState.writeDirectory_keeps _ _)
    | exact rfl

theorem SideState.loseUpdate_keeps (s : SideState) : Keeps (some [0x03, 0x05, 0x06, 0x08, 0x09, 0x10, 0x14]) [.mem, .ecc, .twin, .fault, .perf, .nvm] s (SideState.loseUpdate s) := by
  unfold SideState.loseUpdate
  try dsimp only
  repeat' first
    | with_reducible apply Keeps.self
    | with_reducible assumption
    | with_reducible apply Keeps.ite
    | with_reducible apply Keeps.step (SideState.failUpdate_keeps _ _)
    | with_reducible apply Keeps.step (SideState.markFailed_keeps _)
    | exact rfl
    | split

theorem SideState.lostPeer_keeps (s : SideState) : Keeps none [.pairs, .mem, .ecc, .hostWrites, .readBack, .clock, .off, .drive, .mon, .loops, .scene, .pipe, .cal, .watch, .twin, .net, .time, .fault, .lines, .therm, .perf, .nvm, .power, .rigImage, .tap] s (SideState.lostPeer s) := by
  unfold SideState.lostPeer
  try dsimp only
  repeat' first
    | with_reducible apply Keeps.self
    | with_reducible assumption
    | with_reducible apply Keeps.ite
    | with_reducible apply Keeps.step (SideState.markFailed_keeps _)
    | with_reducible apply Keeps.step (SideState.restart_keeps _ _)
    | exact rfl

theorem SideState.yieldRole_keeps (s : SideState) : Keeps (some [0x03, 0x05, 0x06, 0x08, 0x09, 0x10, 0x14]) [.mem, .ecc, .twin, .fault, .perf, .nvm] s (SideState.yieldRole s) := by
  unfold SideState.yieldRole
  try dsimp only
  repeat' first
    | with_reducible apply Keeps.self
    | with_reducible assumption
    | with_reducible apply Keeps.ite
    | with_reducible apply Keeps.step (SideState.loseUpdate_keeps _)
    | with_reducible apply Keeps.step (SideState.dropSwap_keeps _)
    | with_reducible apply Keeps.step (SideState.enterRole_keeps _ _)
    | exact rfl

theorem SideState.refuseTakeover_keeps (s : SideState) : Keeps (some [0x03, 0x05, 0x06, 0x08, 0x09, 0x10, 0x14]) [.twin, .fault, .perf] s (SideState.refuseTakeover s) := by
  unfold SideState.refuseTakeover
  try dsimp only
  repeat' first
    | with_reducible apply Keeps.self
    | with_reducible assumption
    | with_reducible apply Keeps.set
    | with_reducible apply Keeps.step (SideState.raise_keeps _ _)
    | exact rfl
    | with_reducible apply Keeps.parts
    | (refine fun (p : Part) hp => ?_; cases p <;> first | exact absurd hp (by decide) | simp only [SideState.sameIn])

theorem SideState.stepDown_keeps (s : SideState) : Keeps (some [0x06, 0x08, 0x09, 0x0A, 0x0E, 0x11, 0x13, 0x17, 0x20, 0x21, 0x22, 0x23, 0x24, 0x25, 0x26, 0x27, 0x28, 0x29, 0x30, 0x31]) [.mem, .ecc, .drive, .mon, .loops, .scene, .pipe, .cal, .watch, .twin, .net, .therm, .perf, .free] s (SideState.stepDown s) := by
  unfold SideState.stepDown
  try dsimp only
  repeat' first
    | with_reducible apply Keeps.self
    | with_reducible assumption
    | with_reducible apply Keeps.ite
    | with_reducible apply Keeps.set
    | with_reducible apply Keeps.step (SideState.dropPolicy_keeps _)
    | with_reducible apply Keeps.step (SideState.dropDrive_keeps _)
    | with_reducible apply Keeps.step (SideState.abortTunes_keeps _ _)
    | with_reducible apply Keeps.step (SideState.yieldRuns_keeps _)
    | with_reducible apply Keeps.step (SideState.mailboxDone_keeps _ _ _ _)
    | exact rfl
    | with_reducible apply Keeps.parts
    | (refine fun (p : Part) hp => ?_; cases p <;> first | exact absurd hp (by decide) | simp only [SideState.sameIn])

theorem SideState.fenceDone_keeps (s : SideState) (t10ns : Nat) : Keeps (some [0x08, 0x14, 0x2A, 0x2B, 0x2C, 0x2D, 0x2E, 0x2F]) [.mon, .twin] s (SideState.fenceDone s t10ns) := by
  unfold SideState.fenceDone
  try dsimp only
  repeat' first
    | with_reducible apply Keeps.self
    | with_reducible assumption
    | with_reducible apply Keeps.set
    | with_reducible apply Keeps.step (SideState.connectFrontEnds_keeps _)
    | with_reducible apply Keeps.step (SideState.runConverters_keeps _ _)
    | exact rfl
    | with_reducible apply Keeps.parts
    | (refine fun (p : Part) hp => ?_; cases p <;> first | exact absurd hp (by decide) | simp only [SideState.sameIn])

end Sys2Proof.Machine
end

