-- ==== Sys2Proof/Laws/Health.lean ====
section
/-! SUPPORT. What each operation of Machine/Health.lean keeps. -/

set_option Elab.async false

namespace Sys2Proof.Machine

theorem SideState.warmUp_keeps (s : SideState) : Keeps (some [0x08]) [] s (SideState.warmUp s) := by
  unfold SideState.warmUp
  try dsimp only
  repeat' first
    | with_reducible apply Keeps.self
    | with_reducible assumption
    | with_reducible apply Keeps.ite
    | with_reducible apply Keeps.set
    | exact rfl

theorem SideState.makeReport_keeps (s : SideState) : Keeps (some [0x08]) [.twin] s (SideState.makeReport s) := by
  unfold SideState.makeReport
  try dsimp only
  repeat' first
    | with_reducible apply Keeps.self
    | with_reducible assumption
    | with_reducible apply Keeps.ite
    | with_reducible apply Keeps.step (SideState.showFit_keeps _)
    | exact rfl
    | with_reducible apply Keeps.parts
    | (refine fun (p : Part) hp => ?_; cases p <;> first | exact absurd hp (by decide) | simp only [SideState.sameIn])

theorem SideState.countSlot_keeps (s : SideState) : Keeps (some [0x03, 0x05, 0x06, 0x08, 0x09, 0x10, 0x14]) [.twin, .fault, .perf] s (SideState.countSlot s) := by
  unfold SideState.countSlot
  try dsimp only
  repeat' first
    | with_reducible apply Keeps.self
    | with_reducible assumption
    | with_reducible apply Keeps.ite
    | with_reducible apply Keeps.set
    | with_reducible apply Keeps.evt
    | with_reducible apply Keeps.step (SideState.raise_keeps _ _)
    | exact rfl
    | with_reducible apply Keeps.parts
    | (refine fun (p : Part) hp => ?_; cases p <;> first | exact absurd hp (by decide) | simp only [SideState.sameIn])

theorem SideState.scrub_keeps (s : SideState) : Keeps (some [0x06]) [.ecc, .perf] s (SideState.scrub s) := by
  unfold SideState.scrub
  try dsimp only
  repeat' first
    | with_reducible apply Keeps.self
    | with_reducible assumption
    | with_reducible apply Keeps.step (SideState.owe_keeps _ _)
    | with_reducible apply Keeps.step (SideState.count_keeps _ _ _)
    | exact rfl
    | with_reducible apply Keeps.parts
    | (refine fun (p : Part) hp => ?_; cases p <;> first | exact absurd hp (by decide) | simp only [SideState.sameIn])

theorem SideState.unfence_keeps (s : SideState) : Keeps (some []) [.twin] s (SideState.unfence s) := by
  unfold SideState.unfence
  try dsimp only
  repeat' first
    | with_reducible apply Keeps.self
    | with_reducible assumption
    | exact rfl
    | with_reducible apply Keeps.parts
    | (refine fun (p : Part) hp => ?_; cases p <;> first | exact absurd hp (by decide) | simp only [SideState.sameIn])

theorem SideState.unfenceAtBoundary_keeps (s : SideState) (peerRequest : Bool) : Keeps (some [0x08, 0x10, 0x14]) [.mon, .twin] s (SideState.unfenceAtBoundary s peerRequest) := by
  unfold SideState.unfenceAtBoundary
  try dsimp only
  repeat' first
    | with_reducible apply Keeps.self
    | with_reducible assumption
    | with_reducible apply Keeps.ite
    | with_reducible apply Keeps.set
    | with_reducible apply Keeps.step (SideState.connectFrontEnds_keeps _)
    | with_reducible apply Keeps.step (SideState.showFit_keeps _)
    | exact rfl
    | with_reducible apply Keeps.parts
    | (refine fun (p : Part) hp => ?_; cases p <;> first | exact absurd hp (by decide) | simp only [SideState.sameIn])

theorem SideState.emitBulkHead_keeps (s : SideState) : Keeps (some []) [.twin] s (SideState.emitBulkHead s) := by
  unfold SideState.emitBulkHead
  try dsimp only
  repeat' first
    | with_reducible apply Keeps.self
    | with_reducible assumption
    | with_reducible apply Keeps.ite
    | with_reducible apply Keeps.step (SideState.emit_keeps _ _)
    | with_reducible apply Keeps.step (SideState.emitTone_keeps _ _ _)
    | with_reducible apply Keeps.step (SideState.emitPhase_keeps _ _ _ _)
    | with_reducible apply Keeps.step (SideState.emitStaged_keeps _ _)
    | with_reducible apply Keeps.step (SideState.emitConn_keeps _ _)
    | with_reducible apply Keeps.step (SideState.emitPolicy_keeps _ _)
    | with_reducible apply Keeps.foldl
    | exact rfl
    | intro _ _ _

theorem SideState.beginBulk_keeps (s : SideState) : Keeps (some [0x08]) [.twin] s (SideState.beginBulk s) := by
  unfold SideState.beginBulk
  try dsimp only
  repeat' first
    | with_reducible apply Keeps.self
    | with_reducible assumption
    | with_reducible apply Keeps.set
    | with_reducible apply Keeps.step (SideState.emitBulkHead_keeps _)
    | exact rfl
    | with_reducible apply Keeps.parts
    | (refine fun (p : Part) hp => ?_; cases p <;> first | exact absurd hp (by decide) | simp only [SideState.sameIn])

theorem SideState.takeLeadRig_keeps (s : SideState) (img : List Byte) : Keeps (some [0x03, 0x05, 0x06, 0x08, 0x09, 0x0E, 0x0F, 0x10, 0x14]) [.mem, .ecc, .drive, .mon, .pipe, .cal, .twin, .fault, .perf, .power, .rigImage] s (SideState.takeLeadRig s img) := by
  unfold SideState.takeLeadRig
  try dsimp only
  repeat' first
    | with_reducible apply Keeps.self
    | with_reducible assumption
    | with_reducible apply Keeps.ite
    | with_reducible apply Keeps.step (SideState.rigInForce_keeps _ _)
    | with_reducible apply Keeps.step (SideState.parkAtStart_keeps _)
    | with_reducible apply Keeps.step (SideState.calAtStart_keeps _)
    | exact rfl

theorem SideState.resendRegions_keeps (s : SideState) (l : List Nat) : Keeps (some [0x08]) [.twin] s (SideState.resendRegions s l) := by
  unfold SideState.resendRegions
  try dsimp only
  repeat' first
    | with_reducible apply Keeps.self
    | with_reducible assumption
    | with_reducible apply Keeps.set
    | exact rfl
    | with_reducible apply Keeps.parts
    | (refine fun (p : Part) hp => ?_; cases p <;> first | exact absurd hp (by decide) | simp only [SideState.sameIn])

theorem SideState.receiveMarker_keeps (s : SideState) (bytes : List Byte) (crcOk : Bool) : Keeps (some [0x03, 0x05, 0x06, 0x08, 0x09, 0x10, 0x14]) [.twin, .fault, .perf] s (SideState.receiveMarker s bytes crcOk) := by
  unfold SideState.receiveMarker
  try dsimp only
  repeat' first
    | with_reducible apply Keeps.self
    | with_reducible assumption
    | with_reducible apply Keeps.ite
    | with_reducible apply Keeps.set
    | with_reducible apply Keeps.step (SideState.checkAt_keeps _ _ _)
    | with_reducible apply Keeps.step (SideState.lostFlit_keeps _)
    | with_reducible apply Keeps.step (SideState.takeMarker_keeps _ _ _)
    | exact rfl
    | with_reducible apply Keeps.parts
    | (refine fun (p : Part) hp => ?_; cases p <;> first | exact absurd hp (by decide) | simp only [SideState.sameIn])

theorem SideState.askSwap_keeps (x y : SideState) : Keeps (some [0x03, 0x05, 0x06, 0x08, 0x09, 0x10, 0x14]) [.twin, .fault, .perf] x (SideState.askSwap x y) := by
  unfold SideState.askSwap
  try dsimp only
  repeat' first
    | with_reducible apply Keeps.self
    | with_reducible assumption
    | with_reducible apply Keeps.ite
    | with_reducible apply Keeps.set
    | with_reducible apply Keeps.step (SideState.raise_keeps _ _)
    | exact rfl
    | with_reducible apply Keeps.parts
    | (refine fun (p : Part) hp => ?_; cases p <;> first | exact absurd hp (by decide) | simp only [SideState.sameIn])

end Sys2Proof.Machine
end

