-- ==== Sys2Proof/Laws/Update.lean ====
section
/-! SUPPORT. What each operation of Machine/Update.lean keeps. -/

set_option Elab.async false

namespace Sys2Proof.Machine

theorem SideState.handOver_keeps (s : SideState) : Keeps (some [0x03, 0x05, 0x06, 0x08, 0x09, 0x0A, 0x0D, 0x0E, 0x10, 0x11, 0x13, 0x14, 0x16, 0x17, 0x20, 0x21, 0x22, 0x23, 0x24, 0x25, 0x26, 0x27, 0x28, 0x29, 0x2A, 0x2B, 0x2C, 0x2D, 0x2E, 0x2F, 0x30, 0x31]) [.mem, .ecc, .drive, .mon, .loops, .scene, .pipe, .cal, .watch, .twin, .net, .fault, .therm, .perf, .free] s (SideState.handOver s) := by
  unfold SideState.handOver
  try dsimp only
  repeat' first
    | with_reducible apply Keeps.self
    | with_reducible assumption
    | with_reducible apply Keeps.set
    | with_reducible apply Keeps.evt
    | with_reducible apply Keeps.step (SideState.stepDown_keeps _)
    | with_reducible apply Keeps.step (SideState.enterRole_keeps _ _)
    | with_reducible apply Keeps.step (SideState.showFit_keeps _)
    | exact rfl
    | with_reducible apply Keeps.parts
    | (refine fun (p : Part) hp => ?_; cases p <;> first | exact absurd hp (by decide) | simp only [SideState.sameIn])

theorem SideState.takeUpdate_keeps (s : SideState) (o : Option Update) : Keeps (some [0x05, 0x06, 0x08]) [.twin, .fault, .perf] s (SideState.takeUpdate s o) := by
  unfold SideState.takeUpdate
  try dsimp only
  repeat' first
    | with_reducible apply Keeps.self
    | with_reducible assumption
    | with_reducible apply Keeps.step (SideState.showStep_keeps _ _ _)
    | exact rfl
    | split
    | with_reducible apply Keeps.parts
    | (refine fun (p : Part) hp => ?_; cases p <;> first | exact absurd hp (by decide) | simp only [SideState.sameIn])

theorem SideState.takeSwap_keeps (s old : SideState) : Keeps (some [0x01, 0x03, 0x05, 0x06, 0x08, 0x09, 0x0B, 0x0C, 0x0D, 0x0E, 0x0F, 0x10, 0x11, 0x13, 0x14, 0x16, 0x17, 0x18, 0x19, 0x1A, 0x1B, 0x1C, 0x20, 0x21, 0x22, 0x23, 0x24, 0x25, 0x26, 0x27, 0x28, 0x29, 0x30, 0x31]) [.mem, .ecc, .drive, .mon, .loops, .scene, .pipe, .cal, .watch, .twin, .net, .fault, .perf, .free] s (SideState.takeSwap s old) := by
  unfold SideState.takeSwap
  repeat' first
    | with_reducible apply Keeps.self
    | with_reducible apply Keeps.bump
    | with_reducible apply Keeps.evt
    | with_reducible apply Keeps.step (SideState.takeLead_keeps _ _)
    | with_reducible apply Keeps.step (SideState.takeUpdate_keeps _ _)
    | exact rfl

theorem SideState.checkImage_keeps (s : SideState) (img : List Byte) : KeepsP (some [0x1F]) [] s (SideState.checkImage s img) := by
  unfold SideState.checkImage
  try dsimp only
  repeat' first
    | with_reducible apply Keeps.self
    | with_reducible assumption
    | with_reducible apply Keeps.step (SideState.showCheck_keeps _ _ _)
    | with_reducible apply KeepsP.mk
    | exact rfl

theorem SideState.writeSlot_keeps (s : SideState) (slot : Nat) (img : List Byte) : Keeps (some [0x06]) [.mem, .ecc, .perf] s (SideState.writeSlot s slot img) := by
  unfold SideState.writeSlot
  try dsimp only
  repeat' first
    | with_reducible apply Keeps.self
    | with_reducible assumption
    | with_reducible apply Keeps.step (SideState.eraseNvm_keeps _ _ _)
    | with_reducible apply Keeps.step (SideState.wrBytes_keeps _ _ _)
    | with_reducible apply Keeps.step (SideState.count_keeps _ _ _)
    | exact rfl

theorem SideState.nameSlot_keeps (s : SideState) (slot : Nat) (trial : Bool) (img : List Byte) : Keeps none [.mem, .ecc, .perf, .nvm] s (SideState.nameSlot s slot trial img) := by
  unfold SideState.nameSlot
  try dsimp only
  repeat' first
    | with_reducible apply Keeps.self
    | with_reducible assumption
    | with_reducible apply Keeps.set
    | with_reducible apply Keeps.step (SideState.writeDirectory_keeps _ _)
    | exact rfl

theorem SideState.loadInactive_keeps (s : SideState) (img : List Byte) : Keeps (some [0x06]) [.mem, .ecc, .perf] s (SideState.loadInactive s img) := by
  unfold SideState.loadInactive
  try dsimp only
  repeat' first
    | with_reducible apply Keeps.self
    | with_reducible assumption
    | with_reducible apply Keeps.step (SideState.writeSlot_keeps _ _ _)
    | exact rfl

theorem SideState.restartInto_keeps (s : SideState) (img : List Byte) : Keeps none [.pairs, .mem, .ecc, .hostWrites, .readBack, .clock, .off, .drive, .mon, .loops, .scene, .pipe, .cal, .watch, .twin, .net, .time, .fault, .lines, .therm, .perf, .nvm, .power, .rigImage, .tap] s (SideState.restartInto s img) := by
  unfold SideState.restartInto
  try dsimp only
  repeat' first
    | with_reducible apply Keeps.self
    | with_reducible assumption
    | with_reducible apply Keeps.ite
    | with_reducible apply Keeps.step (SideState.nameSlot_keeps _ _ _ _)
    | with_reducible apply Keeps.step (SideState.restart_keeps _ _)
    | exact rfl

theorem SideState.toStep_keeps (s : SideState) (u : Update) (step : Nat) : Keeps (some [0x05, 0x06, 0x08]) [.twin, .fault, .perf] s (SideState.toStep s u step) := by
  unfold SideState.toStep
  try dsimp only
  repeat' first
    | with_reducible apply Keeps.self
    | with_reducible assumption
    | with_reducible apply Keeps.step (SideState.showStep_keeps _ _ _)
    | exact rfl
    | with_reducible apply Keeps.parts
    | (refine fun (p : Part) hp => ?_; cases p <;> first | exact absurd hp (by decide) | simp only [SideState.sameIn])

theorem SideState.romUpdate_keeps (s : SideState) : Keeps none [.mem, .ecc, .twin, .fault, .perf, .nvm] s (SideState.romUpdate s) := by
  unfold SideState.romUpdate
  try dsimp only
  repeat' first
    | with_reducible apply Keeps.self
    | with_reducible assumption
    | with_reducible apply Keeps.ite
    | with_reducible apply KeepsP.ite
    | with_reducible apply KeepsP.step (SideState.checkImage_keeps _ _)
    | with_reducible apply Keeps.step (SideState.raise_keeps _ _)
    | with_reducible apply Keeps.step (SideState.failUpdate_keeps _ _)
    | with_reducible apply Keeps.step (SideState.writeSlot_keeps _ _ _)
    | with_reducible apply Keeps.step (SideState.nameSlot_keeps _ _ _ _)
    | exact rfl
    | with_reducible apply Keeps.step (KeepsP.fst (SideState.checkImage_keeps _ _))
    | split
    | with_reducible apply Keeps.parts
    | (refine fun (p : Part) hp => ?_; cases p <;> first | exact absurd hp (by decide) | simp only [SideState.sameIn])

theorem SideState.startUpdate_keeps (s peer : SideState) : Keeps none [.mem, .ecc, .twin, .fault, .perf, .nvm] s (SideState.startUpdate s peer) := by
  unfold SideState.startUpdate
  try dsimp only
  repeat' first
    | with_reducible apply Keeps.self
    | with_reducible assumption
    | with_reducible apply Keeps.ite
    | with_reducible apply KeepsP.ite
    | with_reducible apply Keeps.step (SideState.romUpdate_keeps _)
    | with_reducible apply Keeps.step (SideState.raise_keeps _ _)
    | with_reducible apply Keeps.step (SideState.failUpdate_keeps _ _)
    | with_reducible apply KeepsP.step (SideState.checkImage_keeps _ _)
    | with_reducible apply Keeps.step (SideState.toStep_keeps _ _ _)
    | exact rfl
    | with_reducible apply Keeps.step (KeepsP.fst (SideState.checkImage_keeps _ _))
    | split

theorem SideState.burn_keeps (s : SideState) (img : List Byte) : Keeps (some [0x05, 0x06, 0x1F]) [.mem, .ecc, .perf, .nvm] s (SideState.burn s img) := by
  unfold SideState.burn
  try dsimp only
  repeat' first
    | with_reducible apply Keeps.self
    | with_reducible assumption
    | with_reducible apply Keeps.set
    | with_reducible apply Keeps.step (SideState.writeDirectory_keeps _ _)
    | exact rfl
    | with_reducible apply Keeps.parts
    | (refine fun (p : Part) hp => ?_; cases p <;> first | exact absurd hp (by decide) | simp only [SideState.sameIn])

theorem SideState.fallBack_keeps (s : SideState) : Keeps none [.pairs, .mem, .ecc, .hostWrites, .readBack, .clock, .off, .drive, .mon, .loops, .scene, .pipe, .cal, .watch, .twin, .net, .time, .fault, .lines, .therm, .perf, .nvm, .power, .rigImage, .tap] s (SideState.fallBack s) := by
  unfold SideState.fallBack
  try dsimp only
  repeat' first
    | with_reducible apply Keeps.self
    | with_reducible assumption
    | with_reducible apply Keeps.ite
    | with_reducible apply Keeps.step (SideState.markFailed_keeps _)
    | with_reducible apply Keeps.step (SideState.resign_keeps _)
    | with_reducible apply Keeps.step (SideState.leaveRole_keeps _)
    | with_reducible apply Keeps.step (SideState.restart_keeps _ _)
    | exact rfl

theorem SideState.autoUpdate_keeps (s peer : SideState) : Keeps none [.pairs, .mem, .ecc, .twin, .fault, .perf, .nvm] s (SideState.autoUpdate s peer) := by
  unfold SideState.autoUpdate
  try dsimp only
  repeat' first
    | with_reducible apply Keeps.self
    | with_reducible assumption
    | with_reducible apply Keeps.set
    | with_reducible apply Keeps.step (SideState.transfer_keeps _ _)
    | with_reducible apply Keeps.step (SideState.startUpdate_keeps _ _)
    | exact rfl
    | with_reducible apply Keeps.firstHalf
    | with_reducible apply Keeps.onPair
    | with_reducible apply Keeps.regWrite
    | intro _ _ _
    | intro _ _

theorem SideState.imageFrame_keeps (s peer : SideState) (payload : List Byte) : Keeps none [.pairs, .mem, .ecc, .off, .twin, .net, .fault, .perf, .nvm] s (SideState.imageFrame s peer payload) := by
  unfold SideState.imageFrame
  try dsimp only
  repeat' first
    | with_reducible apply Keeps.self
    | with_reducible assumption
    | with_reducible apply Keeps.ite
    | with_reducible apply KeepsP.ite
    | with_reducible apply KeepsP.step (SideState.takeImageFrame_keeps _ _)
    | with_reducible apply Keeps.step (SideState.autoUpdate_keeps _ _)
    | exact rfl
    | with_reducible apply Keeps.step (KeepsP.fst (SideState.takeImageFrame_keeps _ _))
    | with_reducible apply Keeps.step (KeepsP.of_eq (SideState.takeImageFrame_keeps _ _) (by assumption))
    | split

end Sys2Proof.Machine
end

