-- ==== Sys2Proof/Laws/Thermal.lean ====
section
/-! SUPPORT. What each operation of Machine/Thermal.lean keeps. -/

set_option Elab.async false

namespace Sys2Proof.Machine

theorem SideState.setHk_keeps (s : SideState) (n : Nat) (c : HkChannel) : Keeps (some []) [.therm] s (SideState.setHk s n c) := by
  unfold SideState.setHk
  try dsimp only
  repeat' first
    | with_reducible apply Keeps.self
    | with_reducible assumption
    | exact rfl
    | with_reducible apply Keeps.parts
    | (refine fun (p : Part) hp => ?_; cases p <;> first | exact absurd hp (by decide) | simp only [SideState.sameIn])

theorem SideState.dieSubstitute_keeps (s : SideState) (n : Nat) : Keeps (some []) [.therm, .free] s (SideState.dieSubstitute s n) := by
  unfold SideState.dieSubstitute
  try dsimp only
  repeat' first
    | with_reducible apply Keeps.self
    | with_reducible assumption
    | with_reducible apply Keeps.step (SideState.setHk_keeps _ _ _)
    | with_reducible apply KeepsP.step (SideState.fresh_keeps _ _)
    | with_reducible apply Keeps.foldl
    | exact rfl
    | with_reducible apply Keeps.step (KeepsP.fst (SideState.fresh_keeps _ _))
    | with_reducible apply Keeps.step (KeepsP.of_eq (SideState.fresh_keeps _ _) (by assumption))
    | split

theorem SideState.dieEvents_keeps (s old : SideState) (n : Nat) : Keeps (some [0x03, 0x04, 0x05, 0x06, 0x08, 0x09, 0x10, 0x14]) [.twin, .fault, .therm, .perf] s (SideState.dieEvents s old n) := by
  unfold SideState.dieEvents
  try dsimp only
  repeat' first
    | with_reducible apply Keeps.self
    | with_reducible assumption
    | with_reducible apply Keeps.ite
    | with_reducible apply Keeps.set
    | with_reducible apply Keeps.setB
    | with_reducible apply Keeps.bump
    | with_reducible apply Keeps.evt
    | with_reducible apply Keeps.step (SideState.raise_keeps _ _)
    | exact rfl
    | (dsimp only; exact rfl)
    | with_reducible apply Keeps.parts
    | (refine fun (p : Part) hp => ?_; cases p <;> first | exact absurd hp (by decide) | simp only [SideState.sameIn])

theorem SideState.dieRound_keeps (s : SideState) (r : List HkReading) : Keeps (some [0x03, 0x04, 0x05, 0x06, 0x08, 0x09, 0x10, 0x14]) [.twin, .fault, .therm, .perf, .free] s (SideState.dieRound s r) := by
  unfold SideState.dieRound
  try dsimp only
  repeat' first
    | with_reducible apply Keeps.self
    | with_reducible assumption
    | with_reducible apply Keeps.ite
    | with_reducible apply Keeps.step (SideState.setHk_keeps _ _ _)
    | with_reducible apply Keeps.step (SideState.dieSubstitute_keeps _ _)
    | with_reducible apply Keeps.step (SideState.dieEvents_keeps _ _ _)
    | with_reducible apply Keeps.foldl
    | exact rfl
    | with_reducible apply Keeps.parts
    | intro _ _ _

theorem SideState.plainChannel_keeps (s : SideState) (r : List HkReading) (n : Nat) : Keeps (some []) [.therm] s (SideState.plainChannel s r n) := by
  unfold SideState.plainChannel
  try dsimp only
  repeat' first
    | with_reducible apply Keeps.self
    | with_reducible assumption
    | with_reducible apply Keeps.step (SideState.setHk_keeps _ _ _)
    | exact rfl
    | split

theorem SideState.tileLine_keeps (s : SideState) (r : List HkReading) (line : Nat) (b : List Byte) : Keeps (some [0x03, 0x04, 0x05, 0x06, 0x08, 0x09, 0x10, 0x14]) [.twin, .fault, .therm, .perf] s (SideState.tileLine s r line b) := by
  unfold SideState.tileLine
  try dsimp only
  repeat' first
    | with_reducible apply Keeps.self
    | with_reducible assumption
    | with_reducible apply Keeps.ite
    | with_reducible apply Keeps.set
    | with_reducible apply Keeps.step (SideState.setHk_keeps _ _ _)
    | with_reducible apply Keeps.step (SideState.raise_keeps _ _)
    | exact rfl
    | (dsimp only; exact rfl)
    | split

theorem SideState.tileLimit_keeps (s : SideState) (flag : Fld) (limit : Int) (max : Int) (src : Nat) : Keeps none [.twin, .fault, .perf] s (SideState.tileLimit s flag limit max src) := by
  unfold SideState.tileLimit
  try dsimp only
  repeat' first
    | with_reducible apply Keeps.self
    | with_reducible assumption
    | with_reducible apply Keeps.ite
    | with_reducible apply Keeps.set
    | with_reducible apply Keeps.evt
    | with_reducible apply Keeps.step (SideState.raise_keeps _ _)
    | exact rfl

theorem SideState.tileRound_keeps (s : SideState) (r : List HkReading) : Keeps none [.twin, .fault, .therm, .perf] s (SideState.tileRound s r) := by
  unfold SideState.tileRound
  try dsimp only
  repeat' first
    | with_reducible apply Keeps.self
    | with_reducible assumption
    | with_reducible apply Keeps.ite
    | with_reducible apply Keeps.set
    | with_reducible apply Keeps.step (SideState.emit_keeps _ _)
    | with_reducible apply Keeps.step (SideState.tileLimit_keeps _ _ _ _ _)
    | with_reducible apply Keeps.step (SideState.tileLine_keeps _ _ _ _)
    | with_reducible apply Keeps.foldl
    | exact rfl
    | split
    | with_reducible apply Keeps.parts
    | intro _ _ _

theorem SideState.forceT3_keeps (s : SideState) : Keeps (some [0x03, 0x04, 0x05, 0x06, 0x08, 0x09, 0x10, 0x14]) [.twin, .fault, .perf] s (SideState.forceT3 s) := by
  unfold SideState.forceT3
  try dsimp only
  repeat' first
    | with_reducible apply Keeps.self
    | with_reducible assumption
    | with_reducible apply Keeps.setB
    | with_reducible apply Keeps.step (SideState.raiseIf_keeps _ _ _)
    | exact rfl

theorem SideState.throttle_keeps (s : SideState) (t : Int) : Keeps (some [0x03, 0x04, 0x05, 0x06, 0x08, 0x09, 0x0E, 0x10, 0x14, 0x17, 0x30, 0x31]) [.mem, .ecc, .drive, .mon, .loops, .cal, .twin, .fault, .perf, .free] s (SideState.throttle s t) := by
  unfold SideState.throttle
  try dsimp only
  repeat' first
    | with_reducible apply Keeps.self
    | with_reducible assumption
    | with_reducible apply Keeps.ite
    | with_reducible apply Keeps.set
    | with_reducible apply Keeps.evt
    | with_reducible apply Keeps.step (SideState.raise_keeps _ _)
    | with_reducible apply Keeps.step (SideState.abortRuns_keeps _)
    | with_reducible apply Keeps.step (SideState.abortTunes_keeps _ _)
    | exact rfl

theorem SideState.warning_keeps (s : SideState) (t : Int) : Keeps (some [0x03, 0x04, 0x05, 0x06, 0x08, 0x09, 0x10, 0x14]) [.twin, .fault, .perf] s (SideState.warning s t) := by
  unfold SideState.warning
  try dsimp only
  repeat' first
    | with_reducible apply Keeps.self
    | with_reducible assumption
    | with_reducible apply Keeps.ite
    | with_reducible apply Keeps.set
    | with_reducible apply Keeps.evt
    | with_reducible apply Keeps.step (SideState.raise_keeps _ _)
    | exact rfl

theorem SideState.thresholds_keeps (s : SideState) : Keeps (some [0x03, 0x04, 0x05, 0x06, 0x08, 0x09, 0x0E, 0x10, 0x14, 0x17, 0x30, 0x31]) [.mem, .ecc, .drive, .mon, .loops, .cal, .twin, .fault, .therm, .perf, .free] s (SideState.thresholds s) := by
  unfold SideState.thresholds
  try dsimp only
  repeat' first
    | with_reducible apply Keeps.self
    | with_reducible assumption
    | with_reducible apply Keeps.set
    | with_reducible apply Keeps.setB
    | with_reducible apply Keeps.step (SideState.forceT3_keeps _)
    | with_reducible apply Keeps.step (SideState.warning_keeps _ _)
    | with_reducible apply Keeps.step (SideState.throttle_keeps _ _)
    | exact rfl
    | split
    | with_reducible apply Keeps.parts
    | (refine fun (p : Part) hp => ?_; cases p <;> first | exact absurd hp (by decide) | simp only [SideState.sameIn])

theorem SideState.nvmWindow_keeps (s : SideState) : Keeps (some [0x04, 0x05, 0x06, 0x0F]) [.mem, .ecc, .perf, .nvm] s (SideState.nvmWindow s) := by
  unfold SideState.nvmWindow
  try dsimp only
  repeat' first
    | with_reducible apply Keeps.self
    | with_reducible assumption
    | with_reducible apply Keeps.ite
    | with_reducible apply Keeps.set
    | with_reducible apply Keeps.setB
    | with_reducible apply Keeps.evt
    | with_reducible apply Keeps.step (SideState.pauseProgram_keeps _)
    | exact rfl
    | with_reducible apply Keeps.parts
    | (refine fun (p : Part) hp => ?_; cases p <;> first | exact absurd hp (by decide) | simp only [SideState.sameIn])

theorem SideState.vinRound_keeps (s : SideState) : Keeps (some [0x01, 0x03, 0x05, 0x06, 0x08, 0x09, 0x10, 0x14]) [.twin, .fault, .perf] s (SideState.vinRound s) := by
  unfold SideState.vinRound
  try dsimp only
  repeat' first
    | with_reducible apply Keeps.self
    | with_reducible assumption
    | with_reducible apply Keeps.ite
    | with_reducible apply Keeps.set
    | with_reducible apply Keeps.setB
    | with_reducible apply Keeps.evt
    | with_reducible apply Keeps.step (SideState.raiseIf_keeps _ _ _)
    | exact rfl

theorem SideState.trackStep_keeps (s : SideState) (dom v0 code : Nat) : Keeps (some [0x03, 0x05, 0x06, 0x08, 0x09, 0x10, 0x13, 0x14]) [.twin, .fault, .perf] s (SideState.trackStep s dom v0 code) := by
  unfold SideState.trackStep
  try dsimp only
  repeat' first
    | with_reducible apply Keeps.self
    | with_reducible assumption
    | with_reducible apply Keeps.ite
    | with_reducible apply Keeps.set
    | with_reducible apply Keeps.setB
    | with_reducible apply Keeps.evt
    | with_reducible apply Keeps.step (SideState.raise_keeps _ _)
    | exact rfl
    | (simp only [pageOf_nth]; exact rfl)

theorem SideState.trackDomain_keeps (s : SideState) (r : List HkReading) (dom : Nat) : Keeps (some [0x03, 0x05, 0x06, 0x08, 0x09, 0x10, 0x13, 0x14]) [.drive, .twin, .fault, .perf] s (SideState.trackDomain s r dom) := by
  unfold SideState.trackDomain
  try dsimp only
  repeat' first
    | with_reducible apply Keeps.self
    | with_reducible assumption
    | with_reducible apply Keeps.ite
    | with_reducible apply Keeps.set
    | with_reducible apply Keeps.evt
    | with_reducible apply Keeps.step (SideState.raiseIf_keeps _ _ _)
    | with_reducible apply Keeps.step (SideState.count_keeps _ _ _)
    | with_reducible apply Keeps.step (SideState.raise_keeps _ _)
    | with_reducible apply Keeps.step (SideState.trackStep_keeps _ _ _ _)
    | exact rfl
    | (simp only [pageOf_nth]; exact rfl)
    | split
    | with_reducible apply Keeps.parts
    | (refine fun (p : Part) hp => ?_; cases p <;> first | exact absurd hp (by decide) | simp only [SideState.sameIn])

theorem SideState.supplyRound_keeps (s : SideState) (r : List HkReading) : Keeps (some [0x03, 0x05, 0x06, 0x08, 0x09, 0x10, 0x13, 0x14]) [.drive, .twin, .fault, .perf] s (SideState.supplyRound s r) := by
  unfold SideState.supplyRound
  try dsimp only
  repeat' first
    | with_reducible apply Keeps.self
    | with_reducible assumption
    | with_reducible apply Keeps.ite
    | with_reducible apply Keeps.step (SideState.trackDomain_keeps _ _ _)
    | with_reducible apply Keeps.foldl
    | exact rfl
    | intro _ _ _

theorem SideState.shutDown_keeps (s : SideState) : Keeps (some [0x03, 0x04, 0x05, 0x06, 0x08, 0x09, 0x10, 0x14]) [.twin, .fault, .therm, .perf] s (SideState.shutDown s) := by
  unfold SideState.shutDown
  try dsimp only
  repeat' first
    | with_reducible apply Keeps.self
    | with_reducible assumption
    | with_reducible apply Keeps.ite
    | with_reducible apply Keeps.set
    | with_reducible apply Keeps.step (SideState.raise_keeps _ _)
    | with_reducible apply Keeps.step (SideState.resignPulse_keeps _)
    | with_reducible apply Keeps.step (SideState.enterRole_keeps _ _)
    | exact rfl
    | with_reducible apply Keeps.parts
    | (refine fun (p : Part) hp => ?_; cases p <;> first | exact absurd hp (by decide) | simp only [SideState.sameIn])

theorem SideState.shutdownBoundary_keeps (s : SideState) : Keeps (some [0x09, 0x0A, 0x14, 0x2A, 0x2B, 0x2C, 0x2D, 0x2E, 0x2F]) [] s (SideState.shutdownBoundary s) := by
  unfold SideState.shutdownBoundary
  try dsimp only
  repeat' first
    | with_reducible apply Keeps.self
    | with_reducible assumption
    | with_reducible apply Keeps.ite
    | with_reducible apply Keeps.set
    | with_reducible apply Keeps.step (SideState.runConverters_keeps _ _)
    | exact rfl
    | split

theorem SideState.coolDown_keeps (s : SideState) : Keeps none [.pairs, .mem, .ecc, .hostWrites, .readBack, .clock, .off, .drive, .mon, .loops, .scene, .pipe, .cal, .watch, .twin, .net, .time, .fault, .lines, .therm, .perf, .nvm, .power, .rigImage, .tap] s (SideState.coolDown s) := by
  unfold SideState.coolDown
  try dsimp only
  repeat' first
    | with_reducible apply Keeps.self
    | with_reducible assumption
    | with_reducible apply Keeps.ite
    | with_reducible apply Keeps.step (SideState.restart_keeps _ _)
    | exact rfl
    | with_reducible apply Keeps.parts
    | (refine fun (p : Part) hp => ?_; cases p <;> first | exact absurd hp (by decide) | simp only [SideState.sameIn])

theorem SideState.shutdownRound_keeps (s : SideState) : Keeps none [.pairs, .mem, .ecc, .hostWrites, .readBack, .clock, .off, .drive, .mon, .loops, .scene, .pipe, .cal, .watch, .twin, .net, .time, .fault, .lines, .therm, .perf, .nvm, .power, .rigImage, .tap] s (SideState.shutdownRound s) := by
  unfold SideState.shutdownRound
  try dsimp only
  repeat' first
    | with_reducible apply Keeps.self
    | with_reducible assumption
    | with_reducible apply Keeps.ite
    | with_reducible apply Keeps.step (SideState.coolDown_keeps _)
    | with_reducible apply Keeps.step (SideState.shutDown_keeps _)
    | exact rfl

theorem SideState.housekeeping_keeps (s : SideState) (r : List HkReading) : Keeps none [.pairs, .mem, .ecc, .hostWrites, .readBack, .clock, .off, .drive, .mon, .loops, .scene, .pipe, .cal, .watch, .twin, .net, .time, .fault, .lines, .therm, .perf, .nvm, .power, .rigImage, .free, .tap] s (SideState.housekeeping s r) := by
  unfold SideState.housekeeping
  try dsimp only
  repeat' first
    | with_reducible apply Keeps.self
    | with_reducible assumption
    | with_reducible apply Keeps.ite
    | with_reducible apply Keeps.bump
    | with_reducible apply Keeps.step (SideState.raiseIf_keeps _ _ _)
    | with_reducible apply Keeps.step (SideState.plainChannel_keeps _ _ _)
    | with_reducible apply Keeps.step (SideState.dieRound_keeps _ _)
    | with_reducible apply Keeps.step (SideState.tileRound_keeps _ _)
    | with_reducible apply Keeps.step (SideState.thresholds_keeps _)
    | with_reducible apply Keeps.step (SideState.nvmWindow_keeps _)
    | with_reducible apply Keeps.step (SideState.vinRound_keeps _)
    | with_reducible apply Keeps.step (SideState.supplyRound_keeps _ _)
    | with_reducible apply Keeps.step (SideState.count_keeps _ _ _)
    | with_reducible apply Keeps.step (SideState.temperatureTrigger_keeps _)
    | with_reducible apply Keeps.step (SideState.ageSamples_keeps _)
    | with_reducible apply Keeps.step (SideState.shutdownRound_keeps _)
    | with_reducible apply Keeps.step (SideState.showFit_keeps _)
    | with_reducible apply Keeps.foldl
    | exact rfl
    | with_reducible apply Keeps.parts
    | (refine fun (p : Part) hp => ?_; cases p <;> first | exact absurd hp (by decide) | simp only [SideState.sameIn])
    | intro _ _ _

theorem SideState.askIntermission_keeps (s : SideState) : Keeps (some [0x04]) [.therm] s (SideState.askIntermission s) := by
  unfold SideState.askIntermission
  try dsimp only
  repeat' first
    | with_reducible apply Keeps.self
    | with_reducible assumption
    | with_reducible apply Keeps.set
    | exact rfl
    | with_reducible apply Keeps.parts
    | (refine fun (p : Part) hp => ?_; cases p <;> first | exact absurd hp (by decide) | simp only [SideState.sameIn])

theorem SideState.enterIntermission_keeps (s : SideState) : Keeps (some [0x04, 0x06, 0x08, 0x14, 0x16, 0x17, 0x2A, 0x2B, 0x2C, 0x2D, 0x2E, 0x2F, 0x30, 0x31]) [.drive, .mon, .loops, .watch, .twin, .therm, .perf] s (SideState.enterIntermission s) := by
  unfold SideState.enterIntermission
  try dsimp only
  repeat' first
    | with_reducible apply Keeps.self
    | with_reducible assumption
    | with_reducible apply Keeps.ite
    | with_reducible apply Keeps.set
    | with_reducible apply Keeps.evt
    | with_reducible apply Keeps.step (SideState.runConverters_keeps _ _)
    | with_reducible apply Keeps.step (SideState.waitSample_keeps _ _)
    | with_reducible apply Keeps.step (SideState.voidBlock_keeps _)
    | with_reducible apply Keeps.step (SideState.showFit_keeps _)
    | with_reducible apply Keeps.foldl
    | exact rfl
    | with_reducible apply Keeps.parts
    | (refine fun (p : Part) hp => ?_; cases p <;> first | exact absurd hp (by decide) | simp only [SideState.sameIn])
    | intro _ _ _

theorem SideState.startWake_keeps (s : SideState) : Keeps (some [0x04, 0x08, 0x14, 0x2A, 0x2B, 0x2C, 0x2D, 0x2E, 0x2F]) [.therm] s (SideState.startWake s) := by
  unfold SideState.startWake
  try dsimp only
  repeat' first
    | with_reducible apply Keeps.self
    | with_reducible assumption
    | with_reducible apply Keeps.ite
    | with_reducible apply Keeps.set
    | with_reducible apply Keeps.evt
    | with_reducible apply Keeps.step (SideState.runConverters_keeps _ _)
    | with_reducible apply Keeps.step (SideState.showFit_keeps _)
    | exact rfl
    | split
    | with_reducible apply Keeps.parts
    | (refine fun (p : Part) hp => ?_; cases p <;> first | exact absurd hp (by decide) | simp only [SideState.sameIn])

theorem SideState.wakeLoops_keeps (s : SideState) : Keeps (some []) [.loops, .cal] s (SideState.wakeLoops s) := by
  unfold SideState.wakeLoops
  try dsimp only
  repeat' first
    | with_reducible apply Keeps.self
    | with_reducible assumption
    | with_reducible apply Keeps.ite
    | with_reducible apply Keeps.foldl
    | exact rfl
    | with_reducible apply Keeps.parts
    | (refine fun (p : Part) hp => ?_; cases p <;> first | exact absurd hp (by decide) | simp only [SideState.sameIn])

end Sys2Proof.Machine
end

