-- ==== Sys2Proof/Laws/Records.lean ====
section
/-! SUPPORT. What each operation of Machine/Records.lean keeps. -/

set_option Elab.async false

namespace Sys2Proof.Machine

theorem SideState.storeRecord_keeps (s : SideState) (w : RecordWrite) : Keeps (some [0x06]) [.mem, .ecc, .perf, .nvm] s (SideState.storeRecord s w) := by
  unfold SideState.storeRecord
  try dsimp only
  repeat' first
    | with_reducible apply Keeps.self
    | with_reducible assumption
    | with_reducible apply Keeps.ite
    | with_reducible apply Keeps.step (SideState.count_keeps _ _ _)
    | with_reducible apply Keeps.step (SideState.writeRecord_keeps _ _ _)
    | exact rfl
    | with_reducible apply Keeps.parts
    | (refine fun (p : Part) hp => ?_; cases p <;> first | exact absurd hp (by decide) | simp only [SideState.sameIn])

theorem SideState.rigRecordDone_keeps (s : SideState) (w : RecordWrite) : Keeps none [.nvm] s (SideState.rigRecordDone s w) := by
  unfold SideState.rigRecordDone
  try dsimp only
  repeat' first
    | with_reducible apply Keeps.self
    | with_reducible assumption
    | with_reducible apply Keeps.ite
    | with_reducible apply Keeps.set
    | with_reducible apply Keeps.evt
    | with_reducible apply Keeps.step (SideState.setSerial_keeps _ _ _)
    | exact rfl
    | with_reducible apply Keeps.parts
    | (refine fun (p : Part) hp => ?_; cases p <;> first | exact absurd hp (by decide) | simp only [SideState.sameIn])

theorem SideState.calRecordDone_keeps (s : SideState) (w : RecordWrite) : Keeps (some [0x0E, 0x0F]) [.cal] s (SideState.calRecordDone s w) := by
  unfold SideState.calRecordDone
  try dsimp only
  repeat' first
    | with_reducible apply Keeps.self
    | with_reducible assumption
    | with_reducible apply Keeps.ite
    | with_reducible apply Keeps.step (SideState.surveysDone_keeps _)
    | with_reducible apply Keeps.foldl
    | exact rfl
    | with_reducible apply Keeps.parts
    | (refine fun (p : Part) hp => ?_; cases p <;> first | exact absurd hp (by decide) | simp only [SideState.sameIn])
    | intro _ _ _

theorem SideState.recordDone_keeps (s : SideState) (w : RecordWrite) : Keeps none [.mem, .drive, .mon, .pipe, .cal, .twin, .fault, .perf, .nvm, .power, .rigImage] s (SideState.recordDone s w) := by
  unfold SideState.recordDone
  try dsimp only
  repeat' first
    | with_reducible apply Keeps.self
    | with_reducible assumption
    | with_reducible apply Keeps.set
    | with_reducible apply Keeps.evt
    | with_reducible apply Keeps.step (SideState.rigRecordDone_keeps _ _)
    | with_reducible apply Keeps.step (SideState.calRecordDone_keeps _ _)
    | exact rfl
    | split
    | with_reducible apply Keeps.parts
    | (refine fun (p : Part) hp => ?_; cases p <;> first | exact absurd hp (by decide) | simp only [SideState.sameIn])

theorem SideState.peerRecord_keeps (s : SideState) (w : RecordWrite) : Keeps none [.mem, .ecc, .drive, .mon, .pipe, .cal, .twin, .fault, .perf, .nvm, .power, .rigImage] s (SideState.peerRecord s w) := by
  unfold SideState.peerRecord
  try dsimp only
  repeat' first
    | with_reducible apply Keeps.self
    | with_reducible assumption
    | with_reducible apply Keeps.ite
    | with_reducible apply Keeps.step (SideState.storeRecord_keeps _ _)
    | with_reducible apply Keeps.step (SideState.recordDone_keeps _ _)
    | with_reducible apply Keeps.step (SideState.startRecord_keeps _ _ _)
    | exact rfl

theorem SideState.ownRecord_keeps (s : SideState) (w : RecordWrite) (waits : Bool) : Keeps none [.mem, .ecc, .drive, .mon, .pipe, .cal, .twin, .fault, .perf, .nvm, .power, .rigImage] s (SideState.ownRecord s w waits) := by
  unfold SideState.ownRecord
  try dsimp only
  repeat' first
    | with_reducible apply Keeps.self
    | with_reducible assumption
    | with_reducible apply Keeps.ite
    | with_reducible apply Keeps.step (SideState.storeRecord_keeps _ _)
    | with_reducible apply Keeps.step (SideState.recordDone_keeps _ _)
    | exact rfl
    | with_reducible apply Keeps.parts
    | (refine fun (p : Part) hp => ?_; cases p <;> first | exact absurd hp (by decide) | simp only [SideState.sameIn])

theorem SideState.peerDone_keeps (s : SideState) (which : RecordWrite → Bool) : Keeps none [.mem, .drive, .mon, .pipe, .cal, .twin, .fault, .perf, .nvm, .power, .rigImage] s (SideState.peerDone s which) := by
  unfold SideState.peerDone
  try dsimp only
  repeat' first
    | with_reducible apply Keeps.self
    | with_reducible assumption
    | with_reducible apply Keeps.step (SideState.recordDone_keeps _ _)
    | with_reducible apply Keeps.foldl
    | exact rfl
    | with_reducible apply Keeps.parts
    | (refine fun (p : Part) hp => ?_; cases p <;> first | exact absurd hp (by decide) | simp only [SideState.sameIn])
    | intro _ _ _

theorem SideState.keysAtBoundary_keeps (s : SideState) : Keeps (some [0x1F]) [.nvm] s (SideState.keysAtBoundary s) := by
  unfold SideState.keysAtBoundary
  try dsimp only
  repeat' first
    | with_reducible apply Keeps.self
    | with_reducible assumption
    | with_reducible apply Keeps.ite
    | with_reducible apply Keeps.set
    | with_reducible apply Keeps.foldl
    | exact rfl
    | with_reducible apply Keeps.parts
    | (refine fun (p : Part) hp => ?_; cases p <;> first | exact absurd hp (by decide) | simp only [SideState.sameIn])

end Sys2Proof.Machine
end

