-- ==== Sys2Proof/Laws/Beat.lean ====
section
/-! SUPPORT. What each operation of Machine/Beat.lean keeps. -/

set_option Elab.async false

namespace Sys2Proof.Machine

theorem SideState.moveCurtain_keeps (s : SideState) (c j : Nat) : Keeps (some [0x0B]) [.pipe, .watch, .twin] s (SideState.moveCurtain s c j) := by
  unfold SideState.moveCurtain
  try dsimp only
  repeat' first
    | with_reducible apply Keeps.self
    | with_reducible assumption
    | with_reducible apply Keeps.step (SideState.setTrk_keeps _ _ _)
    | with_reducible apply Keeps.foldl
    | exact rfl
    | with_reducible apply Keeps.parts
    | (refine fun (p : Part) hp => ?_; cases p <;> first | exact absurd hp (by decide) | simp only [SideState.sameIn])
    | intro _ _ _

theorem SideState.skipBeats_keeps (s : SideState) (first last : Nat) : Keeps (some [0x03, 0x05, 0x06, 0x08, 0x09, 0x0B, 0x0C, 0x10, 0x14, 0x18, 0x19, 0x1A, 0x1B, 0x1C, 0x20, 0x21, 0x22, 0x23, 0x24, 0x25, 0x26, 0x27, 0x28, 0x29]) [.mem, .ecc, .drive, .scene, .pipe, .watch, .twin, .net, .fault, .perf] s (SideState.skipBeats s first last) := by
  unfold SideState.skipBeats
  try dsimp only
  repeat' first
    | with_reducible apply Keeps.self
    | with_reducible assumption
    | with_reducible apply Keeps.ite
    | with_reducible apply Keeps.bump
    | with_reducible apply Keeps.step (SideState.endCue_keeps _ _ _ _)
    | with_reducible apply Keeps.step (SideState.groupEvt_keeps _ _)
    | with_reducible apply Keeps.step (SideState.moveCurtain_keeps _ _ _)
    | with_reducible apply Keeps.foldl
    | exact rfl
    | exact onPages_driveGroup rfl (by decide) (by decide)
    | split
    | with_reducible apply Keeps.parts
    | (refine fun (p : Part) hp => ?_; cases p <;> first | exact absurd hp (by decide) | simp only [SideState.sameIn])
    | intro _ _ _

theorem SideState.realign_keeps (s : SideState) (next : Nat) : Keeps (some [0x03, 0x05, 0x06, 0x08, 0x09, 0x0B, 0x0C, 0x10, 0x14, 0x18, 0x19, 0x1A, 0x1B, 0x1C, 0x1E, 0x20, 0x21, 0x22, 0x23, 0x24, 0x25, 0x26, 0x27, 0x28, 0x29]) [.mem, .ecc, .clock, .drive, .scene, .pipe, .watch, .twin, .net, .time, .fault, .perf] s (SideState.realign s next) := by
  unfold SideState.realign
  try dsimp only
  repeat' first
    | with_reducible apply Keeps.self
    | with_reducible assumption
    | with_reducible apply Keeps.ite
    | with_reducible apply Keeps.set
    | with_reducible apply Keeps.bump
    | with_reducible apply Keeps.evt
    | with_reducible apply Keeps.step (SideState.raise_keeps _ _)
    | with_reducible apply Keeps.step (SideState.skipBeats_keeps _ _ _)
    | with_reducible apply Keeps.step (SideState.voidBlock_keeps _)
    | exact rfl
    | with_reducible apply Keeps.parts
    | (refine fun (p : Part) hp => ?_; cases p <;> first | exact absurd hp (by decide) | simp only [SideState.sameIn])

theorem SideState.openBeat_keeps (s : SideState) : Keeps (some [0x03, 0x05, 0x06, 0x08, 0x09, 0x0B, 0x0C, 0x10, 0x14, 0x18, 0x19, 0x1A, 0x1B, 0x1C, 0x1E, 0x20, 0x21, 0x22, 0x23, 0x24, 0x25, 0x26, 0x27, 0x28, 0x29]) [.mem, .ecc, .clock, .off, .drive, .scene, .pipe, .watch, .twin, .net, .time, .fault, .perf] s (SideState.openBeat s) := by
  unfold SideState.openBeat
  try dsimp only
  repeat' first
    | with_reducible apply Keeps.self
    | with_reducible assumption
    | with_reducible apply Keeps.ite
    | with_reducible apply Keeps.step (SideState.advanceClock_keeps _)
    | with_reducible apply Keeps.step (SideState.realign_keeps _ _)
    | with_reducible apply Keeps.step (SideState.watchRate_keeps _)
    | with_reducible apply Keeps.step (SideState.showPhase_keeps _)
    | with_reducible apply Keeps.step (SideState.count_keeps _ _ _)
    | exact rfl
    | with_reducible apply Keeps.parts
    | (refine fun (p : Part) hp => ?_; cases p <;> first | exact absurd hp (by decide) | simp only [SideState.sameIn])

theorem SideState.entryLost_keeps (s : SideState) (l : Nat) : Keeps (some [0x03, 0x05, 0x06, 0x08, 0x09, 0x0D, 0x10, 0x14, 0x17, 0x30, 0x31]) [.mem, .ecc, .drive, .loops, .scene, .twin, .fault, .perf] s (SideState.entryLost s l) := by
  unfold SideState.entryLost
  try dsimp only
  repeat' first
    | with_reducible apply Keeps.self
    | with_reducible assumption
    | with_reducible apply Keeps.ite
    | with_reducible apply Keeps.step (SideState.toOwn_keeps _ _ _)
    | with_reducible apply Keeps.step (SideState.waitSample_keeps _ _)
    | with_reducible apply Keeps.step (SideState.stall_keeps _ _)
    | exact rfl
    | split
    | with_reducible apply Keeps.parts
    | (refine fun (p : Part) hp => ?_; cases p <;> first | exact absurd hp (by decide) | simp only [SideState.sameIn])

theorem SideState.entriesLost_keeps (s : SideState) : Keeps (some [0x03, 0x05, 0x06, 0x08, 0x09, 0x0D, 0x10, 0x14, 0x17, 0x30, 0x31]) [.mem, .ecc, .drive, .loops, .scene, .twin, .fault, .perf] s (SideState.entriesLost s) := by
  unfold SideState.entriesLost
  try dsimp only
  repeat' first
    | with_reducible apply Keeps.self
    | with_reducible assumption
    | with_reducible apply Keeps.step (SideState.entryLost_keeps _ _)
    | with_reducible apply Keeps.foldl
    | exact rfl
    | with_reducible apply Keeps.parts
    | (refine fun (p : Part) hp => ?_; cases p <;> first | exact absurd hp (by decide) | simp only [SideState.sameIn])
    | intro _ _ _

theorem SideState.enFollows_keeps (s : SideState) (l : Nat) (was : Bool) : Keeps (some [0x06, 0x0E, 0x17, 0x30, 0x31]) [.mem, .ecc, .drive, .mon, .loops, .scene, .cal, .twin, .perf] s (SideState.enFollows s l was) := by
  unfold SideState.enFollows
  try dsimp only
  repeat' first
    | with_reducible apply Keeps.self
    | with_reducible assumption
    | with_reducible apply Keeps.ite
    | with_reducible apply Keeps.step (SideState.loopEnabled_keeps _ _)
    | with_reducible apply Keeps.step (SideState.abortRun_keeps _ _ _)
    | with_reducible apply Keeps.step (SideState.loopDisabled_keeps _ _)
    | with_reducible apply Keeps.foldl
    | exact rfl
    | split
    | intro _ _ _

theorem SideState.applyHostWrite_keeps (s : SideState) (w : TableWrite) : Keeps (some [0x06, 0x0E, 0x16, 0x17, 0x30, 0x31]) [.mem, .ecc, .hostWrites, .drive, .mon, .loops, .scene, .cal, .twin, .perf] s (SideState.applyHostWrite s w) := by
  unfold SideState.applyHostWrite
  try dsimp only
  repeat' first
    | with_reducible apply Keeps.self
    | with_reducible assumption
    | with_reducible apply Keeps.ite
    | with_reducible apply Keeps.evt
    | with_reducible apply Keeps.step (SideState.wr_keeps _ _ _ _)
    | with_reducible apply Keeps.step (SideState.emitMem_keeps _ _ _)
    | with_reducible apply Keeps.step (SideState.enFollows_keeps _ _ _)
    | exact rfl
    | with_reducible apply Keeps.parts
    | (refine fun (p : Part) hp => ?_; cases p <;> first | exact absurd hp (by decide) | simp only [SideState.sameIn])

theorem SideState.applyHostWrites_keeps (s : SideState) : Keeps (some [0x06, 0x0E, 0x16, 0x17, 0x30, 0x31]) [.mem, .ecc, .hostWrites, .drive, .mon, .loops, .scene, .cal, .twin, .perf] s (SideState.applyHostWrites s) := by
  unfold SideState.applyHostWrites
  try dsimp only
  repeat' first
    | with_reducible apply Keeps.self
    | with_reducible assumption
    | with_reducible apply Keeps.step (SideState.applyHostWrite_keeps _ _)
    | with_reducible apply Keeps.foldl
    | exact rfl
    | with_reducible apply Keeps.parts
    | (refine fun (p : Part) hp => ?_; cases p <;> first | exact absurd hp (by decide) | simp only [SideState.sameIn])
    | intro _ _ _

theorem SideState.loopsReopen_keeps (s : SideState) : Keeps (some [0x06, 0x16, 0x17, 0x30, 0x31]) [.mem, .ecc, .drive, .loops, .twin, .perf, .free] s (SideState.loopsReopen s) := by
  unfold SideState.loopsReopen
  try dsimp only
  repeat' first
    | with_reducible apply Keeps.self
    | with_reducible assumption
    | with_reducible apply Keeps.ite
    | with_reducible apply Keeps.set
    | with_reducible apply Keeps.step (SideState.toLoop_keeps _ _)
    | with_reducible apply Keeps.foldl
    | exact rfl
    | split
    | with_reducible apply Keeps.parts
    | (refine fun (p : Part) hp => ?_; cases p <;> first | exact absurd hp (by decide) | simp only [SideState.sameIn])
    | intro _ _ _

theorem SideState.aliveToggle_keeps (s : SideState) : Keeps (some [0x09]) [.watch] s (SideState.aliveToggle s) := by
  unfold SideState.aliveToggle
  try dsimp only
  repeat' first
    | with_reducible apply Keeps.self
    | with_reducible assumption
    | with_reducible apply Keeps.ite
    | with_reducible apply Keeps.setB
    | exact rfl
    | with_reducible apply Keeps.parts
    | (refine fun (p : Part) hp => ?_; cases p <;> first | exact absurd hp (by decide) | simp only [SideState.sameIn])

theorem SideState.intermissionBoundary_keeps (s : SideState) : Keeps (some [0x04, 0x06, 0x08, 0x14, 0x16, 0x17, 0x2A, 0x2B, 0x2C, 0x2D, 0x2E, 0x2F, 0x30, 0x31]) [.drive, .mon, .loops, .watch, .twin, .therm, .perf] s (SideState.intermissionBoundary s) := by
  unfold SideState.intermissionBoundary
  try dsimp only
  repeat' first
    | with_reducible apply Keeps.self
    | with_reducible assumption
    | with_reducible apply Keeps.ite
    | with_reducible apply Keeps.set
    | with_reducible apply Keeps.step (SideState.startWake_keeps _)
    | with_reducible apply Keeps.step (SideState.voidBlock_keeps _)
    | with_reducible apply Keeps.step (SideState.enterIntermission_keeps _)
    | exact rfl

theorem SideState.boundaryFirst_keeps (s : SideState) : Keeps none [.mem, .ecc, .clock, .off, .drive, .loops, .scene, .pipe, .cal, .watch, .twin, .net, .time, .fault, .perf] s (SideState.boundaryFirst s) := by
  unfold SideState.boundaryFirst
  try dsimp only
  repeat' first
    | with_reducible apply Keeps.self
    | with_reducible assumption
    | with_reducible apply Keeps.step (SideState.ageWindows_keeps _)
    | with_reducible apply Keeps.step (SideState.openBeat_keeps _)
    | with_reducible apply Keeps.step (SideState.endMajor_keeps _)
    | with_reducible apply Keeps.step (SideState.classMapInForce_keeps _)
    | with_reducible apply Keeps.step (SideState.agePairs_keeps _)
    | with_reducible apply Keeps.step (SideState.applyCopy_keeps _)
    | exact rfl

theorem SideState.boundaryEngines_keeps (s : SideState) : Keeps (some [0x03, 0x05, 0x06, 0x08, 0x09, 0x0B, 0x0C, 0x0D, 0x0E, 0x0F, 0x10, 0x11, 0x12, 0x14, 0x15, 0x16, 0x17, 0x18, 0x19, 0x1A, 0x1B, 0x1C, 0x20, 0x21, 0x22, 0x23, 0x24, 0x25, 0x26, 0x27, 0x28, 0x29, 0x2A, 0x2B, 0x2C, 0x2D, 0x2E, 0x2F, 0x30, 0x31]) [.mem, .ecc, .hostWrites, .drive, .mon, .loops, .scene, .pipe, .cal, .watch, .twin, .net, .fault, .perf, .free] s (SideState.boundaryEngines s) := by
  unfold SideState.boundaryEngines
  try dsimp only
  repeat' first
    | with_reducible apply Keeps.self
    | with_reducible assumption
    | with_reducible apply Keeps.ite
    | with_reducible apply Keeps.step (SideState.pilotBoundary_keeps _)
    | with_reducible apply Keeps.step (SideState.entriesLost_keeps _)
    | with_reducible apply Keeps.step (SideState.tonePhases_keeps _)
    | with_reducible apply Keeps.step (SideState.schemesInForce_keeps _)
    | with_reducible apply Keeps.step (SideState.tonesAtBoundary_keeps _)
    | with_reducible apply Keeps.step (SideState.parkInForce_keeps _)
    | with_reducible apply Keeps.step (SideState.rangeStep_keeps _)
    | with_reducible apply Keeps.step (SideState.sceneBoundary_keeps _)
    | with_reducible apply Keeps.step (SideState.sceneAtBoundary_keeps _)
    | with_reducible apply Keeps.step (SideState.applyStaged_keeps _)
    | with_reducible apply Keeps.step (SideState.calAtBoundary_keeps _)
    | with_reducible apply Keeps.step (SideState.overridesAtBoundary_keeps _)
    | with_reducible apply Keeps.step (SideState.tunesAtBoundary_keeps _)
    | with_reducible apply Keeps.step (SideState.applyHostWrites_keeps _)
    | with_reducible apply Keeps.step (SideState.waitsEnd_keeps _)
    | with_reducible apply Keeps.step (SideState.loopsReopen_keeps _)
    | with_reducible apply Keeps.step (SideState.monitorsAtBoundary_keeps _)
    | with_reducible apply Keeps.step (SideState.degradedAtBoundary_keeps _ _)
    | exact rfl

theorem SideState.updateLost_keeps (s : SideState) : Keeps none [.pairs, .mem, .ecc, .hostWrites, .readBack, .clock, .off, .drive, .mon, .loops, .scene, .pipe, .cal, .watch, .twin, .net, .time, .fault, .lines, .therm, .perf, .nvm, .power, .rigImage, .tap] s (SideState.updateLost s) := by
  unfold SideState.updateLost
  try dsimp only
  repeat' first
    | with_reducible apply Keeps.self
    | with_reducible assumption
    | with_reducible apply Keeps.ite
    | with_reducible apply Keeps.step (SideState.loseUpdate_keeps _)
    | with_reducible apply Keeps.step (SideState.restart_keeps _ _)
    | exact rfl

theorem SideState.boundaryRest_keeps (s : SideState) (peerRequest bothOpen : Bool) : Keeps none [.pairs, .mem, .ecc, .hostWrites, .readBack, .clock, .off, .drive, .mon, .loops, .scene, .pipe, .cal, .watch, .twin, .net, .time, .fault, .lines, .therm, .perf, .nvm, .power, .rigImage, .free, .tap] s (SideState.boundaryRest s peerRequest bothOpen) := by
  unfold SideState.boundaryRest
  try dsimp only
  repeat' first
    | with_reducible apply Keeps.self
    | with_reducible assumption
    | with_reducible apply Keeps.ite
    | with_reducible apply Keeps.step (SideState.unfenceAtBoundary_keeps _ _)
    | with_reducible apply Keeps.step (SideState.padsAtBoundary_keeps _ _)
    | with_reducible apply Keeps.step (SideState.warmUp_keeps _)
    | with_reducible apply Keeps.step (SideState.showFit_keeps _)
    | with_reducible apply Keeps.step (SideState.makeReport_keeps _)
    | with_reducible apply Keeps.step (SideState.countSlot_keeps _)
    | with_reducible apply Keeps.step (SideState.keysAtBoundary_keeps _)
    | with_reducible apply Keeps.step (SideState.shutdownBoundary_keeps _)
    | with_reducible apply Keeps.step (SideState.intermissionBoundary_keeps _)
    | with_reducible apply Keeps.step (SideState.boundaryEngines_keeps _)
    | with_reducible apply Keeps.step (SideState.aliveToggle_keeps _)
    | with_reducible apply Keeps.step (SideState.isumCheck_keeps _)
    | with_reducible apply Keeps.step (SideState.scanPins_keeps _)
    | with_reducible apply Keeps.step (SideState.reloadRig_keeps _)
    | with_reducible apply Keeps.step (SideState.calRecordStart_keeps _ _)
    | with_reducible apply Keeps.step (SideState.updateLost_keeps _)
    | with_reducible apply Keeps.step (SideState.reportDrops_keeps _)
    | exact rfl

theorem SideState.tapAtBoundary_keeps (s : SideState) : Keeps (some []) [.tap] s (SideState.tapAtBoundary s) := by
  unfold SideState.tapAtBoundary
  try dsimp only
  repeat' first
    | with_reducible apply Keeps.self
    | with_reducible assumption
    | exact rfl
    | with_reducible apply Keeps.parts
    | (refine fun (p : Part) hp => ?_; cases p <;> first | exact absurd hp (by decide) | simp only [SideState.sameIn])

theorem SideState.holdUpEnds_keeps (s : SideState) : Keeps (some []) [.power] s (SideState.holdUpEnds s) := by
  unfold SideState.holdUpEnds
  try dsimp only
  repeat' first
    | with_reducible apply Keeps.self
    | with_reducible assumption
    | with_reducible apply Keeps.ite
    | exact rfl
    | with_reducible apply Keeps.parts
    | (refine fun (p : Part) hp => ?_; cases p <;> first | exact absurd hp (by decide) | simp only [SideState.sameIn])

theorem SideState.overrun_keeps (s : SideState) (f : Fld) : Keeps none [.twin, .fault, .perf] s (SideState.overrun s f) := by
  unfold SideState.overrun
  try dsimp only
  repeat' first
    | with_reducible apply Keeps.self
    | with_reducible assumption
    | with_reducible apply Keeps.bump
    | with_reducible apply Keeps.evt
    | with_reducible apply Keeps.step (SideState.raise_keeps _ _)
    | exact rfl

theorem SideState.checkMissed_keeps (s : SideState) (w : WaitingCue) : Keeps (some [0x03, 0x05, 0x06, 0x08, 0x09, 0x0A, 0x0B, 0x0C, 0x10, 0x14, 0x18, 0x19, 0x1A, 0x1B, 0x1C]) [.mem, .ecc, .scene, .pipe, .twin, .net, .fault, .perf] s (SideState.checkMissed s w) := by
  unfold SideState.checkMissed
  try dsimp only
  repeat' first
    | with_reducible apply Keeps.self
    | with_reducible assumption
    | with_reducible apply Keeps.ite
    | with_reducible apply Keeps.step (SideState.mailboxTaken_keeps _ _ _)
    | with_reducible apply Keeps.step (SideState.replyWithout_keeps _ _ _)
    | with_reducible apply Keeps.step (SideState.count_keeps _ _ _)
    | with_reducible apply Keeps.step (SideState.setTrk_keeps _ _ _)
    | with_reducible apply Keeps.step (SideState.closeCue_keeps _ _ _ _)
    | exact rfl
    | split

theorem SideState.checkOverrun_keeps (s : SideState) (w : WaitingCue) : Keeps none [.mem, .ecc, .scene, .pipe, .twin, .net, .fault, .perf] s (SideState.checkOverrun s w) := by
  unfold SideState.checkOverrun
  try dsimp only
  repeat' first
    | with_reducible apply Keeps.self
    | with_reducible assumption
    | with_reducible apply Keeps.ite
    | with_reducible apply Keeps.step (SideState.overrun_keeps _ _)
    | with_reducible apply Keeps.step (SideState.checkMissed_keeps _ _)
    | exact rfl
    | with_reducible apply Keeps.parts
    | (refine fun (p : Part) hp => ?_; cases p <;> first | exact absurd hp (by decide) | simp only [SideState.sameIn])

theorem SideState.stageOverrun_keeps (s : SideState) (e : Nat) : Keeps none [.mem, .ecc, .scene, .pipe, .watch, .twin, .net, .fault, .perf] s (SideState.stageOverrun s e) := by
  unfold SideState.stageOverrun
  try dsimp only
  repeat' first
    | with_reducible apply Keeps.self
    | with_reducible assumption
    | with_reducible apply Keeps.ite
    | with_reducible apply Keeps.step (SideState.engineAbort_keeps _ _)
    | with_reducible apply Keeps.step (SideState.overrun_keeps _ _)
    | with_reducible apply Keeps.step (SideState.endCue_keeps _ _ _ _)
    | with_reducible apply Keeps.step (SideState.setTrk_keeps _ _ _)
    | exact rfl

theorem SideState.cutoffEntry_keeps (s : SideState) (e : Nat) : Keeps none [.mem, .ecc, .scene, .pipe, .watch, .twin, .net, .fault, .perf] s (SideState.cutoffEntry s e) := by
  unfold SideState.cutoffEntry
  try dsimp only
  repeat' first
    | with_reducible apply Keeps.self
    | with_reducible assumption
    | with_reducible apply Keeps.ite
    | with_reducible apply Keeps.step (SideState.stageOverrun_keeps _ _)
    | with_reducible apply Keeps.step (SideState.endCue_keeps _ _ _ _)
    | with_reducible apply Keeps.step (SideState.overrun_keeps _ _)
    | exact rfl
    | split

theorem SideState.curtainOverrun_keeps (s : SideState) : Keeps none [.watch, .twin, .fault, .perf] s (SideState.curtainOverrun s) := by
  unfold SideState.curtainOverrun
  try dsimp only
  repeat' first
    | with_reducible apply Keeps.self
    | with_reducible assumption
    | with_reducible apply Keeps.ite
    | with_reducible apply Keeps.step (SideState.overrun_keeps _ _)
    | exact rfl
    | with_reducible apply Keeps.parts
    | (refine fun (p : Part) hp => ?_; cases p <;> first | exact absurd hp (by decide) | simp only [SideState.sameIn])

theorem SideState.pipelineCutoff_keeps (s : SideState) : Keeps none [.mem, .ecc, .scene, .pipe, .watch, .twin, .net, .fault, .perf] s (SideState.pipelineCutoff s) := by
  unfold SideState.pipelineCutoff
  try dsimp only
  repeat' first
    | with_reducible apply Keeps.self
    | with_reducible assumption
    | with_reducible apply Keeps.step (SideState.checkOverrun_keeps _ _)
    | with_reducible apply Keeps.step (SideState.cutoffEntry_keeps _ _)
    | with_reducible apply Keeps.step (SideState.curtainOverrun_keeps _)
    | with_reducible apply Keeps.foldl
    | exact rfl
    | intro _ _ _

end Sys2Proof.Machine
end

