-- ==== Sys2Proof/Laws/Memory.lean ====
section
/-! SUPPORT. The memory of a side and of the tile: a write is read back, leaves every other byte, and keeps the canonical
form. -/

set_option Elab.async false

namespace Sys2Proof.Machine

@[simp] theorem SideState.rd8_wr8_self (s : SideState) (a : Nat) (b : Byte) : (s.wr8 a b).rd8 a = b :=
  Store.read_write_self _ _ _ _

theorem SideState.rd8_wr8_ne (s : SideState) (a c : Nat) (b : Byte) (h : c ≠ a) : (s.wr8 a b).rd8 c = s.rd8 c :=
  Store.read_write_ne _ _ _ _ _ h

/-- Bytes outside the written ones read as before. -/
theorem SideState.rd8_wrBytes_out (s : SideState) (a c : Nat) (l : List Byte) (h : c < a ∨ a + l.length ≤ c) :
    (s.wrBytes a l).rd8 c = s.rd8 c := by
  induction l generalizing s a with
  | nil => rfl
  | cons b t ih =>
    rw [SideState.wrBytes, ih _ _ (by rw [List.length_cons] at h; omega)]
    exact s.rd8_wr8_ne a c b (by rw [List.length_cons] at h; omega)

/-- The written bytes are read back. -/
theorem SideState.rd8_wrBytes (s : SideState) (a i : Nat) (l : List Byte) (h : i < l.length) :
    (s.wrBytes a l).rd8 (a + i) = l[i] := by
  induction l generalizing s a i with
  | nil => exact absurd h (Nat.not_lt_zero _)
  | cons b t ih =>
    cases i with
    | zero =>
      have : ((s.wr8 a b).wrBytes (a + 1) t).rd8 a = b := by
        rw [SideState.rd8_wrBytes_out _ _ _ _ (Or.inl (Nat.lt_succ_self a)), SideState.rd8_wr8_self]
      exact this
    | succ i =>
      have hi : i < t.length := by rw [List.length_cons] at h; omega
      rw [SideState.wrBytes, show a + (i + 1) = a + 1 + i by omega, ih _ _ _ hi]
      rfl

theorem SideState.rdBytes_wrBytes (s : SideState) (a : Nat) (l : List Byte) : (s.wrBytes a l).rdBytes a l.length = l := by
  apply List.ext_getElem
  · simp [SideState.rdBytes]
  · intro i h1 h2
    simp only [SideState.rdBytes, List.getElem_map, List.getElem_range]
    exact s.rd8_wrBytes a i l h2

/-! ### The canonical form -/

theorem SideState.wr8_canonical (s : SideState) (a : Nat) (b : Byte) (h : s.canonical = true) : (s.wr8 a b).canonical = true :=
  (s.wr8_keeps a b).canon h

theorem SideState.wrBytes_canonical (s : SideState) (a : Nat) (l : List Byte) (h : s.canonical = true) :
    (s.wrBytes a l).canonical = true := (s.wrBytes_keeps a l).canon h

theorem SideState.set_canonical (s : SideState) (f : Fld) (v : Nat) (h : s.canonical = true) : (s.set f v).canonical = true :=
  (s.set_keeps f v).canon h

theorem tileWith_wf (tile : List Host.Cell) (img : List Byte) (h : Store.wf (fun _ => 0xFF) tile = true) :
    Store.wf (fun _ => 0xFF) (tileWith tile img) = true := by
  unfold tileWith
  generalize (img.take 0xFF00).zipIdx = l
  induction l generalizing tile with
  | nil => exact h
  | cons p t ih => exact ih _ (Store.wf_write _ _ _ _ h)

theorem State.reset_canonical : State.reset.canonical = true := by decide

end Sys2Proof.Machine
end

