-- ==== Sys2Proof/Laws/PerInstr.lean ====
section
/-! SUPPORT. One lemma per command for the family Readdress: sending a command to the other side changes nothing about its
being well formed. -/

set_option Elab.async false

namespace Sys2Proof.Laws.Readdress

/-- Sent to either side a command is as well formed as it was, and it happens on the side it is sent to. -/
def Statement (i : Instr) : Prop :=
  ∀ sd, (i.toSide sd).wf = i.wf ∧ ((i.toSide sd).side = some sd ∨ (i.side = none ∧ i.toSide sd = i))

theorem beatBoundary (sd : Side) : Statement (.beatBoundary sd) := fun _ => ⟨rfl, Or.inl rfl⟩
theorem loopWindow (sd : Side) (capacity : Nat) : Statement (.loopWindow sd capacity) := fun _ => ⟨rfl, Or.inl rfl⟩
theorem sceneWindow (sd : Side) (heartbeat : Bool) : Statement (.sceneWindow sd heartbeat) := fun _ => ⟨rfl, Or.inl rfl⟩
theorem armingCutoff (sd : Side) (selfTestOk : Bool) : Statement (.armingCutoff sd selfTestOk) := fun _ => ⟨rfl, Or.inl rfl⟩
theorem commitMarker (sd : Side) : Statement (.commitMarker sd) := fun _ => ⟨rfl, Or.inl rfl⟩
theorem heartbeatJudge (sd : Side) : Statement (.heartbeatJudge sd) := fun _ => ⟨rfl, Or.inl rfl⟩
theorem cueFrame (sd : Side) (off : Nat) (port : Nat) (vid : Nat) (src : Nat) (payload : List Byte) : Statement (.cueFrame sd off port vid src payload) := fun _ => ⟨rfl, Or.inl rfl⟩
theorem fragmentTimeout (sd : Side) (assembly : Nat) : Statement (.fragmentTimeout sd assembly) := fun _ => ⟨rfl, Or.inl rfl⟩
theorem cueCheck (sd : Side) : Statement (.cueCheck sd) := fun _ => ⟨rfl, Or.inl rfl⟩
theorem solve (sd : Side) : Statement (.solve sd) := fun _ => ⟨rfl, Or.inl rfl⟩
theorem solveDone (sd : Side) (memoryFault : Bool) : Statement (.solveDone sd memoryFault) := fun _ => ⟨rfl, Or.inl rfl⟩
theorem solveBudget (sd : Side) : Statement (.solveBudget sd) := fun _ => ⟨rfl, Or.inl rfl⟩
theorem rehearsalWaitExpiry (sd : Side) (entry : Nat) : Statement (.rehearsalWaitExpiry sd entry) := fun _ => ⟨rfl, Or.inl rfl⟩
theorem curtainSolve (sd : Side) (memoryFault : Bool) : Statement (.curtainSolve sd memoryFault) := fun _ => ⟨rfl, Or.inl rfl⟩
theorem trace (sd : Side) (entry : Nat) : Statement (.trace sd entry) := fun _ => ⟨rfl, Or.inl rfl⟩
theorem arm (sd : Side) (entry : Nat) : Statement (.arm sd entry) := fun _ => ⟨rfl, Or.inl rfl⟩
theorem curtainArm (sd : Side) : Statement (.curtainArm sd) := fun _ => ⟨rfl, Or.inl rfl⟩
theorem blankStart (sd : Side) (out : Nat) : Statement (.blankStart sd out) := fun _ => ⟨rfl, Or.inl rfl⟩
theorem blankEnd (sd : Side) (out : Nat) : Statement (.blankEnd sd out) := fun _ => ⟨rfl, Or.inl rfl⟩
theorem handoverStall (sd : Side) (cell : Nat) : Statement (.handoverStall sd cell) := fun _ => ⟨rfl, Or.inl rfl⟩
theorem scAbort (sd : Side) (m : Master) (v : Word) : Statement (.scAbort sd m v) := fun _ => ⟨rfl, Or.inl rfl⟩
theorem swCurtainReq (sd : Side) (m : Master) (v : Word) : Statement (.swCurtainReq sd m v) := fun _ => ⟨rfl, Or.inl rfl⟩
theorem curtainNAssert : Statement (.curtainNAssert) := fun _ => ⟨rfl, Or.inr ⟨rfl, rfl⟩⟩
theorem tDegExpiry (sd : Side) : Statement (.tDegExpiry sd) := fun _ => ⟨rfl, Or.inl rfl⟩
theorem curtainRelease (sd : Side) (m : Master) (w : PairWrite) : Statement (.curtainRelease sd m w) := fun _ => ⟨rfl, Or.inl rfl⟩
theorem degradedRelease (sd : Side) (m : Master) (w : PairWrite) (k1Ok : Bool) (k2Ok : Bool) : Statement (.degradedRelease sd m w k1Ok k2Ok) := fun _ => ⟨rfl, Or.inl rfl⟩
theorem policyCommit (sd : Side) (m : Master) (w : PairWrite) : Statement (.policyCommit sd m w) := fun _ => ⟨rfl, Or.inl rfl⟩
theorem policyInForce (sd : Side) : Statement (.policyInForce sd) := fun _ => ⟨rfl, Or.inl rfl⟩
theorem k1Selftest (sd : Side) (ok : Bool) : Statement (.k1Selftest sd ok) := fun _ => ⟨rfl, Or.inl rfl⟩
theorem pilotBlockEnd (sd : Side) : Statement (.pilotBlockEnd sd) := fun _ => ⟨rfl, Or.inl rfl⟩
theorem slotEnd (sd : Side) (conv : Nat) (slot : Nat) (raw : Option Nat) (overload : Bool) : Statement (.slotEnd sd conv slot raw overload) := fun _ => ⟨rfl, Or.inl rfl⟩
theorem bankSwitch (sd : Side) : Statement (.bankSwitch sd) := fun _ => ⟨rfl, Or.inl rfl⟩
theorem slotMapSelect (sd : Side) (m : Master) (v : Word) : Statement (.slotMapSelect sd m v) := fun _ => ⟨rfl, Or.inl rfl⟩
theorem slotMapCommit (sd : Side) (m : Master) (v : Word) : Statement (.slotMapCommit sd m v) := fun _ => ⟨rfl, Or.inl rfl⟩
theorem channelSet (sd : Side) (m : Master) (v : Word) : Statement (.channelSet sd m v) := fun _ => ⟨rfl, Or.inl rfl⟩
theorem manualWrite (sd : Side) (m : Master) (v : Word) : Statement (.manualWrite sd m v) := fun _ => ⟨rfl, Or.inl rfl⟩
theorem timerArm (sd : Side) (m : Master) (group : Nat) (v : Word) : Statement (.timerArm sd m group v) := fun _ => ⟨rfl, Or.inl rfl⟩
theorem timerFire (sd : Side) (dout : Nat) : Statement (.timerFire sd dout) := fun _ => ⟨rfl, Or.inl rfl⟩
theorem fifoWrite (sd : Side) (m : Master) (group : Nat) (v : Word) : Statement (.fifoWrite sd m group v) := fun _ => ⟨rfl, Or.inl rfl⟩
theorem queueTick (sd : Side) (group : Nat) : Statement (.queueTick sd group) := fun _ => ⟨rfl, Or.inl rfl⟩
theorem schemeChange (sd : Side) (m : Master) (group : Nat) (v : Word) : Statement (.schemeChange sd m group v) := fun _ => ⟨rfl, Or.inl rfl⟩
theorem parkCommit (sd : Side) (m : Master) (w : PairWrite) : Statement (.parkCommit sd m w) := fun _ => ⟨rfl, Or.inl rfl⟩
theorem parkApply (sd : Side) : Statement (.parkApply sd) := fun _ => ⟨rfl, Or.inl rfl⟩
theorem rangeChange (sd : Side) (m : Master) (v : Word) : Statement (.rangeChange sd m v) := fun _ => ⟨rfl, Or.inl rfl⟩
theorem complianceLoss (sd : Side) (dout : Nat) : Statement (.complianceLoss sd dout) := fun _ => ⟨rfl, Or.inl rfl⟩
theorem rmeasStart (sd : Side) (m : Master) (v : Word) : Statement (.rmeasStart sd m v) := fun _ => ⟨rfl, Or.inl rfl⟩
theorem rmeasDone (sd : Side) (readings : List (Nat × Nat)) : Statement (.rmeasDone sd readings) := fun _ => ⟨rfl, Or.inl rfl⟩
theorem toneCommit (sd : Side) (m : Master) (v : Word) : Statement (.toneCommit sd m v) := fun _ => ⟨rfl, Or.inl rfl⟩
theorem overrideTake (sd : Side) (m : Master) (v : Word) : Statement (.overrideTake sd m v) := fun _ => ⟨rfl, Or.inl rfl⟩
theorem overrideRelease (sd : Side) (m : Master) (v : Word) : Statement (.overrideRelease sd m v) := fun _ => ⟨rfl, Or.inl rfl⟩
theorem autotuneStart (sd : Side) (m : Master) (v : Word) : Statement (.autotuneStart sd m v) := fun _ => ⟨rfl, Or.inl rfl⟩
theorem autotuneTimeout (sd : Side) (loop : Nat) : Statement (.autotuneTimeout sd loop) := fun _ => ⟨rfl, Or.inl rfl⟩
theorem handoverRetry (sd : Side) (m : Master) (v : Word) : Statement (.handoverRetry sd m v) := fun _ => ⟨rfl, Or.inl rfl⟩
theorem missRelease (sd : Side) (m : Master) (v : Word) : Statement (.missRelease sd m v) := fun _ => ⟨rfl, Or.inl rfl⟩
theorem calReqTrim (sd : Side) (m : Master) (v : Word) : Statement (.calReqTrim sd m v) := fun _ => ⟨rfl, Or.inl rfl⟩
theorem calReqSurvey (sd : Side) (m : Master) (v : Word) : Statement (.calReqSurvey sd m v) := fun _ => ⟨rfl, Or.inl rfl⟩
theorem calReqProbe (sd : Side) (m : Master) (v : Word) : Statement (.calReqProbe sd m v) := fun _ => ⟨rfl, Or.inl rfl⟩
theorem calReqRound (sd : Side) (m : Master) (v : Word) : Statement (.calReqRound sd m v) := fun _ => ⟨rfl, Or.inl rfl⟩
theorem calPeriod (sd : Side) : Statement (.calPeriod sd) := fun _ => ⟨rfl, Or.inl rfl⟩
theorem calRunStart (sd : Side) : Statement (.calRunStart sd) := fun _ => ⟨rfl, Or.inl rfl⟩
theorem calRunEnd (sd : Side) (dout : Nat) : Statement (.calRunEnd sd dout) := fun _ => ⟨rfl, Or.inl rfl⟩
theorem calCommit (sd : Side) : Statement (.calCommit sd) := fun _ => ⟨rfl, Or.inl rfl⟩
theorem calStageExpire (sd : Side) : Statement (.calStageExpire sd) := fun _ => ⟨rfl, Or.inl rfl⟩
theorem ageingRecord (sd : Side) : Statement (.ageingRecord sd) := fun _ => ⟨rfl, Or.inl rfl⟩
theorem rigMapCommit (sd : Side) (m : Master) (w : PairWrite) : Statement (.rigMapCommit sd m w) := fun _ => ⟨rfl, Or.inl rfl⟩
theorem backgroundVerify (sd : Side) : Statement (.backgroundVerify sd) := fun _ => ⟨rfl, Or.inl rfl⟩
theorem tileReadRetry (sd : Side) : Statement (.tileReadRetry sd) := fun _ => ⟨rfl, Or.inl rfl⟩
theorem elementTableWrite (sd : Side) (m : Master) (addr : Nat) (v : Word) : Statement (.elementTableWrite sd m addr v) := fun _ => ⟨rfl, Or.inl rfl⟩
theorem entryRewrite (sd : Side) (addr : Nat) : Statement (.entryRewrite sd addr) := fun _ => ⟨rfl, Or.inl rfl⟩
theorem copyRecord (sd : Side) (bytes : List Byte) : Statement (.copyRecord sd bytes) := fun _ => ⟨rfl, Or.inl rfl⟩
theorem markerReceived (sd : Side) (bytes : List Byte) (crcOk : Bool) : Statement (.markerReceived sd bytes crcOk) := fun _ => ⟨rfl, Or.inl rfl⟩
theorem peerPulse (sd : Side) (offset : Int) (width : Nat) : Statement (.peerPulse sd offset width) := fun _ => ⟨rfl, Or.inl rfl⟩
theorem resignationPulse (sd : Side) : Statement (.resignationPulse sd) := fun _ => ⟨rfl, Or.inl rfl⟩
theorem takeover (sd : Side) : Statement (.takeover sd) := fun _ => ⟨rfl, Or.inl rfl⟩
theorem fenceSensed (sd : Side) (t10ns : Nat) : Statement (.fenceSensed sd t10ns) := fun _ => ⟨rfl, Or.inl rfl⟩
theorem fenceTimeout (sd : Side) : Statement (.fenceTimeout sd) := fun _ => ⟨rfl, Or.inl rfl⟩
theorem healthReport (sd : Side) (w0 : Word) (w1 : Word) (w2 : Word) (w3 : Word) : Statement (.healthReport sd w0 w1 w2 w3) := fun _ => ⟨rfl, Or.inl rfl⟩
theorem bulkCopyStart (sd : Side) : Statement (.bulkCopyStart sd) := fun _ => ⟨rfl, Or.inl rfl⟩
theorem bulkCopyVerified (sd : Side) : Statement (.bulkCopyVerified sd) := fun _ => ⟨rfl, Or.inl rfl⟩
theorem bulkCopyTimeout (sd : Side) : Statement (.bulkCopyTimeout sd) := fun _ => ⟨rfl, Or.inl rfl⟩
theorem fencePeer (sd : Side) (m : Master) (w : PairWrite) : Statement (.fencePeer sd m w) := fun _ => ⟨rfl, Or.inl rfl⟩
theorem unfenceSelf (sd : Side) (m : Master) (w : PairWrite) : Statement (.unfenceSelf sd m w) := fun _ => ⟨rfl, Or.inl rfl⟩
theorem swapRequest (sd : Side) (m : Master) (w : PairWrite) : Statement (.swapRequest sd m w) := fun _ => ⟨rfl, Or.inl rfl⟩
theorem swapExecute (sd : Side) : Statement (.swapExecute sd) := fun _ => ⟨rfl, Or.inl rfl⟩
theorem firmwareUpdate (sd : Side) (m : Master) (w : PairWrite) : Statement (.firmwareUpdate sd m w) := fun _ => ⟨rfl, Or.inl rfl⟩
theorem updateStepDone (sd : Side) (ok : Bool) : Statement (.updateStepDone sd ok) := fun _ => ⟨rfl, Or.inl rfl⟩
theorem updateTrialEnd (sd : Side) : Statement (.updateTrialEnd sd) := fun _ => ⟨rfl, Or.inl rfl⟩
theorem frameReceived (sd : Side) (off : Nat) (port : Nat) (fcsOk : Bool) (frame : List Byte) : Statement (.frameReceived sd off port fcsOk frame) := fun _ => ⟨rfl, Or.inl rfl⟩
theorem egressStart (sd : Side) (off : Nat) (port : Nat) : Statement (.egressStart sd off port) := fun _ => ⟨rfl, Or.inl rfl⟩
theorem transmitDone (sd : Side) (port : Nat) (eccOk : Bool) : Statement (.transmitDone sd port eccOk) := fun _ => ⟨rfl, Or.inl rfl⟩
theorem linkChange (sd : Side) (port : Nat) (up : Bool) (anDone : Bool) (pcsSync : Bool) (remoteFault : Bool) : Statement (.linkChange sd port up anDone pcsSync remoteFault) := fun _ => ⟨rfl, Or.inl rfl⟩
theorem gateEntry (sd : Side) (port : Nat) (entry : Nat) : Statement (.gateEntry sd port entry) := fun _ => ⟨rfl, Or.inl rfl⟩
theorem callSheetData (sd : Side) (m : Master) (write : Option Word) : Statement (.callSheetData sd m write) := fun _ => ⟨rfl, Or.inl rfl⟩
theorem callSheetChange (sd : Side) (m : Master) (v : Word) : Statement (.callSheetChange sd m v) := fun _ => ⟨rfl, Or.inl rfl⟩
theorem callSheetSwitch (sd : Side) (port : Nat) : Statement (.callSheetSwitch sd port) := fun _ => ⟨rfl, Or.inl rfl⟩
theorem shaperConfig (sd : Side) (m : Master) (burst : Bool) (v : Word) : Statement (.shaperConfig sd m burst v) := fun _ => ⟨rfl, Or.inl rfl⟩
theorem policerEnable (sd : Side) (m : Master) (v : Word) : Statement (.policerEnable sd m v) := fun _ => ⟨rfl, Or.inl rfl⟩
theorem addressAge (sd : Side) (index : Nat) : Statement (.addressAge sd index) := fun _ => ⟨rfl, Or.inl rfl⟩
theorem nodeForget (sd : Side) (index : Nat) : Statement (.nodeForget sd index) := fun _ => ⟨rfl, Or.inl rfl⟩
theorem singlePathDetect (sd : Side) (index : Nat) : Statement (.singlePathDetect sd index) := fun _ => ⟨rfl, Or.inl rfl⟩
theorem supervisionSend (sd : Side) : Statement (.supervisionSend sd) := fun _ => ⟨rfl, Or.inl rfl⟩
theorem syncReceived (sd : Side) (info : SyncInfo) : Statement (.syncReceived sd info) := fun _ => ⟨rfl, Or.inl rfl⟩
theorem announceReceived (sd : Side) (info : AnnounceInfo) : Statement (.announceReceived sd info) := fun _ => ⟨rfl, Or.inl rfl⟩
theorem announceTimeout (sd : Side) : Statement (.announceTimeout sd) := fun _ => ⟨rfl, Or.inl rfl⟩
theorem pdelayResponse (sd : Side) (info : PdelayInfo) : Statement (.pdelayResponse sd info) := fun _ => ⟨rfl, Or.inl rfl⟩
theorem holdoverEntry (sd : Side) : Statement (.holdoverEntry sd) := fun _ => ⟨rfl, Or.inl rfl⟩
theorem ppsInEdge (sd : Side) (off : Nat) : Statement (.ppsInEdge sd off) := fun _ => ⟨rfl, Or.inl rfl⟩
theorem ppsOutEdge (sd : Side) : Statement (.ppsOutEdge sd) := fun _ => ⟨rfl, Or.inl rfl⟩
theorem ppsOutEnd (sd : Side) : Statement (.ppsOutEnd sd) := fun _ => ⟨rfl, Or.inl rfl⟩
theorem clockStep (sd : Side) (m : Master) (w : PairWrite) : Statement (.clockStep sd m w) := fun _ => ⟨rfl, Or.inl rfl⟩
theorem timeSnapshot (sd : Side) (m : Master) (v : Word) : Statement (.timeSnapshot sd m v) := fun _ => ⟨rfl, Or.inl rfl⟩
theorem refclkFail (sd : Side) : Statement (.refclkFail sd) := fun _ => ⟨rfl, Or.inl rfl⟩
theorem rateLimitHeld (sd : Side) : Statement (.rateLimitHeld sd) := fun _ => ⟨rfl, Or.inl rfl⟩
theorem connConfig (sd : Side) (m : Master) (isId : Bool) (v : Word) : Statement (.connConfig sd m isId v) := fun _ => ⟨rfl, Or.inl rfl⟩
theorem expectationExpiry (sd : Side) (conn : Nat) : Statement (.expectationExpiry sd conn) := fun _ => ⟨rfl, Or.inl rfl⟩
theorem keyLoad (sd : Side) (m : Master) (w : PairWrite) : Statement (.keyLoad sd m w) := fun _ => ⟨rfl, Or.inl rfl⟩
theorem keyErase (sd : Side) (m : Master) (w : PairWrite) : Statement (.keyErase sd m w) := fun _ => ⟨rfl, Or.inl rfl⟩
theorem keyDataTimeout (sd : Side) : Statement (.keyDataTimeout sd) := fun _ => ⟨rfl, Or.inl rfl⟩
theorem mailboxCue (sd : Side) (m : Master) (off : Nat) (v : Word) : Statement (.mailboxCue sd m off v) := fun _ => ⟨rfl, Or.inl rfl⟩
theorem faultEvent (sd : Side) (source : Nat) (point : Nat) (check : CheckOutcome) : Statement (.faultEvent sd source point check) := fun _ => ⟨rfl, Or.inl rfl⟩
theorem faultWindowExpiry (sd : Side) (source : Nat) : Statement (.faultWindowExpiry sd source) := fun _ => ⟨rfl, Or.inl rfl⟩
theorem classMapWrite (sd : Side) (m : Master) (w : PairWrite) : Statement (.classMapWrite sd m w) := fun _ => ⟨rfl, Or.inl rfl⟩
theorem majorRelease (sd : Side) (m : Master) (w : PairWrite) : Statement (.majorRelease sd m w) := fun _ => ⟨rfl, Or.inl rfl⟩
theorem injectionArm (sd : Side) (m : Master) (v : Word) : Statement (.injectionArm sd m v) := fun _ => ⟨rfl, Or.inl rfl⟩
theorem injectionTimeout (sd : Side) : Statement (.injectionTimeout sd) := fun _ => ⟨rfl, Or.inl rfl⟩
theorem watchdogExpiry (sd : Side) : Statement (.watchdogExpiry sd) := fun _ => ⟨rfl, Or.inl rfl⟩
theorem housekeepingRound (sd : Side) (readings : List HkReading) : Statement (.housekeepingRound sd readings) := fun _ => ⟨rfl, Or.inl rfl⟩
theorem pendingNvmWrite (sd : Side) : Statement (.pendingNvmWrite sd) := fun _ => ⟨rfl, Or.inl rfl⟩
theorem analogueTrip (sd : Side) : Statement (.analogueTrip sd) := fun _ => ⟨rfl, Or.inl rfl⟩
theorem intermissionEnter (sd : Side) (m : Master) (v : Word) : Statement (.intermissionEnter sd m v) := fun _ => ⟨rfl, Or.inl rfl⟩
theorem intermissionWake (sd : Side) (m : Master) (v : Word) (cause : Nat) : Statement (.intermissionWake sd m v cause) := fun _ => ⟨rfl, Or.inl rfl⟩
theorem wakeStep (sd : Side) : Statement (.wakeStep sd) := fun _ => ⟨rfl, Or.inl rfl⟩
theorem registerWrite (sd : Side) (m : Master) (addr : Nat) (width : Nat) (v : BusData) : Statement (.registerWrite sd m addr width v) := fun _ => ⟨rfl, Or.inl rfl⟩
theorem pairTimeout (sd : Side) (page : Nat) : Statement (.pairTimeout sd page) := fun _ => ⟨rfl, Or.inl rfl⟩
theorem aliasWrite (sd : Side) (m : Master) (kind : AliasKind) (addr : Nat) (v : Word) : Statement (.aliasWrite sd m kind addr v) := fun _ => ⟨rfl, Or.inl rfl⟩
theorem clearingRead (sd : Side) (m : Master) (addr : BusRead) : Statement (.clearingRead sd m addr) := fun _ => ⟨rfl, Or.inl rfl⟩
theorem bar2Write (sd : Side) (offset : Nat) (v : Word) : Statement (.bar2Write sd offset v) := fun _ => ⟨rfl, Or.inl rfl⟩
theorem busAccessError (sd : Side) (m : Master) (addr : Nat) (width : Nat) (write : Bool) (locked : Bool) (burst : Nat) : Statement (.busAccessError sd m addr width write locked burst) := fun _ => ⟨rfl, Or.inl rfl⟩
theorem targetTimeout (sd : Side) (m : Master) (addr : Nat) (write : Bool) : Statement (.targetTimeout sd m addr write) := fun _ => ⟨rfl, Or.inl rfl⟩
theorem remap (sd : Side) (m : Master) (w : PairWrite) : Statement (.remap sd m w) := fun _ => ⟨rfl, Or.inl rfl⟩
theorem counterSnapshot (sd : Side) (m : Master) (v : Word) : Statement (.counterSnapshot sd m v) := fun _ => ⟨rfl, Or.inl rfl⟩
theorem counterClear (sd : Side) (m : Master) (v : Word) : Statement (.counterClear sd m v) := fun _ => ⟨rfl, Or.inl rfl⟩
theorem liveCounterRead (sd : Side) (m : Master) (bar2 : Bool) : Statement (.liveCounterRead sd m bar2) := fun _ => ⟨rfl, Or.inl rfl⟩
theorem dumpEnable (sd : Side) (m : Master) (v : Word) : Statement (.dumpEnable sd m v) := fun _ => ⟨rfl, Or.inl rfl⟩
theorem counterDump (sd : Side) : Statement (.counterDump sd) := fun _ => ⟨rfl, Or.inl rfl⟩
theorem nvmWriteEnable (sd : Side) (m : Master) (w : PairWrite) : Statement (.nvmWriteEnable sd m w) := fun _ => ⟨rfl, Or.inl rfl⟩
theorem nvmProgram (sd : Side) (m : Master) (v : Word) : Statement (.nvmProgram sd m v) := fun _ => ⟨rfl, Or.inl rfl⟩
theorem nvmProgramAbort (sd : Side) (m : Master) (v : Word) : Statement (.nvmProgramAbort sd m v) := fun _ => ⟨rfl, Or.inl rfl⟩
theorem nvmProgramDone (sd : Side) (ok : Bool) (pages : Nat) : Statement (.nvmProgramDone sd ok pages) := fun _ => ⟨rfl, Or.inl rfl⟩
theorem logProgram (sd : Side) : Statement (.logProgram sd) := fun _ => ⟨rfl, Or.inl rfl⟩
theorem hostNote (sd : Side) (m : Master) (v : Word) : Statement (.hostNote sd m v) := fun _ => ⟨rfl, Or.inl rfl⟩
theorem moduleRescan (sd : Side) (m : Master) (v : Word) (reads : List ModuleRead) : Statement (.moduleRescan sd m v reads) := fun _ => ⟨rfl, Or.inl rfl⟩
theorem modulePoll (sd : Side) (reads : List ModuleRead) : Statement (.modulePoll sd reads) := fun _ => ⟨rfl, Or.inl rfl⟩
theorem imageFrame (sd : Side) (payload : List Byte) : Statement (.imageFrame sd payload) := fun _ => ⟨rfl, Or.inl rfl⟩
theorem powerUp (sd : Side) (compat : Bool) (rolePref : Bool) : Statement (.powerUp sd compat rolePref) := fun _ => ⟨rfl, Or.inl rfl⟩
theorem powerFail (sd : Side) : Statement (.powerFail sd) := fun _ => ⟨rfl, Or.inl rfl⟩
theorem arbitration (sd : Side) (eligible : Bool) (view : ArbView) : Statement (.arbitration sd eligible view) := fun _ => ⟨rfl, Or.inl rfl⟩
theorem arbitrationRetry (sd : Side) (eligible : Bool) (view : ArbView) : Statement (.arbitrationRetry sd eligible view) := fun _ => ⟨rfl, Or.inl rfl⟩
theorem fenceInterlockTimeout (sd : Side) : Statement (.fenceInterlockTimeout sd) := fun _ => ⟨rfl, Or.inl rfl⟩
theorem firmwareStart (sd : Side) (slot0 : SlotCheck) (slot1 : SlotCheck) : Statement (.firmwareStart sd slot0 slot1) := fun _ => ⟨rfl, Or.inl rfl⟩
theorem startOfService (sd : Side) (selfTestOk : Bool) : Statement (.startOfService sd selfTestOk) := fun _ => ⟨rfl, Or.inl rfl⟩
theorem pinReset (sd : Side) : Statement (.pinReset sd) := fun _ => ⟨rfl, Or.inl rfl⟩
theorem pcieReset (sd : Side) : Statement (.pcieReset sd) := fun _ => ⟨rfl, Or.inl rfl⟩
theorem curtainNDeassert : Statement (.curtainNDeassert) := fun _ => ⟨rfl, Or.inr ⟨rfl, rfl⟩⟩
theorem refclkRestored (sd : Side) : Statement (.refclkRestored sd) := fun _ => ⟨rfl, Or.inl rfl⟩
theorem selfTestCycle (sd : Side) (item : Nat) (pass : Bool) : Statement (.selfTestCycle sd item pass) := fun _ => ⟨rfl, Or.inl rfl⟩
theorem heaterBackgroundReading (sd : Side) (dout : Nat) (readings : List (Nat × Nat)) : Statement (.heaterBackgroundReading sd dout readings) := fun _ => ⟨rfl, Or.inl rfl⟩
theorem tileWriteDone (sd : Side) (ok : Bool) : Statement (.tileWriteDone sd ok) := fun _ => ⟨rfl, Or.inl rfl⟩
theorem recordWriteDone (sd : Side) : Statement (.recordWriteDone sd) := fun _ => ⟨rfl, Or.inl rfl⟩
theorem analogueTripRelease (sd : Side) : Statement (.analogueTripRelease sd) := fun _ => ⟨rfl, Or.inl rfl⟩
theorem dumpRecordDone (sd : Side) : Statement (.dumpRecordDone sd) := fun _ => ⟨rfl, Or.inl rfl⟩
theorem pdelayRequest (sd : Side) : Statement (.pdelayRequest sd) := fun _ => ⟨rfl, Or.inl rfl⟩
theorem tapInstruction (sd : Side) (op : TapOp) : Statement (.tapInstruction sd op) := fun _ => ⟨rfl, Or.inl rfl⟩

end Sys2Proof.Laws.Readdress
end

