-- ==== Sys2Proof/Laws/Registers.lean ====
section
/-! SUPPORT. What each operation of Machine/Registers.lean keeps. -/

set_option Elab.async false

namespace Sys2Proof.Machine

theorem SideState.writeW1c_keeps (s : SideState) (key v : Nat) : Keeps none [] s (SideState.writeW1c s key v) := by
  unfold SideState.writeW1c
  try dsimp only
  repeat' first
    | with_reducible apply Keeps.self
    | with_reducible assumption
    | with_reducible apply Keeps.ite
    | with_reducible apply Keeps.set
    | exact rfl

theorem SideState.writeCueCtrl_keeps (s : SideState) (m : Master) (v : Nat) : Keeps (some [0x02, 0x03, 0x05, 0x06, 0x08, 0x09, 0x0B, 0x10, 0x14]) [.pairs, .twin, .fault, .perf] s (SideState.writeCueCtrl s m v) := by
  unfold SideState.writeCueCtrl
  try dsimp only
  repeat' first
    | with_reducible apply Keeps.self
    | with_reducible assumption
    | with_reducible apply Keeps.ite
    | with_reducible apply Keeps.set
    | with_reducible apply Keeps.writeRw
    | with_reducible apply Keeps.ignored
    | exact rfl

theorem SideState.showAny_keeps (s : SideState) (f : Fld) (lo : Nat) : Keeps none [] s (SideState.showAny s f lo) := by
  unfold SideState.showAny
  try dsimp only
  repeat' first
    | with_reducible apply Keeps.self
    | with_reducible assumption
    | with_reducible apply Keeps.setB
    | exact rfl

theorem SideState.afterWrite_keeps (s old : SideState) (m : Master) (key : Nat) : Keeps none [.pipe, .twin, .net, .fault, .perf] s (SideState.afterWrite s old m key) := by
  unfold SideState.afterWrite
  try dsimp only
  repeat' first
    | with_reducible apply Keeps.self
    | with_reducible assumption
    | with_reducible apply Keeps.ite
    | with_reducible apply Keeps.set
    | with_reducible apply Keeps.setB
    | with_reducible apply Keeps.step (SideState.showAny_keeps _ _ _)
    | with_reducible apply Keeps.step (SideState.checkHeads_keeps _ _)
    | with_reducible apply Keeps.step (SideState.markHeads_keeps _ _)
    | with_reducible apply Keeps.step (SideState.emit_keeps _ _)
    | with_reducible apply Keeps.foldl
    | exact rfl
    | (simp only [pageOf_whole]; exact rfl)
    | exact onPages_port rfl (by decide) (by decide)
    | with_reducible apply Keeps.parts
    | (refine fun (p : Part) hp => ?_; cases p <;> first | exact absurd hp (by decide) | simp only [SideState.sameIn])
    | intro _ _ _

theorem SideState.plainWrite_keeps (s : SideState) (m : Master) (key v : Nat) : Keeps none [.pairs, .pipe, .twin, .net, .fault, .perf, .nvm] s (SideState.plainWrite s m key v) := by
  unfold SideState.plainWrite
  try dsimp only
  repeat' first
    | with_reducible apply Keeps.self
    | with_reducible assumption
    | with_reducible apply Keeps.ite
    | with_reducible apply Keeps.set
    | with_reducible apply Keeps.writeRw
    | with_reducible apply Keeps.step (SideState.writeCueCtrl_keeps _ _ _)
    | with_reducible apply Keeps.step (SideState.refreshPolicer_keeps _ _)
    | with_reducible apply Keeps.step (SideState.agree_keeps _ _)
    | with_reducible apply Keeps.step (SideState.afterWrite_keeps _ _ _ _)
    | exact rfl
    | with_reducible apply Keeps.ignored
    | with_reducible apply Keeps.emitReg
    | with_reducible apply Keeps.parts
    | (refine fun (p : Part) hp => ?_; cases p <;> first | exact absurd hp (by decide) | simp only [SideState.sameIn])

theorem SideState.copyWrite_keeps (s : SideState) (key v : Nat) : Keeps none [.pipe, .twin, .net, .fault, .perf] s (SideState.copyWrite s key v) := by
  unfold SideState.copyWrite
  try dsimp only
  repeat' first
    | with_reducible apply Keeps.self
    | with_reducible assumption
    | with_reducible apply Keeps.ite
    | with_reducible apply Keeps.set
    | with_reducible apply Keeps.step (SideState.transfer_keeps _ _)
    | with_reducible apply Keeps.step (SideState.agree_keeps _ _)
    | with_reducible apply Keeps.step (SideState.writeW1c_keeps _ _ _)
    | with_reducible apply Keeps.step (SideState.afterWrite_keeps _ _ _ _)
    | exact rfl

theorem SideState.writeReg_keeps (s : SideState) (m : Master) (key v : Nat) : Keeps none [.pairs, .pipe, .twin, .net, .fault, .perf, .nvm] s (SideState.writeReg s m key v) := by
  unfold SideState.writeReg
  try dsimp only
  repeat' first
    | with_reducible apply Keeps.self
    | with_reducible assumption
    | with_reducible apply Keeps.ite
    | with_reducible apply Keeps.step (SideState.copyWrite_keeps _ _ _)
    | with_reducible apply Keeps.step (SideState.transfer_keeps _ _)
    | with_reducible apply Keeps.step (SideState.writeW1c_keeps _ _ _)
    | with_reducible apply Keeps.step (SideState.plainWrite_keeps _ _ _ _)
    | exact rfl
    | with_reducible apply Keeps.regWrite
    | with_reducible apply Keeps.denied
    | with_reducible apply Keeps.firstHalf
    | intro _

theorem SideState.writeMemory_keeps (s : SideState) (m : Master) (addr width : Nat) (v hi : Word) : Keeps none [.pairs, .mem, .ecc, .hostWrites, .twin, .net, .fault, .perf] s (SideState.writeMemory s m addr width v hi) := by
  unfold SideState.writeMemory
  try dsimp only
  repeat' first
    | with_reducible apply Keeps.self
    | with_reducible assumption
    | with_reducible apply Keeps.ite
    | with_reducible apply Keeps.step (SideState.wrBytes_keeps _ _ _)
    | with_reducible apply Keeps.step (SideState.writeTableWord_keeps _ _ _ _)
    | with_reducible apply Keeps.step (SideState.writeFrames_keeps _ _ _)
    | exact rfl
    | with_reducible apply Keeps.accessEvent
    | split

/-- What a read leaves in the word read back. -/
theorem Keeps.readBack {P E s t} {v w : Word} (he : subParts [.readBack] E = true) (h0 : Keeps P E s t) :
    Keeps P E s { t with readBack := v, readHigh := w } := by
  refine Keeps.step (E' := [.readBack]) (P' := some []) ?_ (by cases P <;> rfl) he h0
  with_reducible apply Keeps.parts Keeps.self
  refine fun (p : Part) hp => ?_
  cases p <;> first | exact absurd hp (by decide) | simp only [SideState.sameIn]

theorem Keeps.readWide {P E s t} {addr width : Nat} {word peek : SideState → Nat → SideState}
    (he : subParts [.readBack] E = true) (hw : ∀ x a, Keeps P E s x → Keeps P E s (word x a))
    (hk : ∀ x a, Keeps P E s x → Keeps P E s (peek x a)) (h0 : Keeps P E s t) :
    Keeps P E s (t.readWide addr width word peek) := by
  unfold SideState.readWide
  dsimp only
  exact Keeps.ite (Keeps.readBack he (hw _ _ (hw _ _ h0)))
    (Keeps.ite (Keeps.readBack he (hw _ _ h0)) (Keeps.readBack he (hk _ _ h0)))

theorem SideState.readEffects_keeps (s : SideState) (m : Master) (key : Nat) : Keeps (some [0x1D]) [.readBack, .perf] s (SideState.readEffects s m key) := by
  unfold SideState.readEffects
  try dsimp only
  repeat' first
    | with_reducible apply Keeps.self
    | with_reducible assumption
    | with_reducible apply Keeps.ite
    | with_reducible apply Keeps.set
    | with_reducible apply Keeps.step (SideState.readLive_keeps _ _)
    | exact rfl

theorem SideState.clearRc_keeps (s : SideState) (key : Nat) : Keeps none [] s (SideState.clearRc s key) := by
  unfold SideState.clearRc
  try dsimp only
  repeat' first
    | with_reducible apply Keeps.self
    | with_reducible assumption
    | with_reducible apply Keeps.ite
    | with_reducible apply Keeps.set
    | exact rfl

theorem SideState.readWord_keeps (s : SideState) (m : Master) (key : Nat) (direct : Bool) : Keeps none [.readBack, .perf] s (SideState.readWord s m key direct) := by
  unfold SideState.readWord
  try dsimp only
  repeat' first
    | with_reducible apply Keeps.self
    | with_reducible assumption
    | with_reducible apply Keeps.ite
    | with_reducible apply Keeps.step (SideState.clearRc_keeps _ _)
    | with_reducible apply Keeps.step (SideState.readEffects_keeps _ _ _)
    | exact rfl
    | split
    | with_reducible apply Keeps.parts
    | (refine fun (p : Part) hp => ?_; cases p <;> first | exact absurd hp (by decide) | simp only [SideState.sameIn])

theorem SideState.peekWord_keeps (s : SideState) (m : Master) (key : Nat) (direct : Bool) : Keeps none [.readBack, .perf] s (SideState.peekWord s m key direct) := by
  unfold SideState.peekWord
  try dsimp only
  repeat' first
    | with_reducible apply Keeps.self
    | with_reducible assumption
    | with_reducible apply Keeps.ite
    | with_reducible apply Keeps.step (SideState.readWord_keeps _ _ _ _)
    | with_reducible apply Keeps.step (SideState.readEffects_keeps _ _ _)
    | exact rfl

theorem SideState.readRegister_keeps (s : SideState) (m : Master) (key width : Nat) (direct : Bool) : Keeps none [.readBack, .perf] s (SideState.readRegister s m key width direct) := by
  unfold SideState.readRegister
  try dsimp only
  repeat' first
    | with_reducible apply Keeps.self
    | with_reducible assumption
    | with_reducible apply Keeps.readWide
    | intro _ _ _
    | with_reducible apply Keeps.step (SideState.readWord_keeps _ _ _ _)
    | with_reducible apply Keeps.step (SideState.peekWord_keeps _ _ _ _)
    | exact rfl

theorem SideState.userWord_keeps (s : SideState) (key : Nat) : Keeps (some []) [.readBack, .perf] s (SideState.userWord s key) := by
  unfold SideState.userWord
  try dsimp only
  repeat' first
    | with_reducible apply Keeps.self
    | with_reducible assumption
    | with_reducible apply Keeps.ite
    | with_reducible apply Keeps.step (SideState.readLive_keeps _ _)
    | exact rfl
    | with_reducible apply Keeps.parts
    | (refine fun (p : Part) hp => ?_; cases p <;> first | exact absurd hp (by decide) | simp only [SideState.sameIn])

theorem SideState.readUser_keeps (s : SideState) (key width : Nat) : Keeps (some []) [.readBack, .perf] s (SideState.readUser s key width) := by
  unfold SideState.readUser
  try dsimp only
  repeat' first
    | with_reducible apply Keeps.self
    | with_reducible assumption
    | with_reducible apply Keeps.readWide
    | intro _ _ _
    | with_reducible apply Keeps.step (SideState.userWord_keeps _ _)
    | exact rfl
    | with_reducible apply Keeps.parts
    | (refine fun (p : Part) hp => ?_; cases p <;> first | exact absurd hp (by decide) | simp only [SideState.sameIn])

theorem SideState.readTable_keeps (s : SideState) (m : Master) (a : Nat) : Keeps none [.pairs, .ecc, .readBack, .twin, .fault, .perf] s (SideState.readTable s m a) := by
  unfold SideState.readTable
  try dsimp only
  repeat' first
    | with_reducible apply Keeps.self
    | with_reducible assumption
    | with_reducible apply Keeps.ite
    | with_reducible apply Keeps.step (SideState.owe_keeps _ _)
    | with_reducible apply Keeps.step (SideState.eccError_keeps _ _ _ _ _)
    | with_reducible apply Keeps.step (SideState.eccCorrected_keeps _ _)
    | exact rfl
    | with_reducible apply Keeps.parts
    | (refine fun (p : Part) hp => ?_; cases p <;> first | exact absurd hp (by decide) | simp only [SideState.sameIn])

theorem SideState.readTarget_keeps (s : SideState) (m : Master) (addr width : Nat) : Keeps none [.pairs, .ecc, .readBack, .twin, .fault, .perf] s (SideState.readTarget s m addr width) := by
  unfold SideState.readTarget
  try dsimp only
  repeat' first
    | with_reducible apply Keeps.self
    | with_reducible assumption
    | with_reducible apply Keeps.ite
    | with_reducible apply Keeps.step (SideState.readRegister_keeps _ _ _ _ _)
    | with_reducible apply Keeps.step (SideState.readTable_keeps _ _ _)
    | with_reducible apply Keeps.readWide
    | intro _ _ _
    | exact rfl
    | split
    | with_reducible apply Keeps.parts
    | (refine fun (p : Part) hp => ?_; cases p <;> first | exact absurd hp (by decide) | simp only [SideState.sameIn])

theorem SideState.compareRead_keeps (s : SideState) (m : Master) (key : Nat) (peerLow : Bool) : Keeps none [.mem, .ecc, .scene, .pipe, .watch, .twin, .net, .fault, .therm, .perf] s (SideState.compareRead s m key peerLow) := by
  unfold SideState.compareRead
  try dsimp only
  repeat' first
    | with_reducible apply Keeps.self
    | with_reducible assumption
    | with_reducible apply Keeps.ite
    | with_reducible apply Keeps.step (SideState.compareCopies_keeps _ _ _ _)
    | with_reducible apply Keeps.step (SideState.mapRead_keeps _)
    | exact rfl
    | split

theorem SideState.compareReads_keeps (s : SideState) (m : Master) (key width : Nat) (peerLow : Bool) : Keeps none [.mem, .ecc, .scene, .pipe, .watch, .twin, .net, .fault, .therm, .perf] s (SideState.compareReads s m key width peerLow) := by
  unfold SideState.compareReads
  try dsimp only
  repeat' first
    | with_reducible apply Keeps.self
    | with_reducible assumption
    | with_reducible apply Keeps.ite
    | with_reducible apply Keeps.step (SideState.compareRead_keeps _ _ _ _)
    | exact rfl

end Sys2Proof.Machine
end

