-- ==== Sys2Proof/Tests/Slice0.lean ====
section
/-! SUPPORT. Tests: for every clause of a statement a concrete state and operands that meet its hypotheses together, the smoke
test of WellFormed, and a few single steps. -/

set_option Elab.async false
set_option cleanup.letToHave false
set_option maxRecDepth 1000000

open Sys2Proof Sys2Proof.Machine
namespace Sys2Proof.Tests
def after (c : Instr) (s : State) : State := match exec c s with | .next t => t | _ => s
/-- The outcome is a next state. -/
def goes (o : Host.Outcome State Fault Refusal) : Bool := match o with | .next _ => true | _ => false
theorem next_after (c : Instr) (s : State) (h : goes (exec c s) = true) : exec c s = .next (after c s) := by
  unfold after
  cases hx : exec c s with
  | next t => rfl
  | fault f => rw [hx] at h; cases h
  | refused r => rw [hx] at h; cases h
/-- Side A runs. -/
def runs (x : SideState) : SideState := { x with power := { x.power with powered := true, inReset := false } }
def base : SideState := runs (SideState.reset .A)
def onA (x : SideState) : State := { State.reset with a := x }
/-- Side A runs, leads, and has a rig map: DO 5 and 6 name cells in current and voltage mode. -/
def rig : SideState :=
  (((((({ base.set TW_ROLE.FENCED 0 with scene := { emptyActive := true } }.set TW_ROLE.ROLE 1).set RG_STAT.IN_FORCE 1).tset DT.KIND 5 1).tset DT.MODE 5 2).tset DT.LIMIT_HI 5 16383).tset DT.KIND 6 3).tset DT.MODE 6 1
def owned (x : SideState) (d : Nat) (o : Own) : SideState := { x with drive := { x.drive with own := Tab.put x.drive.own d o } }
/-- A first half `v` of a pair waits on `key`. -/
def halved (x : SideState) (key : Nat) (v : Word) : SideState :=
  ((({ x with pairs := Tab.put x.pairs (key / 0x1000) v }.set (PAGE_LOCK.STATE.onPage (key / 0x1000)) 1).set
    (PAGE_LOCK.OFFSET.onPage (key / 0x1000)) (key % 0x1000 / 4))).set (PAGE_LOCK.LEFT.onPage (key / 0x1000)) 16
def ring : SideState := (base.set PC_DUMP_BASE.ADDR (0x10000000 / 64)).set PC_DUMP_COUNT.COUNT 4
/-- Side A runs firmware. -/
def managed : SideState := (base.set HM_STAT.RUN 1).set HM_STAT.WDOG_OK 1
/-- A well-formed image block of four bytes. -/
def goodImage : List Byte :=
  let p : List Byte := [1, 1, 0, 0, 0, 0, 0, 0, 0, 4, 0, 0, 1, 2, 3, 4]
  p ++ beBytes 4 (crc32c p)
/-- A park table of zeros with its CRC, as the element-table memory holds it. -/
def parked (x : SideState) : SideState :=
  (x.wrBytes (parkBase + 40976) (leBytes 4 (crc32c (x.rdBytes parkBase 40976)))).set TH_STAT.NVM_OK 1
/-- A named monitor channel 64 with front ends and converters running. -/
def mon : SideState :=
  ((((base.set RG_STAT.IN_FORCE 1).set MI_STAT.CONV_RUN 1).set MI_STAT.FE_CONN 1).tset MT.KIND 64 1).tset MT.GAIN 64 32768
    |>.setChan 64 (fun c => { c with range := 2 })
/-- The reset slot map in the staging registers. -/
def mapped : SideState :=
  (List.range 64).foldl (fun x p => x.set { MI_SMAP.CH0.nth (p / 4) with lo := p % 4 * 8 } p) base
/-- Loop 0 steps DO 5, the attenuator DO of output 0. -/
def looped (x : SideState) : SideState :=
  (((((x.set RG_LOOPS.LOOPS 1).tset LT.DO 0 5).tset LT.EN 0 1).tset DT.LOOP 5 0).tset DT.KIND 5 3).set HL_CTRL.HOLDOFF 2
def run : TuneRun :=
  { loop := 0, dout := 5, started := true, base0 := 77, amp := 5, apply := false, start := 0, above := none, begun := false,
    hi := 0, lo := 0, marks := [], swings := [] }
/-- Ready for calibration: scheme T, and calibration is on. -/
def calm (x : SideState) : SideState := (x.set DG_CTRL.SCHEME 1).set CA_CTRL.EN 1
def served (x : SideState) : SideState :=
  (((x.set HM_STAT.RUN 1).set HM_STAT.WDOG_OK 1).set CA_CTRL.AUTO_PERIOD 1).set CK_STAT.SERVICE 1
def doneRun : CalRun :=
  { job := ⟨5, .trim, false, false, true⟩, cell := none, loop := some 0, mi := 3, taken := [(5, 100)], start := 0, started := true, phase := 1,
    todo := [], since := 0, sets := [], guardLo := false, guardHi := false, done := true, probe := none, restore := none }
def result : CalResult :=
  { dout := 5, cell := none, loop := some 0, mark := some 9, band := none, dir := none, resume := none, ePi := none, eMid := none,
    phys := none, tap := none, amp := none, job := some ⟨5, .trim, false, false, true⟩, since := 0, due := none }
/-- The three line ports are up, and VLAN 1 holds. -/
def netty : SideState :=
  ([1, 2, 3].foldl (fun (x : SideState) n => (((x.set (NP_CTRL.EN.onPort n) 1).set (NP_STAT.LINK.onPort n) 1).set (NP_VLAN.PVID.onPort n) 1).set
    (NP_VLAN.UNTAG_OK.onPort n) 1) base).set QS_VLAN.VALID 1 |>.set QS_VLAN.VID 1
/-- A multicast frame of 64 bytes with FCS. -/
def mcast : List Byte := beBytes 6 0x01005E000001 ++ beBytes 6 0x020000000007 ++ beBytes 2 0x0800 ++ List.replicate 46 0
/-- Firmware runs, and the servo follows port 1. -/
def timed : SideState := ((managed.set NT_STAT.PORT 1).set NT_CTRL.SERVO_EN 1).set NT_SERVO.STEP_TH 1000
/-- A version 2 payload of a kind from node 3 on CONN_ID 7, with its CHECK. -/
def cuePayload (kind seq eff scene : Nat) (words : List Nat) : List Byte :=
  let p := beBytes 1 2 ++ beBytes 1 kind ++ beBytes 1 0 ++ beBytes 1 1 ++ beBytes 4 7 ++ beBytes 2 3 ++ beBytes 2 0 ++ beBytes 4 seq ++ beBytes 6 0
    ++ beBytes 4 0 ++ beBytes 4 100 ++ beBytes 2 (if kind = 4 then 1 else 0) ++ beBytes 8 eff ++ beBytes 2 scene ++ beBytes 1 0
    ++ beBytes 1 words.length ++ beBytes 4 0 ++ (words.map (beBytes 4)).flatten
  p ++ beBytes 4 (crc32cFrom 7 p)
def keepAlive : Cue := cueOf false .keepAlive (cuePayload 4 9 0 0 [])
/-- A change cue that connects input 0 with output 1. -/
def change : Cue := cueOf false .change (cuePayload 1 9 20 4 [0x80000001])
/-- The lead takes cues on connection 0. -/
def cueing : SideState :=
  (((((((((rig.set (CQ_CONN_CFG.EN.bank 0) 1).set (CQ_CONN_ID.ID.bank 0) 7).set (CQ_CONN_CFG.SRC_NODE.bank 0) 3).set (CQ_CONN_CFG.NET.bank 0) 1).set
    (CQ_CONN_CFG.HOST.bank 0) 1).set SC_CUE_CTRL.NET_EN 1).set SC_CUE_CTRL.MBX_EN 1).set SC_CUE_CTRL.ARM 1).set NT_STAT.LOCKED 1).set RG_COUNT.PORTS 4
/-- With a policy in force and the curtain scene solved. -/
def guarded : SideState :=
  { (cueing.wr (slotBase 255 + 2) 1 3).set RG_STAT.CURTAIN_ONLY 0 with
    watch := { cueing.watch with policy := some ⟨[], [], []⟩ }, beatNo := 10, produced := 10,
    scene := { cueing.scene with emptyActive := true } }
def waits (x : SideState) (c : Cue) : SideState :=
  { x with pipe := { x.pipe with waiting := [⟨c, .network 5 0, 0, 1000, 10, false, false⟩] } }
/-- Tracking entry 2 holds a change cue for beat 20 in a state, with working slot 240. -/
def entered (c : CueState) : SideState :=
  { cueing with
    pipe := { cueing.pipe with
      trk := [(2, { ({} : TrkEntry) with state := c, order := 1, kind := .change, eff := 20, slot := some 240, dist := 1 })] } }
/-- The engine works on entry 2. -/
def engaged (x : SideState) : SideState :=
  { x.set BK_STAT.BUSY 1 with win := .loop, pipe := { x.pipe with solving := some (.entry 2), engineAt := some 0 } }
def rehearsing (x : SideState) : SideState :=
  { x with produced := 100, pipe := { x.pipe with trk := x.pipe.trk.map (fun p => (p.1, { p.2 with rehearse := true, waitFrom := 30 })) } }
/-- A loaded curtain scene without connections waits for its solve. -/
def curtained : SideState :=
  { guarded.set TW_ROLE.ROLE 1 with
    win := .loop, power := { guarded.power with firmware := true }, pipe := { guarded.pipe with curtainOwed := true } }
/-- The slot's scene is admitted as the record says, and passes its trace. -/
def checked (x : SideState) : SideState := { (x.reCheck 240) with win := .loop }
def traced (x : SideState) : SideState :=
  { checked x with
    pipe := { x.pipe with
      trk := x.pipe.trk.map (fun p => (p.1, { p.2 with admission := some { kind := .change, eff := 20, digest := digestOf [] } })) } }
/-- Cell 0 has DO 5 as its E_DO. -/
def celled (x : SideState) : SideState :=
  ((((x.set RG_COUNT.CELLS 1).set RG_COUNT.PORTS 1).tset CT.E_DO 0 5).tset CT.E_PRESENT 0 1).tset DT.KIND 5 1
/-- Entry 2 is READY for the next boundary, to set cell 0 to bar. -/
def gated (g : Bool) : SideState :=
  { celled (((entered .ready).setFlag 240 flagSOLVED true).tset ET.PHYS 0 1) with
    win := .scene, beatNo := 19,
    pipe := { cueing.pipe with
      trk := [(2, { ({} : TrkEntry) with state := .ready, order := 1, kind := .change, eff := 20, slot := some 240, gate := g })] } }
/-- DO 5 is the attenuator of output 0, stepped by loop 0. -/
def lamp : SideState := (((looped rig).tset PT.ATT_PRESENT 0 1).tset PT.ATT_DO 0 5).tset PT.DARK 0 9
/-- The active scene is slot 0, with input 0 connected to output 0. -/
def shining (x : SideState) : SideState :=
  { (x.wr (slotBase 0 + 4) 2 1).set SC_ACTIVE.SLOT 0 with scene := { x.scene with emptyActive := false } }
def blanking (x : SideState) : SideState :=
  { x with win := .copy, scene := { x.scene with staged := [⟨none, 1, 255, true, [], [⟨0, true, false, true, true⟩]⟩] } }
def blanked (x : SideState) (b : Blanked) : SideState := { x with scene := { x.scene with blanked := [b] } }
/-- The cue checker's record of the active scene agrees. -/
def agreed (x : SideState) : SideState := { x with watch := { x.watch with currentDigest := digestOf x.activeConns } }
/-- A policy record without pins and sources. -/
def policyRecord : List Byte :=
  let p : List Byte := [0x43, 0x5A, 0x50, 0x4C] ++ List.replicate 100 0
  p ++ leBytes 4 (crc32c p)
def policed (b : List Byte) : SideState :=
  ((rig.set CQ_POL_ADDR.ADDR 0x10000000).set CQ_POL_LEN.LEN 108).wrBytes 0x10000000 b
/-- A FIT understudy that has heard nothing for two beats. -/
def fitting : SideState :=
  { (((base.set TW_ROLE.FENCED 0).set TW_ROLE.ROLE 2).set TW_ROLE.WARMTH 3).set TW_HB_STAT.SILENT 2 with
    twin := { base.twin with report := [0, 0x7FF] } }
/-- A rig map of 80 bytes with a good header, of the serial 0, 0, … -/
def smallMap : List Byte :=
  let h : List Byte := [0x43, 0x5A, 0x52, 0x4D] ++ leBytes 2 2 ++ leBytes 2 64 ++ leBytes 4 80 ++ leBytes 2 0x40 ++ leBytes 2 1
    ++ List.replicate 40 0 ++ leBytes 4 7
  h ++ leBytes 4 (crc32c h) ++ List.replicate 16 0
/-- Bytes from an address upward as a canonical store lists them: without those that an unlisted address reads as. -/
def cells (d : Nat → Byte) (a : Nat) (b : List Byte) : List Host.Cell :=
  (b.zipIdx.map (fun p => (a + p.2, p.1))).filter (fun c => c.2 != d c.1)
/-- The lead starts; NVM holds a record of the rig map, and memory nothing else. -/
def starting (x : SideState) : SideState :=
  let h : List Byte := recordMagic ++ leBytes 4 1 ++ leBytes 4 80
  { ((x.set TW_ROLE.ROLE 1).set TW_ROLE.FENCED 1).set CK_STAT.STAGE 2 with
    mem := cells memDefault 0x41010000 (h ++ leBytes 4 (crc32c (h ++ smallMap)) ++ smallMap) }
/-- A tile with an image and a factory block of the serial 0, 0, … -/
def tiled (s : State) : State :=
  let f : List Byte := [0x43, 0x5A, 0x54, 0x46] ++ List.replicate 16 0 ++ List.replicate 232 0xFF
  { s with
    tilePresent := true
    tile := cells (fun _ => 0xFF) 0 smallMap ++ cells (fun _ => 0xFF) 0xFF00 (f ++ leBytes 4 (crc32c f)) }
/-- The rig map of case 3 in service. -/
def verifying : SideState := { managed.set TW_ROLE.ROLE 1 |>.set RG_STAT.CASE 3 with rigImage := smallMap }
/-- Entry 2 recalls stored slot 0. -/
def recalling : SideState :=
  { rig with pipe := { rig.pipe with trk := [(2, { ({} : TrkEntry) with state := .solving, order := 1, kind := .recall, stored := 0 })] } }
/-- Firmware runs with a rig map in force and an uncorrectable word. -/
def broken (a : Nat) : SideState := { managed.set RG_STAT.IN_FORCE 1 with eccHard := [a], eccOwed := [a] }
/-- A directory entry of a section. -/
def dirEntry (type off : Nat) (b : List Byte) : List Byte := leBytes 2 type ++ leBytes 2 1 ++ leBytes 4 off ++ leBytes 4 b.length ++ leBytes 4 (crc32c b)
/-- A valid rig map: a Benes network of 8 ports, without cell actuators; the ports' attenuators are DO 0 to 15. -/
def validMap : List Byte :=
  let topo := leBytes 1 0 ++ leBytes 1 3 ++ leBytes 1 5 ++ leBytes 1 0 ++ leBytes 2 4 ++ leBytes 2 20 ++ leBytes 2 8 ++ List.replicate 6 0
  let elec := leBytes 1 3 ++ leBytes 1 1 ++ List.replicate 14 0 ++ leBytes 1 4 ++ leBytes 1 1 ++ List.replicate 14 0
  let groups : List Byte := List.replicate 160 0
  let cells : List Byte := List.replicate 120 0
  let ports := ((List.range 16).map (fun i => leBytes 4 (0x4000 + i))).flatten
  let body := dirEntry 1 144 topo ++ dirEntry 3 160 elec ++ dirEntry 4 192 groups ++ dirEntry 6 352 cells ++ dirEntry 7 480 ports
    ++ topo ++ elec ++ groups ++ cells ++ List.replicate 8 0 ++ ports
  let h : List Byte := [0x43, 0x5A, 0x52, 0x4D] ++ leBytes 2 2 ++ leBytes 2 64 ++ leBytes 4 544 ++ leBytes 2 0x40 ++ leBytes 2 5
    ++ List.replicate 40 0 ++ leBytes 4 (crc32c body)
  h ++ leBytes 4 (crc32c h) ++ body
/-- The understudy has staged a record of the beat. -/
def recorded : SideState := { fitting with twin := { fitting.twin with beatStaged := [[1, 0, 0, 0]] } }
/-- Two sides that run. -/
def pair (x y : SideState) : State := { State.reset with a := x, b := y }
/-- Side B, running in a role. -/
def other (role : Nat) : SideState := ((runs (SideState.reset .B)).set TW_ROLE.FENCED 0).set TW_ROLE.ROLE role
/-- Without a source of class Grave in force. -/
def calmed (x : SideState) : SideState :=
  { x with fault := { x.fault with mapPending := (List.range 256).map (fun s => (s, 0)) } }
def fencing (x : SideState) : SideState := { x with twin := { x.twin with fencePending := true } }
def updating (step : Nat) (x : SideState) : SideState := { x with twin := { x.twin with update := some ⟨step, 0, [], 1⟩ } }
def warm : SideState := (other 2).set TW_ROLE.WARMTH 3
def fwRuns (x : SideState) : SideState := { x with power := { x.power with firmware := true } }
/-- A side in intermission, or waking since a number of beats. -/
def asleep (x : SideState) : SideState := x.set TH_INT_STAT.STATE 1
def waking (n : Nat) (x : SideState) : SideState := { x.set TH_INT_STAT.STATE 2 with produced := n, therm := { x.therm with wakeAt := some 0 } }
def deadA : SideState := { SideState.reset .A with nvm := { (SideState.reset .A).nvm with keys := [(3, [1])] }, mem := [(0x40000000, 5), (0x50000000, 6)] }
def looks : ArbView := ⟨true, true, true, false, 5000000007, 77, true⟩
def booting (x : SideState) : SideState := x.set CK_ARB.DECISION 1
/-- A lead with every condition of its service. -/
def ready : SideState :=
  { (rig.set SW_STAT.CURTAIN_TRACED 1).setFlag 255 flagSOLVED true with
    power := { rig.power with firmware := true, tablesExpanded := true, calLoaded := true, curtainLoaded := true } }
/-- A side whose own figures let it lead, at the end of its window. -/
def sound (x : SideState) : SideState :=
  { ((((x.set CK_STAT.STAGE 1).set CK_STAT.RAILS_OK 1).set CK_STAT.PLL_CORE 1).set CK_STAT.PLL_SYS 1).set CK_STAT.PLL_TIME 1 with produced := 300 }
/-- The sources that are Grave at reset are Minor. -/
def unmapped (x : SideState) : SideState :=
  ((List.range 256).filter (fun k => bits (classDefault k) 0 2 == 3)).foldl (fun (x : SideState) k => x.set (FC_MAP.CLASS.bank k) 1) x
/-- In a beat whose end brings nothing by itself. -/
def inBeat (n : Nat) (x : SideState) : SideState := { unmapped x with beatNo := n, produced := n }
/-- A lead at the boundary of an ordinary beat, with nothing due. -/
def placid : SideState := inBeat 10 rig
/-- At the edge of that beat: loop 0 alone, which steps DO 5, its sample at monitor 0. -/
def windowed : SideState :=
  ((((owned (inBeat 10 (looped rig)) 5 .loop).set HL_CTRL.EN 1).set MI_STAT.CONV_RUN 1).tset LT.MARK 0 100).tset LT.BAND 0 10
def sampled (x : SideState) (w : Nat) : SideState := { x with mon := { x.mon with readable := [(0, w)] } }
/-- Cell 0, lit, with DO 5 as its T_DO, loop 0 and a tap. -/
def tapped : SideState :=
  { ((((windowed.set RG_COUNT.CELLS 1).set RG_COUNT.PORTS 1).tset CT.T_DO 0 5).tset CT.T_PRESENT 0 1).tset CT.TAP_PRESENT 0 1 |>.set SC_ACTIVE.SLOT 0 |>.wr (slotBase 0 + 0x1010) 1 1 with
    scene := {} }
/-- A fabric of four ports, with the active scene 0 → 0 and 2 → 2 over cells of given settings; entry 2 asks for the connections `l`. -/
def routed (cells : Nat) (l : List Nat) (pins : List (Nat × Nat)) : SideState :=
  let x := (((engaged (entered .solving)).set RG_TOPO.LOG2N 2).set RG_TOPO.STAGES 3).set RG_COUNT.CELLS 6 |>.set SC_ACTIVE.SLOT 0
  let conns (n : Nat) (l : List Nat) (x : SideState) : SideState :=
    l.zipIdx.foldl (fun (x : SideState) p => (x.wr (slotBase n + 0x10 + 8 * p.2) 8 (p.1 % 16 + p.1 / 16 * 65536)) ) (x.wr (slotBase n + 4) 2 l.length)
  { (conns 240 l (conns 0 [0, 0x22] x)).wr (slotBase 0 + 0x1010) 2 cells with
    scene := {}, watch := { x.watch with policy := some ⟨pins, [], []⟩ } }
/-- The side has decided to lead and requests its peer's fence. -/
def requests (x : SideState) : SideState := { x with twin := { x.twin with fenceRequest := true } }
/-- A firmware image without a body, SVN 5 and FW_VER 0x124, signed under the key of `imaged` with r and s both the hash of its
first 0x80 bytes, so that the check adds the base point and the public key once. -/
def fwHeader : List Byte :=
  beBytes 64 0x435a4657010024010500000000000000000000000000000000000000000000000000000000000000000000000000000000000000000000000000000000000000
    ++ beBytes 64 0xe3b0c44298fc1c149afbf4c8996fb92427ae41e4649b934ca495991b7852b8550000000000000000000000000000000000000000000000000000000000000000
    ++ beBytes 64 0x97e8588934aeb12d1bfabf1a8cca467012a6aec4ebe98b806d3264493466680c97e8588934aeb12d1bfabf1a8cca467012a6aec4ebe98b806d3264493466680c
    ++ beBytes 64 0x00000000000000000000000000000000000000000000000000000000000000000000000000000000000000000000000000000000000000000000000000000000
def imaged (x : SideState) : SideState :=
  { x with nvm := { x.nvm with romKeys := [(0x33c3ae729cfd5e403530f1bfbdf29d289612e6398792dd8b0557a82b935068ca, 0xd99b2700659ae90a5f98d6e4c31c7a89fde6da81a17d8b41157bc78fd85a5235)] }, mem := cells memDefault (slotImage 0) fwHeader }
/-- A side whose stage manager works. -/
def works (x : SideState) : SideState := (x.set HM_STAT.RUN 1).set HM_STAT.WDOG_OK 1
/-- The lead with its ports up, its clock not locked, and a cue from node 5 waiting that asks for replies. -/
def replying : SideState :=
  let y := [1, 2, 3].foldl (fun (x : SideState) n => (x.set (NP_CTRL.EN.onPort n) 1).set (NP_STAT.LINK.onPort n) 1) guarded
  let y := unmapped ((((y.set NT_STAT.LOCKED 0).set QS_VLAN.VALID 1).set QS_VLAN.VID 1).set QS_VLAN.MEMBER 15)
  { y with
    pipe := { y.pipe with waiting := [⟨{ keepAlive with reply := true }, .network 5 1, 0, 1000, 10, false, false⟩] }
    net := { y.net with addresses := [⟨5, 1, 2, 0⟩] } }

/-! ### The smoke test of WellFormed: for every check a command that it refuses -/

theorem test_wf_refuses :
    [Instr.cueFrame .A 10000 0 0 0 [], .cueFrame .A 0 4 0 0 [], .cueFrame .A 0 0 4096 0 [], .cueFrame .A 0 0 0 0x1000000000000 [],
      .fragmentTimeout .A 4, .trace .A 32, .blankEnd .A 512, .handoverStall .A 5120, .queueTick .A 160, .timerFire .A 10240,
      .autotuneTimeout .A 6144, .slotEnd .A 96 0 none false, .slotEnd .A 0 80 none false, .slotEnd .A 0 0 (some 4096) false,
      .clearingRead .A .host ⟨0x100000000, 4, false⟩, .clearingRead .A .host ⟨0x40000, 4, true⟩, .clearingRead .A .host ⟨0, 3, false⟩, .expectationExpiry .A 64, .faultWindowExpiry .A 256, .pairTimeout .A 256,
      .registerWrite .A .host 0 3 ⟨0, 0⟩, .registerWrite .A .host 0x100000000 4 ⟨0, 0⟩, .selfTestCycle .A 11 true, .bar2Write .A 0x40000 0, .modulePoll .A [⟨16, [], 0⟩],
      .busAccessError .A .host 0 4 false true 0, .gateEntry .A 1 128, .addressAge .A 1024,
      .nodeForget .A 512, .singlePathDetect .A 512, .rmeasDone .A [(10240, 0)], .heaterBackgroundReading .A 0 [(10240, 0)],
      .syncReceived .A ⟨4, 0, 0, 0, 0⟩, .syncReceived .A ⟨0, 0, 0, 0, 256⟩, .pdelayResponse .A ⟨4, 0, 0, 0, 0, 0, 0⟩, .pdelayResponse .A ⟨0, 0, 0, 0, 0, 0, 256⟩, .announceReceived .A ⟨4, 0, 0, 0, 0, 0, 0, 0, none, 0⟩,
      .announceReceived .A ⟨0, 0x10000000000000000, 0, 0, 0, 0, 0, 0, none, 0⟩, .announceReceived .A ⟨0, 0, 256, 0, 0, 0, 0, 0, none, 0⟩,
      .announceReceived .A ⟨0, 0, 0, 256, 0, 0, 0, 0, none, 0⟩, .announceReceived .A ⟨0, 0, 0, 0, 256, 0, 0, 0, none, 0⟩,
      .announceReceived .A ⟨0, 0, 0, 0, 0, 65536, 0, 0, none, 0⟩, .announceReceived .A ⟨0, 0, 0, 0, 0, 0, 256, 0, none, 0⟩,
      .announceReceived .A ⟨0, 0, 0, 0, 0, 0, 0, 65536, none, 0⟩].all (fun c => !c.wf) = true := by decide +kernel

theorem test_wf_accepts :
    [Instr.cueFrame .A 9999 3 4095 0xFFFFFFFFFFFF [], .fragmentTimeout .B 3, .slotEnd .A 95 79 (some 4095) true, .curtainNAssert,
      .registerWrite .A .host 0xFFFFFFFC 4 ⟨1, 0⟩, .busAccessError .A .host 0 4 false true 17].all (fun c => c.wf) = true := by decide +kernel

/-! ### Values from outside the model -/

/-- The check value of CRC-32C over the digits 1 to 9, from the catalogue of CRC algorithms. -/
theorem test_crc32c_check_value : crc32c [0x31, 0x32, 0x33, 0x34, 0x35, 0x36, 0x37, 0x38, 0x39] = 0xE3069283 := by decide +kernel

/-- SHA-256 of "abc", the first example of FIPS 180-4. -/
theorem test_sha256_abc : beNat (sha256 [0x61, 0x62, 0x63]) =
    0xBA7816BF8F01CFEA414140DE5DAE2223B00361A396177A9CB410FF61F20015AD := by decide +kernel

/-! ### Single steps -/

/-- R229: at a resignation a FIT understudy at offset 0 decides for the next boundary. -/
theorem test_fit_understudy_decides : ((after (.resignationPulse .A) (onA fitting)).on .A).twin.takeoverDue = some 1 := by decide +kernel

/-- R229: one that is not FIT decides nothing and shows CAUSE 4. -/
theorem test_unfit_understudy_stays :
    ((after (.resignationPulse .A) (onA (fitting.set TW_ROLE.WARMTH 2))).on .A).twin.takeoverDue = none
      ∧ ((after (.resignationPulse .A) (onA (fitting.set TW_ROLE.WARMTH 2))).on .A).get TW_TAKE_STAT.CAUSE = 4 := by decide +kernel

/-- R42: the end of a tile write on a side that no longer leads leaves the tile as it is. -/
theorem test_understudy_writes_no_tile :
    (after (.tileWriteDone .A true) (onA { fitting with nvm := { fitting.nvm with tileWrite := some [1] } })).tile = [] := by decide +kernel

/-- R44: the image goes below the factory block. -/
theorem test_tile_write_goes_to_the_image :
    (after (.tileWriteDone .A true) (onA { rig with nvm := { rig.nvm with tileWrite := some [1, 0xFF, 2] } })).tile = [(0, 1), (2, 2)] := by
  decide +kernel

/-- R383: the boot ROM starts no slot below the burnt minimum. -/
theorem test_boot_refuses_old_slot :
    ((after (.firmwareStart .A .pass (.fail 3))
      (onA { (booting base).wrBytes (slotImage 0 + 8) [4, 0] with nvm := { base.nvm with fuseMin := 5 } })).on .A).power.firmware = false := by
  decide +kernel

/-- R383: nor one of a revoked key. -/
theorem test_boot_refuses_revoked_key :
    ((after (.firmwareStart .A .pass (.fail 3))
      (onA { (booting base).wrBytes (slotImage 0 + 0x0B) [2] with nvm := { base.nvm with fuseRevoked := 4 } })).on .A).power.firmware = false := by
  decide +kernel

/-- R217: CURTAIN_N low reaches both sides that run. -/
theorem test_curtain_pin_reaches_both_sides :
    ((after .curtainNAssert (pair rig warm)).on .A).is SW_STAT.CURTAIN_N = true
      ∧ ((after .curtainNAssert (pair rig warm)).on .B).is SW_STAT.CURTAIN_N = true := by decide +kernel

/-- R410: the worked pad lookup of the source, DO 9516, MI 5164 and DO 2085, from pad to number and back. -/
theorem test_pad_lookup :
    padKind 139 115 = .drive 9516 ∧ padKind 108 142 = .monitor 5164 ∧ padKind 67 4 = .drive 2085
      ∧ drivePad 9516 = (139, 115) ∧ monitorPad 5164 = (108, 142) ∧ drivePad 2085 = (67, 4) := by decide +kernel

/-- R410: the heater-supply pads of the cell (13, 0) are of domain 1. -/
theorem test_heater_pads : [65, 67, 69].map (fun r => padKind r 2) = [.heater 1, .heater 1, .heater 1] := by decide +kernel

/-- An idle device stays. -/
theorem test_idle_step : step (onA rig) = .next (onA rig) := rfl

/-- The hypotheses of the last clause of LightFollowsTheCells: a Benes fabric of 8 ports with every cell in bar, and its two outer inputs. -/
theorem test_lightFollowsTheCells_6 :
    let f : Fabric := ⟨0, 3, 5, []⟩
    let cells : Nat → Nat := fun _ => cellBar
    f.kind = 0 ∧ 1 ≤ f.n ∧ f.stages = 2 * f.n - 1 ∧ (∀ c, cells c = cellBar ∨ cells c = cellCross) ∧ 0 < f.ports ∧ 7 < f.ports ∧ (0 : Nat) ≠ 7 :=
  ⟨rfl, by decide, rfl, fun _ => Or.inl rfl, by decide, by decide, by decide⟩

/-! ### Witnesses: states and operands that meet the hypotheses of a clause together -/

theorem crcBit_lt (c : Nat) (h : c < 2 ^ 32) : crcBit c < 2 ^ 32 := by
  unfold crcBit
  split
  · exact Nat.xor_lt_two_pow (by omega) (by decide)
  · omega

theorem crcByte_lt (c : Nat) (b : Byte) (h : c < 2 ^ 32) : crcByte c b < 2 ^ 32 := by
  have h0 : Nat.xor c b.toNat < 2 ^ 32 := Nat.xor_lt_two_pow h (by have := b.isLt; omega)
  unfold crcByte
  repeat apply crcBit_lt
  exact h0

theorem crc32c_lt (l : List Byte) : crc32c l < 2 ^ 32 := by
  have run : ∀ (l : List Byte) (c : Nat), c < 2 ^ 32 → crcRun c l < 2 ^ 32 := by
    intro l
    induction l with
    | nil => exact fun _ h => h
    | cons b t ih => exact fun c h => ih _ (crcByte_lt c b h)
  exact Nat.xor_lt_two_pow (run l _ (by decide)) (by decide)

theorem leNat_leBytes (n v : Nat) (h : v < 256 ^ n) : leNat (leBytes n v) = v := by
  induction n generalizing v with
  | zero => simp at h; simp [leBytes, leNat, h]
  | succ n ih =>
    have hv : v / 256 < 256 ^ n := by
      rw [Nat.div_lt_iff_lt_mul (by decide)]; rw [Nat.pow_succ] at h; exact h
    simp only [leBytes, leNat, ih _ hv, BitVec.toNat_ofNat]
    omega

theorem rdBytes_slice (x : SideState) (a n i k : Nat) (h : i + k ≤ n) : slice (x.rdBytes a n) i k = x.rdBytes (a + i) k := by
  have e : ((x.rdBytes a n).drop i).take k = x.rdBytes (a + i) k := by
    apply List.ext_getElem
    · simp [SideState.rdBytes]; omega
    · intro j h1 h2
      simp [SideState.rdBytes, Nat.add_assoc]
  unfold slice
  rw [e]
  simp [SideState.rdBytes]

theorem rdBytes_take (x : SideState) (a n k : Nat) (h : k ≤ n) : (x.rdBytes a n).take k = x.rdBytes a k := by
  apply List.ext_getElem
  · simp [SideState.rdBytes]; omega
  · intro j h1 h2
    simp [SideState.rdBytes]

theorem rdBytes_congr (x y : SideState) (a n : Nat) (h : ∀ i, i < n → x.rd8 (a + i) = y.rd8 (a + i)) : x.rdBytes a n = y.rdBytes a n := by
  apply List.map_congr_left
  intro i hi
  exact h i (List.mem_range.mp hi)

/-- A table with its own CRC behind it passes the check. -/
theorem parkCrcOk_written (x y : SideState) (h : y.mem = (x.wrBytes (parkBase + 40976) (leBytes 4 (crc32c (x.rdBytes parkBase 40976)))).mem) :
    parkCrcOk y.parkBytes = true := by
  have l4 : ∀ v, (leBytes 4 v).length = 4 := fun _ => rfl
  have rd : ∀ a, y.rd8 a = (x.wrBytes (parkBase + 40976) (leBytes 4 (crc32c (x.rdBytes parkBase 40976)))).rd8 a := by
    intro a; simp only [SideState.rd8, h]
  have e1 : y.rdBytes (parkBase + 40976) 4 = leBytes 4 (crc32c (x.rdBytes parkBase 40976)) := by
    rw [rdBytes_congr y _ _ _ (fun i _ => rd _)]
    exact x.rdBytes_wrBytes (parkBase + 40976) (leBytes 4 _)
  have e2 : y.rdBytes parkBase 40976 = x.rdBytes parkBase 40976 := by
    apply rdBytes_congr
    intro i hi
    rw [rd, x.rd8_wrBytes_out _ _ _ (Or.inl (by omega))]
  unfold parkCrcOk SideState.parkBytes
  rw [rdBytes_slice _ _ _ _ _ (by decide), rdBytes_take _ _ _ _ (by decide), e1, e2, leNat_leBytes _ _ (crc32c_lt _)]
  exact beq_self_eq_true _

/-- The state of the witness of ParkCommitsAndModeChangesStart, first clause. -/
def parkState : State := onA (halved (parked rig) 0x11040 1)

theorem halved_mem (x : SideState) (key : Nat) (v : Word) : (halved x key v).mem = x.mem := by
  simp only [halved, SideState.set_mem]

theorem parked_mem (x : SideState) :
    (parked x).mem = (x.wrBytes (parkBase + 40976) (leBytes 4 (crc32c (x.rdBytes parkBase 40976)))).mem := by
  simp only [parked, SideState.set_mem]

theorem parkState_mem : ((parkState.on .A).paired .host 0x11040 1).mem =
    (rig.wrBytes (parkBase + 40976) (leBytes 4 (crc32c (rig.rdBytes parkBase 40976)))).mem := by
  rw [SideState.paired_mem, show parkState.on .A = halved (parked rig) 0x11040 1 from rfl, halved_mem, parked_mem]

theorem test_countersHeldClearedAndRead_1 :
    (let sd : Side := .A
     let m : Master := .host
     let s : State := onA (base.count 5 7)
     decide ((s.on sd).takes m 0x06044 = true)) = true := by decide +kernel

theorem test_countersHeldClearedAndRead_2 :
    (let sd : Side := .A
     let m : Master := .host
     let s : State := onA (base.count 5 7)
     decide ((s.on sd).takes m 0x06040 = true)) = true := by decide +kernel

theorem test_countersHeldClearedAndRead_3 :
    (let sd : Side := .A
     let m : Master := .host
     let s : State := onA (base.count 5 7)
     decide ((s.on sd).alive = true)
      && decide ((s.on sd).answers 0x06054 = true)
      && decide (mayAccess (s.on sd).remapped m 0x20006054 false = true)) = true := by decide +kernel

theorem test_counterDumpWritesItsRing_1 :
    (let sd : Side := .A
     let m : Master := .host
     let v : Word := 1
     let s : State := onA ring
     decide ((s.on sd).takes m 0x06080 = true)
      && decide ((s.on sd).is PC_DUMP_CTRL.EN = false)
      && decide (bitAt v.toNat 0 = true)
      && decide (0x10000000 ≤ (s.on sd).dumpBase)
      && decide ((s.on sd).dumpBase + 1120 * (s.on sd).dumpCount ≤ 0x10800000)) = true := by decide +kernel

theorem test_counterDumpWritesItsRing_2 :
    (let sd : Side := .A
     let m : Master := .host
     let v : Word := 1
     let s : State := onA (base.set PC_DUMP_BASE.ADDR 0)
     decide ((s.on sd).takes m 0x06080 = true)
      && decide ((s.on sd).is PC_DUMP_CTRL.EN = false)
      && decide (bitAt v.toNat 0 = true)
      && decide ((s.on sd).dumpBase < 0x10000000 ∨ 0x10800000 < (s.on sd).dumpBase + 1120 * (s.on sd).dumpCount)
      && decide ((s.on sd).get (FC_STOTAL.EVENTS.bank 0x1F) < 2 ^ 32 - 1)) = true := by decide +kernel

theorem test_counterDumpWritesItsRing_3 :
    (let sd : Side := .A
     let s : State := onA (let x := ring.set PC_DUMP_CTRL.EN 1; { x with perf := { x.perf with dump := { x.perf.dump with busy := true, skipped := 3 } } })
     decide ((s.on sd).alive = true)
      && decide ((s.on sd).dumpDue = true)
      && decide (((s.on sd).perf.dump.busy = true ∨ (s.on sd).get TH_STAT.STEP ≠ 0))) = true := by decide +kernel

theorem test_counterDumpWritesItsRing_4 :
    (let sd : Side := .A
     let s : State := onA (ring.set PC_DUMP_CTRL.EN 1)
     decide ((s.on sd).alive = true)
      && decide ((s.on sd).dumpDue = true)
      && decide ((s.on sd).perf.dump.busy = false)
      && decide ((s.on sd).get TH_STAT.STEP = 0)
      && decide (0x10000000 ≤ (s.on sd).dumpBase)
      && decide ((s.on sd).dumpBase + 1120 * (s.on sd).get PC_DUMP_STAT.WIDX + 1120 ≤ 0x10800000)) = true := by decide +kernel

theorem test_counterDumpWritesItsRing_5 :
    (let sd : Side := .A
     let s : State := onA (let x := ring.set PC_DUMP_CTRL.EN 1; { x with perf := { x.perf with dump := { x.perf.dump with busy := true, skipped := 3 } } })
     decide ((s.on sd).alive = true)
      && decide ((s.on sd).perf.dump.busy = true)
      && decide (0x10000000 ≤ (s.on sd).dumpBase)
      && decide ((s.on sd).dumpBase + 1120 * (s.on sd).get PC_DUMP_STAT.WIDX + (s.on sd).dumpRecord.length ≤ 0x10800000)) = true := by decide +kernel

theorem test_refusedAccessesAreRecorded_1 :
    (let sd : Side := .A
     let m : Master := .host
     let addr : Nat := 0x20005041
     let width : Nat := 4
     let burst : Nat := 1
     let k : Nat := 7
     let write : Bool := true
     let locked : Bool := false
     let s : State := onA base
     decide ((s.on sd).alive = true)
      && decide (accessReason (s.on sd).remapped m addr width write locked burst = some k)) = true := by decide +kernel

theorem test_refusedAccessesAreRecorded_2 :
    (let sd : Side := .A
     let s : State := onA base
     decide ((s.on sd).alive = true)) = true := by decide +kernel

theorem test_refusedAccessesAreRecorded_3 :
    (let sd : Side := .A
     let s : State := onA base
     decide ((s.on sd).alive = true)) = true := by decide +kernel

theorem test_pairsCompleteAndLapse_1 :
    (let sd : Side := .A
     let m : Master := .host
     let key : Nat := 0x05048
     let s : State := onA base
     let x := s.on sd
     decide (m ≠ .twinCopy)
      && decide (pairedKeys.contains key = true)
      && decide (x.takes m key = true)
      && decide (accessReason x.remapped m (0x20000000 + key) 4 true false 1 = none)
      && decide (x.regKey key = some key)) = true := by decide +kernel

theorem test_pairsCompleteAndLapse_2 :
    (let sd : Side := .A
     let m : Master := .host
     let page : Nat := 5
     let key : Nat := 0x05048
     let p : Word := 1
     let s : State := onA (halved base 0x05048 1)
     let x := s.on sd
     decide (m ≠ .twinCopy)
      && decide (page < 0x32)
      && decide (x.alive = true)
      && decide (x.answers (page * 0x1000 + 0x010) = true)
      && decide (mayWritePage m page = true)
      && decide (accessReason x.remapped m (0x20000010 + page * 0x1000) 4 true false 1 = none)
      && decide (Tab.get? x.pairs page = some p)
      && decide (x.get (PAGE_LOCK.LEFT.onPage page) ≠ 0)
      && decide (x.pairKey page = key)
      && decide (key ≠ page * 0x1000 + 0x00C)) = true := by decide +kernel

theorem test_pairsCompleteAndLapse_3 :
    (let sd : Side := .A
     let m : Master := .host
     let v : Word := 1
     let c : Word := 7
     let s : State := onA (halved base 0x05048 1)
     decide ((s.on sd).holds m 0x05048 v = true)
      && decide (c ≠ ~~~v)) = true := by decide +kernel

theorem test_pairsCompleteAndLapse_4 :
    (let sd : Side := .A
     let m : Master := .host
     let s : State := onA base
     decide ((s.on sd).takes m 0x05048 = true)) = true := by decide +kernel

theorem test_pairsCompleteAndLapse_5 :
    (let sd : Side := .A
     let m : Master := .host
     let v : Word := 1
     let s : State := onA (halved base 0x05048 1)
     decide ((s.on sd).holds m 0x05048 v = true)) = true := by decide +kernel

theorem test_pairsCompleteAndLapse_6 :
    (let sd : Side := .A
     let m : Master := .host
     let v : Word := 1
     let s : State := onA (halved base 0x02040 1)
     decide ((s.on sd).holds m 0x02040 v = true)
      && decide ((s.on sd).is BX_CTRL.REMAP_LOCK = false)) = true := by decide +kernel

theorem test_pairsCompleteAndLapse_7 :
    (let sd : Side := .A
     let m : Master := .host
     let v : Word := 1
     let s : State := onA (halved (base.set BX_CTRL.REMAP_LOCK 1) 0x02040 1)
     decide ((s.on sd).holds m 0x02040 v = true)
      && decide ((s.on sd).is BX_CTRL.REMAP_LOCK = true)) = true := by decide +kernel

theorem test_pairsCompleteAndLapse_8 :
    (let sd : Side := .A
     let m : Master := .host
     let v : Word := 0x000A0301
     let s : State := onA (halved (base.set FC_SEL.SOURCE 0x36) 0x03054 0x000A0301)
     let src := (s.on sd).get FC_SEL.SOURCE
     decide ((s.on sd).holds m 0x03054 v = true)
      && decide (classMapped src = true)) = true := by decide +kernel

theorem test_pairsCompleteAndLapse_9 :
    (let sd : Side := .A
     let page : Nat := 0x11
     let s : State := onA ((halved base 0x11040 1).set (PAGE_LOCK.LEFT.onPage 0x11) 0)
     decide (page < 0x32)
      && decide ((s.on sd).alive = true)
      && decide (Tab.has (s.on sd).pairs page = true)
      && decide ((s.on sd).get (PAGE_LOCK.LEFT.onPage page) = 0)) = true := by decide +kernel

theorem test_pairsCompleteAndLapse_10 :
    (let sd : Side := .A
     let s : State := onA base
     let x := s.on sd
     decide (x.takes .host 0x05048 = true)
      && decide (x.regKey 0x05048 = some 0x05048)
      && decide (accessReason x.remapped .host 0x20005048 8 true false 1 = none)) = true := by decide +kernel

theorem test_pairsCompleteAndLapse_11 :
    (let sd : Side := .A
     let addr : Nat := 0x2000905C
     let width : Nat := 8
     let s : State := onA (halved base 0x0905C 1)
     let x := s.on sd
     decide (x.alive = true)
      && decide (isWidth width = true)
      && decide (targetOf addr ≠ 7)
      && decide (addr % width ≠ 0)) = true := by decide +kernel

theorem test_injectionArmsAndEnds_1 :
    (let sd : Side := .A
     let m : Master := .host
     let v : Word := 0x80000501
     let src : Nat := 0x53
     let s : State := onA base
     decide ((s.on sd).takes m 0x03090 = true)
      && decide (bitAt v.toNat 31 = true)
      && decide ((s.on sd).fault.injection = none)
      && decide (injectionSource (bits v.toNat 0 8) = some src)
      && decide ((bitAt v.toNat 16 = false ∨ ((s.on sd).transfer m).classOf src ≠ 3))) = true := by decide +kernel

theorem test_injectionArmsAndEnds_2 :
    (let sd : Side := .A
     let m : Master := .host
     let v : Word := 0x80000500
     let s : State := onA { base with fault := { base.fault with injection := some ⟨0, 3, false, 0⟩ } }
     decide ((s.on sd).takes m 0x03090 = true)
      && decide (bitAt v.toNat 31 = true)
      && decide ((s.on sd).fault.injection.isSome = true)) = true := by decide +kernel

theorem test_injectionArmsAndEnds_3 :
    (let sd : Side := .A
     let i : Injection := ⟨0, 3, false, 0⟩
     let s : State := onA { base with produced := 100000, fault := { base.fault with injection := some ⟨0, 3, false, 0⟩ } }
     decide ((s.on sd).alive = true)
      && decide ((s.on sd).fault.injection = some i)
      && decide (i.armedAt + 100000 ≤ (s.on sd).produced)) = true := by decide +kernel

theorem test_injectionArmsAndEnds_4 :
    (let sd : Side := .A
     let src : Nat := 0x36
     let s : State := onA { base.set (FC_SCNT.COUNT.bank 0x36) 2 with fault := { base.fault with windows := [(0x36, 0)] } }
     decide ((s.on sd).alive = true)
      && decide (Tab.get? (s.on sd).fault.windows src = some 0)) = true := by decide +kernel

theorem test_injectionArmsAndEnds_5 :
    (let sd : Side := .A
     let s : State := onA { managed with produced := 1000 }
     decide ((s.on sd).managed = true)
      && decide ((s.on sd).fault.watchdog + 1000 ≤ (s.on sd).produced)) = true := by decide +kernel

theorem test_injectionArmsAndEnds_6 :
    (let sd : Side := .A
     let s : State := onA managed
     decide ((s.on sd).managed = false ∨ (s.on sd).produced < (s.on sd).fault.watchdog + 1000)) = true := by decide +kernel

theorem test_majorReleaseIsAcceptedOrRefused_1 :
    (let sd : Side := .A
     let m : Master := .host
     let v : Word := 1
     let e : Nat := 0
     let s : State := onA { halved (base.set FC_STAT.MAJOR 1) 0x03068 1 with produced := 100, fault := { base.fault with majorAt := some 0 } }
     decide ((s.on sd).holds m 0x03068 v = true)
      && decide (bitAt v.toNat 0 = true)
      && decide ((s.on sd).is FC_STAT.MAJOR = true)
      && decide ((s.on sd).fault.majorAt = some e)
      && decide (e + 1000000 ≤ (s.on sd).tick)) = true := by decide +kernel

theorem test_majorReleaseIsAcceptedOrRefused_2 :
    (let sd : Side := .A
     let m : Master := .host
     let v : Word := 1
     let s : State := onA (halved base 0x03068 1)
     decide ((s.on sd).holds m 0x03068 v = true)
      && decide (bitAt v.toNat 0 = true)
      && decide ((s.on sd).is FC_STAT.MAJOR = false)) = true := by decide +kernel

theorem test_majorReleaseIsAcceptedOrRefused_3 :
    (let sd : Side := .A
     let m : Master := .host
     let v : Word := 1
     let e : Nat := 0
     let s : State := onA { halved (base.set FC_STAT.MAJOR 1) 0x03068 1 with produced := 99, off := 9999, fault := { base.fault with majorAt := some 0 } }
     decide ((s.on sd).holds m 0x03068 v = true)
      && decide (bitAt v.toNat 0 = true)
      && decide ((s.on sd).is FC_STAT.MAJOR = true)
      && decide ((s.on sd).fault.majorAt = some e)
      && decide ((s.on sd).tick < e + 1000000)) = true := by decide +kernel

theorem test_majorReleaseIsAcceptedOrRefused_4 :
    (let sd : Side := .A
     let s : State := onA { placid.set FC_STAT.MAJOR 1 with fault := { placid.fault with relPending := true, windows := [(0x70, 3), (0x33, 3)] } }
     let x := s.on sd
     let y := { x with fault := { x.fault with relPending := false } }
     decide (s.calmBut sd y = true)
      && decide (x.fault.relPending = true)
      && decide (x.classOf 0x33 ≤ 1)
      && decide (x.classOf 0xA5 ≤ 1)) = true := by decide +kernel

theorem test_majorReleaseIsAcceptedOrRefused_5 :
    (let sd : Side := .A
     let s : State := onA { placid with fault := { placid.fault with mapPending := [(0x33, 0)] } }
     let x := s.on sd
     let y := { x with fault := { x.fault with mapPending := [] } }
     decide (s.calmBut sd y = true)
      && decide (x.fault.mapPending ≠ [])) = true := by decide +kernel

theorem test_majorEventEntersTheMajorState_1 :
    (let sd : Side := .A
     let src : Nat := 0x36
     let s : State := onA (((base.set (FC_MAP.CLASS.bank 0x36) 2).set TW_ROLE.ROLE 1).set TW_ROLE.PEER_FIT 1)
     let x := s.on sd
     decide (x.alive = true)
      && decide (classMapped src = true)
      && decide (src ≠ 0x1B)
      && decide (src ≠ 0x1C)
      && decide (src ≠ 0x5D)
      && decide (src ≠ 0x85)
      && decide (Nat.blt 6 src = true)
      && decide (x.fault.upsets = [])
      && decide (x.fault.injection = none)
      && decide (x.fault.dropped = false)
      && decide (x.fault.log.length < 256)
      && decide (x.fault.top ≤ 2)
      && decide (x.is FC_STAT.MAJOR = false)
      && decide (x.classOf src = 2)
      && decide (x.threshold src = 1)
      && decide (x.countOf src = 0)) = true := by decide +kernel

theorem test_nvmProgramRuns_1 :
    (let sd : Side := .A
     let m : Master := .host
     let v : Word := 1
     let s : State := onA ((((base.set NV_WEN.EN 1).set NV_PROG_SRC.ADDR 0x10000000).set NV_PROG_DST.OFFSET 0x1470000).set NV_PROG_LEN.LEN 256)
     let x := s.on sd
     decide (x.takes m 0x0505C = true)
      && decide (bitAt v.toNat 0 = true)
      && decide (x.is NV_WEN.EN = true)
      && decide (x.nvm.run = none)
      && decide (x.get NV_PROG_SRC.ADDR % 256 = 0)
      && decide (x.get NV_PROG_DST.OFFSET % 4096 = 0)
      && decide (x.get NV_PROG_LEN.LEN % 256 = 0)
      && decide (0x1470000 ≤ x.get NV_PROG_DST.OFFSET)
      && decide (x.get NV_PROG_DST.OFFSET + x.get NV_PROG_LEN.LEN ≤ 0x2000000)
      && decide (0x10000000 ≤ x.get NV_PROG_SRC.ADDR)
      && decide (x.get NV_PROG_SRC.ADDR + x.get NV_PROG_LEN.LEN ≤ 0x10800000)) = true := by decide +kernel

theorem test_nvmProgramRuns_2 :
    (let sd : Side := .A
     let m : Master := .host
     let v : Word := 1
     let s : State := onA base
     let x := s.on sd
     decide (x.takes m 0x0505C = true)
      && decide (bitAt v.toNat 0 = true)
      && decide (x.is NV_WEN.EN = false)) = true := by decide +kernel

theorem test_nvmProgramRuns_3 :
    (let sd : Side := .A
     let m : Master := .host
     let v : Word := 2
     let r : NvmRun := ⟨0x10000000, 0x1470000, 256, 0, false, true, false⟩
     let s : State := onA { base with nvm := { base.nvm with run := some ⟨0x10000000, 0x1470000, 256, 0, false, true, false⟩ } }
     let x := s.on sd
     decide (x.takes m 0x0505C = true)
      && decide (bitAt v.toNat 1 = true)
      && decide (x.nvm.run = some r)) = true := by decide +kernel

theorem test_nvmProgramRuns_4 :
    (let sd : Side := .A
     let r : NvmRun := ⟨0x10000000, 0x1470000, 256, 0, false, true, false⟩
     let s : State := onA { (base.set TH_STAT.NVM_OK 1).wr8 0x10000003 0x55 with nvm := { base.nvm with run := some ⟨0x10000000, 0x1470000, 256, 0, false, true, false⟩ } }
     let x := s.on sd
     decide (x.alive = true)
      && decide (x.nvm.run = some r)
      && decide (r.paused = false)
      && decide (r.stop = false)
      && decide (r.len % 256 = 0)
      && decide (256 * r.done ≤ r.len)) = true := by decide +kernel

theorem test_nvmProgramRuns_5 :
    (let sd : Side := .A
     let r : NvmRun := ⟨0x10000000, 0x1470000, 512, 0, true, true, false⟩
     let s : State := onA { base with nvm := { base.nvm with run := some ⟨0x10000000, 0x1470000, 512, 0, true, true, false⟩ } }
     let x := s.on sd
     decide (x.alive = true)
      && decide (x.nvm.run = some r)
      && decide (r.stop = true)) = true := by decide +kernel

theorem test_nvmProgramRuns_6 :
    (let sd : Side := .A
     let m : Master := .host
     let v : Word := 1
     let s : State := onA (base.set NV_WEN.EN 1)
     let x := s.on sd
     let out := x.get NV_PROG_DST.OFFSET < 0x1470000 ∨ 0x2000000 < x.get NV_PROG_DST.OFFSET + x.get NV_PROG_LEN.LEN
      ∨ x.get NV_PROG_SRC.ADDR < 0x10000000 ∨ 0x10800000 < x.get NV_PROG_SRC.ADDR + x.get NV_PROG_LEN.LEN
     decide (x.takes m 0x0505C = true)
      && decide (bitAt v.toNat 0 = true)
      && decide (x.is NV_WEN.EN = true)
      && decide (x.nvm.run = none)
      && decide (out ∨ x.get NV_PROG_SRC.ADDR % 256 ≠ 0 ∨ x.get NV_PROG_DST.OFFSET % 4096 ≠ 0 ∨ x.get NV_PROG_LEN.LEN % 256 ≠ 0)) = true := by decide +kernel

theorem test_nvmProgramRuns_7 :
    (let sd : Side := .A
     let m : Master := .host
     let v : Word := 1
     let s : State := onA (let y := (((base.set NV_WEN.EN 1).set NV_PROG_SRC.ADDR 0x10000000).set NV_PROG_DST.OFFSET 0x1470000).set NV_PROG_LEN.LEN 256; { y with nvm := { y.nvm with run := some ⟨0x10000000, 0x1470000, 256, 0, false, true, false⟩ } })
     let x := s.on sd
     decide (x.takes m 0x0505C = true)
      && decide (bitAt v.toNat 0 = true)
      && decide (x.is NV_WEN.EN = true)
      && decide (x.nvm.run.isSome = true)
      && decide (x.get NV_PROG_SRC.ADDR % 256 = 0)
      && decide (x.get NV_PROG_DST.OFFSET % 4096 = 0)
      && decide (x.get NV_PROG_LEN.LEN % 256 = 0)
      && decide (0x1470000 ≤ x.get NV_PROG_DST.OFFSET)
      && decide (x.get NV_PROG_DST.OFFSET + x.get NV_PROG_LEN.LEN ≤ 0x2000000)
      && decide (0x10000000 ≤ x.get NV_PROG_SRC.ADDR)
      && decide (x.get NV_PROG_SRC.ADDR + x.get NV_PROG_LEN.LEN ≤ 0x10800000)) = true := by decide +kernel

theorem test_nvmProgramRuns_8 :
    (let sd : Side := .A
     let r : NvmRun := ⟨0x10000000, 0x1470000, 512, 0, false, true, false⟩
     let s : State := onA { base.wr8 0x10000003 0x55 with nvm := { base.nvm with run := some ⟨0x10000000, 0x1470000, 512, 0, false, true, false⟩ } }
     let x := s.on sd
     decide (x.alive = true)
      && decide (x.nvm.run = some r)
      && decide (r.paused = false)) = true := by decide +kernel

theorem test_nvmWindowLetsWritesThrough_1 :
    (let sd : Side := .A
     let s : State := onA ((managed.set TH_STAT.NVM_OK 1).log 0 0x36 1 1 [])
     decide ((s.on sd).managed = true)
      && decide ((s.on sd).nvmOpen = true)) = true := by decide +kernel

theorem test_nvmWindowLetsWritesThrough_2 :
    (let sd : Side := .A
     let first : Nat := 6
     let s : State := onA { managed.set TH_STAT.NVM_OK 1 with fault := { managed.fault with log := [List.replicate 8 0 ++ leBytes 4 6 ++ List.replicate 20 0] } }
     let x := s.on sd
     decide (x.managed = true)
      && decide (x.nvmOpen = true)
      && decide (x.fault.log ≠ [])
      && decide (x.fault.log.length ≤ 256)
      && decide (first + 256 < 2 ^ 32)
      && decide ((x.fault.log.zipIdx.all (fun p => p.1.length == 32 && leNat (slice p.1 8 4) == first + p.2)) = true)) = true := by decide +kernel

theorem test_nvmWindowLetsWritesThrough_3 :
    (let sd : Side := .A
     let s : State := onA ({ base.set TH_STAT.NVM_OK 1 with nvm := { base.nvm with writes := [⟨.park, [1], 0, false, true⟩] } }.set NV_PROG_STAT.RESULT 5)
     decide ((s.on sd).alive = true)
      && decide ((s.on sd).nvmOpen = true)) = true := by decide +kernel

theorem test_nvmWindowLetsWritesThrough_4 :
    (let sd : Side := .A
     let w : RecordWrite := ⟨.keys, [1, 2], 3, false, false⟩
     let rest : List RecordWrite := []
     let s : State := onA { managed with nvm := { managed.nvm with writes := [⟨.keys, [1, 2], 3, false, false⟩] } }
     decide ((s.on sd).managed = true)
      && decide (firstWrite (s.on sd).nvm.writes = some (w, rest))
      && decide (w.kind = .keys)
      && decide ((s.on sd).leads = false)) = true := by decide +kernel

theorem test_nvmWindowLetsWritesThrough_5 :
    (let sd : Side := .A
     let w : RecordWrite := ⟨.calibration, [1, 2], 0, false, false⟩
     let rest : List RecordWrite := []
     let s : State := onA { managed.set TH_STAT.NVM_OK 1 with nvm := { managed.nvm with writes := [⟨.calibration, [1, 2], 0, false, false⟩] } }
     let x := s.on sd
     decide (x.managed = true)
      && decide (firstWrite x.nvm.writes = some (w, rest))
      && decide (w.kind ≠ .keys)
      && decide (x.leads = false)
      && decide (w.payload.length + 16 ≤ w.kind.area.2)
      && decide ((x.copyInForce w.kind.area).all (fun a => decide (x.rd (a + 4) 4 + 1 < 2 ^ 32)) = true)) = true := by decide +kernel

theorem test_nvmWindowLetsWritesThrough_6 :
    (let sd : Side := .A
     let w : RecordWrite := ⟨.calibration, [1, 2], 3, false, false⟩
     let rest : List RecordWrite := []
     let s : State := pair ({ (managed.set TH_STAT.NVM_OK 1).set TW_ROLE.ROLE 1 with nvm := { managed.nvm with writes := [⟨.calibration, [1, 2], 3, false, false⟩] } }) ((other 2).set TH_STAT.NVM_OK 1)
     let x := s.on sd
     let y := s.on sd.peer
     decide (x.managed = true)
      && decide (firstWrite x.nvm.writes = some (w, rest))
      && decide (w.kind ≠ .keys)
      && decide (x.leads = true)
      && decide (w.payload.length + 16 ≤ w.kind.area.2)
      && decide ((x.copyInForce w.kind.area).all (fun a => decide (x.rd (a + 4) 4 + 1 < 2 ^ 32)) = true)
      && decide ((y.copyInForce w.kind.area).all (fun a => decide (y.rd (a + 4) 4 + 1 < 2 ^ 32)) = true)) = true := by decide +kernel

theorem test_nvmWindowLetsWritesThrough_7 :
    (let sd : Side := .A
     let w : RecordWrite := ⟨.keys, [1, 2], 3, false, false⟩
     let rest : List RecordWrite := []
     let s : State := pair ({ (managed.set TH_STAT.NVM_OK 1).set TW_ROLE.ROLE 1 with nvm := { managed.nvm with writes := [⟨.keys, [1, 2], 3, false, false⟩] } }) ((other 2).set TH_STAT.NVM_OK 1)
     let x := s.on sd
     decide (x.managed = true)
      && decide (firstWrite x.nvm.writes = some (w, rest))
      && decide (w.kind = .keys)
      && decide (x.leads = true)) = true := by decide +kernel

theorem test_consoleNotesModulesAndImages_1 :
    (let sd : Side := .A
     let m : Master := .host
     let v : Word := 0x80000001
     let s : State := onA managed
     decide ((s.on sd).takes m 0x07044 = true)
      && decide ((s.on sd).managed = true)
      && decide (bitAt v.toNat 31 = true)
      && decide (bits v.toNat 0 8 = 1)
      && decide ((s.on sd).fault.log.length < 256)) = true := by decide +kernel

theorem test_consoleNotesModulesAndImages_2 :
    (let sd : Side := .A
     let m : Master := .host
     let v : Word := 0x80000003
     let s : State := onA managed
     decide ((s.on sd).takes m 0x07044 = true)
      && decide ((s.on sd).managed = true)
      && decide (bitAt v.toNat 31 = true)
      && decide (bits v.toNat 0 8 ≠ 1)
      && decide (bits v.toNat 0 8 ≠ 2)) = true := by decide +kernel

theorem test_consoleNotesModulesAndImages_3 :
    (let sd : Side := .A
     let m : Master := .host
     let v : Word := 0x80000002
     let s : State := onA managed
     decide ((s.on sd).takes m 0x07044 = true)
      && decide ((s.on sd).managed = true)
      && decide (bitAt v.toNat 31 = true)
      && decide (bits v.toNat 0 8 = 2)) = true := by decide +kernel

theorem test_consoleNotesModulesAndImages_4 :
    (let sd : Side := .A
     let k : Nat := 2
     let s : State := onA ((managed.set RG_MB_CTRL.EN 1).set ⟨0x0F104, 2, 1⟩ 1)
     decide (k < 16)
      && decide ((s.on sd).managed = true)
      && decide ((s.on sd).is RG_MB_CTRL.EN = true)
      && decide ((∀ i ∈ List.range 16, i ≠ k → (s.on sd).is ⟨0x0F104, i, 1⟩ = false))
      && decide ((s.on sd).is ⟨0x0F104, k, 1⟩ = true)) = true := by decide +kernel

theorem test_consoleNotesModulesAndImages_5 :
    (let sd : Side := .A
     let payload : List Byte := []
     let i : Nat := 0
     let s : State := onA { ((managed.set TW_ROLE.ROLE 1).set HM_NET.EN 1) with net := { base.net with imageInbox := [[]] } }
     let x := s.on sd
     decide (x.managed = true)
      && decide (x.leads = true)
      && decide (x.is HM_NET.EN = true)
      && decide (x.net.imageInbox.findIdx? (fun b => carries b payload) = some i)
      && decide (x.imageFrameOk payload = false)) = true := by decide +kernel

theorem test_consoleNotesModulesAndImages_6 :
    (let sd : Side := .A
     let payload : List Byte := goodImage
     let i : Nat := 0
     let s : State := onA { (((managed.set TW_ROLE.ROLE 1).set HM_NET.EN 1).set HM_NET_ADDR.ADDR 0x10000000) with net := { base.net with imageInbox := [goodImage] } }
     let x := s.on sd
     decide (x.managed = true)
      && decide (x.leads = true)
      && decide (x.is HM_NET.EN = true)
      && decide (x.net.imageInbox.findIdx? (fun b => carries b payload) = some i)
      && decide (x.imageFrameOk payload = true)
      && decide ((slice payload 1 1).headD 0 = 1)
      && decide (x.net.imageEnd = none)) = true := by decide +kernel

theorem test_consoleNotesModulesAndImages_7 :
    (let sd : Side := .A
     let payload : List Byte := (let q : List Byte := [1, 2, 0, 0, 0, 0, 0, 4, 0, 0, 0, 0]; q ++ beBytes 4 (crc32c q))
     let i : Nat := 0
     let s : State := onA (let x := (managed.set TW_ROLE.ROLE 1).set HM_NET.EN 1; { x with net := { x.net with imageInbox := [(let q : List Byte := [1, 2, 0, 0, 0, 0, 0, 4, 0, 0, 0, 0]; q ++ beBytes 4 (crc32c q))], imageBlocks := [0] } })
     let x := s.on sd
     let e := beNat (slice payload 4 4)
     decide (x.managed = true)
      && decide (x.leads = true)
      && decide (x.is HM_NET.EN = true)
      && decide (x.is HM_NET.AUTO = false)
      && decide (x.is HM_NET_STAT.DONE = false)
      && decide (x.net.imageInbox.findIdx? (fun b => carries b payload) = some i)
      && decide (x.imageFrameOk payload = true)
      && decide ((slice payload 1 1).headD 0 = 2)
      && decide ((List.range ((e + 1023) / 1024)).all (fun k => x.net.imageBlocks.contains k) = true)) = true := by decide +kernel

theorem test_consoleNotesModulesAndImages_8 :
    (let sd : Side := .A
     let payload : List Byte := goodImage
     let s : State := onA (managed.set TW_ROLE.ROLE 1)
     let x := s.on sd
     decide (x.net.imageInbox.findIdx? (fun b => carries b payload) = none)) = true := by decide +kernel

theorem test_consoleNotesModulesAndImages_9 :
    (let sd : Side := .A
     let r : ModuleRead := ⟨2, List.replicate 256 7, 0⟩
     let s : State := onA (((managed.set RG_MB_CTRL.EN 1).set RG_MB_CTRL.LEN 16).set RG_MB_SEL.MODULE 2)
     let x := s.on sd
     let new := slice r.bytes 0 x.moduleLen
     decide (r.module < 16)
      && decide (x.managed = true)
      && decide (x.is RG_MB_CTRL.EN = true)
      && decide (r.failures < 3)
      && decide (x.moduleLen ≤ r.bytes.length)
      && decide ((∀ i ∈ List.range 16, i ≠ r.module → x.is ⟨0x0F104, i, 1⟩ = false))
      && decide (x.is ⟨0x0F104, r.module, 1⟩ = false ∨ Tab.get? x.nvm.modules r.module ≠ some new)) = true := by decide +kernel

theorem test_consoleNotesModulesAndImages_10 :
    (let sd : Side := .A
     let r : ModuleRead := ⟨2, List.replicate 16 7, 0⟩
     let s : State := onA (let y := (((managed.set RG_MB_CTRL.EN 1).set RG_MB_CTRL.LEN 16).set ⟨0x0F104, 2, 1⟩ 1); { y with nvm := { y.nvm with modules := [(2, List.replicate 16 7)] } })
     let x := s.on sd
     decide (r.module < 16)
      && decide (x.managed = true)
      && decide (x.is RG_MB_CTRL.EN = true)
      && decide (r.failures < 3)
      && decide ((∀ i ∈ List.range 16, i ≠ r.module → x.is ⟨0x0F104, i, 1⟩ = false))
      && decide (x.is ⟨0x0F104, r.module, 1⟩ = true)
      && decide (Tab.get? x.nvm.modules r.module = some (slice r.bytes 0 x.moduleLen))) = true := by decide +kernel

theorem test_consoleNotesModulesAndImages_11 :
    (let sd : Side := .A
     let r : ModuleRead := ⟨2, [], 3⟩
     let s : State := onA (managed.set RG_MB_CTRL.EN 1)
     let x := s.on sd
     decide (r.module < 16)
      && decide (x.managed = true)
      && decide (x.is RG_MB_CTRL.EN = true)
      && decide (3 ≤ r.failures)
      && decide ((∀ i ∈ List.range 16, i ≠ r.module → x.is ⟨0x0F104, i, 1⟩ = false))) = true := by decide +kernel

theorem test_busReadsAndWrites_1 :
    (let sd : Side := .A
     let m : Master := .host
     let key : Nat := 0x06044
     let v : Word := 1
     let s : State := onA base
     let x := s.on sd
     decide (x.alive = true)
      && decide (key < 0x32000)
      && decide (accessReason x.remapped m (0x20000000 + key) 4 true false 1 = none)
      && decide (x.answers key = true)
      && decide (x.regKey key = some key)
      && decide ((rowWrite sd m key v s).isSome = true)) = true := by decide +kernel

theorem test_busReadsAndWrites_2 :
    (let sd : Side := .A
     let m : Master := .host
     let addr : Nat := 0x10000010
     let width : Nat := 4
     let s : State := onA (base.wr8 0x10000013 9)
     let x := s.on sd
     decide (x.alive = true)
      && decide (isWidth width = true)
      && decide (0x10000000 ≤ addr)
      && decide (addr + width ≤ 0x10800000)
      && decide (accessReason x.remapped m addr width true false 1 = none)) = true := by decide +kernel

theorem test_busReadsAndWrites_3 :
    (let sd : Side := .A
     let s : State := onA ((managed.evt 0x0F 1).evt 0x0F 2)
     let x := s.on sd
     decide (x.takes .host 0x0F00C = true)
      && decide (x.leads = false)) = true := by decide +kernel

theorem test_busReadsAndWrites_4 :
    (let sd : Side := .A
     let s : State := onA (managed.set ⟨0x0F010, 3, 1⟩ 1)
     let x := s.on sd
     decide (x.takes .host 0x0F010 = true)
      && decide (x.leads = false)) = true := by decide +kernel

theorem test_busReadsAndWrites_5 :
    (let sd : Side := .A
     let s : State := onA ((managed.set NV_LOG_STAT.LOST 4).set NV_LOG_STAT.BUF 2)
     let x := s.on sd
     decide (x.alive = true)
      && decide (x.answers 0x05078 = true)) = true := by decide +kernel

theorem test_busReadsAndWrites_6 :
    (let sd : Side := .A
     let s : State := onA ((managed.set NV_LOG_STAT.LOST 4).set NV_LOG_STAT.BUF 2)
     let x := s.on sd
     decide (x.alive = true)
      && decide (x.answers 0x05078 = true)) = true := by decide +kernel

theorem test_busReadsAndWrites_7 :
    (let sd : Side := .A
     let s : State := onA (base.set NV_LOG_STAT.LOST 3)
     let x := s.on sd
     decide (x.alive = true)
      && decide (x.answers 0x05078 = true)) = true := by decide +kernel

theorem test_busReadsAndWrites_8 :
    (let sd : Side := .A
     let m : Master := .host
     let addr : Nat := 0x10000000
     let width : Nat := 8
     let s : State := onA (base.wr8 0x10000003 0x55)
     let x := s.on sd
     decide (x.alive = true)
      && decide (isWidth width = true)
      && decide (0x10000000 ≤ addr)
      && decide (addr < 0x10800000)
      && decide (accessReason x.remapped m addr width false false 1 = none)) = true := by decide +kernel

theorem test_busReadsAndWrites_9 :
    (let sd : Side := .A
     let key : Nat := 0x05078
     let s : State := onA (base.set NV_LOG_STAT.LOST 3)
     let x := s.on sd
     decide (x.alive = true)
      && decide (key < 0x40000)
      && decide (key % 4 = 0)
      && decide (x.answers key = true)
      && decide (x.userPage key = false)) = true := by decide +kernel

theorem test_driveValuesReachTheirOutputs_1 :
    (let sd : Side := .A
     let m : Master := .host
     let v : Word := 0x123
     let s : State := onA (owned (rig.set DO_WR_SEL.DO 5) 5 .man)
     let y := (s.on sd).transfer m
     let d := y.get DO_WR_SEL.DO
     decide ((s.on sd).takes m 0x10054 = true)
      && decide (bitAt v.toNat 16 = false)
      && decide (y.mode d ≠ 0)
      && decide (y.own d = .man)
      && decide (y.inRange d = false)) = true := by decide +kernel

theorem test_driveValuesReachTheirOutputs_2 :
    (let sd : Side := .A
     let m : Master := .host
     let v : Word := 0x10123
     let s : State := onA (owned (rig.set DO_WR_SEL.DO 5) 5 .man)
     decide ((s.on sd).takes m 0x10054 = true)
      && decide (bitAt v.toNat 16 = true)) = true := by decide +kernel

theorem test_driveValuesReachTheirOutputs_3 :
    (let sd : Side := .A
     let m : Master := .host
     let v : Word := 0x123
     let s : State := onA (rig.set DO_WR_SEL.DO 5)
     let y := (s.on sd).transfer m
     let d := y.get DO_WR_SEL.DO
     decide ((s.on sd).takes m 0x10054 = true)
      && decide (bitAt v.toNat 16 = false)
      && decide (y.mode d ≠ 0)
      && decide (y.own d ≠ .man)
      && decide (y.get (DG_CNT.FOREIGN.inDriveGroup (driveGroup d)) < 255)) = true := by decide +kernel

theorem test_driveValuesReachTheirOutputs_4 :
    (let sd : Side := .A
     let m : Master := .host
     let g : Nat := 0
     let v : Word := 0x14123
     let s : State := onA { (rig.set DG_CTRL.SCHEME 1).set DG_TMR_AT.BEAT 7 with drive := { rig.drive with timers := [⟨5, 3, 20, 1, false⟩, ⟨6, 3, 20, 1, false⟩] } }
     let y := (s.on sd).transfer m
     let d := g * 64 + bits v.toNat 14 6
     let beat := y.get (DG_TMR_AT.BEAT.inDriveGroup g)
     let delta := (beat + 65536 - y.beatNo % 65536) % 65536
     decide (g < 160)
      && decide ((s.on sd).takes m (DG_TMR_VAL.VALUE.inDriveGroup g).key = true)
      && decide (y.scheme g = 1)
      && decide (y.named d = true)
      && decide (delta ≠ 0)
      && decide (delta ≤ 32767)) = true := by decide +kernel

theorem test_driveValuesReachTheirOutputs_5 :
    (let sd : Side := .A
     let m : Master := .host
     let g : Nat := 0
     let v : Word := 0x14123
     let s : State := onA (rig.set DG_CTRL.SCHEME 1)
     let y := (s.on sd).transfer m
     let delta := (y.get (DG_TMR_AT.BEAT.inDriveGroup g) + 65536 - y.beatNo % 65536) % 65536
     decide (g < 160)
      && decide ((s.on sd).takes m (DG_TMR_VAL.VALUE.inDriveGroup g).key = true)
      && decide (y.scheme g = 1)
      && decide (y.named (g * 64 + bits v.toNat 14 6) = true)
      && decide (delta = 0 ∨ 32767 < delta)
      && decide (y.get (DG_CNT.LATE.inDriveGroup g) < 255)) = true := by decide +kernel

theorem test_driveValuesReachTheirOutputs_6 :
    (let sd : Side := .A
     let d : Nat := 5
     let tm : Timer := ⟨5, 0, 30, 77, false⟩
     let s : State := onA { owned rig 5 .man with drive := { (owned rig 5 .man).drive with timers := [⟨5, 0, 30, 77, false⟩] } }
     let x := s.on sd
     decide (x.alive = true)
      && decide (x.drive.timers.find? (fun (q : Timer) => q.dout == d && x.timerDue q) = some tm)
      && decide (x.mode d ≠ 0)
      && decide (x.own d = (if tm.cal then .cal else .man))
      && decide (x.inRange d = false)) = true := by decide +kernel

theorem test_driveValuesReachTheirOutputs_7 :
    (let sd : Side := .A
     let m : Master := .host
     let g : Nat := 0
     let s : State := onA (rig.set DG_CTRL.SCHEME 2)
     let y := (s.on sd).transfer m
     let q := Tab.getD y.drive.fifo g []
     decide (g < 160)
      && decide ((s.on sd).takes m (DG_FIFO.ENTRY.inDriveGroup g).key = true)
      && decide (y.scheme g = 2)
      && decide (q.length < 256)) = true := by decide +kernel

theorem test_driveValuesReachTheirOutputs_8 :
    (let sd : Side := .A
     let m : Master := .host
     let g : Nat := 0
     let s : State := onA { rig.set DG_CTRL.SCHEME 2 with drive := { rig.drive with fifo := [(0, List.replicate 256 0)] } }
     let y := (s.on sd).transfer m
     decide (g < 160)
      && decide ((s.on sd).takes m (DG_FIFO.ENTRY.inDriveGroup g).key = true)
      && decide (y.scheme g = 2)
      && decide (256 ≤ (Tab.getD y.drive.fifo g []).length)
      && decide (y.get (DG_CNT.OVF.inDriveGroup g) < 255)) = true := by decide +kernel

theorem test_driveValuesReachTheirOutputs_9 :
    (let sd : Side := .A
     let r : StagedDo := ⟨5, 77, 11, .man⟩
     let s : State := onA { owned placid 5 .man with drive := { (owned placid 5 .man).drive with staged := [⟨5, 77, 11, .man⟩] } }
     let x := s.on sd
     let y := { x with drive := { x.drive with staged := [] } }
     decide (s.calmBut sd y = true)
      && decide (x.drive.staged = [r])
      && decide (r.due ≤ x.produced + 1)) = true := by decide +kernel

theorem test_driveValuesReachTheirOutputs_10 :
    (let sd : Side := .A
     let r : StagedDo := ⟨5, 77, 30, .man⟩
     let s : State := onA { placid with drive := { placid.drive with staged := [⟨5, 77, 30, .man⟩] } }
     let x := s.on sd
     let y := { x with drive := { x.drive with staged := [] } }
     decide (s.calmBut sd y = true)
      && decide (x.drive.staged = [r])
      && decide (x.produced + 1 < r.due)) = true := by decide +kernel

theorem test_queueTickAppliesOneBatch_1 :
    (let sd : Side := .A
     let g : Nat := 0
     let w : Word := 0x114123
     let rest : List Word := [3]
     let s : State := onA (let x := owned (rig.set DG_CTRL.SCHEME 2) 5 .man; { x with win := .loop, drive := { x.drive with fifo := [(0, [0x114123, 3])], tones := [(0, { en := true, dout := 7, ftw := 5, amp := 9 })] } })
     let x := s.on sd
     let d := g * 64 + bits w.toNat 14 6
     decide (g < 160)
      && decide (x.alive = true)
      && decide (x.scheme g = 2)
      && decide (x.win ≠ .edge)
      && decide (x.ticksDone g < x.ticksPerBeat g)
      && decide (Tab.getD x.drive.fifo g [] = w :: rest)
      && decide (bitAt w.toNat 20 = true)
      && decide (x.mode d ≠ 0)
      && decide (x.own d = (if bitAt w.toNat 21 then .cal else .man))
      && decide (x.inRange d = false)) = true := by decide +kernel

theorem test_queueTickAppliesOneBatch_2 :
    (let sd : Side := .A
     let g : Nat := 0
     let s : State := onA (let x := owned (rig.set DG_CTRL.SCHEME 2) 5 .man; { x with win := .loop, drive := { x.drive with fifo := [(0, [0x014123, 3])], tones := [(0, { en := true, dout := 7, ftw := 5, amp := 9 })] } })
     let x := s.on sd
     decide (g < 160)
      && decide (x.alive = true)
      && decide (x.scheme g = 2)
      && decide (x.win ≠ .edge)
      && decide (x.ticksDone g < x.ticksPerBeat g)
      && decide (Tab.getD x.drive.fifo g [] ≠ [])
      && decide ((Tab.getD x.drive.fifo g []).all (fun w => !bitAt w.toNat 20) = true)
      && decide (x.get (DG_CNT.UNDER.inDriveGroup g) < 255)) = true := by decide +kernel

theorem test_queueTickAppliesOneBatch_3 :
    (let sd : Side := .A
     let g : Nat := 0
     let s : State := onA (rig.set DG_CTRL.SCHEME 2)
     let x := s.on sd
     decide (x.win = .edge ∨ x.ticksPerBeat g ≤ x.ticksDone g)) = true := by decide +kernel

theorem test_schemesAndTonesWaitForTheirBoundary_1 :
    (let sd : Side := .A
     let m : Master := .host
     let g : Nat := 17
     let v : Word := 6
     let s : State := onA rig
     let y := (s.on sd).transfer m
     decide (g < 160)
      && decide ((s.on sd).takes m (DG_CTRL.SCHEME.inDriveGroup g).key = true)
      && decide (bits v.toNat 0 2 ≠ 1 ∨ y.tAvail = true)) = true := by decide +kernel

theorem test_schemesAndTonesWaitForTheirBoundary_2 :
    (let sd : Side := .A
     let m : Master := .host
     let g : Nat := 17
     let v : Word := 5
     let s : State := onA (rig.set RG_USED.DO_USED 1153)
     let y := (s.on sd).transfer m
     decide (g < 160)
      && decide ((s.on sd).takes m (DG_CTRL.SCHEME.inDriveGroup g).key = true)
      && decide (bits v.toNat 0 2 = 1)
      && decide (y.tAvail = false)) = true := by decide +kernel

theorem test_schemesAndTonesWaitForTheirBoundary_3 :
    (let sd : Side := .A
     let m : Master := .host
     let v : Word := 0x00050001
     let s : State := onA (((rig.set DG_CTRL.SCHEME 2).set DO_TG_SEL.GEN 3).set (DO_TG_FTW.FTW.bank 3) 99)
     let y := (s.on sd).transfer m
     let g := y.get DO_TG_SEL.GEN
     let w := ((y.set (DO_TG_CTRL.EN.bank g) v.toNat).set (DO_TG_CTRL.PILOT.bank g) (bits v.toNat 1 1)).set (DO_TG_CTRL.DO.bank g) (bits v.toNat 16 14)
     decide ((s.on sd).takes m 0x12044 = true)
      && decide (w.toneRefused g (w.stagedTone g) = false)) = true := by decide +kernel

theorem test_schemesAndTonesWaitForTheirBoundary_4 :
    (let sd : Side := .A
     let m : Master := .host
     let v : Word := 0x00050003
     let s : State := onA (rig.set DO_TG_SEL.GEN 3)
     let y := (s.on sd).transfer m
     let g := y.get DO_TG_SEL.GEN
     let w := ((y.set (DO_TG_CTRL.EN.bank g) v.toNat).set (DO_TG_CTRL.PILOT.bank g) (bits v.toNat 1 1)).set (DO_TG_CTRL.DO.bank g) (bits v.toNat 16 14)
     decide ((s.on sd).takes m 0x12044 = true)
      && decide (w.toneRefused g (w.stagedTone g) = true)) = true := by decide +kernel

theorem test_schemesAndTonesWaitForTheirBoundary_5 :
    (let sd : Side := .A
     let g : Nat := 0
     let old : Nat := 1
     let s : State := onA { placid with drive := { placid.drive with schemeOld := [(0, 1)], fifo := [(0, [5])], timers := [⟨5, 20, 0, 3, false⟩] } }
     let x := s.on sd
     let y := { x with drive := { x.drive with schemeOld := [] } }
     decide (s.calmBut sd y = true)
      && decide (x.drive.schemeOld = [(g, old)])
      && decide (g < 160)) = true := by decide +kernel

theorem test_schemesAndTonesWaitForTheirBoundary_6 :
    (let sd : Side := .A
     let p : TonePending := ⟨2, { ({} : ToneGen) with en := true, dout := 5, amp := 3, phase0 := 9 }, false, none⟩
     let s : State := onA { placid with drive := { placid.drive with tonePending := [⟨2, { ({} : ToneGen) with en := true, dout := 5, amp := 3, phase0 := 9 }, false, none⟩] } }
     let x := s.on sd
     let y := { x with drive := { x.drive with tonePending := [] } }
     decide (s.calmBut sd y = true)
      && decide (x.leads = true)
      && decide (x.drive.tonePending = [p])
      && decide (p.blockOnly = false)
      && decide (p.phase = none)
      && decide (p.gen < 1024)) = true := by decide +kernel

theorem test_schemesAndTonesWaitForTheirBoundary_7 :
    (let sd : Side := .A
     let p : TonePending := ⟨2, { ({} : ToneGen) with en := true, dout := 5, amp := 3, phase0 := 9 }, true, none⟩
     let s : State := onA { placid with drive := { placid.drive with tonePending := [⟨2, { ({} : ToneGen) with en := true, dout := 5, amp := 3, phase0 := 9 }, true, none⟩] } }
     let x := s.on sd
     let y := { x with drive := { x.drive with tonePending := [] } }
     decide (s.calmBut sd y = true)
      && decide (x.drive.tonePending = [p])
      && decide (p.blockOnly = true)
      && decide (p.phase = none)) = true := by decide +kernel

theorem test_parkCommitsAndModeChangesStart_1 :
    (parkState.on .A).holds .host 0x11040 1 = true ∧ (1 : Word).toNat % 2 = 1
      ∧ ((parkState.on .A).paired .host 0x11040 1).leads = true
      ∧ ((parkState.on .A).paired .host 0x11040 1).parkReject (parkState.bothNvmOpen .A) = 0 := by
  refine ⟨by decide +kernel, by decide, by decide +kernel, ?_⟩
  have e : leNat (slice ((parkState.on .A).paired .host 0x11040 1).parkBytes 0 4) = 0 := by
    rw [SideState.parkBytes, rdBytes_slice _ _ _ _ _ (by decide), rdBytes_congr _ rig]
    · decide +kernel
    · intro i hi
      have h := rig.rd8_wrBytes_out (parkBase + 40976) (parkBase + 0 + i) (leBytes 4 (crc32c (rig.rdBytes parkBase 40976)))
        (Or.inl (by omega))
      simpa only [SideState.rd8, parkState_mem] using h
  unfold SideState.parkReject
  dsimp only
  rw [parkCrcOk_written rig _ parkState_mem, e]
  decide +kernel

theorem test_parkCommitsAndModeChangesStart_2 :
    let s : State := onA (halved (rig.set RG_IMG_CRC.CRC 1) 0x11040 1)
    let y := (s.on .A).paired .host 0x11040 1
    (s.on .A).holds .host 0x11040 1 = true ∧ (1 : Word).toNat % 2 = 1 ∧ y.leads = true ∧ y.parkReject (s.bothNvmOpen .A) ≠ 0 := by
  refine ⟨by decide +kernel, by decide, by decide +kernel, ?_⟩
  have e : ∀ y : SideState, slice y.parkBytes 0 4 = y.rdBytes parkBase 4 := fun y => rdBytes_slice _ _ _ _ _ (by decide)
  unfold SideState.parkReject
  dsimp only
  rw [e]
  rw [if_pos (c := leNat _ ≠ _) (by decide +kernel)]
  split <;> decide

theorem test_parkCommitsAndModeChangesStart_3 :
    (let sd : Side := .A
     let m : Master := .host
     let v : Word := 0x80020005
     let s : State := onA (rig.tset DT.LOOP 5 0xFFFF)
     let y := (s.on sd).transfer m
     let d := bits v.toNat 0 14
     let w := ((y.set DO_RANGE_REQ.DO d).set DO_RANGE_REQ.MODE (bits v.toNat 16 2)).set DO_RANGE_STAT.DO d
     decide ((s.on sd).takes m 0x11050 = true)
      && decide (bitAt v.toNat 31 = true)
      && decide (y.drive.range = none)
      && decide ((w.loopOf d).all (fun l => !w.tis LT.EN l) = true)
      && decide (w.elementUsed d = false)
      && decide (w.named d = true)
      && decide (w.toneOn d = none)) = true := by decide +kernel

theorem test_parkCommitsAndModeChangesStart_4 :
    (let sd : Side := .A
     let m : Master := .host
     let v : Word := 0x80020005
     let l : Nat := 0
     let s : State := onA (rig.tset LT.EN 0 1)
     let y := (s.on sd).transfer m
     let d := bits v.toNat 0 14
     let w := ((y.set DO_RANGE_REQ.DO d).set DO_RANGE_REQ.MODE (bits v.toNat 16 2)).set DO_RANGE_STAT.DO d
     decide ((s.on sd).takes m 0x11050 = true)
      && decide (bitAt v.toNat 31 = true)
      && decide (w.loopOf d = some l)
      && decide (w.tis LT.EN l = true)) = true := by decide +kernel

theorem test_complianceAndHeaterReadings_1 :
    (let sd : Side := .A
     let d : Nat := 6
     let s : State := onA rig
     let x := s.on sd
     decide (x.alive = true)
      && decide (x.drives = true)
      && decide (x.mode d ≠ 0)) = true := by decide +kernel

theorem test_complianceAndHeaterReadings_2 :
    (let sd : Side := .A
     let m : Master := .host
     let v : Word := 0x80000005
     let s : State := onA (owned (rig.putBase 5 900) 5 .man)
     let x := s.on sd
     let d := bits v.toNat 0 14
     decide (x.takes m 0x13070 = true)
      && decide (bitAt v.toNat 31 = true)
      && decide (x.heaterCurrentOk d = true)) = true := by decide +kernel

theorem test_complianceAndHeaterReadings_3 :
    (let sd : Side := .A
     let m : Master := .host
     let v : Word := 0x80000005
     let s : State := onA rig
     let x := s.on sd
     decide (x.takes m 0x13070 = true)
      && decide (bitAt v.toNat 31 = true)
      && decide (x.heaterCurrentOk (bits v.toNat 0 14) = false)) = true := by decide +kernel

theorem test_complianceAndHeaterReadings_4 :
    (let sd : Side := .A
     let readings : List (Nat × Nat) := List.replicate 16 (100, 5000)
     let d : Nat := 5
     let start : Nat := 0
     let s : State := onA { rig with produced := 1024, drive := { rig.drive with rmeas := some (5, 0), pinCodes := [(5, List.replicate 16 900)] } }
     let x := s.on sd
     decide (x.alive = true)
      && decide (x.drive.rmeas = some (d, start))
      && decide (start + 1024 ≤ x.produced)
      && decide (readings.length = 16)
      && decide (x.heaterRead d = true)) = true := by decide +kernel

theorem test_complianceAndHeaterReadings_5 :
    (let sd : Side := .A
     let d : Nat := 5
     let readings : List (Nat × Nat) := List.replicate 16 (100, 5000)
     let s : State := onA { (rig.set HM_STAT.RUN 1).set HM_STAT.WDOG_OK 1 with drive := { rig.drive with pinCodes := [(5, List.replicate 16 900)] } }
     let x := s.on sd
     decide (x.managed = true)
      && decide (readings.length = 16)
      && decide (x.heaterRead d = true)) = true := by decide +kernel

theorem test_overridesAreNotedOrRefused_1 :
    (let sd : Side := .A
     let m : Master := .host
     let v : Word := 0x80010005
     let s : State := onA rig
     let y := (s.on sd).transfer m
     let d := bits v.toNat 0 14
     decide ((s.on sd).takes m 0x16058 = true)
      && decide (bitAt v.toNat 31 = true)
      && decide (bits v.toNat 16 2 = 1)
      && decide (y.takeRefused d (bitAt v.toNat 14) = 0)) = true := by decide +kernel

theorem test_overridesAreNotedOrRefused_2 :
    (let sd : Side := .A
     let m : Master := .host
     let v : Word := 0x80010105
     let s : State := onA rig
     let y := (s.on sd).transfer m
     let r := y.takeRefused (bits v.toNat 0 14) (bitAt v.toNat 14)
     decide ((s.on sd).takes m 0x16058 = true)
      && decide (bitAt v.toNat 31 = true)
      && decide (bits v.toNat 16 2 = 1)
      && decide (r ≠ 0)) = true := by decide +kernel

theorem test_overridesAreNotedOrRefused_3 :
    (let sd : Side := .A
     let m : Master := .host
     let v : Word := 0x80020005
     let s : State := onA (owned rig 5 .man)
     let d := bits v.toNat 0 14
     decide ((s.on sd).takes m 0x16058 = true)
      && decide (bitAt v.toNat 31 = true)
      && decide (bits v.toNat 16 2 = 2)
      && decide ((s.on sd).own d = .man)) = true := by decide +kernel

theorem test_overridesAreNotedOrRefused_4 :
    (let sd : Side := .A
     let m : Master := .host
     let v : Word := 0x80020005
     let s : State := onA rig
     decide ((s.on sd).takes m 0x16058 = true)
      && decide (bitAt v.toNat 31 = true)
      && decide (bits v.toNat 16 2 = 2)
      && decide ((s.on sd).own (bits v.toNat 0 14) ≠ .man)) = true := by decide +kernel

theorem test_overridesAreNotedOrRefused_5 :
    (let sd : Side := .A
     let d : Nat := 5
     let light : Bool := false
     let s : State := onA { placid with drive := { placid.drive with overrides := [(5, (true, false))] } }
     let x := s.on sd
     let y := { x with drive := { x.drive with overrides := [] } }
     decide (s.calmBut sd y = true)
      && decide (x.drive.overrides = [(d, (true, light))])) = true := by decide +kernel

theorem test_overridesAreNotedOrRefused_6 :
    (let sd : Side := .A
     let d : Nat := 5
     let light : Bool := false
     let s : State := onA { owned placid 5 .man with drive := { (owned placid 5 .man).drive with overrides := [(5, (false, false))] } }
     let x := s.on sd
     let y := { x with drive := { x.drive with overrides := [] } }
     decide (s.calmBut sd y = true)
      && decide (x.drive.overrides = [(d, (false, light))])
      && decide (x.own d = .man)) = true := by decide +kernel

theorem test_slotsGiveSampleWords_1 :
    (let sd : Side := .A
     let conv : Nat := 1
     let slot : Nat := 0
     let p : Nat := 0
     let r : Nat := 2000
     let s : State := onA mon
     let x := s.on sd
     let mi := conv * 64 + (x.slotMap conv).getD p 0
     let code := (clampInt 0 4095 (x.corrected conv mi r)).toNat
     decide (x.alive = true)
      && decide (conv < 96)
      && decide (slot < 80)
      && decide (primaryPosition slot = some p)
      && decide (x.is MI_STAT.CONV_RUN = true)
      && decide (x.is MI_STAT.FE_CONN = true)
      && decide (x.miNamed mi = true)
      && decide ((x.chan mi).settle = 0)
      && decide ((x.chan mi).cross = none)
      && decide (r < 4080)
      && decide (x.corrected conv mi r ≤ 4095)
      && decide (380 < code)) = true := by decide +kernel

theorem test_slotsGiveSampleWords_2 :
    (let sd : Side := .A
     let conv : Nat := 1
     let slot : Nat := 0
     let p : Nat := 0
     let s : State := onA (mon.setChan 64 (fun c => { c with settle := 2 }))
     let x := s.on sd
     let mi := conv * 64 + (x.slotMap conv).getD p 0
     decide (x.alive = true)
      && decide (conv < 96)
      && decide (slot < 80)
      && decide (primaryPosition slot = some p)
      && decide (x.is MI_STAT.CONV_RUN = true)
      && decide (x.is MI_STAT.FE_CONN = true)
      && decide (x.miNamed mi = true)
      && decide ((x.chan mi).settle ≠ 0)
      && decide ((x.chan mi).cross = none)) = true := by decide +kernel

theorem test_slotsGiveSampleWords_3 :
    (let sd : Side := .A
     let conv : Nat := 1
     let slot : Nat := 0
     let p : Nat := 0
     let s : State := onA (mon.tset MT.AUTORANGE 64 1)
     let x := s.on sd
     let mi := conv * 64 + (x.slotMap conv).getD p 0
     decide (x.alive = true)
      && decide (conv < 96)
      && decide (slot < 80)
      && decide (primaryPosition slot = some p)
      && decide ((x.slotMap conv).getD p 0 < 64)
      && decide (x.is MI_STAT.CONV_RUN = true)
      && decide (x.is MI_STAT.FE_CONN = true)
      && decide (x.miNamed mi = true)
      && decide ((x.chan mi).settle = 0)
      && decide ((x.chan mi).cross = none)
      && decide (x.tis MT.AUTORANGE mi = true)
      && decide ((x.chan mi).range ≠ 0)
      && decide (x.autorangeFree (x.chan mi) = true)
      && decide (x.get (MG_CNT.CLIP.inMonGroup conv) < 255)) = true := by decide +kernel

theorem test_slotsGiveSampleWords_4 :
    (let sd : Side := .A
     let conv : Nat := 1
     let slot : Nat := 0
     let p : Nat := 0
     let s : State := onA mon
     let x := s.on sd
     let mi := conv * 64 + (x.slotMap conv).getD p 0
     decide (x.alive = true)
      && decide (conv < 96)
      && decide (slot < 80)
      && decide (primaryPosition slot = some p)
      && decide (x.is MI_STAT.CONV_RUN = true)
      && decide ((x.chan mi).cross = none)
      && decide (x.get (MG_CNT.MISSED.inMonGroup conv) < 255)) = true := by decide +kernel

theorem test_slotsGiveSampleWords_5 :
    (let sd : Side := .A
     let s : State := onA { mon with mon := { mon.mon with filling := [(64, 5)] } }
     let x := s.on sd
     decide (x.alive = true)
      && decide (x.win = .edge)
      && decide (x.mon.bankAt ≠ some x.produced)) = true := by decide +kernel

theorem test_slotsGiveSampleWords_6 :
    (let sd : Side := .A
     let s : State := onA { mon with win := .loop }
     let x := s.on sd
     decide (x.win ≠ .edge ∨ x.mon.bankAt = some x.produced)) = true := by decide +kernel

theorem test_slotMapsAndChannelsAreStaged_1 :
    (let sd : Side := .A
     let m : Master := .host
     let v : Word := 3
     let s : State := onA base
     decide ((s.on sd).takes m 0x15040 = true)
      && decide (bits v.toNat 0 7 < 96)) = true := by decide +kernel

theorem test_slotMapsAndChannelsAreStaged_2 :
    (let sd : Side := .A
     let m : Master := .host
     let v : Word := 1
     let s : State := onA (mapped.set MI_SMAP_SEL.GROUP 95)
     let y := (s.on sd).transfer m
     let g := y.get MI_SMAP_SEL.GROUP
     decide ((s.on sd).takes m 0x150C0 = true)
      && decide (v.toNat % 2 = 1)
      && decide (g < 96)
      && decide (isSlotMap y.stagedMap = true)) = true := by decide +kernel

theorem test_slotMapsAndChannelsAreStaged_3 :
    (let sd : Side := .A
     let m : Master := .host
     let v : Word := 1
     let s : State := onA (base.set MI_SMAP.CH0 5)
     let y := (s.on sd).transfer m
     let g := y.get MI_SMAP_SEL.GROUP
     decide ((s.on sd).takes m 0x150C0 = true)
      && decide (v.toNat % 2 = 1)
      && decide (96 ≤ g ∨ isSlotMap y.stagedMap = false)) = true := by decide +kernel

theorem test_slotMapsAndChannelsAreStaged_4 :
    (let sd : Side := .A
     let m : Master := .host
     let v : Word := 0x80000006
     let s : State := onA (mon.set MI_CH_SEL.MI 64)
     let y := (s.on sd).transfer m
     let mi := y.get MI_CH_SEL.MI
     decide ((s.on sd).takes m 0x14054 = true)
      && decide (bitAt v.toNat 31 = true)
      && decide (y.miNamed mi = true)) = true := by decide +kernel

theorem test_slotMapsAndChannelsAreStaged_5 :
    (let sd : Side := .A
     let p : SlotMapPending := ⟨1, [3, 2], 11⟩
     let s : State := onA { placid with mon := { placid.mon with mapPending := [⟨1, [3, 2], 11⟩] } }
     let x := s.on sd
     let y := { x with mon := { x.mon with mapPending := [] } }
     decide (s.calmBut sd y = true)
      && decide (x.mon.mapPending = [p])
      && decide (p.due ≤ x.produced + 1)) = true := by decide +kernel

theorem test_slotMapsAndChannelsAreStaged_6 :
    (let sd : Side := .A
     let p : ChannelPending := ⟨64, 2, true, 11⟩
     let s : State := onA { placid with mon := { placid.mon with setPending := [⟨64, 2, true, 11⟩] } }
     let x := s.on sd
     let y := { x with mon := { x.mon with setPending := [] } }
     decide (s.calmBut sd y = true)
      && decide (x.mon.setPending = [p])
      && decide (p.due ≤ x.produced + 1)) = true := by decide +kernel

theorem test_slotMapsAndChannelsAreStaged_7 :
    (let sd : Side := .A
     let p : ChannelPending := ⟨64, 2, true, 30⟩
     let q : SlotMapPending := ⟨1, [3, 2], 30⟩
     let s : State := onA { placid with mon := { placid.mon with setPending := [⟨64, 2, true, 30⟩], mapPending := [⟨1, [3, 2], 30⟩] } }
     let x := s.on sd
     let y := { x with mon := { x.mon with setPending := [], mapPending := [] } }
     decide (s.calmBut sd y = true)
      && decide (x.mon.setPending = [p])
      && decide (x.mon.mapPending = [q])
      && decide (x.produced + 1 < p.due)
      && decide (x.produced + 1 < q.due)) = true := by decide +kernel

theorem test_tuningRetriesAndReleasesStart_1 :
    (let sd : Side := .A
     let m : Master := .host
     let v : Word := 0x80050000
     let s : State := onA (owned (looped rig) 5 .loop)
     let y := ((s.on sd).transfer m).writeRw 0x17044 v.toNat
     let l := bits v.toNat 0 13
     let d := y.t LT.DO l
     decide ((s.on sd).takes m 0x17044 = true)
      && decide (bitAt v.toNat 31 = true)
      && decide (y.loops.tunes.any (fun q => q.loop % 32 == l % 32) = false)
      && decide (l < y.loopCount)
      && decide (y.own d = .loop)
      && decide ((y.elementLit d && !y.is HL_AT_CTRL.LIVE) = false)
      && decide (y.get TH_STAT.STEP = 0)
      && decide (y.loops.tunes.length < 63)) = true := by decide +kernel

theorem test_tuningRetriesAndReleasesStart_2 :
    (let sd : Side := .A
     let m : Master := .host
     let v : Word := 0x80050000
     let s : State := onA { rig with loops := { rig.loops with tunes := [run] } }
     let l := bits v.toNat 0 13
     decide ((s.on sd).takes m 0x17044 = true)
      && decide (bitAt v.toNat 31 = true)
      && decide ((s.on sd).loops.tunes.any (fun q => q.loop % 32 == l % 32) = true)) = true := by decide +kernel

theorem test_tuningRetriesAndReleasesStart_3 :
    (let sd : Side := .A
     let loop : Nat := 0
     let r : TuneRun := run
     let s : State := onA { owned (looped rig) 5 .tune with loops := { rig.loops with tunes := [run] }, produced := 100000 }
     let x := s.on sd
     decide (x.alive = true)
      && decide (x.loops.tunes.find? (fun q => q.loop == loop && q.started) = some r)
      && decide (r.start + x.get HL_AT_CTRL.TMAX ≤ x.produced)
      && decide (x.loops.tunes.all (fun q => q.dout != r.dout || q.loop == r.loop) = true)
      && decide (x.own r.dout = .tune)
      && decide ((x.loopOf r.dout).all (fun l => !x.entryBad l) = true)) = true := by decide +kernel

theorem test_tuningRetriesAndReleasesStart_4 :
    (let sd : Side := .A
     let m : Master := .host
     let v : Word := 0x80000000
     let s : State := onA (owned ((celled (rig.set RG_COUNT.CELLS 4)).tset ET.HO 0 3) 5 .eoHold)
     let y := (s.on sd).transfer m
     let c := bits v.toNat 0 13
     decide ((s.on sd).takes m 0x0D070 = true)
      && decide (bitAt v.toNat 31 = true)
      && decide (c < y.cells)
      && decide (y.cellStalled c = true)
      && decide (y.cellAhead c = false)
      && decide (y.leads = true)
      && decide (y.scene.retries.contains c = false)) = true := by decide +kernel

theorem test_tuningRetriesAndReleasesStart_5 :
    (let sd : Side := .A
     let m : Master := .host
     let v : Word := 0x80000000
     let s : State := onA rig
     let y := (s.on sd).transfer m
     decide ((s.on sd).takes m 0x0D070 = true)
      && decide (bitAt v.toNat 31 = true)
      && decide (y.cellStalled (bits v.toNat 0 13) = false)) = true := by decide +kernel

theorem test_tuningRetriesAndReleasesStart_6 :
    (let sd : Side := .A
     let m : Master := .host
     let v : Word := 0x80000002
     let s : State := onA { rig with scene := { rig.scene with missDark := [1, 2] } }
     let y := (s.on sd).transfer m
     let q := bits v.toNat 0 9
     decide ((s.on sd).takes m 0x0D078 = true)
      && decide (bitAt v.toNat 31 = true)
      && decide (y.scene.missDark.contains q = true)
      && decide ((y.fabric.pathTo y.activeView q).any (fun h => y.watch.declared.contains h.cell) = false)) = true := by decide +kernel

theorem test_tuningRetriesAndReleasesStart_7 :
    (let sd : Side := .A
     let m : Master := .host
     let v : Word := 0x80000002
     let s : State := onA rig
     decide ((s.on sd).takes m 0x0D078 = true)
      && decide (bitAt v.toNat 31 = true)
      && decide ((s.on sd).scene.missDark.contains (bits v.toNat 0 9) = false)) = true := by decide +kernel

theorem test_calibrationRequestsAreQueued_1 :
    (let sd : Side := .A
     let m : Master := .host
     let v : Word := 0x80000005
     let k : RunKind := .trim
     let s : State := onA (works (calm rig))
     let y := ((s.on sd).transfer m).writeRw 0x0E054 v.toNat
     let d := bits v.toNat 0 14
     decide ((s.on sd).takes m 0x0E054 = true)
      && decide ((s.on sd).managed = true)
      && decide (bitAt v.toNat 31 = true)
      && decide (bits v.toNat 14 2 = k.code)
      && decide (y.calRefused d = 0)
      && decide (y.cal.queue.any (fun q => q.dout == d && q.kind == k) = false)) = true := by decide +kernel

theorem test_calibrationRequestsAreQueued_2 :
    (let sd : Side := .A
     let m : Master := .host
     let v : Word := 0x80000007
     let k : RunKind := .trim
     let s : State := onA (works (calm rig))
     let y := ((s.on sd).transfer m).writeRw 0x0E054 v.toNat
     let r := y.calRefused (bits v.toNat 0 14)
     decide ((s.on sd).takes m 0x0E054 = true)
      && decide ((s.on sd).managed = true)
      && decide (bitAt v.toNat 31 = true)
      && decide (bits v.toNat 14 2 = k.code)
      && decide (r ≠ 0)) = true := by decide +kernel

theorem test_calibrationRequestsAreQueued_3 :
    (let sd : Side := .A
     let m : Master := .host
     let v : Word := 0x8000C000
     let s : State := onA (works (calm rig))
     let x := s.on sd
     decide (x.takes m 0x0E054 = true)
      && decide (x.managed = true)
      && decide (bitAt v.toNat 31 = true)
      && decide (bits v.toNat 14 2 = 3)
      && decide (x.cal.trimRound = none)
      && decide (x.get TH_STAT.STEP = 0)) = true := by decide +kernel

theorem test_calibrationRequestsAreQueued_4 :
    (let sd : Side := .A
     let m : Master := .host
     let v : Word := 0x80000005
     let s : State := onA (works (calm rig))
     let x := s.on sd
     let y := (x.transfer m).writeRw 0x0E054 v.toNat
     let d := bits v.toNat 0 14
     decide (x.takes m 0x0E054 = true)
      && decide (x.managed = true)
      && decide (bitAt v.toNat 31 = true)
      && decide (bits v.toNat 14 2 = 0)
      && decide (y.calRefused d = 0)
      && decide (y.cal.queue.any (fun q => q.dout == d && q.kind == .trim) = false)) = true := by decide +kernel

theorem test_calibrationRequestsAreQueued_5 :
    (let sd : Side := .A
     let m : Master := .host
     let v : Word := 0x80004005
     let s : State := onA (works (calm rig))
     let x := s.on sd
     let y := (x.transfer m).writeRw 0x0E054 v.toNat
     let d := bits v.toNat 0 14
     decide (x.takes m 0x0E054 = true)
      && decide (x.managed = true)
      && decide (bitAt v.toNat 31 = true)
      && decide (bits v.toNat 14 2 = 1)
      && decide (y.calRefused d = 0)
      && decide (y.cal.queue.any (fun q => q.dout == d && q.kind == .survey) = false)) = true := by decide +kernel

theorem test_calibrationRequestsAreQueued_6 :
    (let sd : Side := .A
     let m : Master := .host
     let v : Word := 0x80008005
     let s : State := onA (works (calm rig))
     let x := s.on sd
     let y := (x.transfer m).writeRw 0x0E054 v.toNat
     let d := bits v.toNat 0 14
     decide (x.takes m 0x0E054 = true)
      && decide (x.managed = true)
      && decide (bitAt v.toNat 31 = true)
      && decide (bits v.toNat 14 2 = 2)
      && decide (y.calRefused d = 0)
      && decide (y.cal.queue.any (fun q => q.dout == d && q.kind == .probe) = false)) = true := by decide +kernel

theorem test_calibrationRequestsAreQueued_7 :
    (let sd : Side := .A
     let m : Master := .host
     let v : Word := 0x8000C000
     let s : State := onA ((works (calm rig)).set TH_STAT.STEP 1)
     let x := s.on sd
     decide (x.takes m 0x0E054 = true)
      && decide (x.managed = true)
      && decide (bitAt v.toNat 31 = true)
      && decide (bits v.toNat 14 2 = 3)
      && decide (x.cal.trimRound.isSome = true ∨ x.get TH_STAT.STEP ≠ 0)) = true := by decide +kernel

theorem test_calibrationRequestsAreQueued_8 :
    (let sd : Side := .A
     let m : Master := .host
     let v : Word := 0x80000005
     let s : State := onA (calm rig)
     let x := s.on sd
     decide (x.takes m 0x0E054 = true)
      && decide (x.managed = false ∨ bitAt v.toNat 31 = false)) = true := by decide +kernel

theorem test_calibrationRunsAndCommits_1 :
    (let sd : Side := .A
     let s : State := onA { looped (served rig) with produced := 360000 * 100000 }
     let x := s.on sd
     decide (x.managed = true)
      && decide (x.leads = true)
      && decide (x.is CA_CTRL.AUTO_PERIOD = true)
      && decide (x.get CA_PERIOD.PERIOD ≠ 0)
      && decide (x.cal.round = none)
      && decide (x.cal.lastRound + x.get CA_PERIOD.PERIOD * 100000 ≤ x.produced)) = true := by decide +kernel

theorem test_calibrationRunsAndCommits_2 :
    (let sd : Side := .A
     let j : CalJob := ⟨5, .trim, false, false, true⟩
     let s : State := onA { (calm (looped (served rig))).tset DT.LOOP 6 0xFFFF with cal := { rig.cal with queue := [⟨6, .trim, false, false, true⟩, ⟨5, .trim, false, false, true⟩] } }
     let x := s.on sd
     decide (x.calRuns = true)
      && decide (x.cal.runs.length < x.calPar)
      && decide (x.cal.queue.find? x.mayStart = some j)) = true := by decide +kernel

theorem test_calibrationRunsAndCommits_3 :
    (let sd : Side := .A
     let d : Nat := 5
     let r : CalRun := doneRun
     let s : State := onA { looped (served rig) with cal := { rig.cal with runs := [doneRun] } }
     let x := s.on sd
     decide (x.alive = true)
      && decide (x.cal.runs.find? (fun q => q.job.dout == d && q.done) = some r)
      && decide (x.get CA_CNT.RUNS < 65535)) = true := by decide +kernel

theorem test_calibrationRunsAndCommits_4 :
    (let sd : Side := .A
     let s : State := onA { served rig with win := .scene, cal := { rig.cal with results := [result] } }
     let x := s.on sd
     let wait := x.cal.results.filter (fun r => r.due.isNone)
     let n := min (max 1 (x.get CA_COMMIT.MAX) - x.cal.results.countP (fun r => r.due == some (x.produced + 1))) wait.length
     decide (x.managed = true)
      && decide (x.commitOpen = true)
      && decide (n ≠ 0)) = true := by decide +kernel

theorem test_calibrationRunsAndCommits_5 :
    (let sd : Side := .A
     let r : CalResult := result
     let j : CalJob := ⟨5, .trim, false, false, true⟩
     let s : State := onA { rig with produced := 10000, cal := { rig.cal with results := [result] } }
     let x := s.on sd
     decide (x.alive = true)
      && decide (x.cal.results = [r])
      && decide (r.due = none)
      && decide (r.since + 10000 ≤ x.produced)
      && decide (r.job = some j)
      && decide (x.get CA_CNT2.DISCARD < 65535)) = true := by decide +kernel

theorem test_calibrationRunsAndCommits_6 :
    (let sd : Side := .A
     let s : State := onA { served rig with produced := 256 * 360000000, cal := { rig.cal with ageFrom := true } }
     let x := s.on sd
     decide (x.managed = true)
      && decide (x.leads = true)
      && decide (x.cal.ageFrom = true)
      && decide (x.cal.lastAge + max 1 (x.get CA_AGE.PERIOD) * 360000000 ≤ x.produced)) = true := by decide +kernel

theorem test_framesPassTheSwitch_1 :
    (let sd : Side := .A
     let off : Nat := 100
     let n : Nat := 1
     let s : State := onA netty
     let z := (s.on sd).atOffset off
     decide ((s.on sd).alive = true)
      && decide (1 ≤ n)
      && decide (n ≤ 3)
      && decide (z.portUp n = true)
      && decide (z.get (NP_ERR.CRC.onPort n) < 65535)) = true := by decide +kernel

theorem test_framesPassTheSwitch_2 :
    (let sd : Side := .A
     let off : Nat := 100
     let port : Nat := 3
     let n : Nat := 1
     let pcp : Nat := 0
     let vid : Nat := 1
     let e : Nat := 0
     let frame : List Byte := mcast
     let s : State := onA (netty.set QS_VLAN.MEMBER 10)
     let z := (s.on sd).atOffset off
     let p := Packet.parse 0 port frame
     let q := z.queueOf n pcp p
     let f : Frame :=
      { bytes := z.build port n pcp vid (bitAt (z.get (QS_VLAN.UNTAG.bank e)) n) z.net.redunSeq p, port := port
        stamp := z.ingressStamp port (lengthOf frame), held := false, arrived := ((z.netNow : Int) + z.rxCorrection port).toNat }
     decide ((s.on sd).alive = true)
      && decide (1 ≤ port)
      && decide (port ≤ 3)
      && decide (1 ≤ n)
      && decide (n ≤ 3)
      && decide (n ≠ port)
      && decide (z.portUp port = true)
      && decide (z.redun = 0)
      && decide (64 ≤ lengthOf frame)
      && decide (lengthOf frame ≤ 1518)
      && decide (isGroup p.dst = true)
      && decide (p.dst ≠ broadcastMac)
      && decide (p.dst ≠ z.ownMac)
      && decide (p.etype ≠ z.get QS_CUE.ETYPE)
      && decide (p.etype ≠ 0x88F7)
      && decide (p.etype ≠ 0x8808)
      && decide (z.classify port p.tag = some (pcp, vid))
      && decide (z.vlanEntry vid = some e)
      && decide (z.get (QS_VLAN.MEMBER.bank e) = 2 ^ port + 2 ^ n)
      && decide ((List.range 64).all (fun i => !z.is (PL_MATCH.EN.bank i)) = true)
      && decide (z.gatesOn n = false)
      && decide (z.queueLevel n q < min 4096 (z.get (QS_QLIM.LIMIT.bank (queueKey n q))))
      && decide (z.cellsInUse + frameCells f ≤ 4096)
      && decide (isGroup p.src = false)
      && decide (p.src ≠ z.ownMac)
      && decide (z.net.addresses.all (fun a => a.mac != p.src || a.vid != vid) = true)
      && decide (z.net.addresses.length < 1024)) = true := by decide +kernel

theorem test_framesPassTheSwitch_3 :
    (let sd : Side := .A
     let off : Nat := 100
     let n : Nat := 1
     let q : Nat := 2
     let f : Frame := ⟨mcast, 3, 5, true, [], 0⟩
     let rest : List Frame := []
     let s : State := onA (netty.setQueue 1 2 [⟨mcast, 3, 5, true, [], 0⟩])
     let z := (s.on sd).atOffset off
     decide ((s.on sd).alive = true)
      && decide (n < 4)
      && decide (q < 8)
      && decide (z.portUp n = true)
      && decide (Tab.has z.net.sending n = false)
      && decide (z.gatesOn n = false)
      && decide ((List.range 8).all (fun k => !z.is (QS_RATE.EN.bank (queueKey n k))) = true)
      && decide (ptpType (f.bytes.drop (bodyOffset (z.hsrPort n) f.bytes)) = none)
      && decide (z.queue n q = f :: rest)
      && decide ((List.range 8).all (fun k => k == q || (z.queue n k).isEmpty) = true)) = true := by decide +kernel

theorem test_framesPassTheSwitch_4 :
    (let sd : Side := .A
     let n : Nat := 1
     let q : Nat := 2
     let f : Frame := ⟨mcast, 3, 5, true, [], 0⟩
     let s : State := onA { netty with net := { netty.net with sending := [(1, (2, ⟨mcast, 3, 5, true, [], 0⟩))] } }
     let x := s.on sd
     decide (x.alive = true)
      && decide (1 ≤ n)
      && decide (n ≤ 3)
      && decide (q < 8)
      && decide (Tab.get? x.net.sending n = some (q, f))
      && decide (x.fault.injection = none)) = true := by decide +kernel

theorem test_framesPassTheSwitch_5 :
    (let sd : Side := .A
     let n : Nat := 2
     let s : State := onA netty
     let x := s.on sd
     decide (x.alive = true)
      && decide (1 ≤ n)
      && decide (n ≤ 3)) = true := by decide +kernel

theorem test_callSheetsChangeAtTheirInstant_1 :
    (let sd : Side := .A
     let n : Nat := 1
     let s : State := onA ((netty.set GT_CTRL.EN 1).setQueue 1 2 [⟨mcast, 3, 5, true, [], 0⟩])
     let x := s.on sd
     decide (x.alive = true)
      && decide (1 ≤ n)
      && decide (n ≤ 3)
      && decide (x.gatesOn n = true)) = true := by decide +kernel

theorem test_callSheetsChangeAtTheirInstant_2 :
    (let sd : Side := .A
     let m : Master := .host
     let s : State := onA (((netty.set GT_ADDR.PORT 2).set GT_ADDR.BANK 1).set GT_ADDR.INDEX 127)
     let x := s.on sd
     decide (x.takes m 0x1D048 = true)
      && decide (x.selectsOperating = false)) = true := by decide +kernel

theorem test_callSheetsChangeAtTheirInstant_3 :
    (let sd : Side := .A
     let m : Master := .host
     let s : State := onA ((netty.set GT_ADDR.PORT 2).set GT_ADDR.INDEX 127)
     let x := s.on sd
     decide (x.takes m 0x1D048 = true)
      && decide (x.selectsOperating = true)) = true := by decide +kernel

theorem test_callSheetsChangeAtTheirInstant_4 :
    (let sd : Side := .A
     let s : State := onA netty
     let x := s.on sd
     decide (x.alive = true)
      && decide (x.answers 0x1D048 = true)) = true := by decide +kernel

theorem test_callSheetsChangeAtTheirInstant_5 :
    (let sd : Side := .A
     let m : Master := .host
     let v : Word := 4
     let n : Nat := 2
     let s : State := onA ((netty.set (GT_COUNT.COUNT.bank 5) 2).set GT_CHG_NS.NS 5000)
     let y := (s.on sd).transfer m
     let bank := 1 - y.operBank n
     decide ((s.on sd).takes m 0x1D064 = true)
      && decide (1 ≤ n)
      && decide (n ≤ 3)
      && decide (v.toNat = 2 ^ n)
      && decide (y.sheetCount n bank ≠ 0)
      && decide (y.sheetOffset n bank < y.sheetCycle n bank)
      && decide (Tab.has y.net.changeAt n = false)) = true := by decide +kernel

theorem test_callSheetsChangeAtTheirInstant_6 :
    (let sd : Side := .A
     let m : Master := .host
     let v : Word := 4
     let n : Nat := 2
     let s : State := onA (netty.set (GT_COUNT.COUNT.bank 5) 0)
     let y := (s.on sd).transfer m
     decide ((s.on sd).takes m 0x1D064 = true)
      && decide (1 ≤ n)
      && decide (n ≤ 3)
      && decide (v.toNat = 2 ^ n)
      && decide (y.sheetCount n (1 - y.operBank n) = 0)) = true := by decide +kernel

theorem test_callSheetsChangeAtTheirInstant_7 :
    (let sd : Side := .A
     let n : Nat := 2
     let due : Nat := 4000
     let s : State := onA { netty with net := { netty.net with changeAt := [(2, 4000)] } }
     let x := s.on sd
     decide (x.alive = true)
      && decide (1 ≤ n)
      && decide (n ≤ 3)
      && decide (Tab.get? x.net.changeAt n = some due)
      && decide (due < x.clockNs + 10000)) = true := by decide +kernel

theorem test_switchTablesAndRates_1 :
    (let sd : Side := .A
     let m : Master := .host
     let v : Word := 0x80000064
     let s : State := onA ((netty.set QS_SEL.PORT 1).set QS_SEL.QUEUE 3)
     let y := (s.on sd).transfer m
     let k := y.selectedQueue
     decide ((s.on sd).takes m 0x1B064 = true)
      && decide (y.is (QS_RATE.EN.bank k) = false)
      && decide (bitAt v.toNat 31 = true)) = true := by decide +kernel

theorem test_switchTablesAndRates_2 :
    (let sd : Side := .A
     let m : Master := .host
     let s : State := onA ((netty.set QS_SEL.PORT 1).set QS_SEL.QUEUE 3)
     let y := (s.on sd).transfer m
     let k := y.selectedQueue
     decide ((s.on sd).takes m 0x1B068 = true)
      && decide (y.is (QS_RATE.EN.bank k) = false)) = true := by decide +kernel

theorem test_switchTablesAndRates_3 :
    (let sd : Side := .A
     let m : Master := .host
     let v : Word := 0x8100000F
     let s : State := onA (netty.set PL_SEL.POL 5)
     let y := (s.on sd).transfer m
     let i := y.get PL_SEL.POL
     decide ((s.on sd).takes m 0x1C044 = true)
      && decide (y.is (PL_MATCH.EN.bank i) = false)
      && decide (bitAt v.toNat 31 = true)) = true := by decide +kernel

theorem test_switchTablesAndRates_4 :
    (let sd : Side := .A
     let i : Nat := 1
     let a : AddrEntry := ⟨7, 1, 3, 0⟩
     let s : State := onA { netty.set QS_AGE.AGE 1 with produced := 100000, net := { netty.net with addresses := [⟨6, 1, 1, 5⟩, ⟨7, 1, 3, 0⟩], proxies := [7, 8] } }
     let x := s.on sd
     decide (x.alive = true)
      && decide (x.net.addresses[i]? = some a)
      && decide (x.get QS_AGE.AGE ≠ 0)
      && decide (a.seen + x.get QS_AGE.AGE * 1000000000 ≤ x.tick)) = true := by decide +kernel

theorem test_switchTablesAndRates_5 :
    (let sd : Side := .A
     let i : Nat := 0
     let n : NodeEntry := ⟨6, 1, 0, 0, none, none, 0, false⟩
     let s : State := onA { netty with produced := 100000 * 70000, net := { netty.net with nodes := [⟨6, 1, 0, 0, none, none, 0, false⟩] } }
     let x := s.on sd
     decide (x.alive = true)
      && decide (x.net.nodes[i]? = some n)
      && decide (n.seen + max 1 (x.get QS_SUP.FORGET) * 1000000000 ≤ x.tick)
      && decide (x.net.nodes.length ≤ 512)) = true := by decide +kernel

theorem test_switchTablesAndRates_6 :
    (let sd : Side := .A
     let i : Nat := 0
     let n : NodeEntry := ⟨6, 1, 0, 0, some 9999999999, none, 0, false⟩
     let a : Nat := 9999999999
     let s : State := onA { netty with produced := 1000000, net := { netty.net with nodes := [⟨6, 1, 0, 0, some 9999999999, none, 0, false⟩] } }
     let x := s.on sd
     decide (x.alive = true)
      && decide (x.net.nodes[i]? = some n)
      && decide (n.onePath = false)
      && decide (n.heard1 = some a)
      && decide (n.heard2 = none)
      && decide (x.tick < a + 10000000000)
      && decide (n.onlySince + 10000000000 ≤ x.tick)) = true := by decide +kernel

theorem test_supervisionFramesLeaveOnBothPorts_1 :
    (let sd : Side := .A
     let e : Nat := 0
     let s : State := onA (((netty.set QS_CTRL.REDUN 2).set QS_VLAN.MEMBER 7).set QS_MAC_LO.MAC 0x1234)
     let x := s.on sd
     let y := { x with net := { x.net with supervisedAt := some x.tick } }
     let p := y.supervision x.ownMac
     let q (n : Nat) : Nat := y.queueOf n 0 p
     decide (x.alive = true)
      && decide (x.redun ≠ 0)
      && decide (x.supervisionDue = true)
      && decide (x.net.proxies = [])
      && decide (x.vlanEntry 1 = some e)
      && decide (x.get (QS_VLAN.MEMBER.bank e) = 7)
      && decide (x.gatesOn 1 = false)
      && decide (x.gatesOn 2 = false)
      && decide (x.cellsInUse + 2 ≤ 4096)
      && decide (x.get QS_CUE.ETYPE ≠ 0x88FB)
      && decide (x.queueLevel 1 (q 1) < min 4096 (x.get (QS_QLIM.LIMIT.bank (queueKey 1 (q 1)))))
      && decide (x.queueLevel 2 (q 2) < min 4096 (x.get (QS_QLIM.LIMIT.bank (queueKey 2 (q 2)))))) = true := by decide +kernel

theorem test_supervisionFramesLeaveOnBothPorts_2 :
    (let sd : Side := .A
     let s : State := onA (let y := ((netty.set QS_CTRL.REDUN 1).set QS_VLAN.MEMBER 7).set QS_MAC_LO.MAC 0x1234; { y with net := { y.net with proxies := [5] } })
     let x := s.on sd
     decide (x.alive = true)
      && decide (x.redun ≠ 0)
      && decide (x.supervisionDue = true)) = true := by decide +kernel

theorem test_supervisionFramesLeaveOnBothPorts_3 :
    (let sd : Side := .A
     let s : State := onA netty
     let x := s.on sd
     decide (x.redun = 0 ∨ x.supervisionDue = false)) = true := by decide +kernel

theorem test_servoFollowsTheMaster_1 :
    (let sd : Side := .A
     let i : SyncInfo := ⟨1, 1000, 900, 3, 0⟩
     let s : State := onA { timed with time := { timed.time with lockCount := 15 } }
     let x := s.on sd
     let o := i.ingress - (i.origin + i.correction + (x.get (NT_PDELAY.DELAY.nth (i.port - 1)) : Int))
     decide (x.managed = true)
      && decide (1 ≤ i.port)
      && decide (i.port ≤ 2)
      && decide (i.port = x.get NT_STAT.PORT)
      && decide (i.domain = x.get NT_PTP.DOMAIN)
      && decide (x.is NT_CTRL.SERVO_EN = true)
      && decide (o.natAbs ≤ max 100 (x.get NT_SERVO.STEP_TH))) = true := by decide +kernel

theorem test_servoFollowsTheMaster_2 :
    (let sd : Side := .A
     let i : SyncInfo := ⟨1, 50000, 900, 3, 0⟩
     let s : State := onA { (timed.set NT_STAT.LOCKED 1).set NT_CTRL.STEP_EN 1 with time := { timed.time with sec := 5 } }
     let x := s.on sd
     let o := i.ingress - (i.origin + i.correction + (x.get (NT_PDELAY.DELAY.nth (i.port - 1)) : Int))
     decide (x.managed = true)
      && decide (1 ≤ i.port)
      && decide (i.port ≤ 2)
      && decide (i.port = x.get NT_STAT.PORT)
      && decide (i.domain = x.get NT_PTP.DOMAIN)
      && decide (x.is NT_CTRL.SERVO_EN = true)
      && decide (max 100 (x.get NT_SERVO.STEP_TH) < o.natAbs)
      && decide (x.is NT_CTRL.STEP_EN = true)
      && decide (x.get NT_CNT.STEPS < 65535)) = true := by decide +kernel

theorem test_servoFollowsTheMaster_3 :
    (let sd : Side := .A
     let i : AnnounceInfo := ⟨1, 0x1122334455667788, 128, 6, 0x21, 0x4E5D, 128, 1, none, 0⟩
     let a : AnnounceInfo := ⟨1, 0x1122334455667788, 128, 6, 0x21, 0x4E5D, 128, 1, none, 0⟩
     let s : State := onA { managed with time := { managed.time with announces := [⟨2, 0x2222334455667788, 128, 7, 0x21, 0x4E5D, 128, 1, none, 0⟩] } }
     let x := s.on sd
     let l := x.time.announces.filter (fun (b : AnnounceInfo) => !(b.port == i.port && b.identity == i.identity)) ++ [i]
     decide (x.managed = true)
      && decide (1 ≤ i.port)
      && decide (i.port ≤ 2)
      && decide (i.domain = x.get NT_PTP.DOMAIN)
      && decide (bestMaster l = some a)) = true := by decide +kernel

theorem test_servoFollowsTheMaster_4 :
    (let sd : Side := .A
     let a : AnnounceInfo := ⟨1, 0x1122334455667788, 128, 6, 0x21, 0x4E5D, 128, 1, none, 0⟩
     let s : State := onA { timed with time := { timed.time with announces := [⟨1, 0x1122334455667788, 128, 6, 0x21, 0x4E5D, 128, 1, none, 0⟩], master := some ⟨1, 0x1122334455667788, 128, 6, 0x21, 0x4E5D, 128, 1, none, 0⟩ } }
     let x := s.on sd
     decide (x.managed = true)
      && decide (x.time.master = some a)
      && decide (x.time.announces.filter (fun (b : AnnounceInfo) => b != a) = [])) = true := by decide +kernel

theorem test_servoFollowsTheMaster_5 :
    (let sd : Side := .A
     let i : PdelayInfo := ⟨2, 100, 250, 260, 1000, 10, 0⟩
     let s : State := onA managed
     let x := s.on sd
     decide (x.managed = true)
      && decide (1 ≤ i.port)
      && decide (i.port ≤ 2)
      && decide (i.domain = x.get NT_PTP.DOMAIN)) = true := by decide +kernel

theorem test_servoFollowsTheMaster_6 :
    (let sd : Side := .A
     let s : State := onA (served netty)
     let x := s.on sd
     let q (n : Nat) : Nat := if x.is QS_CTRL.PTP_Q7 then 7 else bits (x.get (QS_PCPMAP.MAP.nth n)) 0 3
     decide (x.managed = true)
      && decide (x.portUp 1 = true)
      && decide (x.portUp 2 = true)
      && decide (x.gatesOn 1 = false)
      && decide (x.gatesOn 2 = false)
      && decide (x.cellsInUse + 2 ≤ 4096)
      && decide (x.queueLevel 1 (q 1) < min 4096 (x.get (QS_QLIM.LIMIT.bank (queueKey 1 (q 1)))))
      && decide (x.queueLevel 2 (q 2) < min 4096 (x.get (QS_QLIM.LIMIT.bank (queueKey 2 (q 2)))))) = true := by decide +kernel

theorem test_holdoverAndReferenceClock_1 :
    (let sd : Side := .A
     let s : State := onA { timed.set NT_STAT.LOCKED 1 with produced := 10000000 }
     let x := s.on sd
     decide (x.managed = true)
      && decide (x.is NT_STAT.LOCKED = true)
      && decide (x.time.lastSync + max 1 (x.get NT_PTP.LOSS) * x.syncInterval ≤ (x.produced + 1) * 10000)) = true := by decide +kernel

theorem test_holdoverAndReferenceClock_2 :
    (let sd : Side := .A
     let s : State := onA (timed.set NT_STAT.LOCKED 1)
     let x := s.on sd
     decide (x.alive = true)
      && decide (x.time.onRing = false)) = true := by decide +kernel

theorem test_holdoverAndReferenceClock_3 :
    (let sd : Side := .A
     let s : State := onA { timed with time := { timed.time with onRing := true } }
     let x := s.on sd
     decide (x.alive = true)) = true := by decide +kernel

theorem test_holdoverAndReferenceClock_4 :
    (let sd : Side := .A
     let b : Nat := 0
     let s : State := onA { base.set NT_RATE.RATE 17179869 with produced := 100000, time := { base.time with limitSince := some 0 } }
     let x := s.on sd
     decide (x.alive = true)
      && decide (x.rate.natAbs = 17179869)
      && decide (x.time.limitSince = some b)
      && decide (b + 100000 ≤ x.produced + 1)
      && decide (x.get (FC_STOTAL.EVENTS.bank 0x9E) < 2 ^ 32 - 1)) = true := by decide +kernel

theorem test_pulsesStepsAndSnapshots_1 :
    (let sd : Side := .A
     let off : Nat := 50
     let s : State := onA { base with time := { base.time with ns := 7 } }
     let z := (s.on sd).atOffset off
     decide ((s.on sd).alive = true)
      && decide (z.is NT_CTRL.PPS_REF = false)) = true := by decide +kernel

theorem test_pulsesStepsAndSnapshots_2 :
    (let sd : Side := .A
     let off : Nat := 50
     let s : State := onA { (((managed.set NT_CTRL.PPS_REF 1).set NT_STAT.HOLDOVER 1).set NT_CTRL.SERVO_EN 1).set NT_SERVO.STEP_TH 1000 with time := { base.time with ns := 7 } }
     let z := (s.on sd).atOffset off
     let ns := z.netNow % 1000000000
     let d : Int := if ns ≤ 500000000 then (ns : Int) else (ns : Int) - 1000000000
     decide ((s.on sd).managed = true)
      && decide (z.is NT_CTRL.PPS_REF = true)
      && decide (z.is NT_STAT.HOLDOVER = true)
      && decide (z.is NT_CTRL.SERVO_EN = true)
      && decide (d.natAbs ≤ 100000)
      && decide (d.natAbs ≤ max 100 (z.get NT_SERVO.STEP_TH))) = true := by decide +kernel

theorem test_pulsesStepsAndSnapshots_3 :
    (let sd : Side := .A
     let s : State := onA { (base.set NT_CTRL.PPS_OUT_EN 1).set TW_ROLE.ROLE 1 with time := { base.time with ns := 999999000 } }
     let x := s.on sd
     let d := ((clampInt (-500000) 500000 (signed (x.get NT_PPS.OFFSET) 20) - (x.clockNs : Int)) % (1000000000 : Int)).toNat
     decide (x.alive = true)
      && decide (x.is NT_CTRL.PPS_OUT_EN = true)
      && decide (x.leads = true)
      && decide (d < x.beatLength)
      && decide (x.time.crossed.all (fun (p : Nat × Nat) => !(Nat.blt p.1 (x.clockNs + d) && Nat.ble (x.clockNs + d) p.2)) = true)) = true := by decide +kernel

theorem test_pulsesStepsAndSnapshots_4 :
    (let sd : Side := .A
     let s : State := onA { base with produced := 50099, time := { base.time with ppsLevel := true, ppsAt := 500000 } }
     let x := s.on sd
     let due := x.time.ppsAt + clampNat 1 500 (x.get NT_PPS.WIDTH) * 1000000
     decide (x.alive = true)
      && decide (x.time.ppsLevel = true)
      && decide (due < (x.produced + 1) * 10000)) = true := by decide +kernel

theorem test_pulsesStepsAndSnapshots_5 :
    (let sd : Side := .A
     let m : Master := .host
     let v : Word := 0xFFFFFFF0
     let s : State := onA { halved base 0x1E070 0xFFFFFFF0 with time := { base.time with sec := 9 } }
     let x := s.on sd
     decide (x.holds m 0x1E070 v = true)
      && decide (x.get NT_CNT.STEPS < 65535)) = true := by decide +kernel

theorem test_pulsesStepsAndSnapshots_6 :
    (let sd : Side := .A
     let m : Master := .host
     let v : Word := 1
     let s : State := onA { base with beatNo := 0x100000005, time := { base.time with sec := 9, ns := 3 } }
     let x := s.on sd
     decide (x.takes m 0x1E048 = true)
      && decide (v.toNat % 2 = 1)) = true := by decide +kernel

theorem test_cueFramesWaitForTheirCheck_1 :
    (let sd : Side := .A
     let off : Nat := 1000
     let src : Nat := 5
     let i : Nat := 0
     let c : Nat := 0
     let f : Nat × (List Byte × Nat) := (5, (cuePayload 4 9 0 0 [], 1000))
     let cue : Cue := keepAlive
     let p : List Byte := cuePayload 4 9 0 0 []
     let s : State := onA { cueing with net := { (cueing).net with cueInbox := [(5, (cuePayload 4 9 0 0 [], 1000))] } }
     let z := (s.on sd).atOffset off
     let w := { z with net := { z.net with cueInbox := z.net.cueInbox.eraseIdx i } }
     decide (z.alive = true)
      && decide (z.cueOffered src p = some i)
      && decide (z.net.cueInbox[i]? = some f)
      && decide (z.leads = true)
      && decide (z.is SC_CUE_CTRL.NET_EN = true)
      && decide ((w.frameStage true p).toOption = some (cue, c))
      && decide (z.pipe.assemblies.all (fun a => a.head.connId != cue.connId) = true)
      && decide (cue.fragTotal = 1)
      && decide (z.fault.injection = none)
      && decide (z.fault.upsets = [])) = true := by decide +kernel

theorem test_cueFramesWaitForTheirCheck_2 :
    (let sd : Side := .A
     let off : Nat := 1000
     let src : Nat := 5
     let i : Nat := 0
     let p : List Byte := []
     let s : State := onA { cueing with net := { (cueing).net with cueInbox := [(5, ([], 1000))] } }
     let z := (s.on sd).atOffset off
     decide (z.alive = true)
      && decide (z.cueOffered src p = some i)
      && decide (z.leads = true)
      && decide (z.is SC_CUE_CTRL.NET_EN = true)
      && decide (z.formatOk p = false)
      && decide (z.fault.upsets = [])) = true := by decide +kernel

theorem test_cueFramesWaitForTheirCheck_3 :
    (let sd : Side := .A
     let src : Nat := 5
     let i : Nat := 0
     let p : List Byte := cuePayload 4 9 0 0 []
     let s : State := onA { cueing.set SC_CUE_CTRL.NET_EN 0 with net := { (cueing.set SC_CUE_CTRL.NET_EN 0).net with cueInbox := [(5, (cuePayload 4 9 0 0 [], 1000))] } }
     let x := s.on sd
     decide (x.alive = true)
      && decide (x.cueOffered src p = some i)
      && decide (x.is SC_CUE_CTRL.NET_EN = false)) = true := by decide +kernel

theorem test_cueFramesWaitForTheirCheck_4 :
    (let sd : Side := .A
     let src : Nat := 5
     let p : List Byte := cuePayload 4 9 0 0 []
     let s : State := onA cueing
     decide ((s.on sd).cueOffered src p = none)) = true := by decide +kernel

theorem test_cueFramesWaitForTheirCheck_5 :
    (let sd : Side := .A
     let i : Nat := 0
     let a : Assembly := ⟨{ keepAlive with entries := [] }, .mailbox, 2, [], 0⟩
     let s : State := onA { base with produced := 10, pipe := { base.pipe with assemblies := [⟨{ keepAlive with entries := [] }, .mailbox, 2, [], 0⟩] } }
     let x := s.on sd
     decide (x.alive = true)
      && decide (x.pipe.assemblies[i]? = some a)
      && decide (a.openedAt + 100000 ≤ x.tick)
      && decide (x.get CQ_DISC_CNT2.FRAG < 255)) = true := by decide +kernel

theorem test_cueFramesWaitForTheirCheck_6 :
    (let sd : Side := .A
     let m : Master := .host
     let off : Nat := 1000
     let c : Nat := 0
     let v : Word := 1
     let cue : Cue := keepAlive
     let s : State := onA (((cueing.wrBytes 0x10000000 (cuePayload 4 9 0 0 [])).set CQ_MBX_ADDR.ADDR 0x10000000).set CQ_MBX_LEN.LEN 52)
     let y := ((s.on sd).atOffset off).transfer m
     let w := y.set CQ_MBX_STAT.RESULT 1
     let p := y.rdBytes (y.get CQ_MBX_ADDR.ADDR / 4 * 4) (y.get CQ_MBX_LEN.LEN)
     decide ((s.on sd).takes m 0x0A0B8 = true)
      && decide (v.toNat % 2 = 1)
      && decide (y.get CQ_MBX_STAT.RESULT ≠ 1)
      && decide (y.leads = true)
      && decide (y.is SC_CUE_CTRL.MBX_EN = true)
      && decide ((w.frameStage false p).toOption = some (cue, c))
      && decide (w.pipe.assemblies.all (fun a => a.head.connId != cue.connId) = true)
      && decide (cue.fragTotal = 1)
      && decide (w.fault.injection = none)
      && decide (w.fault.upsets = [])) = true := by decide +kernel

theorem test_cueFramesWaitForTheirCheck_7 :
    (let sd : Side := .A
     let m : Master := .host
     let v : Word := 1
     let s : State := onA base
     let x := s.on sd
     decide (x.takes m 0x0A0B8 = true)
      && decide (v.toNat % 2 = 1)
      && decide (x.get CQ_MBX_STAT.RESULT ≠ 1)
      && decide (x.leads = false)) = true := by decide +kernel

theorem test_cueChecksAdmitOrReject_1 :
    (let sd : Side := .A
     let w : WaitingCue := ⟨keepAlive, .network 5 0, 0, 1000, 10, false, false⟩
     let e : Nat := 0
     let s : State := onA (waits guarded keepAlive)
     let x := s.on sd
     let z := { x with pipe := { x.pipe with waiting := x.pipe.waiting.erase w } }.count 64 1
     let t0 := z.entryOfCue w
     let y := z.setTrk e t0
     let a := y.acceptSeq w
     let pred := y.predictedConns t0.order
     decide (x.alive = true)
      && decide (x.leads = true)
      && decide (x.stopped = false)
      && decide (x.pipe.rigLost = false)
      && decide (x.beforeCutoff = true)
      && decide (x.nextCheck = some w)
      && decide (z.openEntry = some e)
      && decide (x.pipe.solving ≠ some (.entry e))
      && decide (x.scene.staged.all (fun g => g.entry != some e) = true)
      && decide (w.cue.kind = .keepAlive)
      && decide (w.cue.reply = false)
      && decide (y.sequenceFailure w = 0)
      && decide (a.contentFailure w pred = 0)
      && decide (a.policyFailure w t0.order pred (a.target w.cue pred) = 0)
      && decide (a.orderFailure w t0.rehearse (a.freeSlot.isSome || a.oldestRehearsed.isSome) t0.eff = 0)
      && decide (x.get CQ_CNT.ADMIT < 65535)) = true := by decide +kernel

theorem test_cueChecksAdmitOrReject_2 :
    (let sd : Side := .A
     let w : WaitingCue := ⟨change, .network 5 0, 0, 1000, 10, false, false⟩
     let e : Nat := 0
     let n : Nat := 240
     let s : State := onA (waits guarded change)
     let x := s.on sd
     let z := { x with pipe := { x.pipe with waiting := x.pipe.waiting.erase w } }.count 64 1
     let t0 := z.entryOfCue w
     let y := z.setTrk e t0
     let a := y.acceptSeq w
     let pred := y.predictedConns t0.order
     let target := a.target w.cue pred
     decide (x.alive = true)
      && decide (x.leads = true)
      && decide (x.stopped = false)
      && decide (x.pipe.rigLost = false)
      && decide (x.beforeCutoff = true)
      && decide (x.nextCheck = some w)
      && decide (z.openEntry = some e)
      && decide (w.cue.kind = .change ∨ w.cue.kind = .recall)
      && decide (w.cue.reply = false)
      && decide (y.sequenceFailure w = 0)
      && decide (a.contentFailure w pred = 0)
      && decide (a.policyFailure w t0.order pred target = 0)
      && decide (a.freeSlot = some n)
      && decide (a.orderFailure w t0.rehearse true t0.eff = 0)
      && decide (x.get CQ_CNT.ADMIT < 65535)) = true := by decide +kernel

theorem test_cueChecksAdmitOrReject_3 :
    (let sd : Side := .A
     let w : WaitingCue := ⟨keepAlive, .network 5 0, 0, 1000, 10, false, false⟩
     let e : Nat := 0
     let d : Nat := 0x12
     let s : State := onA (waits (guarded.set NT_STAT.LOCKED 0) keepAlive)
     let x := s.on sd
     let z := { x with pipe := { x.pipe with waiting := x.pipe.waiting.erase w } }.count 64 1
     let y := z.setTrk e (z.entryOfCue w)
     decide (x.alive = true)
      && decide (x.leads = true)
      && decide (x.stopped = false)
      && decide (x.pipe.rigLost = false)
      && decide (x.beforeCutoff = true)
      && decide (x.nextCheck = some w)
      && decide (z.openEntry = some e)
      && decide (w.cue.kind ≠ .abort)
      && decide (x.pipe.solving ≠ some (.entry e))
      && decide (x.scene.staged.all (fun g => g.entry != some e) = true)
      && decide (w.origin ≠ .mailbox)
      && decide (w.cue.reply = false)
      && decide (y.sequenceFailure w = d)
      && decide (d ≠ 0)) = true := by decide +kernel

theorem test_cueChecksAdmitOrReject_4 :
    (let sd : Side := .A
     let w : WaitingCue := ⟨keepAlive, .network 5 0, 0, 1000, 10, false, false⟩
     let e : Nat := 0
     let s : State := onA (let y := waits guarded keepAlive; { y with pipe := { y.pipe with rigLost := true } })
     let x := s.on sd
     let z := { x with pipe := { x.pipe with waiting := x.pipe.waiting.erase w } }.count 64 1
     decide (x.alive = true)
      && decide (x.leads = true)
      && decide (x.stopped = false)
      && decide (x.pipe.rigLost = true)
      && decide (x.beforeCutoff = true)
      && decide (x.nextCheck = some w)
      && decide (z.openEntry = some e)
      && decide (w.cue.kind ≠ .abort)
      && decide (x.pipe.solving ≠ some (.entry e))
      && decide (x.scene.staged.all (fun g => g.entry != some e) = true)
      && decide (w.origin ≠ .mailbox)
      && decide (w.cue.reply = false)
      && decide (x.get CQ_CNT.POLICY < 65535)) = true := by decide +kernel

theorem test_cueChecksAdmitOrReject_5 :
    (let sd : Side := .A
     let w : WaitingCue := ⟨{ keepAlive with kind := .abort, aux := 3 }, .network 5 0, 0, 1000, 10, false, false⟩
     let f : Nat := 2
     let s : State := onA (let y := waits guarded ({ keepAlive with kind := .abort, aux := 3 }); { y with pipe := { y.pipe with trk := [(2, { ({} : TrkEntry) with state := .ready, order := 1, kind := .change, eff := 20, dist := 1, connId := 7, seq := 3 })] } })
     let x := s.on sd
     let z := { x with pipe := { x.pipe with waiting := x.pipe.waiting.erase w } }.count 64 1
     let a := z.acceptSeq w
     let b := (a.bump CQ_CNT.ADMIT 1).count 65 1
     decide (x.alive = true)
      && decide (x.leads = true)
      && decide (x.stopped = false)
      && decide (x.pipe.rigLost = false)
      && decide (x.beforeCutoff = true)
      && decide (x.nextCheck = some w)
      && decide (w.cue.kind = .abort)
      && decide (w.origin ≠ .mailbox)
      && decide (w.cue.reply = false)
      && decide (z.sequenceFailure w = 0)
      && decide (a.contentFailure w [] = 0)
      && decide (a.policyFailure w 0 [] [] = 0)
      && decide (b.abortTarget w.cue = some f)
      && decide (b.beforeItsCutoff (b.trk f) = true)
      && decide (x.get CQ_CNT.ADMIT < 65535)) = true := by decide +kernel

theorem test_cueChecksAdmitOrReject_6 :
    (let sd : Side := .A
     let w : WaitingCue := ⟨{ keepAlive with kind := .abort, aux := 4 }, .network 5 0, 0, 1000, 10, false, false⟩
     let s : State := onA (let y := waits guarded ({ keepAlive with kind := .abort, aux := 4 }); { y with pipe := { y.pipe with trk := [(2, { ({} : TrkEntry) with state := .ready, order := 1, kind := .change, eff := 20, dist := 1, connId := 7, seq := 3 })] } })
     let x := s.on sd
     let z := { x with pipe := { x.pipe with waiting := x.pipe.waiting.erase w } }.count 64 1
     let a := z.acceptSeq w
     decide (x.alive = true)
      && decide (x.leads = true)
      && decide (x.stopped = false)
      && decide (x.pipe.rigLost = false)
      && decide (x.beforeCutoff = true)
      && decide (x.nextCheck = some w)
      && decide (w.cue.kind = .abort)
      && decide (w.origin ≠ .mailbox)
      && decide (w.cue.reply = false)
      && decide (z.sequenceFailure w = 0)
      && decide (a.contentFailure w [] = 0)
      && decide (a.policyFailure w 0 [] [] = 0)
      && decide (x.abortTarget w.cue = none)
      && decide (x.get CQ_CNT.ADMIT < 65535)) = true := by decide +kernel

theorem test_cueChecksAdmitOrReject_7 :
    (let sd : Side := .A
     let w : WaitingCue := ⟨{ keepAlive with kind := .abort, aux := 4 }, .network 5 0, 0, 1000, 10, false, false⟩
     let d : Nat := 0x12
     let s : State := onA (waits (guarded.set NT_STAT.LOCKED 0) ({ keepAlive with kind := .abort, aux := 4 }))
     let x := s.on sd
     let z := { x with pipe := { x.pipe with waiting := x.pipe.waiting.erase w } }.count 64 1
     decide (x.alive = true)
      && decide (x.leads = true)
      && decide (x.stopped = false)
      && decide (x.pipe.rigLost = false)
      && decide (x.beforeCutoff = true)
      && decide (x.nextCheck = some w)
      && decide (w.cue.kind = .abort)
      && decide (w.origin ≠ .mailbox)
      && decide (z.sequenceFailure w = d)
      && decide (d ≠ 0)) = true := by decide +kernel

theorem test_cueChecksAdmitOrReject_8 :
    (let sd : Side := .A
     let w : WaitingCue := ⟨{ keepAlive with kind := .curtain }, .network 5 0, 0, 1000, 10, false, false⟩
     let e : Nat := 0
     let s : State := onA (waits guarded ({ keepAlive with kind := .curtain }))
     let x := s.on sd
     let z := { x with pipe := { x.pipe with waiting := x.pipe.waiting.erase w } }.count 64 1
     let t0 := z.entryOfCue w
     let y := z.setTrk e t0
     let a := y.acceptSeq w
     let pred := y.predictedConns t0.order
     decide (x.alive = true)
      && decide (x.leads = true)
      && decide (x.stopped = false)
      && decide (x.pipe.rigLost = false)
      && decide (x.beforeCutoff = true)
      && decide (x.nextCheck = some w)
      && decide (z.openEntry = some e)
      && decide (w.cue.kind = .curtain)
      && decide (w.origin ≠ .mailbox)
      && decide (y.sequenceFailure w = 0)
      && decide (a.contentFailure w pred = 0)
      && decide (a.policyFailure w t0.order pred (a.target w.cue pred) = 0)
      && decide (a.orderFailure w t0.rehearse (a.freeSlot.isSome || a.oldestRehearsed.isSome) t0.eff = 0)
      && decide (x.watch.curtainAt.all (fun c => Nat.ble c x.beatNo) = true)
      && decide (x.get CQ_CNT.ADMIT < 65535)) = true := by decide +kernel

theorem test_cueChecksAdmitOrReject_9 :
    (let sd : Side := .A
     let w : WaitingCue := ⟨keepAlive, .network 5 0, 0, 1000, 10, false, false⟩
     let s : State := onA (let y := waits guarded keepAlive; { y with pipe := { y.pipe with trk := (List.range 32).map (fun e => (e, { ({} : TrkEntry) with state := .armed, order := e })) } })
     let x := s.on sd
     let z := { x with pipe := { x.pipe with waiting := x.pipe.waiting.erase w } }
     decide (x.alive = true)
      && decide (x.leads = true)
      && decide (x.stopped = false)
      && decide (x.pipe.rigLost = false)
      && decide (x.beforeCutoff = true)
      && decide (x.nextCheck = some w)
      && decide (z.openEntry = none)
      && decide (w.cue.kind ≠ .abort)
      && decide (w.cue.reply = false)
      && decide (w.boxed = false)) = true := by decide +kernel

theorem test_cueChecksAdmitOrReject_10 :
    (let sd : Side := .A
     let w : WaitingCue := ⟨{ keepAlive with reply := true }, .network 5 1, 0, 1000, 10, false, false⟩
     let e : Nat := 0
     let d : Nat := 0x12
     let src : Nat := 5
     let vid : Nat := 1
     let n : Nat := 2
     let pcp : Nat := 6
     let k : Nat := 0
     let s : State := onA replying
     let x := s.on sd
     let z := { x with pipe := { x.pipe with waiting := x.pipe.waiting.erase w } }.count 64 1
     let y := z.setTrk e (z.entryOfCue w)
     let frame := beBytes 6 src ++ beBytes 6 x.ownMac ++ beBytes 2 0x8100 ++ beBytes 2 (6 * 8192 + vid) ++ beBytes 2 (x.get QS_CUE.ETYPE)
      ++ x.statusPayload ⟨w.conn, w.cue.connId, w.cue.srcNode, w.cue.seq, effectiveOf w, w.cue.sceneId, e, src, vid,
          8 * 2 ^ 28 + 1 * 2 ^ 24 + d * 2 ^ 16⟩
     let p := Packet.parse 0 0 frame
     let q := x.queueOf n pcp p
     let f : Frame :=
      { bytes := x.build 0 n pcp vid (bitAt (x.get (QS_VLAN.UNTAG.bank k)) n) x.net.redunSeq p, port := 0
        stamp := x.ingressStamp 0 (lengthOf frame), held := false, arrived := ((x.netNow : Int) + x.rxCorrection 0).toNat }
     decide (x.alive = true)
      && decide (x.leads = true)
      && decide (x.stopped = false)
      && decide (x.pipe.rigLost = false)
      && decide (x.beforeCutoff = true)
      && decide (x.nextCheck = some w)
      && decide (z.openEntry = some e)
      && decide (w.cue.kind ≠ .abort)
      && decide (x.pipe.solving ≠ some (.entry e))
      && decide (x.scene.staged.all (fun g => g.entry != some e) = true)
      && decide (w.origin = .network src vid)
      && decide (w.cue.reply = true)
      && decide (y.sequenceFailure w = d)
      && decide (d ≠ 0)
      && decide (x.mild = true)
      && decide (x.redun = 0)
      && decide (lengthOf frame ≤ 2000)
      && decide (isGroup src = false)
      && decide (src ≠ x.ownMac)
      && decide (x.get QS_CUE.ETYPE ≠ 0x88F7)
      && decide (x.get QS_CUE.ETYPE ≠ 0x8808)
      && decide (x.get QS_CUE.ETYPE ≠ 0x8100)
      && decide ((x.net.addresses.find? (fun (a : AddrEntry) => a.mac == src && a.vid == vid)).map (fun (a : AddrEntry) => a.port) = some n)
      && decide (1 ≤ n)
      && decide (n ≤ 3)
      && decide (x.classify 0 p.tag = some (pcp, vid))
      && decide (x.vlanEntry vid = some k)
      && decide (bitAt (x.get (QS_VLAN.MEMBER.bank k)) 0 = true)
      && decide (bitAt (x.get (QS_VLAN.MEMBER.bank k)) n = true)
      && decide ((List.range 64).all (fun i => !x.is (PL_MATCH.EN.bank i)) = true)
      && decide (x.gatesOn n = false)
      && decide (x.queueLevel n q < min 4096 (x.get (QS_QLIM.LIMIT.bank (queueKey n q))))
      && decide (x.cellsInUse + frameCells f ≤ 4096)) = true := by decide +kernel

theorem test_abortsEndEntries_1 :
    (let sd : Side := .A
     let m : Master := .host
     let v : Word := 3
     let s : State := onA { guarded with pipe := { guarded.pipe with trk := [(3, { state := .ready, slot := some 240, order := 1, eff := 20 })] } }
     let y := (s.on sd).transfer m
     let e := v.toNat % 32
     decide ((s.on sd).takes m 0x0B060 = true)
      && decide (y.beforeItsCutoff (y.trk e) = true)) = true := by decide +kernel

theorem test_abortsEndEntries_2 :
    (let sd : Side := .A
     let m : Master := .host
     let v : Word := 3
     let s : State := onA { guarded with pipe := { guarded.pipe with trk := [(3, { state := .settling, order := 1, eff := 20 })] } }
     let y := (s.on sd).transfer m
     let e := v.toNat % 32
     decide ((s.on sd).takes m 0x0B060 = true)
      && decide (y.beforeItsCutoff (y.trk e) = false)
      && decide ((y.trk e).state = .armed ∨ (y.trk e).state = .settling)) = true := by decide +kernel

theorem test_abortsEndEntries_3 :
    (let sd : Side := .A
     let m : Master := .host
     let v : Word := 3
     let s : State := onA guarded
     let y := (s.on sd).transfer m
     let e := v.toNat % 32
     decide ((s.on sd).takes m 0x0B060 = true)
      && decide ((y.trk e).state.inFlight = false)
      && decide ((y.trk e).state ≠ .armed)
      && decide ((y.trk e).state ≠ .settling)) = true := by decide +kernel

theorem test_connectionsAndExpectations_1 :
    (let sd : Side := .A
     let m : Master := .host
     let s : State := onA base
     let y := (s.on sd).transfer m
     let i := y.get CQ_CONN_SEL.CONN
     decide ((s.on sd).takes m 0x0A088 = true)
      && decide (y.is (CQ_CONN_CFG.EN.bank i) = false)) = true := by decide +kernel

theorem test_connectionsAndExpectations_2 :
    (let sd : Side := .A
     let m : Master := .host
     let v : Word := 0x1005
     let s : State := onA (base.set (CQ_CONN_ID.ID.bank 0) 8)
     let y := (s.on sd).transfer m
     let i := y.get CQ_CONN_SEL.CONN
     decide ((s.on sd).takes m 0x0A08C = true)
      && decide (y.is (CQ_CONN_CFG.EN.bank i) = false)
      && decide (bitAt v.toNat 12 = true)
      && decide (bitAt v.toNat 13 = false)
      && decide (y.connOf (y.get (CQ_CONN_ID.ID.bank i)) = none)) = true := by decide +kernel

theorem test_connectionsAndExpectations_3 :
    (let sd : Side := .A
     let m : Master := .host
     let v : Word := 0x1005
     let s : State := onA ((cueing.set CQ_CONN_SEL.CONN 1).set (CQ_CONN_ID.ID.bank 1) 7)
     let y := (s.on sd).transfer m
     let i := y.get CQ_CONN_SEL.CONN
     decide ((s.on sd).takes m 0x0A08C = true)
      && decide (y.is (CQ_CONN_CFG.EN.bank i) = false)
      && decide (bitAt v.toNat 12 = true)
      && decide ((y.connOf (y.get (CQ_CONN_ID.ID.bank i))).isSome = true)) = true := by decide +kernel

theorem test_connectionsAndExpectations_4 :
    (let sd : Side := .A
     let i : Nat := 0
     let d : Nat := 5
     let s : State := onA { cueing with pipe := { cueing.pipe with deadlines := [(0, 5)] }, off := 6 }
     let x := s.on sd
     decide (x.alive = true)
      && decide (Tab.get? x.pipe.deadlines i = some d)
      && decide (x.win = .edge)
      && decide (x.is (CQ_CONN_CFG.EN.bank i) = true)
      && decide (d < x.netNow)) = true := by decide +kernel

theorem test_keysAreLoadedAndErased_1 :
    (let sd : Side := .A
     let m : Master := .host
     let v : Word := 0x80000003
     let s : State := onA ((halved rig 0x1F060 0x80000003).set TH_STAT.NVM_OK 1)
     let y := (s.on sd).paired m 0x1F060 v
     decide ((s.on sd).holds m 0x1F060 v = true)
      && decide (bitAt v.toNat 31 = true)
      && decide (bitAt v.toNat 4 = false)
      && decide (y.leads = true)
      && decide (y.clearKeyData.keyRefusal (v.toNat % 16) (s.bothNvmOpen sd) = 0)) = true := by decide +kernel

theorem test_keysAreLoadedAndErased_2 :
    (let sd : Side := .A
     let m : Master := .host
     let v : Word := 0x80000013
     let s : State := onA ((halved rig 0x1F060 0x80000013).set TH_STAT.NVM_OK 1)
     let y := (s.on sd).paired m 0x1F060 v
     decide ((s.on sd).holds m 0x1F060 v = true)
      && decide (bitAt v.toNat 31 = true)
      && decide (bitAt v.toNat 4 = true)
      && decide (y.leads = true)
      && decide (y.clearKeyData.keyRefusal (v.toNat % 16) (s.bothNvmOpen sd) = 0)) = true := by decide +kernel

theorem test_keysAreLoadedAndErased_3 :
    (let sd : Side := .A
     let m : Master := .host
     let v : Word := 0x80000003
     let r : Nat := 1
     let s : State := onA (halved rig 0x1F060 0x80000003)
     let y := (s.on sd).paired m 0x1F060 v
     decide ((s.on sd).holds m 0x1F060 v = true)
      && decide (bitAt v.toNat 31 = true)
      && decide (y.leads = true)
      && decide (y.clearKeyData.keyRefusal (v.toNat % 16) (s.bothNvmOpen sd) = r)
      && decide (r ≠ 0)) = true := by decide +kernel

theorem test_keysAreLoadedAndErased_4 :
    (let sd : Side := .A
     let b : Nat := 0
     let s : State := onA { (base.set KY_KDATA.DATA 5) with produced := 16, nvm := { base.nvm with keyDataAt := some 0 } }
     let x := s.on sd
     decide (x.alive = true)
      && decide (x.nvm.keyDataAt = some b)
      && decide (b + 16 ≤ x.produced)) = true := by decide +kernel

theorem test_solvesRunAndEnd_1 :
    (let sd : Side := .A
     let e : Nat := 2
     let s : State := onA { entered .solving with win := .loop }
     let x := s.on sd
     decide (x.alive = true)
      && decide (x.nextSolve = some e)
      && decide (x.stageTime = true)
      && decide (x.engineFree = true)) = true := by decide +kernel

theorem test_solvesRunAndEnd_2 :
    (let sd : Side := .A
     let e : Nat := 2
     let n : Nat := 240
     let s : State := onA (engaged (entered .solving))
     let x := s.on sd
     let r := x.solveOf e
     decide (x.alive = true)
      && decide (x.pipe.solving = some (.entry e))
      && decide (x.stageTime = true)
      && decide (x.fault.injection = none)
      && decide (r.code = 1)
      && decide ((x.trk e).slot = some n)
      && decide (x.get BK_DIST_ADDR.ADDR = 0)
      && decide (r.cells.length ≤ 5120)
      && decide (r.cells.all (fun v => Nat.ble v 3) = true)) = true := by decide +kernel

theorem test_solvesRunAndEnd_3 :
    (let sd : Side := .A
     let e : Nat := 2
     let s : State := onA (engaged (entered .solving))
     let x := s.on sd
     let run := stepsRun ((x.solveOf e).steps.filter (fun k => k.code != 7)) x.engineNow
     decide (x.alive = true)
      && decide (x.pipe.solving = some (.entry e))
      && decide (x.stageTime = true)
      && decide (e < 32)
      && decide (stepsCost (run ++ [stepWrite]) ≤ x.solveTotal)) = true := by decide +kernel

theorem test_solvesRunAndEnd_4 :
    (let sd : Side := .A
     let e : Nat := 2
     let s : State := onA ((((engaged (entered .solving)).set RG_TOPO.LOG2N 5).set RG_TOPO.STAGES 9).set BK_BUDGET.TOTAL 0 |>.set BK_CTRL.INCR_EN 0)
     let x := s.on sd
     decide (x.alive = true)
      && decide (x.pipe.solving = some (.entry e))
      && decide (x.stageTime = true)
      && decide (e < 32)
      && decide ((x.solveOf e).code = 0x11)) = true := by decide +kernel

theorem test_solvesRunAndEnd_5 :
    (let sd : Side := .A
     let e : Nat := 2
     let s : State := onA (rehearsing (entered .solving))
     let x := s.on sd
     let k := x.trk e
     decide (x.alive = true)
      && decide (x.leads = true)
      && decide (k.rehearse = true)
      && decide (k.state = .solving)
      && decide (x.pipe.solving ≠ some (.entry e))
      && decide (k.waitFrom + 64 ≤ x.produced)) = true := by decide +kernel

theorem test_solvesRunAndEnd_6 :
    (let sd : Side := .A
     let s : State := onA curtained
     let x := s.on sd
     let r := x.curtainSolve
     let p := { x.pipe with curtainOwed := false, engineAt := some x.produced, curtainCycles := some (min 3280 r.cycles), curtainFailed := false }
     let z : SideState := ({ x.readSlot 255 with pipe := p }.count 78 (min 3280 r.cycles)).writeResult 255 r.cells
     decide (x.alive = true)
      && decide (x.get TW_ROLE.ROLE ≠ 0)
      && decide (x.win = .loop ∨ x.win = .scene)
      && decide (x.power.firmware = true)
      && decide (x.pipe.curtainOwed = true)
      && decide (x.engineFree = true)
      && decide (x.nextSolve = none)
      && decide (x.rigged = true)
      && decide (x.fault.injection = none)
      && decide (r.code = 1)
      && decide (x.hasFlag 255 flagVALID = true)
      && decide (r.cells.length ≤ 5120)
      && decide (z.pathFailure 255 = none)
      && decide (z.idleFailure 255 = none)
      && decide (z.checkOk 255 = true)) = true := by decide +kernel

theorem test_solvesRunAndEnd_7 :
    (let sd : Side := .A
     let s : State := onA curtained
     let x := s.on sd
     decide (x.alive = true)
      && decide (x.get TW_ROLE.ROLE ≠ 0)
      && decide (x.win = .loop ∨ x.win = .scene)
      && decide (x.power.firmware = true)
      && decide (x.pipe.curtainOwed = true)
      && decide (x.engineFree = true)
      && decide (x.nextSolve = none)
      && decide (x.rigged = true)) = true := by decide +kernel

theorem test_solvesRunAndEnd_8 :
    (let sd : Side := .A
     let e : Nat := 2
     let n : Nat := 240
     let s : State := onA ((routed 257 [0, 0x22, 0x31] []).set BK_DIST_ADDR.ADDR 0x10000)
     let x := s.on sd
     let r := x.solveOf e
     decide (x.alive = true)
      && decide (x.pipe.solving = some (.entry e))
      && decide (x.stageTime = true)
      && decide (x.fault.injection = none)
      && decide (e < 32)
      && decide (r.code = 2)
      && decide ((x.trk e).dist = 1 ∨ (x.trk e).dist = 2)
      && decide ((x.trk e).slot = some n)
      && decide (r.list.length ≤ 512)
      && decide (0x10000000 ≤ x.get BK_DIST_ADDR.ADDR * 4096)
      && decide (x.get BK_DIST_ADDR.ADDR * 4096 + 0x40000 ≤ 0x10800000)) = true := by decide +kernel

theorem test_solvesRunAndEnd_9 :
    (let sd : Side := .A
     let e : Nat := 2
     let s : State := onA { ((routed 257 [0, 0x22, 0x31] []).set BK_DIST_ADDR.ADDR 0) with pipe := { ((routed 257 [0, 0x22, 0x31] []).set BK_DIST_ADDR.ADDR 0).pipe with trk := (((routed 257 [0, 0x22, 0x31] []).set BK_DIST_ADDR.ADDR 0)).pipe.trk.map (fun p => (p.1, { p.2 with dist := 0 })) } }
     let x := s.on sd
     let r := x.solveOf e
     decide (x.alive = true)
      && decide (x.pipe.solving = some (.entry e))
      && decide (x.stageTime = true)
      && decide (x.fault.injection = none)
      && decide (e < 32)
      && decide (r.code = 2)
      && decide ((x.trk e).dist ≠ 1)
      && decide ((x.trk e).dist ≠ 2)) = true := by decide +kernel

theorem test_solvesRunAndEnd_10 :
    (let sd : Side := .A
     let e : Nat := 2
     let s : State := onA ((routed 257 [0, 0x22, 0x31] [(0, 0), (2, 2)]).set BK_DIST_ADDR.ADDR 0x10000)
     let x := s.on sd
     let r := x.solveOf e
     decide (x.alive = true)
      && decide (x.pipe.solving = some (.entry e))
      && decide (x.stageTime = true)
      && decide (x.fault.injection = none)
      && decide (e < 32)
      && decide (r.code = 0x10)
      && decide (r.list.length ≤ 512)
      && decide (0x10000000 ≤ x.get BK_DIST_ADDR.ADDR * 4096)
      && decide (x.get BK_DIST_ADDR.ADDR * 4096 + 0x40000 ≤ 0x10800000)) = true := by decide +kernel

theorem test_solvesRunAndEnd_11 :
    (let sd : Side := .A
     let e : Nat := 2
     let s : State := onA ((routed 257 [0, 0x22, 0x31] [(0, 0), (2, 2)]).set BK_DIST_ADDR.ADDR 1)
     let x := s.on sd
     let a := x.get BK_DIST_ADDR.ADDR * 4096
     decide (x.alive = true)
      && decide (x.pipe.solving = some (.entry e))
      && decide (x.stageTime = true)
      && decide (x.fault.injection = none)
      && decide (e < 32)
      && decide ((x.solveOf e).code = 0x10)
      && decide (a ≠ 0)
      && decide (a < 0x10000000 ∨ 0x10800000 < a + 0x40000)) = true := by decide +kernel

theorem test_tracesAndArming_1 :
    (let sd : Side := .A
     let e : Nat := 2
     let n : Nat := 240
     let s : State := onA (traced (entered .tracing))
     let x := s.on sd
     decide (x.alive = true)
      && decide (x.stageTime = true)
      && decide (x.win = .loop)
      && decide ((x.trk e).state = .tracing)
      && decide ((x.trk e).traced = false)
      && decide ((x.trk e).nextBeat ≤ x.beatNo)
      && decide ((x.trk e).slot = some n)
      && decide (x.traceFailure (x.trk e) n = none)) = true := by decide +kernel

theorem test_tracesAndArming_2 :
    (let sd : Side := .A
     let e : Nat := 2
     let n : Nat := 240
     let code : Nat := 5
     let index : Nat := 0
     let s : State := onA (checked (entered .tracing))
     let x := s.on sd
     decide (x.alive = true)
      && decide (x.stageTime = true)
      && decide ((x.trk e).state = .tracing)
      && decide ((x.trk e).traced = false)
      && decide ((x.trk e).nextBeat ≤ x.beatNo)
      && decide ((x.trk e).slot = some n)
      && decide (x.traceFailure (x.trk e) n = some (code, index))
      && decide (index < 8192)
      && decide (e < 32)) = true := by decide +kernel

theorem test_tracesAndArming_3 :
    (let sd : Side := .A
     let e : Nat := 2
     let n : Nat := 240
     let s : State := onA (gated true)
     let x := s.on sd
     let v := x.slotView n
     let cells := x.planCells v
     let words := (cells.map (fun p => x.armWords p.cell)).flatten
     decide (x.alive = true)
      && decide (x.leads = true)
      && decide (x.win = .scene)
      && decide ((x.trk e).state = .ready)
      && decide ((x.trk e).kind ≠ .curtain)
      && decide ((x.trk e).eff = x.beatNo + 1)
      && decide ((x.trk e).slot = some n)
      && decide ((x.trk e).gate = true)
      && decide (words.any (fun a => x.eccHard.contains a) = false)
      && decide (x.fault.injection = none)
      && decide ((x.trk e).reply = false)) = true := by decide +kernel

theorem test_tracesAndArming_4 :
    (let sd : Side := .A
     let e : Nat := 2
     let n : Nat := 240
     let s : State := onA (gated false)
     let x := s.on sd
     decide (x.alive = true)
      && decide (x.leads = true)
      && decide (x.win = .scene)
      && decide ((x.trk e).state = .ready)
      && decide ((x.trk e).kind ≠ .curtain)
      && decide ((x.trk e).eff = x.beatNo + 1)
      && decide ((x.trk e).slot = some n)
      && decide ((x.trk e).gate = false)
      && decide (e < 32)) = true := by decide +kernel

theorem test_tracesAndArming_5 :
    (let sd : Side := .A
     let s : State := onA { celled rig with win := .scene, watch := { rig.watch with curtainAt := some 1 } }
     let x := s.on sd
     let dark := !x.is SW_STAT.CURTAIN_TRACED
     let v := if dark then x.emptyView else x.slotView 255
     let cells := x.planCells v
     let words := (cells.map (fun p => x.armWords p.cell)).flatten
     decide (x.alive = true)
      && decide (x.leads = true)
      && decide (x.win = .scene)
      && decide (x.watch.curtainAt = some (x.beatNo + 1))
      && decide (x.watch.curtainArmed = false)
      && decide (words.any (fun a => x.eccHard.contains a) = false)
      && decide (x.fault.injection = none)
      && decide (x.tracks.any (fun p => p.2.kind == .curtain && p.2.state == .ready && p.2.eff == x.beatNo + 1) = false)) = true := by decide +kernel

theorem test_tracesAndArming_6 :
    (let sd : Side := .A
     let g : Staged := ⟨some 2, 20, 240, false, [], []⟩
     let s : State := onA { inBeat 19 (entered .armed) with scene := { (inBeat 19 (entered .armed)).scene with staged := [⟨some 2, 20, 240, false, [], []⟩] } }
     let x := s.on sd
     let y := { x with scene := { x.scene with staged := [] } }
     decide (s.calmBut sd y = true)
      && decide (x.leads = true)
      && decide (x.scene.staged = [g])
      && decide (g.eff ≤ (x.beatNo + 1) % 2 ^ 64)
      && decide (g.slot < 256)) = true := by decide +kernel

theorem test_tracesAndArming_7 :
    (let sd : Side := .A
     let g : Staged := ⟨none, 11, 240, false, [⟨0, 1, some 77, false, 0, none, [], none⟩, ⟨1, 1, none, false, 0, none, [], none⟩], [⟨0, true, true, true, false⟩]⟩
     let p : CellPlan := ⟨0, 1, some 77, false, 0, none, [], none⟩
     let e : Nat := 5
     let v : Nat := 77
     let s : State := onA (let y := celled placid; { y with scene := { y.scene with staged := [⟨none, 11, 240, false, [⟨0, 1, some 77, false, 0, none, [], none⟩, ⟨1, 1, none, false, 0, none, [], none⟩], [⟨0, true, true, true, false⟩]⟩] } })
     let x := s.on sd
     let y := { x with scene := { x.scene with staged := [] } }
     decide (s.calmBut sd y = true)
      && decide (x.leads = true)
      && decide (x.scene.staged = [g])
      && decide (g.eff ≤ (x.beatNo + 1) % 2 ^ 64)
      && decide (g.cells.contains p = true)
      && decide (p.edge = some v)
      && decide (x.eDo p.cell = some e)
      && decide (x.mode e ≠ 0)
      && decide (g.cells.all (fun q => x.tDo q.cell != some e && (q == p || x.eDo q.cell != some e)) = true)
      && decide (g.outs.all (fun o => x.attOf o.out != some e) = true)) = true := by decide +kernel

theorem test_tracesAndArming_8 :
    (let sd : Side := .A
     let g : Staged := ⟨none, 12, 240, false, [], []⟩
     let s : State := onA { placid with scene := { (placid).scene with staged := [⟨none, 12, 240, false, [], []⟩] } }
     let x := s.on sd
     let y := { x with scene := { x.scene with staged := [] } }
     decide (s.calmBut sd y = true)
      && decide (x.leads = true)
      && decide (x.scene.staged = [g])
      && decide ((x.beatNo + 1) % 2 ^ 64 < g.eff)) = true := by decide +kernel

theorem test_blankingAndStalls_1 :
    (let sd : Side := .A
     let out : Nat := 0
     let d : Nat := 5
     let o : OutPlan := ⟨0, true, false, true, true⟩
     let s : State := onA (blanking (owned lamp 5 .loop))
     let x := s.on sd
     decide (x.alive = true)
      && decide (x.leads = true)
      && decide (x.win = .copy)
      && decide (((x.scene.staged.filter (fun (g : Staged) => g.eff == x.beatNo + 1)).map (fun (g : Staged) => g.outs)).flatten.find? (fun p => p.out == out && p.blank) = some o)
      && decide (x.attOf o.out = some d)
      && decide (x.takesOut d = true)
      && decide (x.own d ≠ .cal)
      && decide (x.own d ≠ .man)
      && decide (x.mode d ≠ 0)
      && decide (x.ports + o.out < 1024)
      && decide (x.scene.blanked.any (fun b => b.out == o.out && b.edge == x.produced + 1) = false)
      && decide (x.loops.tunes.any (fun q => q.dout == d) = false)) = true := by decide +kernel

theorem test_blankingAndStalls_2 :
    (let sd : Side := .A
     let out : Nat := 0
     let d : Nat := 5
     let b : Blanked := ⟨0, 77, true, false, 0⟩
     let s : State := onA (blanked (owned lamp 5 .scene) ⟨0, 77, true, false, 0⟩)
     let x := s.on sd
     decide (x.alive = true)
      && decide (x.scene.blanked.find? (fun k => k.out == out && k.edge == x.produced) = some b)
      && decide (x.attOf b.out = some d)
      && decide (x.own d = .scene)
      && decide (x.outLit b.out = false ∨ x.scene.missDark.contains b.out = true)
      && decide (x.mode d ≠ 0)) = true := by decide +kernel

theorem test_blankingAndStalls_3 :
    (let sd : Side := .A
     let out : Nat := 0
     let d : Nat := 5
     let l : Nat := 0
     let b : Blanked := ⟨0, 77, true, true, 0⟩
     let s : State := onA (blanked (owned (shining lamp) 5 .scene) ⟨0, 77, true, true, 0⟩)
     let x := s.on sd
     decide (x.alive = true)
      && decide (x.scene.blanked.find? (fun k => k.out == out && k.edge == x.produced) = some b)
      && decide (x.attOf b.out = some d)
      && decide (x.own d = .scene)
      && decide (x.outLit b.out = true)
      && decide (x.scene.missDark.contains b.out = false)
      && decide (x.mode d ≠ 0)
      && decide (x.loopOf d = some l)
      && decide (x.loops.tunes.any (fun q => q.dout == d) = false)) = true := by decide +kernel

theorem test_blankingAndStalls_4 :
    (let sd : Side := .A
     let out : Nat := 0
     let d : Nat := 5
     let b : Blanked := ⟨0, 77, true, true, 0⟩
     let s : State := onA (blanked (owned ((shining lamp).tset DT.LOOP 5 0xFFFF) 5 .scene) ⟨0, 77, true, true, 0⟩)
     let x := s.on sd
     decide (x.alive = true)
      && decide (x.scene.blanked.find? (fun k => k.out == out && k.edge == x.produced) = some b)
      && decide (x.attOf b.out = some d)
      && decide (x.own d = .scene)
      && decide (x.outLit b.out = true)
      && decide (x.scene.missDark.contains b.out = false)
      && decide (x.mode d ≠ 0)
      && decide (x.loopOf d = none)
      && decide (x.loops.tunes.any (fun q => q.dout == d) = false)) = true := by decide +kernel

theorem test_blankingAndStalls_5 :
    (let sd : Side := .A
     let c : Nat := 0
     let h : Handover := ⟨0, 0, none, true, false, false⟩
     let s : State := onA { (celled rig).tset ET.HO 0 2 |>.tset ET.PAUSE 0 500 with scene := { rig.scene with handovers := [⟨0, 0, none, true, false, false⟩] } }
     let x := s.on sd
     decide (x.alive = true)
      && decide (x.leads = true)
      && decide (x.scene.handovers.find? (fun k => k.cell == c) = some h)
      && decide (x.stallDue h = true)
      && decide (x.get SH_CNT2.STALL < 65535)) = true := by decide +kernel

theorem test_blankingAndStalls_6 :
    (let sd : Side := .A
     let g : Staged := ⟨none, 11, 240, false, [], [⟨0, true, false, false, true⟩]⟩
     let o : OutPlan := ⟨0, true, false, false, true⟩
     let d : Nat := 5
     let s : State := onA { owned (inBeat 10 lamp) 5 .loop with scene := { (owned (inBeat 10 lamp) 5 .loop).scene with staged := [⟨none, 11, 240, false, [], [⟨0, true, false, false, true⟩]⟩] } }
     let x := s.on sd
     let y := { x with scene := { x.scene with staged := [] } }
     decide (s.calmBut sd y = true)
      && decide (x.leads = true)
      && decide (x.scene.staged = [g])
      && decide (g.eff ≤ (x.beatNo + 1) % 2 ^ 64)
      && decide (g.cells = [])
      && decide (g.outs = [o])
      && decide (o.blank = false)
      && decide (x.attOf o.out = some d)
      && decide (x.takesOut d = true)
      && decide (x.mode d ≠ 0)) = true := by decide +kernel

theorem test_blankingAndStalls_7 :
    (let sd : Side := .A
     let g : Settling := ⟨2, 5, [], []⟩
     let s : State := onA { inBeat 1000 (entered .settling) with scene := { (inBeat 1000 (entered .settling)).scene with settling := [⟨2, 5, [], []⟩] } }
     let x := s.on sd
     let y := { x with scene := { x.scene with settling := [] } }
     decide (s.calmBut sd y = true)
      && decide (x.leads = true)
      && decide (x.scene.settling = [g])
      && decide (g.edge + x.hoLen ≤ x.produced + 1)
      && decide ((x.trk g.entry).state = .settling)) = true := by decide +kernel

theorem test_blankingAndStalls_8 :
    (let sd : Side := .A
     let g : Settling := ⟨2, 900, [], []⟩
     let s : State := onA { inBeat 1000 (entered .settling) with scene := { (inBeat 1000 (entered .settling)).scene with settling := [⟨2, 900, [], []⟩] } }
     let x := s.on sd
     let y := { x with scene := { x.scene with settling := [] } }
     decide (s.calmBut sd y = true)
      && decide (x.leads = true)
      && decide (x.scene.settling = [g])
      && decide (x.produced + 1 < g.edge + x.hoLen)) = true := by decide +kernel

theorem test_curtainsAreRequested_1 :
    (let sd : Side := .A
     let m : Master := .host
     let v : Word := 0x80000001
     let s : State := onA (entered .ready)
     let y := (s.on sd).transfer m
     decide ((s.on sd).takes m 0x09058 = true)
      && decide (bitAt v.toNat 31 = true)
      && decide (y.leads = true)
      && decide (y.watch.curtainAt.all (fun c => Nat.ble c y.beatNo) = true)) = true := by decide +kernel

theorem test_curtainsAreRequested_2 :
    (let sd : Side := .A
     let m : Master := .host
     let v : Word := 0x80000001
     let s : State := onA base
     let x := s.on sd
     decide (x.takes m 0x09058 = true)
      && decide (bitAt v.toNat 31 = true)
      && decide (x.leads = false)) = true := by decide +kernel

theorem test_curtainsAreRequested_3 :
    (let sd : Side := .A
     let s : State := onA rig
     let x := s.on sd
     let z := (x.set SW_STAT.CURTAIN_N 1).raise 0x7A
     decide (x.alive = true)
      && decide (x.is SW_STAT.CURTAIN_N = false)
      && decide (z.leads = true)
      && decide (z.watch.curtainAt.all (fun c => Nat.ble c z.beatNo) = true)) = true := by decide +kernel

theorem test_curtainsAreRequested_4 :
    (let sd : Side := .A
     let s : State := onA (base.set SW_STAT.CURTAIN_N 1)
     let x := s.on sd
     decide (x.alive = false ∨ x.is SW_STAT.CURTAIN_N = true)) = true := by decide +kernel

theorem test_curtainsAreRequested_5 :
    (let sd : Side := .A
     let s : State := onA (base.set SW_STAT.CURTAIN_N 1)
     let x := s.on sd
     decide (x.alive = true)) = true := by decide +kernel

theorem test_curtainsAreRequested_6 :
    (let sd : Side := .A
     let m : Master := .host
     let v : Word := 1
     let s : State := onA (halved base 0x0905C 1)
     let y := (s.on sd).paired m 0x0905C v
     decide ((s.on sd).holds m 0x0905C v = true)
      && decide (v.toNat % 2 = 1)
      && decide (y.is SW_STAT.CURTAIN_N = false)
      && decide (s.curtainN = false)
      && decide (y.is SW_STAT.DEGRADED = false)) = true := by decide +kernel

theorem test_curtainsAreRequested_7 :
    (let sd : Side := .A
     let m : Master := .host
     let v : Word := 1
     let s : State := onA (halved (base.set SW_STAT.DEGRADED 1) 0x0905C 1)
     let y := (s.on sd).paired m 0x0905C v
     decide ((s.on sd).holds m 0x0905C v = true)
      && decide (v.toNat % 2 = 1)
      && decide (y.is SW_STAT.CURTAIN_N = true ∨ s.curtainN = true ∨ y.is SW_STAT.DEGRADED = true)) = true := by decide +kernel

theorem test_curtainsAreRequested_8 :
    (let sd : Side := .A
     let b : Nat := 0
     let s : State := onA { rig.set SW_STAT.DEGRADED 1 with watch := { rig.watch with degDeadline := some 0 } }
     let x := s.on sd
     let z := (({ x.set SW_DEG_LEFT.LEFT 0 with watch := { x.watch with degDeadline := none } }).evt 0x09 7).raise 0x79
     decide (x.alive = true)
      && decide (x.watch.degDeadline = some b)
      && decide (b ≤ x.produced)
      && decide (x.is SW_STAT.DEGRADED = true)
      && decide (z.leads = true)
      && decide (z.watch.curtainAt.all (fun c => Nat.ble c z.beatNo) = true)) = true := by decide +kernel

theorem test_curtainsAreRequested_9 :
    (let sd : Side := .A
     let s : State := onA { placid with watch := { placid.watch with degPending := 16 }, pipe := { placid.pipe with trk := [(2, { ({} : TrkEntry) with state := .ready, order := 1, kind := .change, eff := 20, slot := some 240, dist := 1 }), (3, { ({} : TrkEntry) with state := .checking, order := 2, kind := .curtain })] } }
     let x := s.on sd
     let y := { x with watch := { x.watch with degPending := 0 } }
     decide (s.calmBut sd y = true)
      && decide (x.watch.degPending ≠ 0)
      && decide (x.watch.degPending < 32)) = true := by decide +kernel

theorem test_curtainsAreRequested_10 :
    (let sd : Side := .A
     let s : State := onA { placid with watch := { placid.watch with relDegraded := true } }
     let x := s.on sd
     let y := { x with watch := { x.watch with relDegraded := false } }
     decide (s.calmBut sd y = true)
      && decide (x.watch.relDegraded = true)) = true := by decide +kernel

theorem test_curtainsAreRequested_11 :
    (let sd : Side := .A
     let s : State := onA { placid with watch := { placid.watch with relCurtain := true } }
     let x := s.on sd
     let y := { x with watch := { x.watch with relCurtain := false } }
     decide (s.calmBut sd y = true)
      && decide (x.watch.relCurtain = true)) = true := by decide +kernel

theorem test_keysTestAndPolicyTakesForce_1 :
    (let sd : Side := .A
     let s : State := onA (base.set CQ_STAT.RUN 1)
     let x := s.on sd
     decide (x.alive = true)
      && decide (x.is CQ_STAT.RUN = true)) = true := by decide +kernel

theorem test_keysTestAndPolicyTakesForce_2 :
    (let sd : Side := .A
     let s : State := onA (base.set CQ_STAT.RUN 1)
     let x := s.on sd
     decide (x.alive = true)
      && decide (x.is CQ_STAT.RUN = true)) = true := by decide +kernel

theorem test_keysTestAndPolicyTakesForce_3 :
    (let sd : Side := .A
     let m : Master := .host
     let v : Word := 1
     let s : State := onA (agreed (halved (rig.set CQ_STAT.HB_OK 1) 0x09050 1))
     let y := (s.on sd).paired m 0x09050 v
     decide ((s.on sd).holds m 0x09050 v = true)
      && decide (v.toNat % 2 = 1)
      && decide (y.is CQ_STAT.HB_OK = true)
      && decide (y.sceneAgrees = true)) = true := by decide +kernel

theorem test_keysTestAndPolicyTakesForce_4 :
    (let sd : Side := .A
     let m : Master := .host
     let v : Word := 1
     let s : State := onA (halved rig 0x09050 1)
     let y := (s.on sd).paired m 0x09050 v
     decide ((s.on sd).holds m 0x09050 v = true)
      && decide (v.toNat % 2 = 1)
      && decide (y.is CQ_STAT.HB_OK = false)) = true := by decide +kernel

theorem test_keysTestAndPolicyTakesForce_5 :
    (let sd : Side := .A
     let s : State := onA { (rig.set RG_COUNT.PORTS 1).tset PT.MON_PRESENT 1 1 with win := .copy, beatNo := 2560, watch := { rig.watch with series := [(0, [1])] } }
     let x := s.on sd
     decide (x.alive = true)
      && decide (x.leads = true)
      && decide (x.rigged = true)
      && decide (x.win = .copy)
      && decide (x.beatNo % 2560 = 0)
      && decide (x.beatNo ≠ 0)
      && decide (x.watch.series ≠ [])) = true := by decide +kernel

theorem test_keysTestAndPolicyTakesForce_6 :
    (let sd : Side := .A
     let m : Master := .host
     let v : Word := 1
     let s : State := onA (halved (policed policyRecord) 0x0A04C 1)
     let y := (s.on sd).paired m 0x0A04C v
     let b := y.rdBytes (y.get CQ_POL_ADDR.ADDR / 16 * 16) (y.get CQ_POL_LEN.LEN)
     decide ((s.on sd).holds m 0x0A04C v = true)
      && decide (v.toNat % 2 = 1)
      && decide (y.leads = true)
      && decide (policyReject b = 0)
      && decide (y.watch.policyPending = none)) = true := by decide +kernel

theorem test_keysTestAndPolicyTakesForce_7 :
    (let sd : Side := .A
     let m : Master := .host
     let v : Word := 1
     let r : Nat := 1
     let s : State := onA (halved (policed []) 0x0A04C 1)
     let y := (s.on sd).paired m 0x0A04C v
     let b := y.rdBytes (y.get CQ_POL_ADDR.ADDR / 16 * 16) (y.get CQ_POL_LEN.LEN)
     decide ((s.on sd).holds m 0x0A04C v = true)
      && decide (v.toNat % 2 = 1)
      && decide (y.leads = true)
      && decide (policyReject b = r)
      && decide (r ≠ 0)) = true := by decide +kernel

theorem test_keysTestAndPolicyTakesForce_8 :
    (let sd : Side := .A
     let p : Policy := ⟨[], [], []⟩
     let b : List Byte := policyRecord
     let s : State := { State.reset with
       a := { rig with watch := { rig.watch with policyPending := some (⟨[], [], []⟩, policyRecord) } }
       b := (runs (SideState.reset .B)).set TW_ROLE.ROLE 2 }
     let x := s.on sd
     decide (x.watch.policyPending = some (p, b))
      && decide (x.policyReady = true)) = true := by decide +kernel

theorem test_beatsPassTheirInstants_1 :
    (let sd : Side := .A
     let s : State := onA rig
     let x := s.on sd
     decide (x.alive = true)
      && decide (x.time.stepOpen = false)
      && decide (x.twin.update = none)) = true := by decide +kernel

theorem test_beatsPassTheirInstants_2 :
    (let sd : Side := .A
     let s : State := State.reset
     decide ((s.on sd).alive = false)) = true := by decide +kernel

theorem test_beatsPassTheirInstants_3 :
    (let sd : Side := .A
     let s : State := onA (looped rig)
     let x := s.on sd
     decide (x.alive = true)
      && decide (x.win = .edge)
      && decide (x.stopped = false)) = true := by decide +kernel

theorem test_beatsPassTheirInstants_4 :
    (let sd : Side := .A
     let s : State := onA { rig.set CQ_STAT.RUN 1 with win := .loop }
     let x := s.on sd
     decide (x.alive = true)
      && decide (x.win = .loop)
      && decide (x.stopped = false)
      && decide (x.is CQ_STAT.RUN = true)
      && decide (x.scene.handovers.all (fun h => Nat.ble h.cell 8191) = true)) = true := by decide +kernel

theorem test_beatsPassTheirInstants_5 :
    (let sd : Side := .A
     let s : State := onA { entered .solving with win := .scene }
     let x := s.on sd
     decide (x.alive = true)
      && decide (x.win = .scene)
      && decide (x.stopped = false)) = true := by decide +kernel

theorem test_beatsPassTheirInstants_6 :
    (let sd : Side := .A
     let e : Nat := 2
     let k : TrkEntry := { ({} : TrkEntry) with state := .ready, order := 1, kind := .change, eff := 20, slot := some 240, gate := true }
     let s : State := onA (gated true)
     let x := s.on sd
     decide (x.alive = true)
      && decide (x.win = .scene)
      && decide (x.leads = true)
      && decide (x.pipe.waiting = [])
      && decide (byOrder x.flying = [(e, k)])
      && decide (k.state = .ready)
      && decide (k.eff ≤ x.beatNo + 1)) = true := by decide +kernel

theorem test_beatsPassTheirInstants_7 :
    (let sd : Side := .A
     let s : State := onA { rig with twin := { rig.twin with records := [[1, 0, 0, 0]] } }
     let x := s.on sd
     let z := ({ x with win := .marked, off := max x.off 9600 }.emitLoops).bulkBlock
     let l := if (s.on sd.peer).get TH_INT_STAT.STATE = 1 then [] else z.twin.late ++ z.twin.records
     decide (x.alive = true)
      && decide (x.leads = true)
      && decide (x.win ≠ .marked)
      && decide (x.win ≠ .judged)
      && decide ((fitRecords copyLimit l).2 = [])
      && decide (x.twin.flitLost = false)
      && decide (x.twin.lostRecords = [])
      && decide (z.resigns = false)) = true := by decide +kernel

theorem test_beatsPassTheirInstants_8 :
    (let sd : Side := .A
     let s : State := onA base
     let x := s.on sd
     decide (x.alive = true)
      && decide (x.leads = false)
      && decide (x.win ≠ .marked)
      && decide (x.win ≠ .judged)) = true := by decide +kernel

theorem test_beatsPassTheirInstants_9 :
    (let sd : Side := .A
     let s : State := onA { rig with twin := { rig.twin with markerSeen := true, pulseSeen := true } }
     let x := s.on sd
     decide (x.alive = true)
      && decide (x.win ≠ .judged)
      && decide (x.get TW_ROLE.ROLE ≠ 0)
      && decide (x.twin.markerSeen = true)
      && decide (x.twin.pulseSeen = true)) = true := by decide +kernel

theorem test_beatsPassTheirInstants_10 :
    (let sd : Side := .A
     let s : State := onA fitting
     let x := s.on sd
     decide (x.alive = true)
      && decide (x.win ≠ .judged)
      && decide (x.isUnderstudy = true)
      && decide (x.twin.markerSeen = false)
      && decide (x.twin.pulseSeen = false)
      && decide (2 ≤ x.get TW_HB_STAT.SILENT)
      && decide (x.fitNow = true)
      && decide (x.twin.takeoverDue.all (fun d => Nat.blt (x.produced + 1) d) = true)) = true := by decide +kernel

theorem test_beatsPassTheirInstants_11 :
    (let sd : Side := .A
     let s : State := onA (rig.set TW_HB_STAT.SILENT 2)
     let x := s.on sd
     decide (x.alive = true)
      && decide (x.win ≠ .judged)
      && decide (x.leads = true)
      && decide (x.twin.markerSeen = false)
      && decide (x.twin.pulseSeen = false)
      && decide (x.get TW_HB_STAT.SILENT = 2)) = true := by decide +kernel

theorem test_beatsPassTheirInstants_12 :
    (let sd : Side := .A
     let capacity : Nat := 100
     let l : Nat := 0
     let s : State := onA (sampled windowed 0x3000)
     let x := s.on sd
     let w := x.sample (x.t LT.MI l)
     decide (x.soleLoop capacity l = true)
      && decide (x.loops.fresh.contains l = false)
      && decide (sampleValid w ≠ 0)) = true := by decide +kernel

theorem test_beatsPassTheirInstants_13 :
    (let sd : Side := .A
     let capacity : Nat := 100
     let l : Nat := 0
     let s : State := onA (sampled windowed 0xC069)
     let x := s.on sd
     let w := x.sample (x.t LT.MI l)
     let y := x.loopValue l w
     decide (x.soleLoop capacity l = true)
      && decide (x.loops.fresh.contains l = false)
      && decide (sampleValid w = 0)
      && decide ((if x.t LT.LAW l = 2 then (x.tis LT.SRCH l = true ∧ y ≤ x.t LT.MARK l) ∨ (x.tis LT.SRCH l = false ∧ y ≤ x.t LT.MARK l + x.t LT.BAND l)
      else ((y : Int) - x.t LT.MARK l).natAbs ≤ x.t LT.BAND l))) = true := by decide +kernel

theorem test_beatsPassTheirInstants_14 :
    (let sd : Side := .A
     let capacity : Nat := 100
     let l : Nat := 0
     let s : State := onA (sampled windowed 0x0123)
     let x := s.on sd
     let w := x.sample (x.t LT.MI l)
     let e : Int := (x.loopValue l w : Int) - x.t LT.MARK l
     decide (x.soleLoop capacity l = true)
      && decide (x.loops.fresh.contains l = false)
      && decide (sampleValid w = 0)
      && decide (x.t LT.LAW l ≠ 2)
      && decide (x.t LT.BAND l < e.natAbs)
      && decide (x.mode (x.actuator l) ≠ 0)) = true := by decide +kernel

theorem test_beatsPassTheirInstants_15 :
    (let sd : Side := .A
     let capacity : Nat := 100
     let l : Nat := 0
     let s : State := onA (sampled (windowed.tset LT.LAW 0 2) 0x0123)
     let x := s.on sd
     let w := x.sample (x.t LT.MI l)
     let y := x.loopValue l w
     decide (x.soleLoop capacity l = true)
      && decide (x.loops.fresh.contains l = false)
      && decide (sampleValid w = 0)
      && decide (x.t LT.LAW l = 2)
      && decide ((if x.tis LT.SRCH l = true then x.t LT.MARK l < y else x.t LT.MARK l + x.t LT.BAND l < y))
      && decide (x.mode (x.actuator l) ≠ 0)
      && decide (x.intervalOf l ≤ (x.beatNo % 65536 + 65536 - x.t LT.LAST l) % 65536)) = true := by decide +kernel

theorem test_beatsPassTheirInstants_16 :
    (let sd : Side := .A
     let c : Nat := 0
     let l : Nat := 0
     let s : State := onA (sampled tapped 0x0123)
     let x := s.on sd
     let w := x.sample (x.t CT.TAP_MI c)
     decide (x.alive = true)
      && decide (x.win = .edge)
      && decide (x.stopped = false)
      && decide (x.awake = true)
      && decide (x.leads = true)
      && decide (x.rigged = true)
      && decide (x.mild = true)
      && decide (x.cal.runs = [])
      && decide (x.loops.tunes = [])
      && decide (c < x.cells)
      && decide (x.cellLit c = true)
      && decide (x.cellLoop c = some l)
      && decide (x.tis CT.TAP_PRESENT c = true)
      && decide (x.tis LT.EN l = true)
      && decide (sampleValid w = 0)
      && decide (x.nearEdge c = false)) = true := by decide +kernel

theorem test_beatsPassTheirInstants_17 :
    (let sd : Side := .A
     let c : Nat := 0
     let s : State := onA (sampled tapped 0x3000)
     let x := s.on sd
     decide (x.alive = true)
      && decide (x.win = .edge)
      && decide (x.stopped = false)
      && decide (x.mild = true)
      && decide (x.cal.runs = [])
      && decide (x.loops.tunes = [])
      && decide (c < x.cells)
      && decide (x.cellLit c = true)
      && decide (sampleValid (x.sample (x.t CT.TAP_MI c)) ≠ 0 ∨ x.nearEdge c = true)) = true := by decide +kernel

theorem test_beatsPassTheirInstants_18 :
    (let sd : Side := .A
     let s : State := onA { rig with twin := { rig.twin with records := [[1, 0, 0, 0]], flitLost := true, lostRecords := [0] } }
     let x := s.on sd
     let z := ({ x with win := .marked, off := max x.off 9600 }.emitLoops).bulkBlock
     let l := if (s.on sd.peer).get TH_INT_STAT.STATE = 1 then [] else z.twin.late ++ z.twin.records
     let f := fitRecords copyLimit l
     let p := splitPlaces z.twin.lostRecords f.1
     decide (x.alive = true)
      && decide (x.leads = true)
      && decide (x.win ≠ .marked)
      && decide (x.win ≠ .judged)
      && decide (z.resigns = false)
      && decide (f.2 ≠ [] ∨ p.1 ≠ [] ∨ (z.twin.flitLost = true ∧ (s.on sd.peer).get TH_INT_STAT.STATE ≠ 1))) = true := by decide +kernel

theorem test_beatsPassTheirInstants_19 :
    (let sd : Side := .A
     let s : State := onA { (rig.set TW_ROLE.PEER_FIT 1) with twin := { rig.twin with records := [[1, 0, 0, 0]], resignFrom := some 0 } }
     let x := s.on sd
     let z := ({ x with win := .marked, off := max x.off 9600 }.emitLoops).bulkBlock
     let l := if (s.on sd.peer).get TH_INT_STAT.STATE = 1 then [] else z.twin.late ++ z.twin.records
     decide (x.alive = true)
      && decide (x.leads = true)
      && decide (x.win ≠ .marked)
      && decide (x.win ≠ .judged)
      && decide ((fitRecords copyLimit l).2 = [])
      && decide (z.twin.flitLost = false)
      && decide (z.twin.lostRecords = [])
      && decide (z.resigns = true)) = true := by decide +kernel

theorem test_beatsPassTheirInstants_20 :
    (let sd : Side := .A
     let c : Instr := .loopWindow .A 3
     let s : State := onA { rig with win := .marked }
     let x := s.on sd
     decide (c.side = some sd)
      && decide (x.outOfOrder c = true)) = true := by decide +kernel

theorem test_tilesAreReadAndStagesStart_1 :
    (let sd : Side := .A
     let s : State := { onA (starting base) with tilePresent := false }
     let x := s.on sd
     decide (x.alive = true)
      && decide (x.leads = true)
      && decide (x.get CK_STAT.STAGE = 2)
      && decide (s.tilePresent = false)
      && decide (x.is RG_STAT.IN_FORCE = false)) = true := by decide +kernel

theorem test_tilesAreReadAndStagesStart_2 :
    (let sd : Side := .A
     let img : List Byte := smallMap
     let s : State := tiled (onA (starting base))
     let x := s.on sd
     let v := s.tileView
     decide (x.alive = true)
      && decide (x.leads = true)
      && decide (x.get CK_STAT.STAGE = 2)
      && decide (v.present = true)
      && decide (factoryMagicOk v.factory = true)
      && decide (factoryCrcOk v.factory = true)
      && decide (x.record RecordKind.rigMap.area = some img)
      && decide (rigSerial img = factorySerial v.factory)
      && decide (rigHeaderReject v.image = 0)
      && decide (rigCrc v.image = rigCrc img)) = true := by decide +kernel

theorem test_tilesAreReadAndStagesStart_3 :
    (let sd : Side := .A
     let s : State := { onA ((starting base).set RG_STAT.CASE 2) with tilePresent := false }
     let x := s.on sd
     decide (x.alive = true)
      && decide (x.leads = true)
      && decide (x.get RG_STAT.CASE ≠ 0)
      && decide (x.is RG_STAT.IN_FORCE = false)
      && decide (s.tilePresent = false)) = true := by decide +kernel

theorem test_tilesAreReadAndStagesStart_4 :
    (let sd : Side := .A
     let img : List Byte := smallMap
     let s : State := tiled (onA ((starting base).set RG_STAT.CASE 1))
     let x := s.on sd
     let v := s.tileView
     decide (x.alive = true)
      && decide (x.leads = true)
      && decide (x.get RG_STAT.CASE ≠ 0)
      && decide (x.is RG_STAT.IN_FORCE = false)
      && decide (v.present = true)
      && decide (factoryMagicOk v.factory = true)
      && decide (factoryCrcOk v.factory = true)
      && decide (x.record RecordKind.rigMap.area = some img)
      && decide (rigSerial img = factorySerial v.factory)
      && decide (rigHeaderReject v.image = 0)
      && decide (rigCrc v.image = rigCrc img)) = true := by decide +kernel

theorem test_tilesAreReadAndStagesStart_5 :
    (let sd : Side := .A
     let s : State := tiled (onA verifying)
     let x := s.on sd
     let held := (x.record RecordKind.rigMap.area).getD x.rigImage
     decide (x.managed = true)
      && decide (x.leads = true)
      && decide (x.get RG_STAT.CASE = 3)
      && decide (x.is RG_STAT.VERIFIED = false)
      && decide (s.tilePresent = true)
      && decide (s.tileView.image = held.take (rigLen held))) = true := by decide +kernel

theorem test_tilesAreReadAndStagesStart_6 :
    (let sd : Side := .A
     let s : State := { onA verifying with tilePresent := false }
     let x := s.on sd
     let held := (x.record RecordKind.rigMap.area).getD x.rigImage
     decide (x.managed = true)
      && decide (x.leads = true)
      && decide (x.get RG_STAT.CASE = 3)
      && decide (x.is RG_STAT.VERIFIED = false)
      && decide (s.tilePresent = false ∨ s.tileView.image ≠ held.take (rigLen held))) = true := by decide +kernel

theorem test_tilesAreReadAndStagesStart_7 :
    (let sd : Side := .A
     let img : List Byte := [1, 2]
     let s : State := tiled (onA { rig.set RG_COMMIT_STAT.TILE_BUSY 1 with nvm := { rig.nvm with tileWrite := some [1, 2] } })
     let x := s.on sd
     decide (x.alive = true)
      && decide (x.leads = true)
      && decide (x.nvm.tileWrite = some img)
      && decide (s.tilePresent = true)) = true := by decide +kernel

theorem test_tilesAreReadAndStagesStart_8 :
    (let sd : Side := .A
     let img : List Byte := [1, 2]
     let ok : Bool := false
     let s : State := onA { base.set RG_COMMIT_STAT.TILE_BUSY 1 with nvm := { base.nvm with tileWrite := some [1, 2] } }
     let x := s.on sd
     decide (x.alive = true)
      && decide (x.nvm.tileWrite = some img)
      && decide ((ok && s.tilePresent && x.leads) = false)) = true := by decide +kernel

theorem test_tilesAreReadAndStagesStart_9 :
    (let sd : Side := .A
     let s : State := onA { placid.set TW_ROLE.FENCED 1 with power := { placid.power with pads := some false } }
     let x := s.on sd
     let y := { x with power := { x.power with pads := none } }
     decide (s.calmBut sd y = true)
      && decide (x.power.pads = some false)
      && decide (x.leads = true)) = true := by decide +kernel

theorem test_tilesAreReadAndStagesStart_10 :
    (let sd : Side := .A
     let s : State := onA { placid with rigImage := smallMap, power := { placid.power with pads := some true } }
     let x := s.on sd
     let y := { x with power := { x.power with pads := none } }
     decide (s.calmBut sd y = true)
      && decide (x.power.pads = some true)
      && decide (x.leads = true)
      && decide ((s.on sd.peer).twin.fenceRequest = false)) = true := by decide +kernel

theorem test_rigMapsAndTablesAreWritten_1 :
    (let sd : Side := .A
     let m : Master := .host
     let c : Word := 1
     let s : State := tiled (onA { halved (((rig.set TH_STAT.NVM_OK 1).set RG_IMG_ADDR.ADDR 0x10000000).set RG_IMG_LEN.LEN 544) 0x0F088 1 with mem := cells memDefault 0x10000000 validMap })
     let y := (s.on sd).paired m 0x0F088 c
     let img := y.rdBytes (y.get RG_IMG_ADDR.ADDR / 16 * 16) (y.get RG_IMG_LEN.LEN)
     decide ((s.on sd).holds m 0x0F088 c = true)
      && decide (c.toNat % 2 = 1)
      && decide (y.leads = true)
      && decide (y.nvm.rigCommit = false)
      && decide (commitReject img (factorySerial s.tileView.factory) = 0)
      && decide (s.bothNvmOpen sd = true)) = true := by decide +kernel

theorem test_rigMapsAndTablesAreWritten_2 :
    (let sd : Side := .A
     let m : Master := .host
     let c : Word := 1
     let r : Nat := 2
     let s : State := onA (halved (rig.set TH_STAT.NVM_OK 1) 0x0F088 1)
     let y := (s.on sd).paired m 0x0F088 c
     let img := y.rdBytes (y.get RG_IMG_ADDR.ADDR / 16 * 16) (y.get RG_IMG_LEN.LEN)
     decide ((s.on sd).holds m 0x0F088 c = true)
      && decide (c.toNat % 2 = 1)
      && decide (y.leads = true)
      && decide ((if y.nvm.rigCommit = true then 0xB
      else if commitReject img (factorySerial s.tileView.factory) ≠ 0 then commitReject img (factorySerial s.tileView.factory)
      else if s.bothNvmOpen sd = true then 0 else 0xC) = r)
      && decide (r ≠ 0)) = true := by decide +kernel

theorem test_rigMapsAndTablesAreWritten_3 :
    (let sd : Side := .A
     let m : Master := .host
     let a : Nat := 0x30000054
     let v : Word := 0x3FFF0000
     let s : State := onA rig
     let x := s.on sd
     let k := tableRwMask a
     decide (x.alive = true)
      && decide (a % 4 = 0)
      && decide (mayAccess x.remapped m a true = true)
      && decide (inFieldTables a = true)
      && decide (k ≠ 0)
      && decide (Nat.land (x.rd a 4) (0xFFFFFFFF - k) = Nat.land v.toNat (0xFFFFFFFF - k))) = true := by decide +kernel

theorem test_rigMapsAndTablesAreWritten_4 :
    (let sd : Side := .A
     let m : Master := .host
     let a : Nat := 0x30100004
     let s : State := onA rig
     let x := s.on sd
     decide (x.alive = true)
      && decide (a % 4 = 0)
      && decide (mayAccess x.remapped m a true = true)
      && decide ((0x300A0000 ≤ a ∧ a < 0x300A0000 + 40980) ∨
      (0x30100000 ≤ a ∧ a < 0x30100000 + 240 * 0x2000 ∧ x.slotInUse ((a - 0x30100000) / 0x2000) = false))) = true := by decide +kernel

theorem test_rigMapsAndTablesAreWritten_5 :
    (let sd : Side := .A
     let m : Master := .host
     let a : Nat := 0x30100004
     let s : State := onA recalling
     let x := s.on sd
     decide (x.alive = true)
      && decide (a % 4 = 0)
      && decide (mayAccess x.remapped m a true = true)
      && decide (0x30100000 ≤ a)
      && decide (a < 0x30100000 + 240 * 0x2000)
      && decide (x.slotInUse ((a - 0x30100000) / 0x2000) = true)) = true := by decide +kernel

theorem test_rigMapsAndTablesAreWritten_6 :
    (let sd : Side := .A
     let a : Nat := 0x30088004
     let s : State := onA (broken 0x30088004)
     let x := s.on sd
     decide (x.managed = true)
      && decide (x.rigged = true)
      && decide (inFieldTables a = true)
      && decide (x.eccOwed.contains (a / 4 * 4) = true)
      && decide (x.loops.tunes = [])) = true := by decide +kernel

theorem test_rigMapsAndTablesAreWritten_7 :
    (let sd : Side := .A
     let d : Nat := 3
     let s : State := onA (broken 0x30000030)
     let x := s.on sd
     decide (x.managed = true)
      && decide (x.rigged = true)
      && decide (d < 10240)
      && decide (x.eccOwed.contains (0x30000000 + 16 * d) = true)
      && decide ((RigMap.of x.rigImage).drives.any (fun r => r.2.2 == d) = false)) = true := by decide +kernel

theorem test_rigMapsAndTablesAreWritten_8 :
    (let sd : Side := .A
     let w : TableWrite := ⟨0x30000050, 0xFF00FF00, 0x12345678, 11⟩
     let s : State := onA { placid with hostWrites := [⟨0x30000050, 0xFF00FF00, 0x12345678, 11⟩] }
     let x := s.on sd
     let y : SideState := { x with hostWrites := [] }
     decide (s.calmBut sd y = true)
      && decide (x.hostWrites = [w])
      && decide (w.due ≤ x.produced + 1)
      && decide (x.loops.wrote = [])
      && decide (0x30000000 ≤ w.addr)
      && decide (w.addr + 4 ≤ 0x30058000 ∨ 0x30088000 ≤ w.addr ∧ w.addr + 4 ≤ 0x30300000)
      && decide (w.mask < 2 ^ 32)) = true := by decide +kernel

theorem test_rigMapsAndTablesAreWritten_9 :
    (let sd : Side := .A
     let w : TableWrite := ⟨0x30000050, 0xFF00FF00, 0x12345678, 30⟩
     let s : State := onA { placid with hostWrites := [⟨0x30000050, 0xFF00FF00, 0x12345678, 30⟩] }
     let x := s.on sd
     let y : SideState := { x with hostWrites := [] }
     decide (s.calmBut sd y = true)
      && decide (x.hostWrites = [w])
      && decide (x.produced + 1 < w.due)) = true := by decide +kernel

theorem test_theCopyIsReceived_1 :
    (let sd : Side := .A
     let s : State := onA fitting
     let x := s.on sd
     decide (x.alive = true)
      && decide (x.isUnderstudy = true)) = true := by decide +kernel

theorem test_theCopyIsReceived_2 :
    (let sd : Side := .A
     let b : List Byte := markerBytes true false false false 1 1 (crc32c [1, 0, 0, 0]) 77
     let s : State := onA { recorded with beatNo := 77 }
     let x := s.on sd
     let w0 := leNat (slice b 0 4)
     decide (x.alive = true)
      && decide (x.isUnderstudy = true)
      && decide (x.fault.injection = none)
      && decide (x.win ≠ .judged)
      && decide (b.length = 16)
      && decide (w0 % 16 = 15)
      && decide (leNat (slice b 4 4) = crc32c x.twin.beatStaged.flatten)
      && decide (leNat (slice b 8 8) = x.beatNo)
      && decide (bitAt w0 4 = true)
      && decide (bitAt w0 5 = false)) = true := by decide +kernel

theorem test_theCopyIsReceived_3 :
    (let sd : Side := .A
     let b : List Byte := markerBytes false false false false 1 1 (crc32c [1, 0, 0, 0]) 77
     let s : State := onA recorded
     let x := s.on sd
     let w0 := leNat (slice b 0 4)
     decide (x.alive = true)
      && decide (x.isUnderstudy = true)
      && decide (x.fault.injection = none)
      && decide (x.win ≠ .judged)
      && decide (b.length = 16)
      && decide (w0 % 16 = 15)
      && decide (leNat (slice b 4 4) = crc32c x.twin.beatStaged.flatten)
      && decide (bitAt w0 4 = false ∨ leNat (slice b 8 8) ≠ x.beatNo)
      && decide (bitAt w0 5 = false)
      && decide (x.get TW_COPY_STAT.NOCOMMIT ≠ 15)) = true := by decide +kernel

theorem test_theCopyIsReceived_4 :
    (let sd : Side := .A
     let b : List Byte := leBytes 4 0xF ++ leBytes 4 (crc32c []) ++ leBytes 8 0
     let s : State := onA ((fitting.set TW_ROLE.WARMTH 0).set TW_COPY_STAT.NOCOMMIT 15)
     let x := s.on sd
     let w0 := leNat (slice b 0 4)
     decide (x.alive = true)
      && decide (x.isUnderstudy = true)
      && decide (x.get TW_ROLE.WARMTH = 0)
      && decide (x.fault.injection = none)
      && decide (x.win ≠ .judged)
      && decide (b.length = 16)
      && decide (w0 % 16 = 15)
      && decide (leNat (slice b 4 4) = crc32c x.twin.beatStaged.flatten)
      && decide (bitAt w0 4 = false ∨ leNat (slice b 8 8) ≠ x.beatNo)
      && decide (bitAt w0 5 = false)
      && decide (x.get TW_COPY_STAT.NOCOMMIT = 15)) = true := by decide +kernel

theorem test_theCopyIsReceived_5 :
    (let sd : Side := .A
     let b : List Byte := leBytes 4 (0xF + 0x30) ++ leBytes 4 (crc32c recorded.twin.beatStaged.flatten) ++ leBytes 8 0
     let s : State := onA recorded
     let x := s.on sd
     let w0 := leNat (slice b 0 4)
     decide (x.alive = true)
      && decide (x.fitNow = true)
      && decide (x.fault.injection = none)
      && decide (x.win ≠ .judged)
      && decide (b.length = 16)
      && decide (w0 % 16 = 15)
      && decide (leNat (slice b 4 4) = crc32c x.twin.beatStaged.flatten)
      && decide (leNat (slice b 8 8) = x.beatNo)
      && decide (bitAt w0 4 = true)
      && decide (bitAt w0 5 = true)) = true := by decide +kernel

theorem test_theCopyIsReceived_6 :
    (let sd : Side := .A
     let b : List Byte := leBytes 4 (0xF + 0x30) ++ leBytes 4 (crc32c recorded.twin.beatStaged.flatten) ++ leBytes 8 0
     let s : State := onA (calmed (recorded.set TW_ROLE.WARMTH 2))
     let x := s.on sd
     let w0 := leNat (slice b 0 4)
     decide (x.alive = true)
      && decide (x.isUnderstudy = true)
      && decide (x.fitNow = false)
      && decide (x.mild = true)
      && decide (x.fault.injection = none)
      && decide (x.win ≠ .judged)
      && decide (b.length = 16)
      && decide (w0 % 16 = 15)
      && decide (leNat (slice b 4 4) = crc32c x.twin.beatStaged.flatten)
      && decide (leNat (slice b 8 8) = x.beatNo)
      && decide (bitAt w0 4 = true)
      && decide (bitAt w0 5 = true)) = true := by decide +kernel

theorem test_theCopyIsReceived_7 :
    (let sd : Side := .A
     let b : List Byte := []
     let s : State := onA recorded
     let x := s.on sd
     decide (x.alive = true)
      && decide (x.fault.injection = none)
      && decide (leNat (slice b 4 4) ≠ crc32c x.twin.beatStaged.flatten)) = true := by decide +kernel

theorem test_theCopyIsReceived_8 :
    (let sd : Side := .A
     let s : State := onA recorded
     let x := s.on sd
     decide (x.alive = true)
      && decide (x.get TW_LINK.CRC_ERR < 65535)) = true := by decide +kernel

theorem test_theCopyIsReceived_9 :
    (let sd : Side := .A
     let off : Int := -25
     let width : Nat := 60
     let s : State := onA base
     let x := s.on sd
     decide (x.alive = true)
      && decide (30 ≤ width)
      && decide (width ≤ 60)
      && decide (off.natAbs ≤ 25)) = true := by decide +kernel

theorem test_theCopyIsReceived_10 :
    (let sd : Side := .A
     let width : Nat := 61
     let s : State := onA base
     let x := s.on sd
     decide (x.alive = true)
      && decide (width < 30 ∨ 60 < width)) = true := by decide +kernel

theorem test_theCopyIsReceived_11 :
    (let sd : Side := .A
     let s : State := onA fitting
     let x := s.on sd
     decide (x.alive = true)
      && decide (x.isUnderstudy = true)
      && decide (x.fitNow = true)) = true := by decide +kernel

theorem test_theCopyIsReceived_12 :
    (let sd : Side := .A
     let s : State := onA (rig.set TW_ROLE.PEER_FIT 1)
     let x := s.on sd
     decide (x.alive = true)
      && decide (x.leads = true)
      && decide (x.peerFit = true)) = true := by decide +kernel

theorem test_theCopyIsReceived_13 :
    (let sd : Side := .A
     let w0 : Word := 0xFFFFFFFF
     let s : State := onA rig
     let x := s.on sd
     decide (x.alive = true)
      && decide (x.leads = true)
      && decide (bitAt w0.toNat 2 = true)) = true := by decide +kernel

theorem test_theCopyIsReceived_14 :
    (let sd : Side := .A
     let w0 : Word := 3
     let s : State := onA rig
     let x := s.on sd
     decide (x.alive = true)
      && decide (x.leads = true)
      && decide (bitAt w0.toNat 2 = false)) = true := by decide +kernel

theorem test_theCopyIsReceived_15 :
    (let sd : Side := .A
     let l : List (Nat × Nat) := [(5, 7), (6, 3), (5, 9)]
     let s : State := onA { (placid.set TW_ROLE.ROLE 2) with twin := { placid.twin with committed := [recDo 5 7, recDo 6 3, recDo 5 9] } }
     let x := s.on sd
     let y := { x with twin := { x.twin with committed := [] } }
     decide (s.calmBut sd y = true)
      && decide (x.leads = false)
      && decide (x.twin.committed = l.map (fun p => recDo p.1 p.2))
      && decide (l ≠ [])
      && decide (l.all (fun p => Nat.blt p.1 10240 && Nat.blt p.2 16384) = true)) = true := by decide +kernel

theorem test_theCopyIsReceived_16 :
    (let sd : Side := .A
     let d : Nat := 5
     let v : Nat := 9
     let s : State := onA { (placid.set TW_ROLE.ROLE 2) with twin := { placid.twin with committed := [recDoStaged 5 9] } }
     let x := s.on sd
     let y := { x with twin := { x.twin with committed := [] } }
     decide (s.calmBut sd y = true)
      && decide (x.leads = false)
      && decide (x.twin.committed = [recDoStaged d v])
      && decide (d < 10240)
      && decide (v < 16384)) = true := by decide +kernel

theorem test_theCopyIsReceived_17 :
    (let sd : Side := .A
     let a : Nat := 0x30000050
     let data : List Byte := [1, 2, 3, 4]
     let s : State := onA { (placid.set TW_ROLE.ROLE 2) with twin := { placid.twin with committed := [recMem 0x30000050 [1, 2, 3, 4]] } }
     let x := s.on sd
     let y := { x with twin := { x.twin with committed := [] } }
     decide (s.calmBut sd y = true)
      && decide (x.leads = false)
      && decide (x.twin.committed = [recMem a data])
      && decide (0x30000000 ≤ a)
      && decide (a + data.length ≤ 0x30300000)) = true := by decide +kernel

theorem test_theCopyIsReceived_18 :
    (let sd : Side := .A
     let b : List Byte := leBytes 4 0xF ++ leBytes 4 (crc32c []) ++ leBytes 8 0
     let s : State := pair (calmed (fwRuns ({ starting (fitting.set TW_COPY_STAT.NOCOMMIT 15) with rigImage := smallMap } |>.set TW_ROLE.ROLE 2 |>.set RG_STAT.IN_FORCE 1))) ({ starting (other 1) with rigImage := smallMap }.set CK_STAT.SERVICE 1 |>.set RG_STAT.IN_FORCE 1)
     let x := s.on sd
     let w0 := leNat (slice b 0 4)
     decide (x.alive = true)
      && decide (x.isUnderstudy = true)
      && decide (x.get TW_ROLE.WARMTH ≠ 0)
      && decide (x.mild = true)
      && decide (x.fault.injection = none)
      && decide (x.win ≠ .judged)
      && decide (b.length = 16)
      && decide (w0 % 16 = 15)
      && decide (leNat (slice b 4 4) = crc32c x.twin.beatStaged.flatten)
      && decide (bitAt w0 4 = false ∨ leNat (slice b 8 8) ≠ x.beatNo)
      && decide (bitAt w0 5 = false)
      && decide (x.get TW_COPY_STAT.NOCOMMIT = 15)) = true := by decide +kernel

theorem test_theCopyIsReceived_19 :
    (let sd : Side := .A
     let b : List Byte := leBytes 4 0x2F ++ leBytes 4 (crc32c [1, 0, 0, 0]) ++ leBytes 8 0
     let s : State := onA recorded
     let x := s.on sd
     let w0 := leNat (slice b 0 4)
     decide (x.alive = true)
      && decide (x.fitNow = true)
      && decide (x.fault.injection = none)
      && decide (x.win ≠ .judged)
      && decide (b.length = 16)
      && decide (w0 % 16 = 15)
      && decide (leNat (slice b 4 4) = crc32c x.twin.beatStaged.flatten)
      && decide (bitAt w0 4 = false ∨ leNat (slice b 8 8) ≠ x.beatNo)
      && decide (bitAt w0 5 = true)
      && decide (x.get TW_COPY_STAT.NOCOMMIT ≠ 15)) = true := by decide +kernel

theorem test_rolesAndFences_1 :
    (let sd : Side := .A
     let b : Nat := 0
     let s : State := pair { calmed fitting with twin := { fitting.twin with takeoverDue := some 0, takeoverCause := 1 } } (other 1)
     let x := s.on sd
     decide (x.alive = true)
      && decide (x.isUnderstudy = true)
      && decide (x.win = .edge)
      && decide (x.twin.takeoverDue = some b)
      && decide (b ≤ x.produced)
      && decide (x.get TW_CNT.TAKEOVER < 65535)
      && decide (x.mild = true)) = true := by decide +kernel

theorem test_rolesAndFences_2 :
    (let sd : Side := .A
     let s : State := pair (fencing rig) { other 2 with twin := { (other 2).twin with wasLead := true } }
     let x := s.on sd
     let y := s.on sd.peer
     decide (x.alive = true)
      && decide (x.leads = true)
      && decide (x.twin.fencePending = true)
      && decide (x.get TW_TAKE_STAT.CAUSE ≠ 3)
      && decide (y.twin.haltDue = false)
      && decide (y.is FC_STAT.SAFE = false)
      && decide ((y.directory.trial && y.directory.failed) = false)) = true := by decide +kernel

theorem test_rolesAndFences_3 :
    (let sd : Side := .A
     let s : State := onA (fencing rig)
     let x := s.on sd
     decide (x.alive = true)
      && decide (x.leads = true)
      && decide (x.twin.fencePending = true)
      && decide (x.get TW_TAKE_STAT.CAUSE ≠ 3)) = true := by decide +kernel

theorem test_rolesAndFences_4 :
    (let sd : Side := .A
     let m : Master := .host
     let v : Word := 1
     let s : State := pair (halved rig 0x08054 1) (other 2)
     let x := s.on sd
     let y := s.on sd.peer
     decide (x.holds m 0x08054 v = true)
      && decide (bitAt v.toNat 0 = true)
      && decide (x.leads = true)
      && decide (y.twin.haltDue = false)
      && decide (y.is FC_STAT.SAFE = false)) = true := by decide +kernel

theorem test_rolesAndFences_5 :
    (let sd : Side := .A
     let m : Master := .host
     let v : Word := 2
     let s : State := onA (halved (fitting.set TW_ROLE.FENCED 1) 0x08054 2)
     let x := s.on sd
     decide (x.holds m 0x08054 v = true)
      && decide (bitAt v.toNat 1 = true)
      && decide (x.mayUnfence = true)) = true := by decide +kernel

theorem test_rolesAndFences_6 :
    (let sd : Side := .A
     let s : State := pair ({ starting base with rigImage := smallMap }.set CK_STAT.SERVICE 1 |>.set RG_STAT.IN_FORCE 1) (fwRuns ({ starting (other 2) with rigImage := smallMap }.set TW_ROLE.ROLE 2 |>.set RG_STAT.IN_FORCE 1))
     let x := s.on sd
     let y := s.on sd.peer
     decide (bulkMayStart x y = true)
      && decide (sameRig x y = true)
      && decide (mapAgrees x y = true)) = true := by decide +kernel

theorem test_rolesAndFences_7 :
    (let sd : Side := .A
     let s : State := pair (rig.set CK_STAT.SERVICE 1) (fwRuns (other 2))
     let x := s.on sd
     let y := s.on sd.peer
     decide (bulkMayStart x y = true)
      && decide (sameRig x y = false)
      && decide (y.recordBusy .rigMap = false)) = true := by decide +kernel

theorem test_rolesAndFences_8 :
    (let sd : Side := .A
     let s : State := pair ((base.set TW_ROLE.ROLE 1).set TW_BULK.STATE 2) ((other 2).set TW_ROLE.WARMTH 1)
     let x := s.on sd
     let y := s.on sd.peer
     decide (x.alive = true)
      && decide (x.leads = true)
      && decide (x.get TW_BULK.STATE = 2)
      && decide (y.alive = true)
      && decide (y.isUnderstudy = true)
      && decide (y.get TW_ROLE.WARMTH = 1)
      && decide (differingRegions x y = [])) = true := by decide +kernel

theorem test_rolesAndFences_9 :
    (let sd : Side := .A
     let s : State := pair (rig.set TW_BULK.STATE 2) ((other 2).set TW_ROLE.WARMTH 1)
     let x := s.on sd
     let y := s.on sd.peer
     decide (x.alive = true)
      && decide (x.leads = true)
      && decide (x.get TW_BULK.STATE = 2)
      && decide (y.alive = true)
      && decide (y.isUnderstudy = true)
      && decide (y.get TW_ROLE.WARMTH = 1)
      && decide (differingRegions x y ≠ [])) = true := by decide +kernel

theorem test_rolesAndFences_10 :
    (let sd : Side := .A
     let s : State := onA { rig.set TW_BULK.STATE 1 with produced := 2000 }
     let x := s.on sd
     decide (x.alive = true)
      && decide (x.leads = true)
      && decide (x.get TW_BULK.STATE = 1 ∨ x.get TW_BULK.STATE = 2)
      && decide (x.twin.bulkStart + 2000 ≤ x.produced)) = true := by decide +kernel

theorem test_rolesAndFences_11 :
    (let sd : Side := .A
     let item : Nat := 6
     let s : State := onA { fitting with eccSoft := [5] }
     let x := s.on sd
     decide (x.alive = true)
      && decide (2 ≤ item)
      && decide (item < selfTestItems)
      && decide (x.get TW_ROLE.ROLE ≠ 0)
      && decide (x.itemPasses item true = true)) = true := by decide +kernel

theorem test_rolesAndFences_12 :
    (let sd : Side := .A
     let s : State := onA rig
     let x := s.on sd
     let y := s.on sd.peer
     decide (bulkMayStart x y = false ∨ (sameRig x y = true ∧ mapAgrees x y = false))) = true := by decide +kernel

theorem test_swapsAndUpdatesGoOn_1 :
    (let sd : Side := .A
     let m : Master := .host
     let v : Word := 1
     let s : State := pair (halved (rig.set TW_ROLE.PEER_FIT 1) 0x08048 1) warm
     let y := (s.on sd).paired m 0x08048 v
     decide ((s.on sd).holds m 0x08048 v = true)
      && decide (v.toNat % 2 = 1)
      && decide (y.leads = true)
      && decide (swapRefusal y (s.on sd.peer) = 0)) = true := by decide +kernel

theorem test_swapsAndUpdatesGoOn_2 :
    (let sd : Side := .A
     let m : Master := .host
     let v : Word := 1
     let r : Nat := 1
     let s : State := pair (halved rig 0x08048 1) warm
     let y := (s.on sd).paired m 0x08048 v
     decide ((s.on sd).holds m 0x08048 v = true)
      && decide (v.toNat % 2 = 1)
      && decide (y.leads = true)
      && decide (swapRefusal y (s.on sd.peer) = r)
      && decide (r ≠ 0)) = true := by decide +kernel

theorem test_swapsAndUpdatesGoOn_3 :
    (let sd : Side := .A
     let b : Nat := 0
     let s : State := pair { rig with twin := { rig.twin with swapAt := some 0 } } (calmed warm)
     let x := s.on sd
     let y := s.on sd.peer
     decide (x.alive = true)
      && decide (x.leads = true)
      && decide (x.twin.resignLine = false)
      && decide (x.win = .edge)
      && decide (x.twin.swapAt = some b)
      && decide (b ≤ x.produced)
      && decide (y.alive = true)
      && decide (y.isUnderstudy = true)
      && decide (y.win = .edge)
      && decide (y.get TW_CNT.SWAP < 65535)
      && decide (y.mild = true)) = true := by decide +kernel

theorem test_swapsAndUpdatesGoOn_4 :
    (let sd : Side := .A
     let m : Master := .host
     let v : Word := 1
     let s : State := pair (halved rig 0x08088 1) (fwRuns warm)
     let y := (s.on sd).paired m 0x08088 v
     let p := s.on sd.peer
     decide ((s.on sd).holds m 0x08088 v = true)
      && decide (v.toNat % 2 = 1)
      && decide (y.nvm.bootRom = false)
      && decide (y.twin.update = none)
      && decide (y.leads = true)
      && decide (p.alive = true)
      && decide (p.isUnderstudy = true)
      && decide (p.power.firmware = true)) = true := by decide +kernel

theorem test_swapsAndUpdatesGoOn_5 :
    (let sd : Side := .A
     let m : Master := .host
     let v : Word := 1
     let s : State := pair (halved rig 0x08088 1) (other 0)
     let y := (s.on sd).paired m 0x08088 v
     let p := s.on sd.peer
     decide ((s.on sd).holds m 0x08088 v = true)
      && decide (v.toNat % 2 = 1)
      && decide (y.nvm.bootRom = false)
      && decide (y.twin.update = none)
      && decide (y.leads = false ∨ p.alive = false ∨ p.isUnderstudy = false ∨ p.power.firmware = false)) = true := by decide +kernel

theorem test_swapsAndUpdatesGoOn_6 :
    (let sd : Side := .A
     let u : Update := ⟨2, 0, [], 1⟩
     let s : State := pair (updating 2 rig) (fwRuns warm)
     let x := s.on sd
     let y := s.on sd.peer
     decide (x.alive = true)
      && decide (x.leads = true)
      && decide (x.twin.update = some u)
      && decide (u.step = 2)
      && decide (y.alive = true)
      && decide (y.power.firmware = true)) = true := by decide +kernel

theorem test_swapsAndUpdatesGoOn_7 :
    (let sd : Side := .A
     let u : Update := ⟨7, 0, [], 1⟩
     let s : State := pair (updating 7 (rig.set TW_ROLE.PEER_FIT 1)) warm
     let x := s.on sd
     let y := s.on sd.peer
     decide (x.alive = true)
      && decide (x.leads = true)
      && decide (x.twin.update = some u)
      && decide (u.step = 7)
      && decide (x.peerFit = true)
      && decide (y.alive = true)) = true := by decide +kernel

theorem test_swapsAndUpdatesGoOn_8 :
    (let sd : Side := .A
     let u : Update := ⟨3, 0, [], 1⟩
     let s : State := pair { updating 3 rig with produced := 2000 } warm
     let x := s.on sd
     let y := s.on sd.peer
     decide (x.alive = true)
      && decide (x.leads = true)
      && decide (x.twin.update = some u)
      && decide (u.step = 3)
      && decide (u.since + 2000 ≤ x.produced)
      && decide (x.directory.trial = false)
      && decide (y.directory.trial = false)) = true := by decide +kernel

theorem test_swapsAndUpdatesGoOn_9 :
    (let sd : Side := .A
     let u : Update := ⟨5, 0, [], 1⟩
     let s : State := onA { updating 5 rig with produced := 100000 }
     let x := s.on sd
     decide (x.alive = true)
      && decide (x.leads = true)
      && decide (x.twin.update = some u)
      && decide (u.step = 5)
      && decide (x.trialFrom u + u.trial * 100000 ≤ x.produced)
      && decide (x.is FC_STAT.MAJOR = false)
      && decide (x.is FC_STAT.SAFE = false)) = true := by decide +kernel

theorem test_swapsAndUpdatesGoOn_10 :
    (let sd : Side := .A
     let s : State := onA { rig with twin := { rig.twin with resignLine := true } }
     decide ((s.on sd).twin.resignLine = true)) = true := by decide +kernel

theorem test_housekeepingAndIntermission_1 :
    (let sd : Side := .A
     let r : List HkReading := [⟨28, 400, true⟩, ⟨0, 500, true⟩, ⟨68, 48000, true⟩]
     let n : Nat := 28
     let s : State := onA managed
     let x := s.on sd
     decide (x.managed = true)
      && decide (x.win = .edge)
      && decide (x.beatNo % 100 = 0)
      && decide (x.therm.roundAt ≠ some x.produced)
      && decide (x.is TH_STAT.SHUTDOWN = false)
      && decide (x.therm.shutdownAt ≠ some x.produced)
      && decide (r.all (fun k => Nat.ble 28 k.channel || decide (k.value ≤ x.shutAt)) = true)
      && decide (x.senseLines.all (fun k => Nat.blt k.1 32) = true)
      && decide ((List.range 28).all (fun i => decide ((x.hk i).value ≤ x.shutAt)) = true)
      && decide (n = 28 ∨ (64 ≤ n ∧ n ≤ 72))) = true := by decide +kernel

theorem test_housekeepingAndIntermission_2 :
    (let sd : Side := .A
     let m : Master := .host
     let v : Word := 0x80000001
     let s : State := pair rig warm
     let x := s.on sd
     decide (x.takes m 0x04070 = true)
      && decide (bitAt v.toNat 31 = true)
      && decide (bitAt v.toNat 0 = true)
      && decide (x.leads = true)
      && decide (x.intRefusal x = 0)) = true := by decide +kernel

theorem test_housekeepingAndIntermission_3 :
    (let sd : Side := .A
     let m : Master := .host
     let v : Word := 0x80000001
     let r : Nat := 1
     let s : State := onA cueing
     let x := s.on sd
     decide (x.takes m 0x04070 = true)
      && decide (bitAt v.toNat 31 = true)
      && decide (bitAt v.toNat 0 = true)
      && decide (x.intRefusal (if x.leads then x else s.on sd.peer) = r)
      && decide (r ≠ 0)) = true := by decide +kernel

theorem test_housekeepingAndIntermission_4 :
    (let sd : Side := .A
     let m : Master := .host
     let v : Word := 0x80000002
     let s : State := onA (asleep rig)
     let x := s.on sd
     decide (x.takes m 0x04070 = true)
      && decide (bitAt v.toNat 31 = true)
      && decide (bitAt v.toNat 1 = true)
      && decide (x.get TH_INT_STAT.STATE = 1)) = true := by decide +kernel

theorem test_housekeepingAndIntermission_5 :
    (let sd : Side := .A
     let s : State := onA ((asleep rig).set SW_STAT.CURTAIN_PEND 1)
     let x := s.on sd
     decide (x.alive = true)
      && decide (x.is SW_STAT.CURTAIN_PEND = true)
      && decide (x.get TH_INT_STAT.STATE = 1)) = true := by decide +kernel

theorem test_housekeepingAndIntermission_6 :
    (let sd : Side := .A
     let s : State := pair (asleep fitting) { other 0 with power := { (other 0).power with tripped := true } }
     let x := s.on sd
     let y := s.on sd.peer
     decide (x.alive = true)
      && decide (x.isUnderstudy = true)
      && decide (y.power.tripped = true ∨ y.is TH_STAT.SHUTDOWN = true)
      && decide (y.get TH_INT_STAT.STATE = 0)
      && decide (x.get TH_INT_STAT.STATE = 1)) = true := by decide +kernel

theorem test_housekeepingAndIntermission_7 :
    (let sd : Side := .A
     let s : State := onA (waking 17 rig)
     let x := s.on sd
     decide (x.alive = true)
      && decide (x.get TH_INT_STAT.STATE = 2)
      && decide (x.win = .edge)
      && decide (x.wakeBeats = 17)
      && decide (x.leads = true)) = true := by decide +kernel

theorem test_housekeepingAndIntermission_8 :
    (let sd : Side := .A
     let s : State := onA (waking 21 rig)
     let x := s.on sd
     decide (x.alive = true)
      && decide (x.get TH_INT_STAT.STATE = 2)
      && decide (x.win = .edge)
      && decide (x.wakeBeats = 21)
      && decide (x.leads = true)) = true := by decide +kernel

theorem test_housekeepingAndIntermission_9 :
    (let sd : Side := .A
     let s : State := onA (waking 40 rig)
     let x := s.on sd
     decide (x.alive = true)
      && decide (x.get TH_INT_STAT.STATE = 2)
      && decide (x.win = .edge)
      && decide (x.wakeBeats = 40)) = true := by decide +kernel

theorem test_housekeepingAndIntermission_10 :
    (let sd : Side := .A
     let r : List HkReading := (List.range 28).map (fun i => ⟨i, 1900, true⟩)
     let s : State := onA ({ managed with therm := { managed.therm with channels := (List.range 28).map (fun i => (i, ({ value := 400, valid := true, subst := false, good := 4, missed := 0 } : HkChannel))) } })
     let x := s.on sd
     let t := after (.housekeepingRound sd r) s
     decide (x.managed = true)
      && decide (x.win = .edge)
      && decide (x.beatNo % 100 = 0)
      && decide (x.therm.roundAt ≠ some x.produced)
      && decide (x.mild = true)
      && decide (x.is TH_STAT.SHUTDOWN = false)
      && decide ((t.on sd).tMax.map Prod.snd = some 1900)) = true := by decide +kernel

theorem test_housekeepingAndIntermission_11 :
    (let sd : Side := .A
     let r : List HkReading := (List.range 28).map (fun i => ⟨i, 2001, true⟩)
     let n : Nat := 3
     let v : Int := 2001
     let s : State := pair ({ managed with therm := { managed.therm with channels := (List.range 28).map (fun i => (i, ({ value := 400, valid := true, subst := false, good := 4, missed := 0 } : HkChannel))) } }) (asleep fitting)
     let x := s.on sd
     decide (x.managed = true)
      && decide (x.win = .edge)
      && decide (x.beatNo % 100 = 0)
      && decide (x.therm.roundAt ≠ some x.produced)
      && decide (x.mild = true)
      && decide (x.is TH_STAT.SHUTDOWN = false)
      && decide (n < 28)
      && decide (Tab.get? (x.diePlausible r) n = some v)
      && decide (x.shutAt < v)) = true := by decide +kernel

theorem test_housekeepingAndIntermission_12 :
    (let sd : Side := .A
     let r : List HkReading := []
     let s : State := onA (({ managed with therm := { managed.therm with channels := (List.range 28).map (fun i => (i, ({ value := 400, valid := true, subst := false, good := 4, missed := 0 } : HkChannel))) } }).set TH_STAT.SHUTDOWN 1)
     let x := s.on sd
     let cool := (x.dieRound r).validDies.all (fun v => decide (v < x.shutAt - 80))
     decide (x.managed = true)
      && decide (x.win = .edge)
      && decide (x.beatNo % 100 = 0)
      && decide (x.therm.roundAt ≠ some x.produced)
      && decide (x.mild = true)
      && decide (x.is TH_STAT.SHUTDOWN = true)
      && decide (x.therm.shutdownAt ≠ some x.produced)
      && decide (cool = false ∨ x.therm.coolRounds < 9)) = true := by decide +kernel

theorem test_housekeepingAndIntermission_13 :
    (let sd : Side := .A
     let r : List HkReading := []
     let s : State := onA (let y := ({ managed with therm := { managed.therm with channels := (List.range 28).map (fun i => (i, ({ value := 400, valid := true, subst := false, good := 4, missed := 0 } : HkChannel))) } }).set TH_STAT.SHUTDOWN 1; { y with therm := { y.therm with coolRounds := 9 } })
     let x := s.on sd
     decide (x.managed = true)
      && decide (x.win = .edge)
      && decide (x.beatNo % 100 = 0)
      && decide (x.therm.roundAt ≠ some x.produced)
      && decide (x.mild = true)
      && decide (x.is TH_STAT.SHUTDOWN = true)
      && decide ((x.dieRound r).validDies.all (fun v => decide (v < x.shutAt - 80)) = true)
      && decide (9 ≤ x.therm.coolRounds)) = true := by decide +kernel

theorem test_powerResetsAndTrips_1 :
    (let sd : Side := .A
     let s : State := onA deadA
     let x := s.on sd
     decide (x.power.powered = false)) = true := by decide +kernel

theorem test_powerResetsAndTrips_2 :
    (let sd : Side := .A
     let s : State := onA rig
     let x := s.on sd
     decide (x.power.powered = true)) = true := by decide +kernel

theorem test_powerResetsAndTrips_3 :
    (let sd : Side := .A
     let s : State := onA rig
     let x := s.on sd
     let z := if x.leads then x.loseUpdate.resign.leaveRole else x
     decide (x.alive = true)
      && decide (z.fault.halted = false)) = true := by decide +kernel

theorem test_powerResetsAndTrips_4 :
    (let sd : Side := .A
     let s : State := onA rig
     decide ((s.on sd).alive = true)) = true := by decide +kernel

theorem test_powerResetsAndTrips_5 :
    (let sd : Side := .A
     let s : State := pair rig (asleep warm)
     let x := s.on sd
     decide (x.alive = true)) = true := by decide +kernel

theorem test_powerResetsAndTrips_6 :
    (let sd : Side := .A
     let s : State := onA { rig with power := { rig.power with tripped := true } }
     let x := s.on sd
     decide (x.power.powered = true)
      && decide (x.power.tripped = true)
      && decide (x.fault.halted = false)) = true := by decide +kernel

theorem test_powerResetsAndTrips_7 :
    (let sd : Side := .A
     let op : TapOp := { instr := .extest }
     let s : State := onA rig
     let x := s.on sd
     decide (x.power.powered = true)
      && decide (op.trst = false)) = true := by decide +kernel

theorem test_powerResetsAndTrips_8 :
    (let sd : Side := .A
     let op : TapOp := { trst := true }
     let s : State := onA rig
     let x := s.on sd
     decide (x.power.powered = true)
      && decide (op.trst = true)) = true := by decide +kernel

theorem test_sidesArbitrateAndStart_1 :
    (let sd : Side := .A
     let ok : Bool := true
     let v : ArbView := looks
     let row : Nat := 2
     let role : Nat := 2
     let s : State := onA (sound base)
     let x := s.on sd
     let p := s.on sd.peer
     decide (x.alive = true)
      && decide (x.get CK_STAT.STAGE = 1)
      && decide (x.get CK_ARB.DECISION = 0)
      && decide (x.is FC_STAT.SAFE = false)
      && decide (x.leads = false)
      && decide (x.win = .edge)
      && decide (x.arbRow p ok v = some (row, role))
      && decide (role ≠ 1 ∨ (p.alive && p.leads && p.twin.fenceRequest) = false)) = true := by decide +kernel

theorem test_sidesArbitrateAndStart_2 :
    (let sd : Side := .A
     let ok : Bool := true
     let v : ArbView := ⟨false, false, false, false, 0, 0, true⟩
     let row : Nat := 5
     let s : State := pair (sound base) (requests (other 1))
     let x := s.on sd
     let p := s.on sd.peer
     decide (x.alive = true)
      && decide (x.get CK_STAT.STAGE = 1)
      && decide (x.get CK_ARB.DECISION = 0)
      && decide (x.is FC_STAT.SAFE = false)
      && decide (x.leads = false)
      && decide (x.win = .edge)
      && decide (x.arbRow p ok v = some (row, 1))
      && decide (x.mild = true)
      && decide (x.twin.haltDue = false)
      && decide ((p.alive && p.leads && p.twin.fenceRequest) = true)
      && decide (p.twin.haltDue = false)
      && decide (p.is FC_STAT.SAFE = false)) = true := by decide +kernel

theorem test_sidesArbitrateAndStart_3 :
    (let sd : Side := .A
     let ok : Bool := true
     let v : ArbView := ⟨true, true, false, false, 0, 0, true⟩
     let s : State := onA (sound base)
     let x := s.on sd
     decide (x.alive = true)
      && decide (x.get CK_STAT.STAGE = 1)
      && decide (x.get CK_ARB.DECISION = 0)
      && decide (x.leads = false)
      && decide (x.is FC_STAT.SAFE = false)
      && decide (x.win ≠ .edge ∨ x.arbRow (s.on sd.peer) ok v = none)) = true := by decide +kernel

theorem test_sidesArbitrateAndStart_4 :
    (let sd : Side := .A
     let s : State := onA (base.set CK_STAT.STAGE 2)
     let x := s.on sd
     decide (x.get CK_STAT.STAGE ≠ 1 ∨ x.get CK_ARB.DECISION ≠ 0 ∨ x.is FC_STAT.SAFE = true)
      && decide (x.leads = false)) = true := by decide +kernel

theorem test_sidesArbitrateAndStart_5 :
    (let sd : Side := .A
     let ok : Bool := true
     let v : ArbView := ⟨false, false, false, false, 0, 0, true⟩
     let row : Nat := 5
     let role : Nat := 1
     let s : State := onA ((sound base).set CK_ARB.DECISION 3)
     let x := s.on sd
     let p := s.on sd.peer
     decide (x.alive = true)
      && decide (x.get CK_ARB.DECISION = 3)
      && decide (x.get TW_ROLE.ROLE = 0)
      && decide (x.is FC_STAT.SAFE = false)
      && decide (x.power.retryFrom + 100 ≤ x.produced)
      && decide (x.win = .edge)
      && decide (x.arbRow p ok v = some (row, role))
      && decide (role ≠ 1 ∨ (p.alive && p.leads && p.twin.fenceRequest) = false)) = true := by decide +kernel

theorem test_sidesArbitrateAndStart_6 :
    (let sd : Side := .A
     let b : Nat := 0
     let s : State := pair { (rig.set TW_ROLE.FENCED 1).set ID_STRAP.ROLE_PREF 1 with produced := 100, twin := { rig.twin with fenceRequest := true }, power := { rig.power with leadAlone := some 0 } } { (other 1).set ID_STRAP.ROLE_PREF 1 with twin := { (other 1).twin with fenceRequest := true } }
     let x := s.on sd
     let p := s.on sd.peer
     decide (x.alive = true)
      && decide (x.power.leadAlone = some b)
      && decide (x.leads = true)
      && decide (x.is TW_ROLE.FENCED = true)
      && decide (x.preferredOf p = false)
      && decide (x.twin.fenceRequest = true)
      && decide (p.twin.fenceRequest = true)
      && decide (b + 100 ≤ x.produced)) = true := by decide +kernel

theorem test_sidesArbitrateAndStart_7 :
    (let sd : Side := .A
     let slot0 : SlotCheck := .pass
     let slot1 : SlotCheck := (.fail 1)
     let s : State := onA (booting (imaged base))
     let x := s.on sd
     let d := x.directory
     decide (x.alive = true)
      && decide (x.power.firmware = false)
      && decide (x.nvm.bootRom = false)
      && decide (x.get CK_ARB.DECISION ≠ 0)
      && decide (x.leads = false ∨ 4 ≤ x.get CK_STAT.STAGE)
      && decide (x.slotReason d.active (if d.active = 0 then slot0 else slot1) = 0)
      && decide ((d.trial && d.failed) = false)) = true := by decide +kernel

theorem test_sidesArbitrateAndStart_8 :
    (let sd : Side := .A
     let slot0 : SlotCheck := (.fail 1)
     let slot1 : SlotCheck := (.fail 1)
     let s : State := onA (booting base)
     let x := s.on sd
     let d := x.directory
     decide (x.alive = true)
      && decide (x.power.firmware = false)
      && decide (x.nvm.bootRom = false)
      && decide (x.get CK_ARB.DECISION ≠ 0)
      && decide (x.leads = false ∨ 4 ≤ x.get CK_STAT.STAGE)
      && decide (d.active < 2)
      && decide (x.slotReason 0 slot0 ≠ 0)
      && decide (x.slotReason 1 slot1 ≠ 0)) = true := by decide +kernel

theorem test_sidesArbitrateAndStart_9 :
    (let sd : Side := .A
     let s : State := onA ready
     let x := s.on sd
     decide (x.alive = true)
      && decide (x.is CK_STAT.SERVICE = false)
      && decide (x.win = .edge)
      && decide (x.leads = true)
      && decide (x.serviceReady = true)
      && decide (x.watch.curtainAt.all (fun c => Nat.ble c x.beatNo) = true)) = true := by decide +kernel

theorem test_sidesArbitrateAndStart_10 :
    (let sd : Side := .A
     let s : State := onA (fwRuns fitting)
     let x := s.on sd
     decide (x.alive = true)
      && decide (x.is CK_STAT.SERVICE = false)
      && decide (x.win = .edge)
      && decide (x.isUnderstudy = true)
      && decide (x.power.firmware = true)
      && decide (x.is FC_STAT.MAJOR = false)
      && decide (x.is FC_STAT.SAFE = false)) = true := by decide +kernel

theorem test_sidesArbitrateAndStart_11 :
    (let s : State := onA base
     decide (s.a.leads = false)
      && decide (s.b.leads = false)) = true := by decide +kernel

theorem test_sidesArbitrateAndStart_12 :
    (let sd : Side := .A
     let s : State := onA ({ rig.set CK_STAT.SERVICE 1 with power := { rig.power with powered := true, inReset := false } })
     let x := s.on sd
     decide (x.alive = true)
      && decide (x.leads = true)
      && decide (x.is CK_STAT.SERVICE = true)
      && decide ((s.on sd.peer).leads = false)) = true := by decide +kernel

theorem test_stepRunsTheFrontCommand_2 :
    (let c : Instr := .beatBoundary .A
     let rest : List Instr := [.pinReset .B]
     let s : State := { onA rig with pending := [.beatBoundary .A, .pinReset .B] }
     decide (s.pending = c :: rest)) = true := by decide +kernel

theorem test_stepRunsTheFrontCommand_3 :
    (let s : State := onA rig
     decide (s.pending = [])) = true := by decide +kernel

theorem test_oneSidedCommandsLeaveTheOtherSide_1 :
     let c : Instr := .resignationPulse .A
     let sd : Side := .A
     let s : State := onA fitting
     let t : State := after (.resignationPulse .A) (onA fitting)
     (decide (c.side = some sd)
      && decide (c.shared = false)) = true ∧ exec c s = .next t := ⟨by decide +kernel, next_after _ _ (by decide +kernel)⟩

theorem test_sharedPartsChangeOnlyByTheirCommands_1 :
     let c : Instr := .curtainNAssert
     let s : State := onA rig
     let t : State := after .curtainNAssert (onA rig)
     exec c s = .next t := next_after _ _ (by decide +kernel)

theorem test_interruptLinesFollowTheCondition_1 :
     let s : State := { onA fitting with pending := [.resignationPulse .A] }
     let t : State := after (.resignationPulse .A) (onA fitting)
     (decide (s.linesOk = true)) = true ∧ step s = .next t := ⟨by decide +kernel, next_after (.resignationPulse .A) (onA fitting) (by decide +kernel)⟩

theorem test_storesStayCanonical_1 :
     let s : State := { onA fitting with pending := [.resignationPulse .A] }
     let t : State := after (.resignationPulse .A) (onA fitting)
     (decide (s.canonical = true)) = true ∧ step s = .next t := ⟨by decide +kernel, next_after (.resignationPulse .A) (onA fitting) (by decide +kernel)⟩

theorem test_fusesOnlyRise_1 :
    (let sd : Side := .A
     let u : Update := ⟨7, 0, [], 1⟩
     let s : State := pair (updating 7 (rig.set TW_ROLE.PEER_FIT 1)) warm
     let x := s.on sd
     let y := s.on sd.peer
     decide (x.alive = true)
      && decide (x.leads = true)
      && decide (x.twin.update = some u)
      && decide (u.step = 7)
      && decide (x.peerFit = true)
      && decide (y.alive = true)) = true := by decide +kernel

theorem test_fusesOnlyRise_2 :
     let c : Instr := .resignationPulse .A
     let s : State := onA fitting
     let t : State := after (.resignationPulse .A) (onA fitting)
     exec c s = .next t := next_after _ _ (by decide +kernel)

theorem test_fusesOnlyRise_3 :
    (let sd : Side := .A
     let m : Master := .host
     let v : Word := 1
     let s : State := pair { (halved rig 0x08088 1) with nvm := { rig.nvm with fuseMin := 9 } } (fwRuns warm)
     let y := (s.on sd).paired m 0x08088 v
     let p := s.on sd.peer
     decide ((s.on sd).holds m 0x08088 v = true)
      && decide (v.toNat % 2 = 1)
      && decide (y.nvm.bootRom = false)
      && decide (y.twin.update = none)
      && decide (y.leads = true)
      && decide (p.alive = true)
      && decide (p.isUnderstudy = true)
      && decide (p.power.firmware = true)
      && decide (leNat (slice y.updateImage 8 2) < y.nvm.fuseMin)) = true := by decide +kernel

theorem test_fusesOnlyRise_4 :
     let sd : Side := .A
     let slot0 : SlotCheck := .pass
     let slot1 : SlotCheck := (.fail 1)
     let s : State := onA (booting (imaged base))
     let t : State := after (.firmwareStart .A .pass (.fail 1)) (onA (booting (imaged base)))
     let x := s.on sd
     (decide (x.power.firmware = false)
      && decide ((t.on sd).power.firmware = true)) = true ∧ exec (.firmwareStart sd slot0 slot1) s = .next t := ⟨by decide +kernel, next_after _ _ (by decide +kernel)⟩

theorem test_onlyAFitUnderstudyTakesOver_1 :
    (let sd : Side := .A
     let s : State := onA rig
     decide ((s.on sd).twin.takeoverDue = none)) = true := by decide +kernel

theorem test_onlyAFitUnderstudyTakesOver_2 :
    (let sd : Side := .A
     let s : State := onA rig
     decide ((s.on sd).isUnderstudy = false)) = true := by decide +kernel

theorem test_onlyAFitUnderstudyTakesOver_3 :
    (let sd : Side := .A
     let s : State := onA fitting
     let x := s.on sd
     decide (x.alive = true)
      && decide (x.isUnderstudy = true)
      && decide (x.fitNow = true)) = true := by decide +kernel

theorem test_onlyAFitUnderstudyTakesOver_4 :
    (let sd : Side := .A
     let s : State := onA (fitting.set TW_ROLE.WARMTH 2)
     let x := s.on sd
     decide (x.alive = true)
      && decide (x.isUnderstudy = true)
      && decide (x.fitNow = false)) = true := by decide +kernel

theorem test_onlyAFitUnderstudyTakesOver_5 :
    (let sd : Side := .A
     let s : State := onA (calmed (fitting.set TW_ROLE.WARMTH 2))
     let x := s.on sd
     decide (x.alive = true)
      && decide (x.isUnderstudy = true)
      && decide (x.fitNow = false)
      && decide (x.mild = true)) = true := by decide +kernel

theorem test_onlyAFitUnderstudyTakesOver_6 :
    (let sd : Side := .A
     let s : State := onA fitting
     let x := s.on sd
     decide (x.alive = true)
      && decide (x.win ≠ .judged)
      && decide (x.isUnderstudy = true)
      && decide (x.fitNow = true)
      && decide (x.twin.markerSeen = false)
      && decide (x.twin.pulseSeen = false)
      && decide (x.get TW_HB_STAT.SILENT = 2)) = true := by decide +kernel

theorem test_onlyAFitUnderstudyTakesOver_7 :
    (let sd : Side := .A
     let s : State := onA (calmed (fitting.set TW_ROLE.WARMTH 2))
     let x := s.on sd
     decide (x.alive = true)
      && decide (x.win ≠ .judged)
      && decide (x.isUnderstudy = true)
      && decide (x.fitNow = false)
      && decide (x.mild = true)
      && decide (x.twin.markerSeen = false)
      && decide (x.twin.pulseSeen = false)
      && decide (x.get TW_HB_STAT.SILENT = 2)) = true := by decide +kernel

theorem test_onlyAFitUnderstudyTakesOver_8 :
    (let sd : Side := .A
     let b : List Byte := leBytes 4 (0xF + 0x30) ++ leBytes 4 (crc32c recorded.twin.beatStaged.flatten) ++ leBytes 8 0
     let s : State := onA recorded
     let x := s.on sd
     let w0 := leNat (slice b 0 4)
     decide (x.alive = true)
      && decide (x.fitNow = true)
      && decide (x.fault.injection = none)
      && decide (x.win ≠ .judged)
      && decide (b.length = 16)
      && decide (w0 % 16 = 15)
      && decide (leNat (slice b 4 4) = crc32c x.twin.beatStaged.flatten)
      && decide (bitAt w0 4 = true)
      && decide (leNat (slice b 8 8) = x.beatNo)
      && decide (bitAt w0 5 = true)) = true := by decide +kernel

theorem test_onlyAFitUnderstudyTakesOver_9 :
    (let sd : Side := .A
     let b : List Byte := leBytes 4 (0xF + 0x30) ++ leBytes 4 (crc32c recorded.twin.beatStaged.flatten) ++ leBytes 8 0
     let s : State := onA (calmed (recorded.set TW_ROLE.WARMTH 2))
     let x := s.on sd
     let w0 := leNat (slice b 0 4)
     decide (x.alive = true)
      && decide (x.isUnderstudy = true)
      && decide (x.fitNow = false)
      && decide (x.mild = true)
      && decide (x.fault.injection = none)
      && decide (x.win ≠ .judged)
      && decide (b.length = 16)
      && decide (w0 % 16 = 15)
      && decide (leNat (slice b 4 4) = crc32c x.twin.beatStaged.flatten)
      && decide (bitAt w0 4 = true)
      && decide (leNat (slice b 8 8) = x.beatNo)
      && decide (bitAt w0 5 = true)) = true := by decide +kernel

theorem test_theTileIsTheLeads_1 :
     let c : Instr := .tileWriteDone .A true
     let sd : Side := .A
     let s : State := onA { fitting with nvm := { fitting.nvm with tileWrite := some [1] } }
     let t : State := after (.tileWriteDone .A true) (onA { fitting with nvm := { fitting.nvm with tileWrite := some [1] } })
     (decide (c.side = some sd)
      && decide ((s.on sd).leads = false)) = true ∧ exec c s = .next t := ⟨by decide +kernel, next_after _ _ (by decide +kernel)⟩

theorem test_onlyBoundariesCountBeats_1 :
     let c : Instr := .beatBoundary .A
     let s : State := onA base
     let t : State := after (.beatBoundary .A) (onA base)
     exec c s = .next t := next_after _ _ (by decide +kernel)

theorem test_lightFollowsTheCells_1 :
    (let f : Fabric := ⟨0, 3, 5, []⟩
     let cells : Nat → Nat := fun _ => cellBar
     let s : Nat := 0
     let k : Nat := 3
     let x : Nat := 1
     decide (x < 2)
      && decide (cells (s * f.cps + k) = cellBar)
      && decide (s + 1 < f.stages)) = true := by decide +kernel

theorem test_lightFollowsTheCells_2 :
    (let f : Fabric := ⟨0, 3, 5, []⟩
     let cells : Nat → Nat := fun _ => cellCross
     let s : Nat := 3
     let k : Nat := 0
     let x : Nat := 0
     decide (x < 2)
      && decide (cells (s * f.cps + k) = cellCross)
      && decide (s + 1 < f.stages)) = true := by decide +kernel

theorem test_lightFollowsTheCells_3 :
    (let f : Fabric := ⟨0, 3, 5, []⟩
     let cells : Nat → Nat := fun _ => cellBar
     let s : Nat := 4
     let k : Nat := 3
     let x : Nat := 1
     decide (x < 2)
      && decide (s + 1 = f.stages)
      && decide (cells (s * f.cps + k) = cellBar)) = true := by decide +kernel

theorem test_lightFollowsTheCells_4 :
    (let f : Fabric := ⟨0, 3, 5, []⟩
     let cells : Nat → Nat := fun _ => cellCross
     let s : Nat := 4
     let k : Nat := 0
     let x : Nat := 0
     decide (x < 2)
      && decide (s + 1 = f.stages)
      && decide (cells (s * f.cps + k) = cellCross)) = true := by decide +kernel

end Sys2Proof.Tests
end

section
/-! PROOFS. Light through the cells (R67) and the links of a Beneš fabric as permutations of its lines (R68). -/

namespace Sys2Proof.Machine

/-! ### One stage of cells (R67) -/

theorem xor1_bar {x : Nat} (hx : x < 2) : xor1 x cellBar = x := by
  obtain rfl | rfl : x = 0 ∨ x = 1 := by omega
  · rfl
  · rfl

theorem xor1_cross {x : Nat} (hx : x < 2) : xor1 x cellCross = 1 - x := by
  obtain rfl | rfl : x = 0 ∨ x = 1 := by omega
  · rfl
  · rfl

/-- A cell under one setting is its own inverse. -/
theorem xor1_xor1 {x : Nat} (hx : x < 2) (y : Nat) : xor1 (xor1 x y) y = x := by
  unfold xor1
  by_cases hsame : x % 2 = y % 2
  · rw [if_pos hsame]
    split <;> omega
  · rw [if_neg hsame]
    split <;> omega

theorem xor1_lt_two (x y : Nat) : xor1 x y < 2 := by
  unfold xor1
  split <;> decide

/-- The output line of stage `s` to which its cells send input line `l`. -/
def Fabric.passed (f : Fabric) (cells : Nat → Nat) (s l : Nat) : Nat :=
  l / 2 * 2 + xor1 (l % 2) (cells (s * f.cps + l / 2))

/-- Where output line `l` of stage `s` leads: along the link, or out of the fabric behind the last stage. -/
def Fabric.onward (f : Fabric) (s l : Nat) : Nat := if s + 1 < f.stages then f.link s l else l

theorem Fabric.onward_of_lt {f : Fabric} {s : Nat} (hs : s + 1 < f.stages) (l : Nat) : f.onward s l = f.link s l := if_pos hs

theorem Fabric.onward_last {f : Fabric} {s : Nat} (hs : s + 1 = f.stages) (l : Nat) : f.onward s l = l := if_neg (by omega)

/-- Lines stay within the pair of their cell. -/
theorem Fabric.passed_div_two (f : Fabric) (cells : Nat → Nat) (s l : Nat) : f.passed cells s l / 2 = l / 2 := by
  have hlow := xor1_lt_two (l % 2) (cells (s * f.cps + l / 2))
  unfold Fabric.passed
  omega

theorem Fabric.passed_mod_two (f : Fabric) (cells : Nat → Nat) (s l : Nat) :
    f.passed cells s l % 2 = xor1 (l % 2) (cells (s * f.cps + l / 2)) := by
  have hlow := xor1_lt_two (l % 2) (cells (s * f.cps + l / 2))
  unfold Fabric.passed
  omega

theorem Fabric.passed_pair (f : Fabric) (cells : Nat → Nat) (s k : Nat) {x : Nat} (hx : x < 2) :
    f.passed cells s (2 * k + x) = 2 * k + xor1 x (cells (s * f.cps + k)) := by
  have hpair : (2 * k + x) / 2 = k := by omega
  have hside : (2 * k + x) % 2 = x := by omega
  rw [Fabric.passed, hpair, hside, Nat.mul_comm]

/-- What a stage whose cell on the line is set does to the line. -/
theorem Fabric.follow_succ (f : Fabric) (cells : Nat → Nat) (n s l : Nat)
    (hset : cells (s * f.cps + l / 2) = cellBar ∨ cells (s * f.cps + l / 2) = cellCross) :
    f.follow cells (n + 1) s l = (f.follow cells n (s + 1) (f.onward s (f.passed cells s l))).map
      (fun r => (r.1, ⟨s * f.cps + l / 2, l % 2, cells (s * f.cps + l / 2)⟩ :: r.2)) := by
  rw [Fabric.follow]
  exact if_pos hset

/-- The same for the input `x` of the cell of position `k`. -/
theorem Fabric.follow_pair (f : Fabric) (cells : Nat → Nat) (n s k : Nat) {x : Nat} (hx : x < 2)
    (hset : cells (s * f.cps + k) = cellBar ∨ cells (s * f.cps + k) = cellCross) :
    f.follow cells (n + 1) s (2 * k + x) =
      (f.follow cells n (s + 1) (f.onward s (2 * k + xor1 x (cells (s * f.cps + k))))).map
        (fun r => (r.1, ⟨s * f.cps + k, x, cells (s * f.cps + k)⟩ :: r.2)) := by
  have hpair : (2 * k + x) / 2 = k := by omega
  have hside : (2 * k + x) % 2 = x := by omega
  rw [Fabric.follow_succ f cells n s (2 * k + x) (by rwa [hpair]), f.passed_pair cells s k hx, hpair, hside]

/-! ### Maps that keep lines apart -/

/-- `g` sends the first `m` lines into themselves, no two of them to the same one. -/
def KeepsApart (m : Nat) (g : Nat → Nat) : Prop := (∀ l < m, g l < m) ∧ ∀ l < m, ∀ l' < m, g l = g l' → l = l'

theorem KeepsApart.id (m : Nat) : KeepsApart m (fun l => l) := ⟨fun _ hl => hl, fun _ _ _ _ heq => heq⟩

theorem KeepsApart.comp {m : Nat} {g g' : Nat → Nat} (h' : KeepsApart m g') (h : KeepsApart m g) : KeepsApart m (g' ∘ g) :=
  ⟨fun l hl => h'.1 _ (h.1 l hl), fun l hl l' hl' heq => h.2 l hl l' hl' (h'.2 _ (h.1 l hl) _ (h.1 l' hl') heq)⟩

/-- A map that some map undoes keeps lines apart. -/
theorem KeepsApart.of_leftInverse {m : Nat} {g g' : Nat → Nat} (hmaps : ∀ l < m, g l < m) (hinv : ∀ l < m, g' (g l) = l) :
    KeepsApart m g :=
  ⟨hmaps, fun l hl l' hl' heq => by rw [← hinv l hl, heq, hinv l' hl']⟩

/-- A stage of cells keeps the lines apart, for the cells under their settings undo themselves. -/
theorem Fabric.passed_keepsApart (f : Fabric) (cells : Nat → Nat) (s : Nat) (hn : 1 ≤ f.n) :
    KeepsApart f.ports (f.passed cells s) := by
  have heven : 2 ∣ f.ports := Nat.pow_dvd_pow 2 hn
  refine KeepsApart.of_leftInverse (g' := f.passed cells s) (fun l hl => ?_) (fun l _ => ?_)
  · have hpair := f.passed_div_two cells s l
    omega
  · rw [Fabric.passed, f.passed_div_two, f.passed_mod_two, xor1_xor1 (Nat.mod_lt l (by decide))]
    omega

/-! ### The links of a Beneš fabric (R68) -/

theorem mul_add_div_of_lt (q : Nat) {b r : Nat} (hr : r < b) : (q * b + r) / b = q := by
  rw [Nat.mul_comm, Nat.mul_add_div (by omega), Nat.div_eq_of_lt hr, Nat.add_zero]

/-- `g` applied to the offset within each block of `b` lines. -/
def blockwise (b : Nat) (g : Nat → Nat) (l : Nat) : Nat := l / b * b + g (l % b)

theorem blockwise_keepsApart {b m : Nat} {g : Nat → Nat} (hb : 0 < b) (hdvd : b ∣ m) (hg : KeepsApart b g) :
    KeepsApart m (blockwise b g) := by
  have hlow (l : Nat) : g (l % b) < b := hg.1 _ (Nat.mod_lt l hb)
  have hblock (l : Nat) : blockwise b g l / b = l / b := mul_add_div_of_lt _ (hlow l)
  have hoffset (l : Nat) : blockwise b g l % b = g (l % b) := Nat.mul_add_mod_of_lt (hlow l)
  obtain ⟨blocks, rfl⟩ := hdvd
  refine ⟨fun l hl => ?_, fun l _ l' _ heq => ?_⟩
  · rw [Nat.mul_comm, ← Nat.div_lt_iff_lt_mul hb] at hl ⊢
    rwa [hblock]
  · have hsame : l / b = l' / b := by rw [← hblock l, heq, hblock]
    have hrest : l % b = l' % b :=
      hg.2 _ (Nat.mod_lt l hb) _ (Nat.mod_lt l' hb) (by rw [← hoffset l, heq, hoffset])
    rw [← Nat.div_add_mod l b, hsame, hrest, Nat.div_add_mod]

/-- Within a block of two times `h` lines: upper outputs into the upper half, lower ones into the lower half. -/
def toHalves (h o : Nat) : Nat := o % 2 * h + o / 2

/-- Its mirror image: the halves of the block are dealt out to the upper and the lower inputs. -/
def fromHalves (h o : Nat) : Nat := o % h * 2 + o / h

theorem toHalves_lt {h o : Nat} (ho : o < 2 * h) : toHalves h o < 2 * h := by
  unfold toHalves
  obtain hpar | hpar := Nat.mod_two_eq_zero_or_one o <;> rw [hpar] <;> omega

theorem fromHalves_lt {h o : Nat} (ho : o < 2 * h) : fromHalves h o < 2 * h := by
  have hmod : o % h < h := Nat.mod_lt o (by omega)
  have hdiv : o / h < 2 := Nat.div_lt_of_lt_mul (by omega)
  unfold fromHalves
  omega

theorem fromHalves_toHalves {h o : Nat} (ho : o < 2 * h) : fromHalves h (toHalves h o) = o := by
  have hlow : o / 2 < h := by omega
  rw [fromHalves, toHalves, Nat.mul_add_mod_of_lt hlow, mul_add_div_of_lt _ hlow, Nat.div_add_mod']

theorem toHalves_fromHalves {h o : Nat} (ho : o < 2 * h) : toHalves h (fromHalves h o) = o := by
  have hdiv : o / h < 2 := Nat.div_lt_of_lt_mul (by omega)
  rw [toHalves, fromHalves, Nat.mul_add_mod_of_lt hdiv, mul_add_div_of_lt _ hdiv, Nat.div_add_mod']

theorem toHalves_keepsApart (h : Nat) : KeepsApart (2 * h) (toHalves h) :=
  .of_leftInverse (fun _ ho => toHalves_lt ho) (fun _ ho => fromHalves_toHalves ho)

theorem fromHalves_keepsApart (h : Nat) : KeepsApart (2 * h) (fromHalves h) :=
  .of_leftInverse (fun _ ho => fromHalves_lt ho) (fun _ ho => toHalves_fromHalves ho)

/-- A quotient of powers of two as twice a power. -/
theorem two_pow_div_two_pow_eq_two_mul {n d : Nat} (hd : d < n) : 2 ^ n / 2 ^ d = 2 * 2 ^ (n - d - 1) := by
  rw [Nat.pow_div (Nat.le_of_lt hd) (by decide), ← Nat.pow_succ']
  congr 1
  omega

/-- The links in front of the middle stage. -/
theorem benesLink_eq_toHalves {n s : Nat} (hs : s + 1 < n) :
    benesLink n s = blockwise (2 * 2 ^ (n - s - 1)) (toHalves (2 ^ (n - s - 1))) := by
  funext l
  rw [benesLink, if_pos hs, two_pow_div_two_pow_eq_two_mul (by omega)]
  dsimp only
  rw [Nat.mul_div_cancel_left _ (by decide), Nat.add_assoc]
  rfl

/-- The links behind it. -/
theorem benesLink_eq_fromHalves {n s : Nat} (hs : n ≤ s + 1) (hs' : s + 1 < 2 * n - 1) :
    benesLink n s = blockwise (2 * 2 ^ (n - (2 * n - 3 - s) - 1)) (fromHalves (2 ^ (n - (2 * n - 3 - s) - 1))) := by
  funext l
  rw [benesLink, if_neg (by omega), two_pow_div_two_pow_eq_two_mul (by omega)]
  dsimp only
  rw [Nat.mul_div_cancel_left _ (by decide), Nat.add_assoc]
  rfl

theorem two_mul_two_pow_pos (e : Nat) : 0 < 2 * 2 ^ e := Nat.mul_pos (by decide) (Nat.two_pow_pos e)

/-- A block of a link divides the fabric. -/
theorem two_mul_two_pow_dvd {n e : Nat} (he : e < n) : 2 * 2 ^ e ∣ 2 ^ n := by
  rw [← Nat.pow_succ']
  exact Nat.pow_dvd_pow 2 he

theorem benesLink_keepsApart {n s : Nat} (hs : s + 1 < 2 * n - 1) : KeepsApart (2 ^ n) (benesLink n s) := by
  by_cases hfront : s + 1 < n
  · rw [benesLink_eq_toHalves hfront]
    exact blockwise_keepsApart (two_mul_two_pow_pos _) (two_mul_two_pow_dvd (by omega)) (toHalves_keepsApart _)
  · rw [benesLink_eq_fromHalves (by omega) hs]
    exact blockwise_keepsApart (two_mul_two_pow_pos _) (two_mul_two_pow_dvd (by omega)) (fromHalves_keepsApart _)

theorem Fabric.link_benes {f : Fabric} (hkind : f.kind = 0) (s l : Nat) : f.link s l = benesLink f.n s l := by
  rw [Fabric.link, hkind]
  rfl

theorem Fabric.onward_keepsApart {f : Fabric} (hkind : f.kind = 0) (hstages : f.stages = 2 * f.n - 1) (s : Nat) :
    KeepsApart f.ports (f.onward s) := by
  by_cases hs : s + 1 < f.stages
  · have hlink : f.onward s = benesLink f.n s := funext fun l => (onward_of_lt hs l).trans (link_benes hkind s l)
    rw [hlink]
    exact benesLink_keepsApart (by omega)
  · have hlast : f.onward s = fun l => l := funext fun l => if_neg hs
    rw [hlast]
    exact .id _

/-- With every cell set, every line of a Beneš fabric gets through any number of stages, and no two lines meet. -/
theorem Fabric.follow_keepsApart {f : Fabric} {cells : Nat → Nat} (hkind : f.kind = 0) (hn : 1 ≤ f.n)
    (hstages : f.stages = 2 * f.n - 1) (hset : ∀ c, cells c = cellBar ∨ cells c = cellCross) (k s : Nat) :
    ∃ g, KeepsApart f.ports g ∧ ∀ l, ∃ path, f.follow cells k s l = some (g l, path) := by
  induction k generalizing s with
  | zero => exact ⟨_, .id _, fun l => ⟨[], rfl⟩⟩
  | succ k ih =>
    obtain ⟨g, happart, hrest⟩ := ih (s + 1)
    refine ⟨g ∘ f.onward s ∘ f.passed cells s,
      happart.comp ((onward_keepsApart hkind hstages s).comp (f.passed_keepsApart cells s hn)), fun l => ?_⟩
    obtain ⟨path, hpath⟩ := hrest (f.onward s (f.passed cells s l))
    exact ⟨_, by rw [Fabric.follow_succ f cells k s l (hset _), hpath]; rfl⟩

/-- Settles O60: the connections are one step of `Fabric.follow` at a time; for the outputs of a Beneš fabric, each stage of cells and
each link is a permutation of the lines, and `Fabric.follow` composes them. -/
theorem lightFollowsTheCells : Obligations.LightFollowsTheCells := by
  refine ⟨fun f cells s k x n hx hbar hs => ?_, fun f cells s k x n hx hcross hs => ?_, fun f cells s k x hx hs hbar => ?_,
    fun f cells s k x hx hs hcross => ?_, fun _ _ _ => rfl, fun f cells hkind hn hstages hset p q hp hq hne => ?_⟩
  · rw [f.follow_pair cells n s k hx (.inl hbar), hbar, xor1_bar hx, Fabric.onward_of_lt hs]
  · rw [f.follow_pair cells n s k hx (.inr hcross), hcross, xor1_cross hx, Fabric.onward_of_lt hs]
  · rw [f.follow_pair cells 0 s k hx (.inl hbar), hbar, xor1_bar hx, Fabric.onward_last hs]
    rfl
  · rw [f.follow_pair cells 0 s k hx (.inr hcross), hcross, xor1_cross hx, Fabric.onward_last hs]
    rfl
  · obtain ⟨g, ⟨hmaps, hinj⟩, hthrough⟩ := Fabric.follow_keepsApart hkind hn hstages hset f.stages 0
    obtain ⟨pathP, hP⟩ := hthrough p
    obtain ⟨pathQ, hQ⟩ := hthrough q
    exact ⟨_, _, hP, hQ, hmaps p hp, hmaps q hq, fun heq => hne (hinj p hp q hq heq)⟩

end Sys2Proof.Machine
end

section
/-! PROOFS. Without a Grave class no event takes the role or a decided takeover from its side (R299 to R306); what an understudy makes of
the loss of its lead, FIT or not (R229, R233). -/

namespace Sys2Proof.Machine

/-! ### What an event leaves as it was where no source is Grave -/

/-- The fields of TW_ROLE but FIT, which entry into the Major state clears (R301). -/
def roleFields : List Fld := [TW_ROLE.ROLE, TW_ROLE.WARMTH, TW_ROLE.FENCED, TW_ROLE.PEER_FENCED, TW_ROLE.PEER_FIT]

/-- Do the fields share no bit? -/
def Fld.apart (f g : Fld) : Bool := g.key != f.key || Nat.ble (f.lo + f.w) g.lo || Nat.ble (g.lo + g.w) f.lo

/-- Does a write of the field leave `roleFields`, the class map and the counts of events? -/
def Fld.spares (f : Fld) : Bool :=
  f.key % bankUnit != FC_MAP.CLASS.key % bankUnit && f.key % bankUnit != FC_STOTAL.EVENTS.key % bankUnit && roleFields.all f.apart

/-- The role, a decided takeover, the class map and the state of its copies are in `t` as in `s`, the side has not halted between them,
and no count of events has fallen. -/
structure Spared (s t : SideState) : Prop where
  role : ∀ g ∈ roleFields, t.get g = s.get g
  due : t.twin.takeoverDue = s.twin.takeoverDue
  halted : t.fault.halted = s.fault.halted
  upsets : t.fault.upsets = s.fault.upsets
  entry : ∀ src, t.entryOf src = s.entryOf src
  events : ∀ src, s.get (FC_STOTAL.EVENTS.bank src) ≤ t.get (FC_STOTAL.EVENTS.bank src)

theorem Spared.refl (s : SideState) : Spared s s := ⟨fun _ _ => rfl, rfl, rfl, rfl, fun _ => rfl, fun _ => Nat.le_refl _⟩

theorem Spared.trans {s t u : SideState} (h : Spared s t) (k : Spared t u) : Spared s u :=
  ⟨fun g hg => (k.role g hg).trans (h.role g hg), k.due.trans h.due, k.halted.trans h.halted, k.upsets.trans h.upsets,
    fun src => (k.entry src).trans (h.entry src), fun src => Nat.le_trans (h.events src) (k.events src)⟩

theorem Spared.ite {s t u : SideState} {c : Prop} [Decidable c] (h : Spared s t) (k : Spared s u) : Spared s (if c then t else u) := by
  split
  · exact h
  · exact k

theorem Spared.classOf {s t : SideState} (h : Spared s t) (src : Nat) : t.classOf src = s.classOf src :=
  congrArg (bits · 0 2) (h.entry src)

theorem Spared.mild {s t : SideState} (h : Spared s t) (hmild : s.mild = true) : t.mild = true := by
  unfold SideState.mild at *
  simpa only [h.upsets, h.classOf] using hmild

theorem bank_key_mod (f : Fld) (b : Nat) : (f.bank b).key % bankUnit = f.key % bankUnit := Nat.add_mul_mod_self_right ..

theorem ne_bank_key {f : Fld} {k : Nat} (h : k % bankUnit ≠ f.key % bankUnit) (b : Nat) : k ≠ (f.bank b).key :=
  fun he => h (by rw [he, bank_key_mod])

theorem bank_key_injective {f : Fld} {a b : Nat} (h : (f.bank a).key = (f.bank b).key) : a = b := by
  simp only [Fld.bank, bankUnit] at h
  omega

theorem FaultState.core_fields {f g : FaultState} (h : f.core = g.core) :
    f.halted = g.halted ∧ f.upsets = g.upsets ∧ f.mapPending = g.mapPending := by
  change f.core.halted = g.core.halted ∧ f.core.upsets = g.core.upsets ∧ f.core.mapPending = g.core.mapPending
  rw [h]
  exact ⟨rfl, rfl, rfl⟩

theorem Spared.of_set {s : SideState} {f : Fld} {v : Nat} (hrole : ∀ g ∈ roleFields, (s.set f v).get g = s.get g)
    (hmap : ∀ src, (FC_MAP.CLASS.bank src).key ≠ f.key)
    (hevents : ∀ src, s.get (FC_STOTAL.EVENTS.bank src) ≤ (s.set f v).get (FC_STOTAL.EVENTS.bank src)) : Spared s (s.set f v) := by
  refine ⟨hrole, rfl, rfl, rfl, fun src => ?_, hevents⟩
  rw [SideState.entryOf, s.word_set_ne _ _ _ (hmap src)]
  rfl

theorem SideState.set_spared (s : SideState) {f : Fld} (v : Nat) (hf : f.spares = true) : Spared s (s.set f v) := by
  simp only [Fld.spares, Bool.and_eq_true, bne_iff_ne, List.all_eq_true] at hf
  obtain ⟨⟨hmap, hevents⟩, hrole⟩ := hf
  refine .of_set (fun g hg => ?_) (fun src => (ne_bank_key hmap src).symm)
    (fun src => Nat.le_of_eq (s.get_set_key f _ v (ne_bank_key hevents src).symm).symm)
  have hwidth : g.lo + g.w ≤ 32 := by revert g; decide
  have hapart := hrole g hg
  simp only [Fld.apart, Bool.or_eq_true, bne_iff_ne, Nat.ble_eq, or_assoc] at hapart
  obtain hkey | hbits := hapart
  · exact s.get_set_key f g v hkey
  · exact s.get_set_apart f g v hwidth hbits

theorem Spared.set {s t : SideState} (h : Spared s t) {f : Fld} (v : Nat) (hf : f.spares = true := by decide) : Spared s (t.set f v) :=
  h.trans (t.set_spared v hf)

theorem Spared.setB {s t : SideState} (h : Spared s t) {f : Fld} (b : Bool) (hf : f.spares = true := by decide) :
    Spared s (t.setB f b) := h.set _ hf

theorem Spared.bump {s t : SideState} (h : Spared s t) {f : Fld} (n : Nat) (hf : f.spares = true := by decide) :
    Spared s (t.bump f n) := h.set _ hf

theorem Spared.evt {s t : SideState} (h : Spared s t) {page bit : Nat} (hf : (evtBit page bit).spares = true := by decide) :
    Spared s (t.evt page bit) := h.set _ hf

theorem Spared.twin {s t : SideState} (h : Spared s t) {w : TwinState} (hdue : w.takeoverDue = t.twin.takeoverDue) :
    Spared s { t with twin := w } :=
  h.trans ⟨fun _ _ => rfl, hdue, rfl, rfl, fun _ => rfl, fun _ => Nat.le_refl _⟩

theorem Spared.fault {s t : SideState} (h : Spared s t) {f : FaultState} (hhalted : f.halted = t.fault.halted)
    (hupsets : f.upsets = t.fault.upsets) (hmap : f.mapPending = t.fault.mapPending) : Spared s { t with fault := f } :=
  h.trans ⟨fun _ _ => rfl, rfl, hhalted, hupsets, fun src => congrArg (fun l => (Tab.getD l src (t.word _)).toNat) hmap,
    fun _ => Nat.le_refl _⟩

/-- An operation that keeps the collector, the twin link and their pages. -/
theorem Spared.keeps {s t u : SideState} (h : Spared s t) {P : List Nat} {E : List Part} (hk : Keeps (some P) E t u)
    (hcollector : P.contains 0x03 = false := by decide) (htwin : P.contains 0x08 = false := by decide)
    (hparts : E.contains .twin = false := by decide) (hfault : E.contains .fault = false := by decide) : Spared s u := by
  obtain ⟨hhalted, hupsets, hpending⟩ := FaultState.core_fields (hk.part .fault hfault)
  have hword (f : Fld) (src : Nat) (hf : pageOf f.key = 0x03) : u.word (f.bank src).key = t.word (f.bank src).key :=
    hk.word _ (by rw [pageOf_bank, hf]; exact hcollector)
  refine h.trans ⟨fun g hg => ?_, congrArg TwinState.takeoverDue (hk.part .twin hparts), hhalted, hupsets, fun src => ?_, fun src => ?_⟩
  · have hpage : pageOf g.key = 0x08 := by revert g; decide
    rw [SideState.get, SideState.get, hk.word _ (by rw [hpage]; exact htwin)]
  · rw [SideState.entryOf, SideState.entryOf, hpending, hword FC_MAP.CLASS src rfl]
  · exact Nat.le_of_eq (by rw [SideState.get, SideState.get, hword FC_STOTAL.EVENTS src rfl])

theorem SideState.get_lt (s : SideState) (f : Fld) : s.get f < 2 ^ f.w := Nat.mod_lt _ (Nat.two_pow_pos _)

theorem SideState.get_events_lt (s : SideState) (src : Nat) : s.get (FC_STOTAL.EVENTS.bank src) < 2 ^ 32 := by
  have hwidth : (FC_STOTAL.EVENTS.bank src).w = 32 := rfl
  have hlt := s.get_lt (FC_STOTAL.EVENTS.bank src)
  rwa [hwidth] at hlt

theorem SideState.get_set_events (s : SideState) (src v : Nat) :
    (s.set (FC_STOTAL.EVENTS.bank src) v).get (FC_STOTAL.EVENTS.bank src) = v % 2 ^ 32 :=
  s.get_set_self (FC_STOTAL.EVENTS.bank src) v (by change 0 + 32 ≤ 32; decide)

/-- A count of events saturates (R299). -/
theorem SideState.get_bump_events (s : SideState) (src : Nat) :
    (s.bump (FC_STOTAL.EVENTS.bank src) 1).get (FC_STOTAL.EVENTS.bank src)
      = min (2 ^ 32 - 1) (s.get (FC_STOTAL.EVENTS.bank src) + 1) := by
  have hlt := s.get_events_lt src
  have hwidth : (FC_STOTAL.EVENTS.bank src).w = 32 := rfl
  rw [SideState.bump, s.get_set_events, hwidth]
  generalize s.get (FC_STOTAL.EVENTS.bank src) = n at hlt ⊢
  split <;> omega

/-- A count of events that rises leaves those of the other sources. -/
theorem SideState.set_events_spared (s : SideState) {src v : Nat} (hv : s.get (FC_STOTAL.EVENTS.bank src) ≤ v % 2 ^ 32) :
    Spared s (s.set (FC_STOTAL.EVENTS.bank src) v) := by
  have hrole : ∀ g ∈ roleFields, g.key % bankUnit ≠ FC_STOTAL.EVENTS.key % bankUnit := by decide
  have hmap (j : Nat) : (FC_MAP.CLASS.bank j).key % bankUnit ≠ FC_STOTAL.EVENTS.key % bankUnit := by
    rw [bank_key_mod]
    decide
  refine .of_set (fun g hg => s.get_set_key _ g v (ne_bank_key (hrole g hg) src)) (fun j => ne_bank_key (hmap j) src) (fun j => ?_)
  by_cases hj : j = src
  · rw [hj, s.get_set_events]
    exact hv
  · exact Nat.le_of_eq (s.get_set_key _ _ v fun he => hj (bank_key_injective he)).symm

theorem SideState.bump_events_spared (s : SideState) (src : Nat) : Spared s (s.bump (FC_STOTAL.EVENTS.bank src) 1) := by
  refine s.set_events_spared ?_
  have hbump := s.get_bump_events src
  have hlt := s.get_events_lt src
  rw [SideState.bump, s.get_set_events] at hbump
  omega

/-! ### The collector -/

theorem SideState.count_spared (s : SideState) (i n : Nat) : Spared s (s.count i n) := (Spared.refl s).keeps (s.count_keeps i n)

theorem SideState.placeEntry_spared (s : SideState) (kind code flags count : Nat) (detail : List Byte) :
    Spared s (s.placeEntry kind code flags count detail) := by
  unfold SideState.placeEntry
  dsimp only
  refine .ite (.set ?_ _) (.fault ((Spared.refl s).bump 1).evt rfl rfl rfl)
  exact (Spared.refl s).fault rfl rfl rfl

theorem SideState.log_spared (s : SideState) (kind code flags count : Nat) (detail : List Byte) :
    Spared s (s.log kind code flags count detail) := .ite (.refl s) (s.placeEntry_spared ..)

theorem SideState.logFault_spared (s : SideState) (src cls : Nat) (inj : Bool) (count : Nat) (detail : List Byte) :
    Spared s (s.logFault src cls inj count detail) := by
  unfold SideState.logFault
  dsimp only
  have hlogged : Spared s (if cls = 3 ∧ !collectorSource src then
      s.placeEntry 0 src (cls + (if inj then 4 else 0) + (if collectorSource src then 8 else 0) + s.sideRole) count detail
    else s.log 0 src (cls + (if inj then 4 else 0) + (if collectorSource src then 8 else 0) + s.sideRole) count detail) :=
    .ite (s.placeEntry_spared ..) (s.log_spared ..)
  exact .ite hlogged (((((hlogged.set _).set _).setB _).setB _).set _)

theorem scnt_spares (src : Nat) : (FC_SCNT.COUNT.bank src).spares = true := by
  have hrole : ∀ g ∈ roleFields, g.key % bankUnit ≠ FC_SCNT.COUNT.key % bankUnit := by decide
  simp only [Fld.spares, bank_key_mod, Bool.and_eq_true, List.all_eq_true]
  exact ⟨by decide, fun g hg => by simp [Fld.apart, ne_bank_key (hrole g hg) src]⟩

theorem SideState.openWindow_spared (s : SideState) (src : Nat) : Spared s (s.openWindow src) := (Spared.refl s).fault rfl rfl rfl

theorem SideState.closeWindow_spared (s : SideState) (src : Nat) : Spared s (s.closeWindow src) :=
  Spared.fault ((Spared.refl s).set 0 (scnt_spares src)) rfl rfl rfl

theorem SideState.topClass_spared (s : SideState) (cls : Nat) : Spared s (s.topClass cls) := (Spared.refl s).fault rfl rfl rfl

theorem SideState.enterMajor_spared (s : SideState) (src : Nat) : Spared s (s.enterMajor src) := by
  unfold SideState.enterMajor
  dsimp only
  have hnoted : Spared s { s with fault := { s.fault with majorAt := some (s.produced * 10000 + s.off) } } :=
    (Spared.refl s).fault rfl rfl rfl
  have hentered := (hnoted.set (f := SW_STAT.ALIVE_RUN) 0).set (f := FC_STAT.MAJOR) 1
  have hshown := ((hentered.set (f := FC_MAJ.SOURCE) src).bump (f := FC_MAJ.COUNT) 1).set (f := FC_MAJ.BEAT) s.beatNo
  exact .ite (hnoted.bump 1) (.ite (.ite (hshown.twin rfl) (Spared.twin (hshown.set 1) rfl)) (hshown.set 0))

/-- The reaction of a class below Grave takes nothing from the side, and raises no event of its own. -/
theorem SideState.react_spared (s : SideState) (src : Nat) {cls : Nat} (hcls : cls < 3) :
    Spared s (s.react src cls).1 ∧ (s.react src cls).2 = false := by
  have htop := s.topClass_spared cls
  unfold SideState.react
  split
  · exact ⟨.refl s, rfl⟩
  · obtain rfl | rfl | rfl : cls = 0 ∨ cls = 1 ∨ cls = 2 := by omega
    · exact ⟨htop, rfl⟩
    · exact ⟨(htop.evt).twin rfl, rfl⟩
    · exact ⟨(htop.evt).trans (enterMajor_spared _ src), rfl⟩

theorem SideState.countEvent_spared (s : SideState) (src : Nat) (inj : Bool) (detail : List Byte) (hcls : s.classOf src < 3) :
    Spared s (s.countEvent src inj detail).1 ∧ (s.countEvent src inj detail).2 = false := by
  unfold SideState.countEvent
  dsimp only
  have hopened : Spared s (if s.countOf src + 1 = 1 then s.openWindow src else s) := .ite (s.openWindow_spared src) (.refl s)
  generalize (if s.countOf src + 1 = 1 then s.openWindow src else s) = opened at hopened ⊢
  generalize ((s.countOf src + 1 == 1 && s.threshold src != 1) || (inj && decide (s.countOf src + 1 < s.threshold src))) = first
  have hnoted : Spared s (if first then opened.logFault src 0 inj (s.countOf src + 1) detail else opened) :=
    .ite (hopened.trans (opened.logFault_spared ..)) hopened
  generalize (if first then opened.logFault src 0 inj (s.countOf src + 1) detail else opened) = noted at hnoted ⊢
  split
  · exact ⟨hnoted.set _ (scnt_spares src), rfl⟩
  · have hlogged := hnoted.trans (noted.logFault_spared src (noted.classOf src) inj (s.countOf src + 1) detail)
    have hclosed := hlogged.trans (closeWindow_spared _ src)
    obtain ⟨hreacted, hquiet⟩ := react_spared _ src (hnoted.classOf src ▸ hcls)
    exact ⟨hclosed.trans hreacted, hquiet⟩

theorem SideState.showInjected_spared (s : SideState) : Spared s s.showInjected := (Spared.refl s).evt.bump 1

theorem SideState.logInjected_spared (s : SideState) (src : Nat) : Spared s (s.logInjected src) :=
  ((s.count_spared 120 1).trans (bump_events_spared _ src)).trans (logFault_spared ..)

theorem SideState.consumeInjection_spared (s : SideState) (i : Injection) : Spared s (s.consumeInjection i) := by
  unfold SideState.consumeInjection
  have hdone : Spared s { s with fault := { s.fault with injection := none } } := (Spared.refl s).fault rfl rfl rfl
  exact .ite (((hdone.set _).set _).set _) (.fault ((Spared.refl s).set _) rfl rfl rfl)

theorem SideState.mapRead_spared (s : SideState) : Spared s s.mapRead := by
  unfold SideState.mapRead
  split
  · exact .refl s
  · have hvoted := ((Spared.refl s).set (f := PAGE_STAT.TV_ERR.onPage 0x03) 1).trans (consumeInjection_spared _ ‹_›)
    exact (hvoted.trans (showInjected_spared _)).trans (logInjected_spared _ _)

theorem SideState.showReal_spared (s : SideState) (src : Nat) : Spared s (s.showReal src) :=
  .ite ((Spared.refl s).evt.bump 1) (.refl s)

/-! ### An event of a mild side -/

theorem SideState.mild_iff (s : SideState) : s.mild = true ↔ s.fault.upsets = [] ∧ ∀ src < 256, s.classOf src ≠ 3 := by
  simp [SideState.mild]

theorem SideState.classOf_lt_of_mild {s : SideState} (hmild : s.mild = true) {src : Nat} (hsrc : src < 256) : s.classOf src < 3 := by
  have hgrave : s.classOf src ≠ 3 := (s.mild_iff.mp hmild).2 src hsrc
  have hwidth : s.classOf src < 2 ^ 2 := Nat.mod_lt _ (by decide)
  omega

theorem SideState.compareEntry_of_agreed {s : SideState} (hupsets : s.fault.upsets = []) (src : Nat) :
    s.compareEntry src = (s, false) := by
  simp [SideState.compareEntry, hupsets]

/-- The collector takes an event of a source of a class below Grave whose copies agree: it is counted, and reacts without an event of
its own (R299, R300). -/
theorem SideState.collect_eq_of_mild {s : SideState} (hmild : s.mild = true) {src : Nat} (hsrc : src < 0xF0) (fuel : Nat) (inj : Bool)
    (detail : List Byte) :
    s.collect (fuel + 1) src inj detail
      = ((((if inj then s else s.showReal src).count 120 1).bump (FC_STOTAL.EVENTS.bank src) 1).mapRead.countEvent src inj detail).1 := by
  have hown : collectorSource src = false := by simp [collectorSource]; omega
  have hshown : Spared s (if inj then s else s.showReal src) := .ite (.refl s) (s.showReal_spared src)
  rw [SideState.collect]
  generalize (if inj then s else s.showReal src) = shown at hshown ⊢
  have hagreed : shown.fault.upsets = [] := hshown.upsets.trans (s.mild_iff.mp hmild).1
  have hread := ((hshown.trans (shown.count_spared 120 1)).trans (bump_events_spared _ src)).trans (mapRead_spared _)
  have hquiet := (countEvent_spared _ src inj detail (classOf_lt_of_mild (hread.mild hmild) (by omega))).2
  simp only [hown, Bool.false_eq_true, if_false, compareEntry_of_agreed hagreed]
  generalize SideState.countEvent _ src inj detail = answer at hquiet ⊢
  obtain ⟨after, again⟩ := answer
  cases hquiet
  rfl

/-- Such an event spares the side, and is counted (R299). -/
theorem SideState.collect_of_mild {s : SideState} (hmild : s.mild = true) {src : Nat} (hsrc : src < 0xF0) (fuel : Nat) (inj : Bool)
    (detail : List Byte) :
    Spared s (s.collect (fuel + 1) src inj detail)
      ∧ min (2 ^ 32 - 1) (s.get (FC_STOTAL.EVENTS.bank src) + 1)
        ≤ (s.collect (fuel + 1) src inj detail).get (FC_STOTAL.EVENTS.bank src) := by
  rw [collect_eq_of_mild hmild hsrc]
  have hcounted : Spared s ((if inj then s else s.showReal src).count 120 1) :=
    (Spared.ite (.refl s) (s.showReal_spared src)).trans (count_spared _ 120 1)
  generalize ((if inj then s else s.showReal src).count 120 1) = counted at hcounted ⊢
  have hread := (counted.bump_events_spared src).trans (mapRead_spared _)
  have hreacted := (countEvent_spared _ src inj detail
    (classOf_lt_of_mild ((hcounted.trans hread).mild hmild) (by omega))).1
  refine ⟨(hcounted.trans hread).trans hreacted, ?_⟩
  calc min (2 ^ 32 - 1) (s.get (FC_STOTAL.EVENTS.bank src) + 1)
      ≤ min (2 ^ 32 - 1) (counted.get (FC_STOTAL.EVENTS.bank src) + 1) := by
        have := hcounted.events src
        omega
    _ = (counted.bump (FC_STOTAL.EVENTS.bank src) 1).get (FC_STOTAL.EVENTS.bank src) := (counted.get_bump_events src).symm
    _ ≤ _ := ((mapRead_spared _).trans hreacted).events src

theorem SideState.reportDrops_spared {s : SideState} (hmild : s.mild = true) : Spared s s.reportDrops := by
  unfold SideState.reportDrops
  dsimp only
  have hnoted : Spared s { s with fault := { s.fault with dropped := false, droppedAt := some s.produced } } :=
    (Spared.refl s).fault rfl rfl rfl
  exact .ite (hnoted.trans (collect_of_mild (hnoted.mild hmild) (by decide) ..).1) (.refl s)

theorem SideState.raise_of_mild {s : SideState} (hmild : s.mild = true) {src : Nat} (hsrc : src < 0xF0) :
    Spared s (s.raise src) ∧ s.raised (s.raise src) src = true := by
  unfold SideState.raise SideState.raiseWith SideState.raised
  split
  next hhalted => exact ⟨.refl s, by simp [hhalted]⟩
  next =>
    obtain ⟨hspared, hcount⟩ := collect_of_mild hmild hsrc 3 false (leBytes 4 s.off)
    have hdrops := reportDrops_spared (hspared.mild hmild)
    refine ⟨hspared.trans hdrops, ?_⟩
    rw [Bool.or_eq_true, Nat.ble_eq]
    exact .inr (Nat.le_trans hcount (hdrops.events src))

/-- An event stays raised over what spares the side. -/
theorem Spared.raised {x s t u : SideState} (h : Spared x s) (k : Spared t u) {src : Nat} (hraised : s.raised t src = true) :
    x.raised u src = true := by
  have hfrom := h.events src
  have hto := k.events src
  simp only [SideState.raised, Bool.or_eq_true, Nat.ble_eq, h.halted] at *
  exact hraised.imp_right fun hcount => by omega

/-! ### The decision (R229, R233) -/

theorem SideState.isUnderstudy_of_fitNow {s : SideState} (hfit : s.fitNow = true) : s.isUnderstudy = true := by
  simp only [SideState.fitNow, Bool.and_eq_true, and_assoc] at hfit
  exact hfit.1

/-- An understudy that is FIT decides, unless a decision for the same boundary or an earlier one stands. -/
theorem SideState.decideTakeover_of_fit {s : SideState} (hfit : s.fitNow = true) (boundary cause : Nat) (again : Bool) :
    s.decideTakeover boundary cause again
      = if s.twin.takeoverDue.any (fun d => Nat.ble d boundary) then s
        else { s with twin := { s.twin with takeoverDue := some boundary, takeoverCause := cause } } := by
  have hunder := isUnderstudy_of_fitNow hfit
  unfold SideState.decideTakeover
  cases hdue : s.twin.takeoverDue with
  | none => simp [hunder, hfit]
  | some d => simp [hunder, hfit]

/-- One that is not raises source 0x82 with CAUSE NOT_FIT (R229). -/
theorem SideState.decideTakeover_of_not_fit {s : SideState} (hunder : s.isUnderstudy = true) (hfit : s.fitNow = false)
    (boundary cause : Nat) : s.decideTakeover boundary cause false = (s.raise 0x82).set TW_TAKE_STAT.CAUSE 4 := by
  simp [SideState.decideTakeover, hunder, hfit]

/-! ### What the understudy hears -/

/-- The registers that a marker, a pulse and silence may change on the understudy before it decides. -/
def heardKeys : List Nat := [TW_HB_STAT.SILENT.key, TW_COPY_STAT.NOCOMMIT.key, TW_LINK.LANES.key] ++ accessKeys

/-- `t` is the side `s` after it has heard its lead resign or fall silent, before it decides. -/
structure Heard (s t : SideState) : Prop where
  only : Only (keysOf heardKeys) [.clock, .off, .twin, .perf] s t
  produced : t.produced = s.produced
  due : t.twin.takeoverDue = s.twin.takeoverDue
  cause : t.twin.takeoverCause = s.twin.takeoverCause
  report : t.twin.report = s.twin.report

theorem Heard.refl (s : SideState) : Heard s s := ⟨.self, rfl, rfl, rfl, rfl⟩

theorem Heard.trans {s t u : SideState} (h : Heard s t) (k : Heard t u) : Heard s u :=
  ⟨.trans k.only h.only, k.produced.trans h.produced, k.due.trans h.due, k.cause.trans h.cause, k.report.trans h.report⟩

theorem Heard.set {s t : SideState} (h : Heard s t) {f : Fld} (v : Nat) (hf : keysOf heardKeys f.key = true := by decide) :
    Heard s (t.set f v) := ⟨h.only.set f v hf, h.produced, h.due, h.cause, h.report⟩

theorem Heard.twin {s t : SideState} (h : Heard s t) {w : TwinState} (hdue : w.takeoverDue = t.twin.takeoverDue)
    (hcause : w.takeoverCause = t.twin.takeoverCause) (hreport : w.report = t.twin.report) : Heard s { t with twin := w } := by
  refine h.trans ⟨⟨fun _ _ => rfl, fun p hp => ?_⟩, rfl, hdue, hcause, hreport⟩
  cases p with
  | twin => exact absurd hp (by decide)
  | _ => rfl

theorem Heard.judged {s t : SideState} (h : Heard s t) (off : Nat) : Heard s { t with win := .judged, off := off } := by
  refine h.trans ⟨⟨fun _ _ => rfl, fun p hp => ?_⟩, rfl, rfl, rfl, rfl⟩
  cases p with
  | clock => exact absurd hp (by decide)
  | off => exact absurd hp (by decide)
  | _ => rfl

/-- Counter 114 counts the commits. -/
theorem Heard.count {s t : SideState} (h : Heard s t) (n : Nat) : Heard s (t.count 114 n) := by
  have hkeeps := t.count_keeps 114 n
  have hclock := hkeeps.part .clock rfl
  have htwin := hkeeps.part .twin rfl
  simp only [SideState.sameIn, Prod.mk.injEq] at hclock htwin
  obtain ⟨-, hproduced, -⟩ := hclock
  exact h.trans ⟨.inside (t.count_parts 114 n) (by decide) rfl .self, hproduced, by rw [htwin], by rw [htwin], by rw [htwin]⟩

theorem Heard.get {s t : SideState} (h : Heard s t) (f : Fld) (hf : keysOf heardKeys f.key = false := by decide) :
    t.get f = s.get f := by
  rw [SideState.get, SideState.get, h.only.word _ hf]

theorem Heard.isUnderstudy {s t : SideState} (h : Heard s t) : t.isUnderstudy = s.isUnderstudy := by
  rw [SideState.isUnderstudy, SideState.isUnderstudy, h.get TW_ROLE.ROLE]

theorem Heard.not_leads {s t : SideState} (h : Heard s t) (hunder : s.isUnderstudy = true) : t.leads = false := by
  have hrole : s.get TW_ROLE.ROLE = 2 := by simpa [SideState.isUnderstudy] using hunder
  rw [SideState.leads, h.get TW_ROLE.ROLE, hrole]
  rfl

theorem Heard.fitNow {s t : SideState} (h : Heard s t) : t.fitNow = s.fitNow := by
  simp only [SideState.fitNow, SideState.is, h.isUnderstudy, h.report, h.get TW_ROLE.WARMTH, h.get FC_STAT.MAJOR, h.get FC_STAT.SAFE,
    h.get TW_ROLE.FENCED, h.get TH_INT_STAT.STATE]

theorem Heard.spared {s t : SideState} (h : Heard s t) : Spared s t := by
  obtain ⟨hhalted, hupsets, hpending⟩ := FaultState.core_fields (h.only.part .fault rfl)
  have hbank (f : Fld) (src : Nat) (hf : ∀ k ∈ heardKeys, k % bankUnit ≠ f.key % bankUnit) :
      t.word (f.bank src).key = s.word (f.bank src).key := by
    exact h.only.word _ (Bool.eq_false_iff.mpr fun hk => hf _ (List.contains_iff_mem.mp hk) (bank_key_mod f src))
  refine ⟨fun g hg => ?_, h.due, hhalted, hupsets, fun src => ?_, fun src => ?_⟩
  · exact h.get g (by revert g; decide)
  · rw [SideState.entryOf, SideState.entryOf, hpending, hbank FC_MAP.CLASS src (by decide)]
  · exact Nat.le_of_eq (by rw [SideState.get, SideState.get, hbank FC_STOTAL.EVENTS src (by decide)])

/-- The third beat without marker and pulse (R233). -/
theorem SideState.judgeBeat_of_silence {s : SideState} (hunder : s.isUnderstudy = true) (hmarker : s.twin.markerSeen = false)
    (hpulse : s.twin.pulseSeen = false) (hsilent : s.get TW_HB_STAT.SILENT = 2) :
    ∃ t, Heard s t ∧ s.judgeBeat = t.decideTakeover (t.produced + 1) 1 false := by
  have hheard {w : TwinState} (hdue : w.takeoverDue = s.twin.takeoverDue) (hcause : w.takeoverCause = s.twin.takeoverCause)
      (hreport : w.report = s.twin.report) :
      Heard s { ((s.setB TW_HB_STAT.MARKER_OK false).setB TW_HB_STAT.PULSE_OK false).set TW_HB_STAT.SILENT 3 with twin := w } :=
    ((((Heard.refl s).set _).set _).set _).twin hdue hcause hreport
  unfold SideState.judgeBeat
  rw [hmarker, hpulse, hsilent]
  refine ⟨_, hheard ?_ ?_ ?_, (if_neg (Nat.lt_irrefl 3)).trans (if_neg ?_)⟩
  · rfl
  · rfl
  · rfl
  · rw [Heard.not_leads ?_ hunder]
    · decide
    · exact hheard rfl rfl rfl

/-- A present marker of the beat that commits the copy and resigns (R234, R246). -/
theorem SideState.takeMarker_of_resign {s : SideState} {w0 beat : Nat} (hcomplete : bitAt w0 4 = true) (hbeat : beat = s.beatNo)
    (hresign : bitAt w0 5 = true) : ∃ t, Heard s t ∧ s.takeMarker w0 beat = t.decideTakeover (t.produced + 1) 2 false := by
  have hcommits : (bitAt w0 4 && beat == s.beatNo) = true := by simp [hcomplete, hbeat]
  unfold SideState.takeMarker
  extract_lets _ _ merged _ _ _ committed _ heard
  have hmerged : Heard s merged := (Heard.refl s).twin rfl rfl rfl
  have hcommitted : Heard s committed := by
    change Heard s (if _ then _ else _)
    rw [if_pos hcommits]
    exact ((hmerged.set _).set _).count 1
  clear_value committed
  have hheard : Heard s heard := hcommitted.twin rfl rfl rfl
  exact ⟨heard.set TW_HB_STAT.RESIGN_IN 1, hheard.set 1, if_pos hresign⟩

theorem SideState.checkAt_good {s : SideState} (hinjection : s.fault.injection = none) (point : Nat) : s.checkAt point true = s := by
  simp [SideState.checkAt, SideState.armedAt, hinjection, SideState.raiseIf]

theorem SideState.receiveMarker_of_resign {s : SideState} {b : List Byte} (hunder : s.isUnderstudy = true)
    (hinjection : s.fault.injection = none) (hwin : s.win ≠ .judged) (hlength : b.length = 16) (hkind : leNat (slice b 0 4) % 16 = 15)
    (hcheck : leNat (slice b 4 4) = crc32c s.twin.beatStaged.flatten) (hcomplete : bitAt (leNat (slice b 0 4)) 4 = true)
    (hbeat : leNat (slice b 8 8) = s.beatNo) (hresign : bitAt (leNat (slice b 0 4)) 5 = true) :
    ∃ t, Heard s t ∧ s.receiveMarker b true = t.decideTakeover (t.produced + 1) 2 false := by
  have hseen : Heard s { s.set TW_LINK.LANES 0xFF with twin := { s.twin with markerSeen := true } } :=
    ((Heard.refl s).set _).twin rfl rfl rfl
  obtain ⟨t, hheard, htaken⟩ := takeMarker_of_resign (s := { s.set TW_LINK.LANES 0xFF with twin := { s.twin with markerSeen := true } })
    hcomplete hbeat hresign
  refine ⟨t, hseen.trans hheard, ?_⟩
  rw [← htaken, SideState.receiveMarker, checkAt_good hinjection]
  dsimp only
  rw [if_neg (by decide), if_neg (by simp [hlength, hkind, hcheck, hwin]), if_pos (hseen.isUnderstudy.trans hunder)]

/-! ### What comes of it -/

/-- The takeover that `x` has decided in `t`: for the boundary `b` with its cause, unless one for `b` or earlier stands (R229). -/
def SideState.decidedIn (x t : SideState) (b cause : Nat) : Prop :=
  if x.twin.takeoverDue.any (fun d => Nat.ble d b) then
    t.twin.takeoverDue = x.twin.takeoverDue ∧ t.twin.takeoverCause = x.twin.takeoverCause
  else t.twin.takeoverDue = some b ∧ t.twin.takeoverCause = cause

/-- `x` has refused a takeover in `t`: source 0x82 with CAUSE NOT_FIT, nothing decided, and still understudy (R229). -/
def SideState.refusedIn (x t : SideState) : Prop :=
  t.get TW_ROLE.ROLE = 2 ∧ t.get TW_TAKE_STAT.CAUSE = 4 ∧ t.twin.takeoverDue = x.twin.takeoverDue ∧ x.raised t 0x82 = true

theorem Heard.decided {s t : SideState} (h : Heard s t) (hfit : s.fitNow = true) (b cause : Nat) (again : Bool) :
    s.decidedIn (t.decideTakeover b cause again) b cause := by
  rw [SideState.decideTakeover_of_fit (h.fitNow.trans hfit), SideState.decidedIn, h.due]
  split
  · exact ⟨h.due, h.cause⟩
  · exact ⟨rfl, rfl⟩

theorem Heard.spared_refused {s t : SideState} (h : Heard s t) (hmild : s.mild = true) :
    Spared s ((t.raise 0x82).set TW_TAKE_STAT.CAUSE 4) :=
  (h.spared.trans (SideState.raise_of_mild (h.spared.mild hmild) (by decide)).1).set 4

theorem Heard.refused {s t : SideState} (h : Heard s t) (hunder : s.isUnderstudy = true) (hfit : s.fitNow = false)
    (hmild : s.mild = true) (b cause : Nat) : s.refusedIn (t.decideTakeover b cause false) := by
  have hrole : s.get TW_ROLE.ROLE = 2 := by simpa [SideState.isUnderstudy] using hunder
  have hspared := h.spared_refused hmild
  rw [SideState.decideTakeover_of_not_fit (h.isUnderstudy.trans hunder) (h.fitNow.trans hfit)]
  refine ⟨(hspared.role _ (by decide)).trans hrole, SideState.get_set_self _ _ _ (by decide), hspared.due, ?_⟩
  exact h.spared.raised (SideState.set_spared _ 4 (by decide)) (SideState.raise_of_mild (h.spared.mild hmild) (by decide)).2

/-- No understudy cools down by it. -/
theorem Heard.warmth {s t : SideState} (h : Heard s t) (hunder : s.isUnderstudy = true) (hwarm : s.fitNow = true ∨ s.mild = true)
    (b cause : Nat) : (t.decideTakeover b cause false).get TW_ROLE.WARMTH = s.get TW_ROLE.WARMTH := by
  cases hfit : s.fitNow with
  | true =>
    rw [SideState.decideTakeover_of_fit (h.fitNow.trans hfit), ← h.get TW_ROLE.WARMTH]
    split <;> rfl
  | false =>
    rw [SideState.decideTakeover_of_not_fit (h.isUnderstudy.trans hunder) (h.fitNow.trans hfit)]
    exact (h.spared_refused (hwarm.resolve_left (by simp [hfit]))).role _ (by decide)

/-! ### The commands -/

theorem exec_takeover_of_undecided {sd : Side} {s : State} (hdue : (s.on sd).twin.takeoverDue = none) :
    exec (.takeover sd) s = .next s := by
  change execTakeover sd s = .next s
  simp [execTakeover, hdue]

theorem exec_takeover_of_not_understudy {sd : Side} {s : State} (hunder : (s.on sd).isUnderstudy = false) :
    exec (.takeover sd) s = .next s := by
  change execTakeover sd s = .next s
  simp [execTakeover, hunder]

theorem exec_resignationPulse_of_understudy {sd : Side} {s : State} (halive : (s.on sd).alive = true)
    (hunder : (s.on sd).isUnderstudy = true) :
    exec (.resignationPulse sd) s = .next (s.put sd (((s.on sd).set TW_HB_STAT.RESIGN_IN 1).decideTakeover
      (if (s.on sd).win = .judged then (s.on sd).produced + 2 else (s.on sd).produced + 1) 2 false).interrupt) := by
  have hheard : Heard (s.on sd) ((s.on sd).set TW_HB_STAT.RESIGN_IN 1) := (Heard.refl _).set 1
  change execResignationPulse sd s = _
  simp only [execResignationPulse, State.side, (s.on sd).live_of_alive _ halive, hheard.not_leads hunder, Bool.false_eq_true, if_false]
  rfl

theorem exec_heartbeatJudge_of_silence {sd : Side} {s : State} (halive : (s.on sd).alive = true) (hwin : (s.on sd).win ≠ .judged)
    (hunder : (s.on sd).isUnderstudy = true) (hmarker : (s.on sd).twin.markerSeen = false) (hpulse : (s.on sd).twin.pulseSeen = false)
    (hsilent : (s.on sd).get TW_HB_STAT.SILENT = 2) :
    ∃ y, Heard (s.on sd) y
      ∧ exec (.heartbeatJudge sd) s = .next (s.put sd (y.decideTakeover ((s.on sd).produced + 1) 1 false).interrupt) := by
  have hjudged := (Heard.refl (s.on sd)).judged (max (s.on sd).off 9900)
  have hrole : (s.on sd).get TW_ROLE.ROLE = 2 := by simpa [SideState.isUnderstudy] using hunder
  obtain ⟨y, hheard, hjudge⟩ := SideState.judgeBeat_of_silence (hjudged.isUnderstudy.trans hunder) hmarker hpulse hsilent
  refine ⟨y, hjudged.trans hheard, ?_⟩
  change execHeartbeatJudge sd s = _
  rw [← (hjudged.trans hheard).produced, ← hjudge]
  simp only [execHeartbeatJudge, State.side, (s.on sd).live_of_alive _ halive, beq_eq_false_iff_ne.mpr hwin, hjudged.get TW_ROLE.ROLE,
    hrole]
  rfl

/-- Where the marker does not make the side cold it does nothing but what the side receives. -/
theorem exec_markerReceived_of_warmth {sd : Side} {b : List Byte} {crcOk : Bool} {s : State} (halive : (s.on sd).alive = true)
    (hwarmth : ((s.on sd).receiveMarker b crcOk).get TW_ROLE.WARMTH = (s.on sd).get TW_ROLE.WARMTH) :
    exec (.markerReceived sd b crcOk) s = .next (s.put sd ((s.on sd).receiveMarker b crcOk).interrupt) := by
  change execMarkerReceived sd b crcOk s = _
  simp only [execMarkerReceived, State.side, (s.on sd).live_of_alive _ halive, State.on_put, SideState.interrupt_get, hwarmth]
  rw [if_neg]
  cases hcold : (s.on sd).get TW_ROLE.WARMTH == 0 with
  | true => simp [bne, hcold]
  | false => simp

theorem exec_markerReceived_of_resign {sd : Side} {b : List Byte} {s : State} (halive : (s.on sd).alive = true)
    (hunder : (s.on sd).isUnderstudy = true) (hwarm : (s.on sd).fitNow = true ∨ (s.on sd).mild = true)
    (hinjection : (s.on sd).fault.injection = none) (hwin : (s.on sd).win ≠ .judged) (hlength : b.length = 16)
    (hkind : leNat (slice b 0 4) % 16 = 15) (hcheck : leNat (slice b 4 4) = crc32c (s.on sd).twin.beatStaged.flatten)
    (hcomplete : bitAt (leNat (slice b 0 4)) 4 = true) (hbeat : leNat (slice b 8 8) = (s.on sd).beatNo)
    (hresign : bitAt (leNat (slice b 0 4)) 5 = true) :
    ∃ y, Heard (s.on sd) y
      ∧ exec (.markerReceived sd b true) s = .next (s.put sd (y.decideTakeover ((s.on sd).produced + 1) 2 false).interrupt) := by
  obtain ⟨y, hheard, hreceive⟩ :=
    SideState.receiveMarker_of_resign hunder hinjection hwin hlength hkind hcheck hcomplete hbeat hresign
  refine ⟨y, hheard, ?_⟩
  rw [exec_markerReceived_of_warmth halive (hreceive ▸ hheard.warmth hunder hwarm _ _), hreceive, hheard.produced]

theorem Heard.exec_decided {sd : Side} {s : State} {c : Instr} {y : SideState} {b cause : Nat} {again : Bool}
    (h : Heard (s.on sd) y) (hexec : exec c s = .next (s.put sd (y.decideTakeover b cause again).interrupt))
    (hfit : (s.on sd).fitNow = true) : ∃ t, exec c s = .next t ∧ (s.on sd).decidedIn (t.on sd) b cause := by
  refine ⟨_, hexec, ?_⟩
  simpa only [SideState.decidedIn, State.on_put, SideState.interrupt_twin] using h.decided hfit b cause again

theorem Heard.exec_refused {sd : Side} {s : State} {c : Instr} {y : SideState} {b cause : Nat}
    (h : Heard (s.on sd) y) (hexec : exec c s = .next (s.put sd (y.decideTakeover b cause false).interrupt))
    (hunder : (s.on sd).isUnderstudy = true) (hfit : (s.on sd).fitNow = false) (hmild : (s.on sd).mild = true) :
    ∃ t, exec c s = .next t ∧ (s.on sd).refusedIn (t.on sd) := by
  refine ⟨_, hexec, ?_⟩
  simpa only [SideState.refusedIn, SideState.raised, State.on_put, SideState.interrupt_get, SideState.interrupt_twin]
    using h.refused hunder hfit hmild b cause

/-- Settles O57: the resignation on the pulse line or in a marker and the third silent beat each leave the side as heard (`Heard`), with
the decision to make; one that is FIT decides (`Heard.decided`), and one that is not refuses (`Heard.refused`). -/
theorem onlyAFitUnderstudyTakesOver : Obligations.OnlyAFitUnderstudyTakesOver := by
  have hpulsed (x : SideState) : Heard x (x.set TW_HB_STAT.RESIGN_IN 1) := (Heard.refl x).set 1
  refine ⟨fun sd s => exec_takeover_of_undecided, fun sd s => exec_takeover_of_not_understudy, ?_, ?_, ?_, ?_, ?_, ?_, ?_⟩
  · intro sd s x b halive hunder hfit
    refine ⟨_, exec_resignationPulse_of_understudy halive hunder, ?_⟩
    rw [State.on_put, SideState.interrupt_twin, SideState.decideTakeover_of_fit ((hpulsed x).fitNow.trans hfit)]
    exact apply_ite SideState.twin _ _ _
  · intro sd s x halive hunder hfit
    rw [exec_resignationPulse_of_understudy halive hunder, SideState.decideTakeover_of_not_fit ((hpulsed x).isUnderstudy.trans hunder)
      ((hpulsed x).fitNow.trans hfit)]
    rfl
  · intro sd s x halive hunder hfit hmild
    exact (hpulsed x).exec_refused (exec_resignationPulse_of_understudy halive hunder) hunder hfit hmild
  · intro sd s x halive hwin hunder hfit hmarker hpulse hsilent
    obtain ⟨y, hheard, hexec⟩ := exec_heartbeatJudge_of_silence halive hwin hunder hmarker hpulse hsilent
    exact hheard.exec_decided hexec hfit
  · intro sd s x halive hwin hunder hfit hmild hmarker hpulse hsilent
    obtain ⟨y, hheard, hexec⟩ := exec_heartbeatJudge_of_silence halive hwin hunder hmarker hpulse hsilent
    exact hheard.exec_refused hexec hunder hfit hmild
  · intro sd b s x w0 halive hfit hinjection hwin hlength hkind hcheck hcomplete hbeat hresign
    obtain ⟨y, hheard, hexec⟩ := exec_markerReceived_of_resign halive (SideState.isUnderstudy_of_fitNow hfit) (.inl hfit) hinjection
      hwin hlength hkind hcheck hcomplete hbeat hresign
    exact hheard.exec_decided hexec hfit
  · intro sd b s x w0 halive hunder hfit hmild hinjection hwin hlength hkind hcheck hcomplete hbeat hresign
    obtain ⟨y, hheard, hexec⟩ := exec_markerReceived_of_resign halive hunder (.inr hmild) hinjection hwin hlength hkind hcheck hcomplete
      hbeat hresign
    exact hheard.exec_refused hexec hunder hfit hmild

end Sys2Proof.Machine
end

section
/-! PROOFS. The fuses only rise (R383): what leaves them. An operation that keeps the NVM state of its side keeps them by the lemma that
says what it keeps; the rules of this file are for the operations of which two or more definitions make use. -/

set_option Elab.async false

namespace Sys2Proof.Machine

/-- The fuses of a side (R383): the lowest version it accepts and the keys it has revoked. -/
def SideState.fuses (s : SideState) : Nat × Nat := (s.nvm.fuseMin, s.nvm.fuseRevoked)

theorem SideState.fuses_eq_of_nvm {s t : SideState} (h : t.nvm = s.nvm) : t.fuses = s.fuses := by
  rw [SideState.fuses, SideState.fuses, h]

theorem Keeps.fuses {P E s t} (h : Keeps P E s t) (hE : E.contains .nvm = false := by rfl) : t.fuses = s.fuses :=
  SideState.fuses_eq_of_nvm (h.part .nvm hE)

theorem KeepsP.fuses {α : Type} {P E s} {q : SideState × α} (h : KeepsP P E s q) (hE : E.contains .nvm = false := by rfl) :
    q.1.fuses = s.fuses := Keeps.fuses h hE

/-! ### Rules of the state -/

@[simp] theorem SideState.fuses_ite (c : Prop) [Decidable c] (s t : SideState) :
    (if c then s else t).fuses = if c then s.fuses else t.fuses := apply_ite SideState.fuses c s t

/-- Other parts of a side replaced. -/
@[simp] theorem SideState.fuses_mk {side regs pairs mem eccSoft eccHard eccOwed hostWrites readBack readHigh beatNo produced win off drive mon
    loops scene pipe cal watch twin net time fault therm perf power rigImage free tap boundary} (s : SideState) :
    SideState.fuses ⟨side, regs, pairs, mem, eccSoft, eccHard, eccOwed, hostWrites, readBack, readHigh, beatNo, produced, win, off, drive, mon,
      loops, scene, pipe, cal, watch, twin, net, time, fault, therm, perf, s.nvm, power, rigImage, free, tap, boundary⟩ = s.fuses := id rfl

/-- Other parts of a side and of its NVM state replaced. -/
@[simp] theorem SideState.fuses_mk_nvm {side regs pairs mem eccSoft eccHard eccOwed hostWrites readBack readHigh beatNo produced win off drive
    mon loops scene pipe cal watch twin net time fault therm perf power rigImage free tap boundary writes run keys keyPending keyDataAt modules
    tileWrite tileNext tileCommit rigCommit awaitPeer bootRom keyGen directoryDue romKeys} (s : SideState) :
    SideState.fuses ⟨side, regs, pairs, mem, eccSoft, eccHard, eccOwed, hostWrites, readBack, readHigh, beatNo, produced, win, off, drive, mon,
      loops, scene, pipe, cal, watch, twin, net, time, fault, therm, perf,
      ⟨writes, run, keys, keyPending, keyDataAt, modules, s.nvm.fuseMin, s.nvm.fuseRevoked, tileWrite, tileNext, tileCommit, rigCommit,
        awaitPeer, bootRom, keyGen, directoryDue, romKeys⟩, power, rigImage, free, tap, boundary⟩ = s.fuses := id rfl

@[simp] theorem SideState.foldl_fuses {α : Type} {g : SideState → α → SideState} (h : ∀ x a, (g x a).fuses = x.fuses) (l : List α)
    (s : SideState) : (l.foldl g s).fuses = s.fuses := by
  induction l generalizing s with
  | nil => rfl
  | cons a l ih => exact (ih (g s a)).trans (h s a)

theorem SideState.live_fuses {s : SideState} {f : SideState → SideState} (h : (f s).fuses = s.fuses) : (s.live f).fuses = s.fuses := by
  unfold SideState.live
  split
  · exact h
  · rfl

/-! ### Operations -/

@[simp] theorem SideState.set_fuses (s : SideState) (f : Fld) (v : Nat) : (s.set f v).fuses = s.fuses := (s.set_keeps f v).fuses

@[simp] theorem SideState.evt_fuses (s : SideState) (page bit : Nat) : (s.evt page bit).fuses = s.fuses := SideState.set_fuses ..

@[simp] theorem SideState.setB_fuses (s : SideState) (f : Fld) (b : Bool) : (s.setB f b).fuses = s.fuses := SideState.set_fuses ..

@[simp] theorem SideState.bump_fuses (s : SideState) (f : Fld) (n : Nat) : (s.bump f n).fuses = s.fuses := SideState.set_fuses ..

@[simp] theorem SideState.writeRw_fuses (s : SideState) (key v : Nat) : (s.writeRw key v).fuses = s.fuses := SideState.set_fuses ..

@[simp] theorem SideState.fresh_fuses (s : SideState) (w : Nat) : (s.fresh w).1.fuses = s.fuses := (s.fresh_keeps w).fuses

@[simp] theorem SideState.atOffset_fuses (s : SideState) (off : Nat) : (s.atOffset off).fuses = s.fuses :=
  (s.atOffset_keeps off).fuses

@[simp] theorem SideState.agree_fuses (s : SideState) (key : Nat) : (s.agree key).fuses = s.fuses := (s.agree_keeps key).fuses

@[simp] theorem SideState.count_fuses (s : SideState) (i n : Nat) : (s.count i n).fuses = s.fuses := (s.count_keeps i n).fuses

@[simp] theorem SideState.enterRole_fuses (s : SideState) (role : Nat) : (s.enterRole role).fuses = s.fuses :=
  (s.enterRole_keeps role).fuses

@[simp] theorem SideState.fenceSelf_fuses (s : SideState) : s.fenceSelf.fuses = s.fuses := s.fenceSelf_keeps.fuses

@[simp] theorem SideState.raise_fuses (s : SideState) (src : Nat) : (s.raise src).fuses = s.fuses := (s.raise_keeps src).fuses

@[simp] theorem SideState.raiseIf_fuses (s : SideState) (b : Bool) (src : Nat) : (s.raiseIf b src).fuses = s.fuses :=
  (s.raiseIf_keeps b src).fuses

@[simp] theorem SideState.checkAt_fuses (s : SideState) (point : Nat) (ok : Bool) : (s.checkAt point ok).fuses = s.fuses :=
  (s.checkAt_keeps point ok).fuses

@[simp] theorem SideState.dumpWrite_fuses (s : SideState) (a : Nat) (b : List Byte) : (s.dumpWrite a b).fuses = s.fuses :=
  (s.dumpWrite_keeps a b).fuses

@[simp] theorem SideState.groupEvt_fuses (s : SideState) (g : Nat) : (s.groupEvt g).fuses = s.fuses := (s.groupEvt_keeps g).fuses

@[simp] theorem SideState.apply_fuses (s : SideState) (d v : Nat) (writer : Own) : (s.apply d v writer).fuses = s.fuses :=
  (s.apply_keeps d v writer).fuses

@[simp] theorem SideState.ovrStat_fuses (s : SideState) (result reason : Nat) : (s.ovrStat result reason).fuses = s.fuses :=
  (s.ovrStat_keeps result reason).fuses

@[simp] theorem SideState.showCal_fuses (s : SideState) : s.showCal.fuses = s.fuses := s.showCal_keeps.fuses

@[simp] theorem SideState.queueJob_fuses (s : SideState) (j : CalJob) : (s.queueJob j).fuses = s.fuses :=
  (s.queueJob_keeps j).fuses

@[simp] theorem SideState.markHeads_fuses (s : SideState) (port : Nat) : (s.markHeads port).fuses = s.fuses :=
  (s.markHeads_keeps port).fuses

@[simp] theorem SideState.showNodes_fuses (s : SideState) : s.showNodes.fuses = s.fuses := s.showNodes_keeps.fuses

@[simp] theorem SideState.unlock_fuses (s : SideState) : s.unlock.fuses = s.fuses := s.unlock_keeps.fuses

@[simp] theorem SideState.servo_fuses (s : SideState) (o : Int) (ptp : Bool) : (s.servo o ptp).fuses = s.fuses :=
  (s.servo_keeps o ptp).fuses

@[simp] theorem SideState.selectMaster_fuses (s : SideState) : s.selectMaster.fuses = s.fuses := s.selectMaster_keeps.fuses

@[simp] theorem SideState.readSlot_fuses (s : SideState) (n : Nat) : (s.readSlot n).fuses = s.fuses := (s.readSlot_keeps n).fuses

@[simp] theorem SideState.solveEnds_fuses (s : SideState) (e : Nat) (r : SolveResult) (fault : Option Nat) :
    (s.solveEnds e r fault).fuses = s.fuses :=
  (s.solveEnds_keeps e r fault).fuses

@[simp] theorem SideState.calRequest_fuses (s : SideState) (v kind : Nat) : (s.calRequest v kind).fuses = s.fuses :=
  (s.calRequest_keeps v kind).fuses

@[simp] theorem SideState.requestCurtain_fuses (s : SideState) (latch : Bool) : (s.requestCurtain latch).fuses = s.fuses :=
  (s.requestCurtain_keeps latch).fuses

@[simp] theorem SideState.curtainPin_fuses (s : SideState) (low : Bool) : (s.curtainPin low).fuses = s.fuses :=
  (s.curtainPin_keeps low).fuses

@[simp] theorem SideState.keyOneTest_fuses (s : SideState) (ok : Bool) : (s.keyOneTest ok).fuses = s.fuses :=
  (s.keyOneTest_keeps ok).fuses

@[simp] theorem SideState.keyTwoTest_fuses (s : SideState) (ok : Bool) : (s.keyTwoTest ok).fuses = s.fuses :=
  (s.keyTwoTest_keeps ok).fuses

@[simp] theorem SideState.rejectImage_fuses (s : SideState) (reason : Nat) : (s.rejectImage reason).fuses = s.fuses :=
  (s.rejectImage_keeps reason).fuses

@[simp] theorem SideState.resign_fuses (s : SideState) : s.resign.fuses = s.fuses := s.resign_keeps.fuses

@[simp] theorem SideState.leaveRole_fuses (s : SideState) : s.leaveRole.fuses = s.fuses := s.leaveRole_keeps.fuses

@[simp] theorem SideState.peerWake_fuses (s : SideState) (peerRuns : Bool) : (s.peerWake peerRuns).fuses = s.fuses :=
  (s.peerWake_keeps peerRuns).fuses

@[simp] theorem SideState.emitConn_fuses (s : SideState) (i : Nat) : (s.emitConn i).fuses = s.fuses := (s.emitConn_keeps i).fuses

@[simp] theorem SideState.intake_fuses (s : SideState) (origin : CueOrigin) (p : List Byte) (received : Nat) :
    (s.intake origin p received).1.fuses = s.fuses :=
  (s.intake_keeps origin p received).fuses

@[simp] theorem SideState.arbitrate_fuses (s p : SideState) (eligible : Bool) (v : ArbView) : (s.arbitrate p eligible v).fuses = s.fuses :=
  (s.arbitrate_keeps p eligible v).fuses

@[simp] theorem SideState.leaveAtBoundary_fuses (s : SideState) (peerFit : Bool) : (s.leaveAtBoundary peerFit).fuses = s.fuses :=
  (s.leaveAtBoundary_keeps peerFit).fuses

@[simp] theorem SideState.showFit_fuses (s : SideState) : s.showFit.fuses = s.fuses := s.showFit_keeps.fuses

@[simp] theorem SideState.decideTakeover_fuses (s : SideState) (boundary cause : Nat) (again : Bool) :
    (s.decideTakeover boundary cause again).fuses = s.fuses :=
  (s.decideTakeover_keeps boundary cause again).fuses

@[simp] theorem SideState.warmUp_fuses (s : SideState) : s.warmUp.fuses = s.fuses := s.warmUp_keeps.fuses

@[simp] theorem SideState.unfence_fuses (s : SideState) : s.unfence.fuses = s.fuses := s.unfence_keeps.fuses

@[simp] theorem SideState.beginBulk_fuses (s : SideState) : s.beginBulk.fuses = s.fuses := s.beginBulk_keeps.fuses

@[simp] theorem SideState.askSwap_fuses (s p : SideState) : (s.askSwap p).fuses = s.fuses := (s.askSwap_keeps p).fuses

@[simp] theorem SideState.failUpdate_fuses (s : SideState) (reason : Nat) : (s.failUpdate reason).fuses = s.fuses :=
  (s.failUpdate_keeps reason).fuses

@[simp] theorem SideState.toStep_fuses (s : SideState) (u : Update) (step : Nat) : (s.toStep u step).fuses = s.fuses :=
  (s.toStep_keeps u step).fuses

@[simp] theorem SideState.interrupt_fuses (s : SideState) : s.interrupt.fuses = s.fuses := SideState.fuses_eq_of_nvm s.interrupt_nvm

/-! ### Accesses -/

@[simp] theorem SideState.transfer_fuses (s : SideState) (m : Master) : (s.transfer m).fuses = s.fuses :=
  (s.transfer_keeps m).fuses

@[simp] theorem SideState.denied_fuses (s : SideState) (addr : Nat) (m : Master) (write : Bool) :
    (s.denied addr m write).fuses = s.fuses := (Keeps.denied (P := none) (E := errParts) rfl rfl rfl .self).fuses

@[simp] theorem SideState.unaligned_fuses (s : SideState) (addr : Nat) (m : Master) (write : Bool) :
    (s.unaligned addr m write).fuses = s.fuses := (Keeps.unaligned (P := none) (E := errParts) rfl rfl rfl .self).fuses

@[simp] theorem SideState.errorResponse_fuses (s : SideState) (addr m kind : Nat) (write : Bool) :
    (s.errorResponse addr m kind write).fuses = s.fuses := (Keeps.errorResponse (P := none) (E := errParts) rfl rfl rfl .self).fuses

@[simp] theorem SideState.accessError_fuses (s : SideState) (m : Master) (addr width : Nat) (write locked : Bool) (burst : Nat) :
    (s.accessError m addr width write locked burst).fuses = s.fuses := (Keeps.accessError (E := busParts) rfl rfl .self).fuses

@[simp] theorem SideState.ignored_fuses (s : SideState) (key : Nat) (m : Master) : (s.ignored key m).fuses = s.fuses :=
  (Keeps.ignored (P := none) (E := busParts) rfl rfl rfl .self).fuses

@[simp] theorem SideState.intervene_fuses (s : SideState) (key : Nat) (m : Master) : (s.intervene key m).fuses = s.fuses :=
  (Keeps.intervene (P := none) (E := busParts) rfl rfl rfl .self).fuses

@[simp] theorem SideState.lapse_fuses (s : SideState) (page : Nat) : (s.lapse page).fuses = s.fuses :=
  (Keeps.lapse (P := none) (E := busParts) rfl rfl rfl .self).fuses

@[simp] theorem SideState.firstHalf_fuses (s : SideState) (key : Nat) (m : Master) (v : Word) :
    (s.firstHalf key m v).fuses = s.fuses := (Keeps.firstHalf (P := none) (E := busParts) rfl rfl rfl .self).fuses

@[simp] theorem SideState.pairWrite_fuses (s : SideState) (key : Nat) (m : Master) (w : PairWrite) :
    (s.pairWrite key m w).1.fuses = s.fuses := (KeepsP.pairWrite (P := none) (E := busParts) rfl rfl rfl .self).fuses

theorem SideState.regWrite_fuses {s : SideState} {key : Nat} {m : Master} {f : SideState → SideState}
    (h : ∀ x : SideState, (f x).fuses = x.fuses) : (s.regWrite key m f).fuses = s.fuses := by
  simp [SideState.regWrite, h]

theorem SideState.onPair_fuses {s : SideState} {key : Nat} {m : Master} {w : PairWrite} {act : Word → SideState → SideState}
    (h : ∀ v (x : SideState), (act v x).fuses = x.fuses) : (s.onPair key m w act).fuses = s.fuses := by
  have hpair := SideState.pairWrite_fuses s key m w
  unfold SideState.onPair
  split <;> simp_all [SideState.takePair]

end Sys2Proof.Machine
end

section
/-! PROOFS. The fuses only rise (R383): the operations on the NVM state of a side that leave the fuses, and where its boot ends. -/

set_option Elab.async false

namespace Sys2Proof.Machine

/-! ### Records, and the programming of the NVM -/

@[simp] theorem SideState.startRecord_fuses (s : SideState) (w : RecordWrite) (isOpen : Bool) :
    (s.startRecord w isOpen).fuses = s.fuses := by
  simp [SideState.startRecord]

@[simp] theorem SideState.eraseRun_fuses (s : SideState) (r : NvmRun) : (s.eraseRun r).fuses = s.fuses := by
  simp [SideState.eraseRun, (SideState.eraseNvm_keeps ..).fuses]

@[simp] theorem SideState.programPages_fuses (s : SideState) (r : NvmRun) (n : Nat) : (s.programPages r n).fuses = s.fuses := by
  simp [SideState.programPages, (SideState.wrBytes_keeps ..).fuses]

@[simp] theorem SideState.pauseProgram_fuses (s : SideState) : s.pauseProgram.fuses = s.fuses := by
  unfold SideState.pauseProgram
  split <;> simp

@[simp] theorem SideState.resumeProgram_fuses (s : SideState) : s.resumeProgram.fuses = s.fuses := by
  unfold SideState.resumeProgram
  split <;> simp

@[simp] theorem SideState.writeRecord_fuses (s : SideState) (a : Nat × Nat) (p : List Byte) :
    (s.writeRecord a p).fuses = s.fuses := (s.writeRecord_keeps a p).fuses

@[simp] theorem SideState.directoryWritten_fuses (s : SideState) : s.directoryWritten.fuses = s.fuses := by
  unfold SideState.directoryWritten
  split <;> simp

@[simp] theorem SideState.writeDirectory_fuses (s : SideState) (d : SlotDirectory) : (s.writeDirectory d).fuses = s.fuses := by
  simp [SideState.writeDirectory]

@[simp] theorem SideState.startProgram_fuses (s : SideState) : s.startProgram.fuses = s.fuses := by
  simp [SideState.startProgram]

@[simp] theorem SideState.nvmWindow_fuses (s : SideState) : s.nvmWindow.fuses = s.fuses := by
  simp [SideState.nvmWindow]

@[simp] theorem SideState.readModule_fuses (s : SideState) (reads : List ModuleRead) (all : Bool) (m : Nat) :
    (s.readModule reads all m).fuses = s.fuses := by
  unfold SideState.readModule
  dsimp only
  split <;> simp

@[simp] theorem SideState.startAged_fuses (s : SideState) (k : RecordKind) (payload : List Byte) (isOpen : Bool) :
    (s.startAged k payload isOpen).fuses = s.fuses := by
  simp [SideState.startAged]

@[simp] theorem SideState.calRecordStart_fuses (s : SideState) (bothOpen : Bool) : (s.calRecordStart bothOpen).fuses = s.fuses := by
  simp [SideState.calRecordStart]

@[simp] theorem SideState.recordAges_fuses (s : SideState) (bothOpen : Bool) : (s.recordAges bothOpen).fuses = s.fuses := by
  simp [SideState.recordAges, (SideState.recordAge_keeps ..).fuses]

@[simp] theorem SideState.storeRecord_fuses (s : SideState) (w : RecordWrite) : (s.storeRecord w).fuses = s.fuses := by
  simp [SideState.storeRecord]

/-! ### The tile and its rig -/

@[simp] theorem SideState.startRewrite_fuses (s : SideState) (img : List Byte) : (s.startRewrite img).fuses = s.fuses := by
  simp [SideState.startRewrite]

@[simp] theorem SideState.padsSoon_fuses (s : SideState) : s.padsSoon.fuses = s.fuses := s.padsSoon_keeps.fuses

@[simp] theorem SideState.rigInForce_fuses (s : SideState) (img) : (s.rigInForce img).fuses = s.fuses := (s.rigInForce_keeps img).fuses

@[simp] theorem SideState.setSerial_fuses (s : SideState) (f img) : (s.setSerial f img).fuses = s.fuses := by
  simp [SideState.setSerial]

@[simp] theorem SideState.replacedTile_fuses (s : SideState) (v : TileView) : (s.replacedTile v).fuses = s.fuses := by
  simp [SideState.replacedTile]

@[simp] theorem SideState.knownTile_fuses (s : SideState) (img : List Byte) (v : TileView) : (s.knownTile img v).fuses = s.fuses := by
  simp [SideState.knownTile, (SideState.parkAtStart_keeps _).fuses, (SideState.calAtStart_keeps _).fuses]

@[simp] theorem SideState.decideRig_fuses (s : SideState) (v : TileView) : (s.decideRig v).fuses = s.fuses := by
  unfold SideState.decideRig
  extract_lets shown tile
  have hshown : shown.fuses = s.fuses := by
    unfold shown
    split <;> simp
  have htile : tile.fuses = s.fuses := by simp [tile, hshown]
  split
  · simp [hshown]
  · split
    · simp [hshown]
    · split
      · simp [hshown]
      · split <;> simp [htile]

@[simp] theorem SideState.startCommit_fuses (s : SideState) (img : List Byte) : (s.startCommit img).fuses = s.fuses := by
  simp [SideState.startCommit]

@[simp] theorem SideState.rigRecordDone_fuses (s : SideState) (w : RecordWrite) : (s.rigRecordDone w).fuses = s.fuses := by
  simp [SideState.rigRecordDone]

/-! ### The end of a record -/

@[simp] theorem SideState.recordDone_fuses (s : SideState) (w : RecordWrite) : (s.recordDone w).fuses = s.fuses := by
  unfold SideState.recordDone
  split <;> simp [(SideState.calRecordDone_keeps ..).fuses]

@[simp] theorem SideState.peerRecord_fuses (s : SideState) (w : RecordWrite) : (s.peerRecord w).fuses = s.fuses := by
  simp [SideState.peerRecord]

@[simp] theorem SideState.ownRecord_fuses (s : SideState) (w : RecordWrite) (waits : Bool) : (s.ownRecord w waits).fuses = s.fuses := by
  simp [SideState.ownRecord]

@[simp] theorem SideState.peerDone_fuses (s : SideState) (which : RecordWrite → Bool) : (s.peerDone which).fuses = s.fuses := by
  simp [SideState.peerDone]

/-! ### Keys -/

@[simp] theorem SideState.clearKeyData_fuses (s : SideState) : s.clearKeyData.fuses = s.fuses := by
  simp [SideState.clearKeyData]

@[simp] theorem SideState.keyCommand_fuses (s : SideState) (v : Nat) (isOpen : Bool) : (s.keyCommand v isOpen).fuses = s.fuses := by
  simp [SideState.keyCommand]

@[simp] theorem SideState.keysAtBoundary_fuses (s : SideState) : s.keysAtBoundary.fuses = s.fuses := by
  simp [SideState.keysAtBoundary]

/-! ### Starts and the boot ROM -/

@[simp] theorem SideState.bootUp_fuses (s : SideState) : s.bootUp.fuses = s.fuses := s.bootUp_keeps.fuses

@[simp] theorem SideState.bare_fuses (s : SideState) : s.bare.fuses = s.fuses := id rfl

@[simp] theorem SideState.coldStart_fuses (s : SideState) (compat rolePref : Bool) : (s.coldStart compat rolePref).fuses = s.fuses := by
  simp [SideState.coldStart]

@[simp] theorem SideState.restart_fuses (s : SideState) (cause : Nat) : (s.restart cause).fuses = s.fuses := by
  simp [SideState.restart]

@[simp] theorem SideState.stayInRom_fuses (s : SideState) : s.stayInRom.fuses = s.fuses := by
  simp [SideState.stayInRom]

/-- The memory, the NVM state and the power state of the side are in `t` as in `s`. -/
structure Probed (s t : SideState) : Prop where
  nvm : t.nvm = s.nvm
  mem : t.mem = s.mem
  power : t.power = s.power

theorem Probed.keeps {P E} {s t u : SideState} (h : Probed s t) (hk : Keeps P E t u) (hnvm : E.contains .nvm = false := by decide)
    (hmem : E.contains .mem = false := by decide) (hpower : E.contains .power = false := by decide) : Probed s u :=
  ⟨(hk.part .nvm hnvm).trans h.nvm, (congrArg Prod.fst (hk.part .mem hmem)).trans h.mem, (hk.part .power hpower).trans h.power⟩

/-- An image that the boot ROM or an update accepts lies at the minimum or above (R383). -/
theorem le_of_imageReject_eq_zero {keys : List (Nat × Nat)} {img : List Byte} {min revoked : Nat}
    (h : imageReject keys img min revoked = 0) : min ≤ leNat (slice img 8 2) := by
  refine Nat.le_of_not_lt fun hbelow => ?_
  revert h
  simp only [imageReject, if_pos hbelow]
  split
  · decide
  · split
    · decide
    · split <;> decide

/-- Bytes read from memory, cut out of a longer read. -/
theorem SideState.slice_rdBytes (s : SideState) (a : Nat) {n i k : Nat} (h : i + k ≤ n) :
    slice (s.rdBytes a n) i k = s.rdBytes (a + i) k := by
  have hcut : ((s.rdBytes a n).drop i).take k = s.rdBytes (a + i) k := by
    refine List.ext_getElem (by simp [SideState.rdBytes]; omega) fun j _ _ => ?_
    simp [SideState.rdBytes, Nat.add_assoc]
  rw [slice, hcut]
  simp [SideState.rdBytes]

theorem SideState.slice_slotBytes (s : SideState) (slot : Nat) : leNat (slice (s.slotBytes slot) 8 2) = s.imageSvn slot := by
  unfold SideState.slotBytes
  dsimp only
  rw [s.slice_rdBytes]
  · rfl
  · split <;> omega

theorem SideState.imageReject_of_slotReason {s : SideState} {slot : Nat} {c : SlotCheck} (h : s.slotReason slot c = 0) :
    imageReject s.nvm.romKeys (s.slotBytes slot) s.nvm.fuseMin s.nvm.fuseRevoked = 0 := by
  refine Decidable.byContradiction fun hreject => ?_
  unfold SideState.slotReason at h
  cases c with
  | pass => exact hreject h
  | fail k =>
    have hk : 1 ≤ clampNat 1 6 k := by
      unfold clampNat
      split
      · omega
      · split <;> omega
    simp only [if_neg hreject] at h
    omega

/-- A slot that passes the check of the boot ROM. -/
theorem SideState.le_imageSvn_of_checkSlot {s : SideState} {slot : Nat} {c : SlotCheck} (h : (s.checkSlot slot c).2 = true) :
    s.nvm.fuseMin ≤ s.imageSvn slot := by
  have hreason : s.slotReason slot c = 0 := by simpa [SideState.checkSlot] using h
  rw [← s.slice_slotBytes slot]
  exact le_of_imageReject_eq_zero (imageReject_of_slotReason hreason)

theorem SideState.imageSvn_congr {s t : SideState} (h : t.mem = s.mem) (slot : Nat) : t.imageSvn slot = s.imageSvn slot := by
  simp only [SideState.imageSvn, SideState.rd, SideState.rdBytes, SideState.rd8, h]

theorem SideState.directory_active_lt (s : SideState) : s.directory.active < 2 := by
  unfold SideState.directory
  split
  · exact Nat.mod_lt _ (by decide)
  · decide

theorem Probed.checkSlot {s t : SideState} (h : Probed s t) (slot : Nat) (c : SlotCheck) : Probed s (t.checkSlot slot c).1 :=
  h.keeps (t.checkSlot_keeps slot c)

theorem Probed.le_imageSvn {s t : SideState} (h : Probed s t) {slot : Nat} {c : SlotCheck} (hpass : (t.checkSlot slot c).2 = true) :
    s.nvm.fuseMin ≤ s.imageSvn slot := by
  rw [← h.nvm, ← SideState.imageSvn_congr h.mem]
  exact t.le_imageSvn_of_checkSlot hpass

/-- Where the boot of `s` ends: in the boot ROM, or with a slot whose image lies at the minimum or above. -/
def Booted (s t : SideState) : Prop :=
  (∃ y : SideState, y.fuses = s.fuses ∧ y.power = s.power ∧ t = y.stayInRom)
  ∨ ∃ (y : SideState) (n : Nat) (fallback trial : Bool),
      y.fuses = s.fuses ∧ n < 2 ∧ s.nvm.fuseMin ≤ s.imageSvn n ∧ t = y.runFirmware n fallback trial

theorem Booted.stayInRom {s y : SideState} (h : Probed s y) : Booted s y.stayInRom :=
  .inl ⟨y, SideState.fuses_eq_of_nvm h.nvm, h.power, rfl⟩

theorem Booted.runFirmware {s y : SideState} {n : Nat} (hfuses : y.fuses = s.fuses) (hn : n < 2) (hsvn : s.nvm.fuseMin ≤ s.imageSvn n)
    (fallback trial : Bool) : Booted s (y.runFirmware n fallback trial) := .inr ⟨y, n, fallback, trial, hfuses, hn, hsvn, rfl⟩

/-- The boot ROM runs a slot only once its check has passed (R378, R383). -/
theorem SideState.bootSlots_booted (s : SideState) (slot0 slot1 : SlotCheck) : Booted s (s.bootSlots slot0 slot1) := by
  unfold SideState.bootSlots
  extract_lets d check a b raised
  have ha : a < 2 := s.directory_active_lt
  have hb : b < 2 := by omega
  have hraised : Probed s raised := Probed.keeps ⟨rfl, rfl, rfl⟩ (s.raiseIf_keeps _ _)
  have hseen := hraised.checkSlot a (check a)
  have hpassA := hraised.le_imageSvn (slot := a) (c := check a)
  generalize raised.checkSlot a (check a) = first at *
  clear_value b a check d raised
  obtain ⟨seen, passA⟩ := first
  have hagain := hseen.checkSlot b (check b)
  have hpassB := hseen.le_imageSvn (slot := b) (c := check b)
  dsimp only at hseen hpassA ⊢
  split
  · rename_i hrun
    exact .runFirmware (SideState.fuses_eq_of_nvm hseen.nvm) ha (hpassA (Bool.and_eq_true_iff.mp hrun).1) _ _
  · generalize seen.checkSlot b (check b) = second at hagain hpassB ⊢
    obtain ⟨again, passB⟩ := second
    have hfuses : again.fuses = s.fuses := SideState.fuses_eq_of_nvm hagain.nvm
    cases passB with
    | true =>
      dsimp only
      exact .runFirmware (by simp [hfuses]) hb (hpassB rfl) _ _
    | false =>
      dsimp only
      split
      · exact .runFirmware (by simp [hfuses, (SideState.showCheck_keeps ..).fuses]) ha (hpassA ‹_›) _ _
      · exact .stayInRom hagain

@[simp] theorem SideState.bootSlots_fuses (s : SideState) (slot0 slot1 : SlotCheck) : (s.bootSlots slot0 slot1).fuses = s.fuses := by
  obtain ⟨y, hfuses, -, hrom⟩ | ⟨y, n, fallback, trial, hfuses, -, -, hrun⟩ := s.bootSlots_booted slot0 slot1
  · rw [hrom, SideState.stayInRom_fuses, hfuses]
  · rw [hrun, (SideState.runFirmware_keeps ..).fuses, hfuses]

/-! ### Updates -/

@[simp] theorem SideState.markFailed_fuses (s : SideState) : s.markFailed.fuses = s.fuses := by
  simp [SideState.markFailed]

@[simp] theorem SideState.loseUpdate_fuses (s : SideState) : s.loseUpdate.fuses = s.fuses := by
  unfold SideState.loseUpdate
  split <;> simp

@[simp] theorem SideState.lostPeer_fuses (s : SideState) : s.lostPeer.fuses = s.fuses := by
  simp [SideState.lostPeer]

@[simp] theorem SideState.yieldRole_fuses (s : SideState) : s.yieldRole.fuses = s.fuses := by
  simp [SideState.yieldRole, (SideState.dropSwap_keeps _).fuses]

@[simp] theorem SideState.nameSlot_fuses (s : SideState) (slot : Nat) (trial : Bool) (img : List Byte) :
    (s.nameSlot slot trial img).fuses = s.fuses := by
  simp [SideState.nameSlot]

@[simp] theorem SideState.restartInto_fuses (s : SideState) (img : List Byte) : (s.restartInto img).fuses = s.fuses := by
  simp [SideState.restartInto]

@[simp] theorem SideState.checkImage_fuses (s : SideState) (img) : (s.checkImage img).1.fuses = s.fuses := (s.checkImage_keeps img).fuses

@[simp] theorem SideState.romUpdate_fuses (s : SideState) : s.romUpdate.fuses = s.fuses := by
  simp [SideState.romUpdate, (SideState.writeSlot_keeps _ _ _).fuses]

@[simp] theorem SideState.startUpdate_fuses (s peer : SideState) : (s.startUpdate peer).fuses = s.fuses := by
  simp [SideState.startUpdate]

@[simp] theorem SideState.fallBack_fuses (s : SideState) : s.fallBack.fuses = s.fuses := by
  simp [SideState.fallBack]

@[simp] theorem SideState.autoUpdate_fuses (s peer : SideState) : (s.autoUpdate peer).fuses = s.fuses := by
  simp [SideState.autoUpdate, SideState.onPair_fuses, SideState.regWrite_fuses]

@[simp] theorem SideState.imageFrame_fuses (s peer : SideState) (payload : List Byte) : (s.imageFrame peer payload).fuses = s.fuses := by
  have h := (s.takeImageFrame_keeps payload).fuses
  unfold SideState.imageFrame
  split <;> simp_all

@[simp] theorem SideState.updateLost_fuses (s : SideState) : s.updateLost.fuses = s.fuses := by
  simp [SideState.updateLost]

/-! ### Housekeeping and the boundary -/

@[simp] theorem SideState.coolDown_fuses (s : SideState) : s.coolDown.fuses = s.fuses := by
  simp [SideState.coolDown]

@[simp] theorem SideState.shutdownRound_fuses (s : SideState) : s.shutdownRound.fuses = s.fuses := by
  simp [SideState.shutdownRound, (SideState.shutDown_keeps _).fuses]

@[simp] theorem SideState.housekeeping_fuses (s : SideState) (r : List HkReading) : (s.housekeeping r).fuses = s.fuses := by
  unfold SideState.housekeeping
  extract_lets _ timed checked channels judged supplied counted
  have hsupplied : supplied.fuses = s.fuses := by
    simp [supplied, judged, channels, checked, timed, (SideState.plainChannel_keeps ..).fuses, (SideState.dieRound_keeps ..).fuses,
      (SideState.tileRound_keeps ..).fuses, (SideState.thresholds_keeps ..).fuses, (SideState.vinRound_keeps ..).fuses,
      (SideState.supplyRound_keeps ..).fuses]
  have hcounted : counted.fuses = supplied.fuses := by simp [counted]
  simp [hcounted, hsupplied, (SideState.temperatureTrigger_keeps ..).fuses, (SideState.ageSamples_keeps ..).fuses]

@[simp] theorem SideState.boundaryRest_fuses (s : SideState) (peerRequest bothOpen : Bool) :
    (s.boundaryRest peerRequest bothOpen).fuses = s.fuses := by
  simp [SideState.boundaryRest, (SideState.unfenceAtBoundary_keeps ..).fuses, (SideState.padsAtBoundary_keeps ..).fuses,
    (SideState.makeReport_keeps ..).fuses, (SideState.countSlot_keeps ..).fuses, (SideState.shutdownBoundary_keeps ..).fuses,
    (SideState.intermissionBoundary_keeps ..).fuses, (SideState.boundaryEngines_keeps ..).fuses, (SideState.aliveToggle_keeps ..).fuses,
    (SideState.isumCheck_keeps ..).fuses, (SideState.scanPins_keeps ..).fuses, (SideState.reloadRig_keeps ..).fuses,
    (SideState.reportDrops_keeps ..).fuses]

/-! ### Writes of registers -/

@[simp] theorem SideState.plainWrite_fuses (s : SideState) (m : Master) (key v : Nat) : (s.plainWrite m key v).fuses = s.fuses := by
  simp [SideState.plainWrite, (SideState.afterWrite_keeps ..).fuses, (SideState.writeCueCtrl_keeps ..).fuses,
    (SideState.refreshPolicer_keeps ..).fuses,
    (Keeps.emitReg (P := none) (E := [.twin]) rfl .self).fuses]

@[simp] theorem SideState.writeReg_fuses (s : SideState) (m : Master) (key v : Nat) : (s.writeReg m key v).fuses = s.fuses := by
  simp [SideState.writeReg, SideState.regWrite_fuses, (SideState.copyWrite_keeps ..).fuses, (SideState.writeW1c_keeps ..).fuses]

end Sys2Proof.Machine
end

section
/-! PROOFS. The fuses only rise (R383): every command but the completion of an update's step leaves them. -/

set_option Elab.async false

namespace Sys2Proof.Machine

/-! ### Rules of the two sides -/

/-- The fuses of either side are in `t` as in `s`. -/
def State.SameFuses (s t : State) : Prop := ∀ sd, (t.on sd).fuses = (s.on sd).fuses

theorem State.SameFuses.refl (s : State) : s.SameFuses s := fun _ => rfl

theorem State.SameFuses.ite {s t u : State} {c : Prop} [Decidable c] (h : s.SameFuses t) (k : s.SameFuses u) :
    s.SameFuses (if c then t else u) := by
  split
  · exact h
  · exact k

theorem State.SameFuses.put {s t : State} (h : s.SameFuses t) {sd : Side} {x : SideState} (hx : x.fuses = (t.on sd).fuses) :
    s.SameFuses (t.put sd x) := by
  intro sd'
  obtain rfl | rfl : sd' = sd ∨ sd' = sd.peer := by cases sd <;> cases sd' <;> simp [Side.peer]
  · rw [State.on_put, hx, h]
  · rw [State.on_put_peer, h]

theorem State.SameFuses.side {s t : State} (h : s.SameFuses t) {sd : Side} {f : SideState → SideState}
    (hf : ∀ x, (f x).fuses = x.fuses) : s.SameFuses (t.side sd f) := h.put ((f _).interrupt_fuses.trans (hf _))

/-- Where the outcome is a next state, it has the fuses of `s`. -/
def State.LeavesFuses (s : State) (o : Host.Outcome State Fault Refusal) : Prop := ∀ t, o = .next t → s.SameFuses t

theorem State.SameFuses.next {s t : State} (h : s.SameFuses t) : s.LeavesFuses (.next t) := by
  rintro _ ⟨⟩
  exact h

theorem State.LeavesFuses.ite {s : State} {o p : Host.Outcome State Fault Refusal} {c : Prop} [Decidable c] (h : s.LeavesFuses o)
    (k : s.LeavesFuses p) : s.LeavesFuses (if c then o else p) := by
  split
  · exact h
  · exact k

/-- The command leaves the fuses of either side. -/
def KeepsFuses (c : Instr) : Prop := ∀ s : State, s.LeavesFuses (exec c s)

theorem KeepsFuses.of_side {c : Instr} {sd : Side} {g : State → SideState → SideState} (he : ∀ s, exec c s = .next (s.side sd (g s)))
    (h : ∀ s x, (g s x).fuses = x.fuses) : KeepsFuses c := by
  intro s
  rw [he]
  exact .next ((State.SameFuses.refl s).side (h s))

theorem KeepsFuses.of_live {c : Instr} {sd : Side} {g : State → SideState → SideState}
    (he : ∀ s, exec c s = .next (s.side sd (fun x => x.live (g s)))) (h : ∀ s x, (g s x).fuses = x.fuses) : KeepsFuses c :=
  .of_side he fun s x => SideState.live_fuses (h s x)

/-- A command that writes a register with an effect of its own. -/
theorem KeepsFuses.of_write {c : Instr} {sd : Side} {key : Nat} {m : Master} {g : State → SideState → SideState}
    (he : ∀ s, exec c s = .next (s.side sd (fun x => x.live (fun x => x.regWrite key m (g s))))) (h : ∀ s x, (g s x).fuses = x.fuses) :
    KeepsFuses c := .of_live he fun s _ => SideState.regWrite_fuses (h s)

/-- A command that acts on a completed pair of writes. -/
theorem KeepsFuses.of_pair {c : Instr} {sd : Side} {key : Nat} {m : Master} {w : PairWrite} {g : State → Word → SideState → SideState}
    (he : ∀ s, exec c s = .next (s.side sd (fun x => x.live (fun x => x.onPair key m w (g s))))) (h : ∀ s v x, (g s v x).fuses = x.fuses) :
    KeepsFuses c := .of_live he fun s _ => SideState.onPair_fuses (h s)

/-- A side taken out of a pair. -/
theorem SideState.fuses_of_eq {α : Type} {q : SideState × α} {s z : SideState} {r : α} (hq : q.1.fuses = s.fuses) (h : q = (z, r)) :
    z.fuses = s.fuses := by
  rw [← hq, h]


/-! ### Operations of the two sides -/

theorem State.SameFuses.decided {s t : State} (h : s.SameFuses t) (sd : Side) (led : Bool) : s.SameFuses (t.decided sd led) :=
  .ite ((h.side fun _ => (SideState.unsupply_keeps _).fuses).side fun _ => (SideState.unsupply_keeps _).fuses) h

theorem State.SameFuses.lost {s t : State} (h : s.SameFuses t) (old : State) (sd : Side) : s.SameFuses (t.lost old sd) :=
  .ite (h.side SideState.lostPeer_fuses) h

theorem State.SameFuses.failUpdate {s t : State} (h : s.SameFuses t) (sd : Side) (reason : Nat) : s.SameFuses (t.failUpdate sd reason) :=
  (h.side fun x => by simp).side SideState.fallBack_fuses

theorem State.SameFuses.stepFails {s t : State} (h : s.SameFuses t) (sd : Side) (u : Update) : s.SameFuses (t.stepFails sd u) := by
  unfold State.stepFails
  dsimp only
  split
  · exact .ite (h.failUpdate sd 3) h
  · exact .ite (h.failUpdate sd 4) h
  · exact .ite h (h.failUpdate sd 2)
  · exact h.failUpdate sd 2

theorem State.SameFuses.warmTimeout {s t : State} (h : s.SameFuses t) (sd : Side) : s.SameFuses (t.warmTimeout sd) := by
  unfold State.warmTimeout
  dsimp only
  split
  · exact h
  · exact .ite (h.failUpdate sd 3) h

/-- Every step of an update but the seventh. -/
theorem State.SameFuses.stepEnds {s t : State} (h : s.SameFuses t) (sd : Side) {u : Update} (hstep : u.step ≠ 7) :
    s.SameFuses (t.stepEnds sd u) := by
  have hloaded (f : SideState → SideState) (hf : ∀ x, (f x).fuses = x.fuses) :
      s.SameFuses ((t.side sd f).side sd.peer fun y => (y.loadInactive u.image).restartInto u.image) :=
    (h.side hf).side fun y => by simp [(SideState.loadInactive_keeps ..).fuses]
  unfold State.stepEnds
  dsimp only
  split
  · exact .ite (hloaded _ fun x => by simp) h
  · exact .ite (h.side fun x => by simp) h
  · exact .ite h (.ite ((h.side fun x => by simp).failUpdate sd 2) (h.side fun x => by simp))
  · exact .ite (hloaded _ fun x => by simp) h
  · contradiction
  · exact h

theorem State.SameFuses.abandon {s t : State} (h : s.SameFuses t) (sd : Side) : s.SameFuses (t.abandon sd) := by
  unfold State.abandon
  extract_lets y left x _ cleared decided
  have hleft : s.SameFuses left := .ite (h.side fun y => SideState.live_fuses (by simp)) h
  have hdecided : decided.fuses = (left.on sd).fuses := by simp [decided, cleared, x]
  exact .ite h (hleft.put (decided.showFit_fuses.trans hdecided))

theorem State.SameFuses.fenceWrite {s t : State} (h : s.SameFuses t) (sd : Side) (m : Master) (w : PairWrite) :
    s.SameFuses (t.fenceWrite sd m w) := by
  unfold State.fenceWrite
  dsimp only
  split
  · exact h
  · split
    · rename_i hpair
      exact h.put (by simp [SideState.fuses_of_eq (SideState.pairWrite_fuses ..) hpair])
    · rename_i y v hpair
      have hy : y.fuses = (t.on sd).fuses := SideState.fuses_of_eq (SideState.pairWrite_fuses ..) hpair
      refine .ite (State.SameFuses.side (h.put ?_) fun z => by simp) (h.put ?_)
      all_goals simp [SideState.takePair, hy]

theorem State.SameFuses.startBulk {s t : State} (h : s.SameFuses t) (sd : Side) : s.SameFuses (t.startBulk sd) := by
  unfold State.startBulk
  dsimp only
  refine .ite h (.ite (h.side fun y => by simp) (.ite h ((h.side SideState.beginBulk_fuses).side fun y => ?_)))
  simp [(SideState.takeLeadRig_keeps ..).fuses]

theorem State.SameFuses.settleRecords {s t : State} (h : s.SameFuses t) (sd : Side) : s.SameFuses (t.settleRecords sd) :=
  .ite h (h.put (SideState.peerDone_fuses ..))

/-! ### Commands whose outcome is more than one operation on one side -/

theorem KeepsFuses.beatBoundary (sd : Side) : KeepsFuses (.beatBoundary sd) := by
  intro s
  refine .ite (.next (.refl s)) (.next ?_)
  have hsettled := ((State.SameFuses.refl s).put (sd := sd.peer) (SideState.holdUpEnds_keeps _).fuses).settleRecords sd
  refine State.SameFuses.warmTimeout (State.SameFuses.lost (State.SameFuses.side (State.SameFuses.abandon (hsettled.put ?_) sd)
    fun x => ?_) _ sd) sd
  · simp [(SideState.boundaryFirst_keeps ..).fuses, (SideState.tapAtBoundary_keeps ..).fuses, (SideState.compareAtBoundary_keeps ..).fuses]
  · exact (SideState.live_fuses (by simp)).trans (x.leaveAtBoundary_fuses _)

theorem KeepsFuses.commitMarker (sd : Side) : KeepsFuses (.commitMarker sd) := fun s =>
  .next ((State.SameFuses.refl s).side fun x => SideState.live_fuses (by simp [(SideState.closeCopy_keeps ..).fuses]))

theorem State.SameFuses.setCurtainN (s : State) (low : Bool) : s.SameFuses { s with curtainN := low } := by
  rintro (_ | _) <;> rfl

theorem KeepsFuses.curtainNAssert : KeepsFuses .curtainNAssert := fun s =>
  .next (((State.SameFuses.setCurtainN s true).side fun x => SideState.live_fuses (by simp)).side fun x => SideState.live_fuses (by simp))

theorem KeepsFuses.curtainNDeassert : KeepsFuses .curtainNDeassert := fun s =>
  .next (((State.SameFuses.setCurtainN s false).side fun x => SideState.live_fuses (by simp)).side fun x => SideState.live_fuses (by simp))

theorem KeepsFuses.policyInForce (sd : Side) : KeepsFuses (.policyInForce sd) := by
  intro s
  change s.LeavesFuses (execPolicyInForce sd s)
  unfold execPolicyInForce
  dsimp only
  split
  · exact .next (.refl s)
  · exact .ite (.next (.refl s)) (.next (((State.SameFuses.refl s).side fun x => by
      simp [(SideState.emitPolicy_keeps ..).fuses, (SideState.takePolicy_keeps ..).fuses]).side fun y => by
      simp [(SideState.takePolicy_keeps ..).fuses]))

theorem KeepsFuses.markerReceived (sd : Side) (bytes : List Byte) (crcOk : Bool) : KeepsFuses (.markerReceived sd bytes crcOk) := by
  intro s
  have hreceived := (State.SameFuses.refl s).side (sd := sd) (f := fun x => x.live fun x => x.receiveMarker bytes crcOk)
    fun x => SideState.live_fuses (x.receiveMarker_keeps bytes crcOk).fuses
  exact .next (.ite (hreceived.startBulk sd.peer) hreceived)

theorem KeepsFuses.takeover (sd : Side) : KeepsFuses (.takeover sd) := by
  intro s
  refine .ite (.next (.refl s)) (.ite (.next ?_) (.next ?_))
  · exact ((State.SameFuses.refl s).side fun x => x.refuseTakeover_keeps.fuses).side fun y => SideState.live_fuses (by simp)
  · refine State.SameFuses.lost (((State.SameFuses.refl s).side fun y => ?_).side fun x => ?_) s sd.peer
    · simp
    · simp [(SideState.takeLead_keeps ..).fuses]

theorem KeepsFuses.fenceSensed (sd : Side) (t10ns : Nat) : KeepsFuses (.fenceSensed sd t10ns) := by
  intro s
  refine .ite (.next (.refl s)) (.next (((State.SameFuses.refl s).side fun y => ?_).side fun x => ?_))
  · simp [(SideState.stepDown_keeps ..).fuses]
  · simp [(SideState.fenceDone_keeps ..).fuses]

theorem KeepsFuses.fenceTimeout (sd : Side) : KeepsFuses (.fenceTimeout sd) := fun s =>
  .ite (.next (.refl s)) (.next ((State.SameFuses.refl s).side fun x => by simp))

theorem KeepsFuses.bulkCopyVerified (sd : Side) : KeepsFuses (.bulkCopyVerified sd) := fun s =>
  .ite (.next (.refl s)) (.ite (.next ((State.SameFuses.refl s).side fun x => (SideState.resendRegions_keeps ..).fuses))
    (.next (((State.SameFuses.refl s).side fun x => by simp).side fun y => by simp)))

theorem KeepsFuses.swapExecute (sd : Side) : KeepsFuses (.swapExecute sd) := fun s =>
  .ite (.next (.refl s)) (.next (((State.SameFuses.refl s).side fun x => (SideState.handOver_keeps ..).fuses).side fun y =>
    (SideState.takeSwap_keeps ..).fuses))

theorem KeepsFuses.housekeepingRound (sd : Side) (readings : List HkReading) : KeepsFuses (.housekeepingRound sd readings) := by
  intro s
  have hround := (State.SameFuses.refl s).side (sd := sd) fun x => x.housekeeping_fuses readings
  exact .ite (.next (.refl s)) (.ite (.next (hround.side fun y => SideState.live_fuses (by simp))) (.next hround))

theorem KeepsFuses.analogueTrip (sd : Side) : KeepsFuses (.analogueTrip sd) := by
  intro s
  refine .ite (.next (.refl s)) (.next (State.SameFuses.lost (((State.SameFuses.refl s).side fun x => ?_).side fun y => ?_) s sd))
  · simp
  · exact SideState.live_fuses (by simp)

theorem KeepsFuses.intermissionEnter (sd : Side) (m : Master) (v : Word) : KeepsFuses (.intermissionEnter sd m v) := by
  intro s
  change s.LeavesFuses (execIntermissionEnter sd m v s)
  unfold execIntermissionEnter
  extract_lets x lead go r asked
  have hasked : s.SameFuses asked := (State.SameFuses.refl s).side fun y => SideState.live_fuses
    (SideState.regWrite_fuses fun z => by simp [(SideState.askIntermission_keeps ..).fuses])
  exact .ite (.next (hasked.side fun y => SideState.live_fuses (by simp [(SideState.askIntermission_keeps ..).fuses]))) (.next hasked)

theorem KeepsFuses.powerFail (sd : Side) : KeepsFuses (.powerFail sd) := fun s =>
  .next (State.SameFuses.lost ((State.SameFuses.refl s).side fun x => by simp) s sd)

theorem KeepsFuses.arbitration (sd : Side) (eligible : Bool) (view : ArbView) : KeepsFuses (.arbitration sd eligible view) := fun s =>
  .next (((State.SameFuses.refl s).side fun x => SideState.live_fuses (by simp)).decided _ _)

theorem KeepsFuses.arbitrationRetry (sd : Side) (eligible : Bool) (view : ArbView) :
    KeepsFuses (.arbitrationRetry sd eligible view) := fun s =>
  .next (((State.SameFuses.refl s).side fun x => SideState.live_fuses (by simp)).decided _ _)

theorem KeepsFuses.pinReset (sd : Side) : KeepsFuses (.pinReset sd) := fun s =>
  .next ((((State.SameFuses.refl s).side fun x => SideState.live_fuses (by simp)).lost s sd).side fun x => SideState.live_fuses (by simp))

theorem KeepsFuses.tileWriteDone (sd : Side) (ok : Bool) : KeepsFuses (.tileWriteDone sd ok) := by
  intro s
  change s.LeavesFuses (execTileWriteDone sd ok s)
  unfold execTileWriteDone
  dsimp only
  split
  · exact .next (.refl s)
  · rename_i img _
    have htile : s.SameFuses { s with tile := tileWith s.tile img } := by rintro (_ | _) <;> rfl
    exact .ite (.next (.refl s)) (.next (State.SameFuses.side (.ite htile (.refl s)) fun x => by simp))

theorem KeepsFuses.recordWriteDone (sd : Side) : KeepsFuses (.recordWriteDone sd) := by
  intro s
  change s.LeavesFuses (execRecordWriteDone sd s)
  unfold execRecordWriteDone
  dsimp only
  refine .ite (.next (.refl s)) ?_
  split
  · exact .next (.refl s)
  · exact .next (((State.SameFuses.refl s).side fun x => by simp).side fun y => by simp)

theorem KeepsFuses.bulkCopyStart (sd : Side) : KeepsFuses (.bulkCopyStart sd) := fun s => .next ((State.SameFuses.refl s).startBulk sd)

theorem KeepsFuses.fencePeer (sd : Side) (m : Master) (w : PairWrite) : KeepsFuses (.fencePeer sd m w) := fun s =>
  .next ((State.SameFuses.refl s).fenceWrite sd m w)

theorem KeepsFuses.unfenceSelf (sd : Side) (m : Master) (w : PairWrite) : KeepsFuses (.unfenceSelf sd m w) := fun s =>
  .next ((State.SameFuses.refl s).fenceWrite sd m w)

theorem KeepsFuses.clearingRead (sd : Side) (m : Master) (r : BusRead) : KeepsFuses (.clearingRead sd m r) := by
  intro s
  refine .ite (.next (.refl s)) (.ite (.next (.ite ((State.SameFuses.refl s).put (SideState.readRegister_keeps ..).fuses) (.refl s)))
    (.next ((State.SameFuses.refl s).side fun x => SideState.live_fuses ?_)))
  simp [(SideState.compareReads_keeps ..).fuses, (SideState.readUser_keeps ..).fuses, (SideState.readTarget_keeps ..).fuses]

/-! ### Commands of one side -/

theorem KeepsFuses.cueCheck (sd : Side) : KeepsFuses (.cueCheck sd) :=
  .of_live (fun _ => rfl) fun s x => by
    dsimp only
    split
    · rfl
    · split
      · rfl
      · split
        · simp [(SideState.checkAbort_keeps ..).fuses, (SideState.mailboxTaken_keeps ..).fuses]
        · split
          · simp [(SideState.policyWithout_keeps ..).fuses, (SideState.replyWithout_keeps ..).fuses,
              (SideState.mailboxTaken_keeps ..).fuses]
          · simp [(SideState.checkEntry_keeps ..).fuses, (SideState.mailboxTaken_keeps ..).fuses]

theorem KeepsFuses.trace (sd : Side) (entry : Nat) : KeepsFuses (.trace sd entry) :=
  .of_live (fun _ => rfl) fun s x => by
    dsimp only
    split
    · rfl
    · split
      · rfl
      · split
        · split <;> simp [(SideState.traceFails_keeps ..).fuses]
        · simp [(SideState.setTrk_keeps ..).fuses, (SideState.traceStat_keeps ..).fuses, (SideState.preCheck_keeps ..).fuses]

theorem KeepsFuses.arm (sd : Side) (entry : Nat) : KeepsFuses (.arm sd entry) :=
  .of_live (fun _ => rfl) fun s x => by
    dsimp only
    split
    · rfl
    · split <;> simp [(SideState.armEntry_keeps ..).fuses]

theorem KeepsFuses.slotEnd (sd : Side) (conv slot : Nat) (raw : Option Nat) (overload : Bool) :
    KeepsFuses (.slotEnd sd conv slot raw overload) :=
  .of_live (fun _ => rfl) fun s x => by
    dsimp only
    split
    · rfl
    · split <;> simp [(SideState.primarySlot_keeps ..).fuses, (SideState.serviceSlot_keeps ..).fuses]

theorem KeepsFuses.queueTick (sd : Side) (group : Nat) : KeepsFuses (.queueTick sd group) :=
  .of_live (fun _ => rfl) fun s x => by
    dsimp only
    split
    · rfl
    · split <;> simp

theorem KeepsFuses.complianceLoss (sd : Side) (dout : Nat) : KeepsFuses (.complianceLoss sd dout) :=
  .of_live (fun _ => rfl) fun s x => by
    split
    · rfl
    · extract_lets g i reg _ flagged counted raised dom recent f read stepped
      have hraised : raised.fuses = x.fuses := by simp [raised, counted, flagged]
      have hread : read.1.fuses = x.fuses := by
        unfold read
        split
        · exact hraised
        · exact (raised.fresh_fuses 13).trans hraised
      split
      · simp [stepped, hread]
      · exact hraised

theorem KeepsFuses.calRunStart (sd : Side) : KeepsFuses (.calRunStart sd) :=
  .of_side (fun _ => rfl) fun s x => by
    dsimp only
    split
    · rfl
    · split <;> simp

theorem KeepsFuses.calRunEnd (sd : Side) (dout : Nat) : KeepsFuses (.calRunEnd sd dout) :=
  .of_live (fun _ => rfl) fun s x => by
    dsimp only
    split
    · rfl
    · rename_i r _
      have hmeasured : (if r.job.kind = .probe then x.probeResult r (x.emptyResult r.job.dout (some r.job))
          else x.sweepResult r (x.forecastDark r.mi) (x.emptyResult r.job.dout (some r.job))).1.fuses = x.fuses := by
        split
        · exact (SideState.probeResult_keeps ..).fuses
        · exact (SideState.sweepResult_keeps ..).fuses
      simp [hmeasured, (SideState.restoreMonitor_keeps ..).fuses, (SideState.stageResult_keeps ..).fuses,
        (SideState.calStat_keeps ..).fuses]

theorem KeepsFuses.calStageExpire (sd : Side) : KeepsFuses (.calStageExpire sd) :=
  .of_live (fun _ => rfl) fun s x => by
    refine (SideState.foldl_fuses (fun y r => ?_) _ _).trans rfl
    dsimp only
    split <;> simp

theorem KeepsFuses.callSheetData (sd : Side) (m : Master) (write : Option Word) : KeepsFuses (.callSheetData sd m write) :=
  .of_live (fun _ => rfl) fun s x => by
    split
    · exact SideState.regWrite_fuses fun y => by simp
    · simp

theorem KeepsFuses.supervisionSend (sd : Side) : KeepsFuses (.supervisionSend sd) :=
  .of_live (fun _ => rfl) fun s x => by
    dsimp only
    split
    · rfl
    · refine (SideState.foldl_fuses (fun y mac => ?_) _ _).trans rfl
      split <;> simp [(SideState.forward_keeps ..).fuses]

theorem KeepsFuses.announceTimeout (sd : Side) : KeepsFuses (.announceTimeout sd) :=
  .of_side (fun _ => rfl) fun s x => by
    dsimp only
    split
    · rfl
    · split <;> simp

theorem KeepsFuses.mailboxCue (sd : Side) (m : Master) (off : Nat) (v : Word) : KeepsFuses (.mailboxCue sd m off v) :=
  .of_live (fun _ => rfl) fun s x => by
    refine (SideState.regWrite_fuses fun y => ?_).trans (x.atOffset_fuses off)
    dsimp only
    split
    · simp
    · split
      · rfl
      · split
        · simp [(SideState.mailboxDone_keeps ..).fuses]
        · split
          · rfl
          · split <;> simp [(SideState.mailboxDone_keeps ..).fuses, SideState.fuses_of_eq (SideState.intake_fuses ..) ‹_›]

theorem KeepsFuses.intermissionWake (sd : Side) (m : Master) (v : Word) (cause : Nat) : KeepsFuses (.intermissionWake sd m v cause) :=
  .of_live (fun _ => rfl) fun s x => by
    dsimp only
    split
    · exact SideState.regWrite_fuses fun y => by simp
    · simp
    · simp
    · rfl

theorem KeepsFuses.wakeStep (sd : Side) : KeepsFuses (.wakeStep sd) :=
  .of_live (fun _ => rfl) fun s x => by
    dsimp only
    split
    · rfl
    · split <;> simp [(SideState.connectFrontEnds_keeps ..).fuses, (SideState.wakeLoops_keeps ..).fuses]

theorem KeepsFuses.hostNote (sd : Side) (m : Master) (v : Word) : KeepsFuses (.hostNote sd m v) :=
  .of_write (fun _ => rfl) fun s x => by
    dsimp only
    split
    · rfl
    · split <;> simp [(SideState.log_keeps ..).fuses]

/-- The commands that touch one side (O51). -/
theorem KeepsFuses.of_not_shared {c : Instr} (hc : c.shared = false) : KeepsFuses c := by
  cases c with
  | loopWindow sd capacity =>
    exact .of_live (fun _ => rfl) fun s x => by
      simp [(SideState.calWindow_keeps ..).fuses, (SideState.cellCheck_keeps ..).fuses, (SideState.idleLanes_keeps ..).fuses,
        (SideState.pilotCollect_keeps ..).fuses, (SideState.runLoops_keeps ..).fuses]
  | sceneWindow sd heartbeat =>
    exact .of_live (fun _ => rfl) fun s x => by
      simp [(SideState.heartbeat_keeps ..).fuses, (SideState.loopOverrun_keeps ..).fuses, (SideState.physCompare_keeps ..).fuses,
        (SideState.preChecks_keeps ..).fuses, (SideState.rampWindow_keeps ..).fuses]
  | armingCutoff sd selfTestOk => exact .of_live (fun _ => rfl) fun s x => by simp [(SideState.pipelineCutoff_keeps ..).fuses]
  | commitMarker sd => exact .commitMarker sd
  | heartbeatJudge sd => exact .of_live (fun _ => rfl) fun s x => by simp [(SideState.judgeBeat_keeps ..).fuses]
  | cueFrame sd off port vid src payload =>
    exact .of_live (fun _ => rfl) fun s x => by
      dsimp only
      split <;> simp
  | fragmentTimeout sd assembly =>
    exact .of_live (fun _ => rfl) fun s x => by
      split <;> simp [(SideState.discardCue_keeps ..).fuses, (SideState.dropAssembly_keeps ..).fuses]
  | cueCheck sd => exact .cueCheck sd
  | solve sd =>
    exact .of_live (fun _ => rfl) fun s x => by
      dsimp only
      split <;> simp
  | solveDone sd memoryFault =>
    exact .of_live (fun _ => rfl) fun s x => by
      dsimp only
      split <;> simp
  | solveBudget sd =>
    exact .of_live (fun _ => rfl) fun s x => by
      dsimp only
      split <;> simp
  | rehearsalWaitExpiry sd entry => exact .of_live (fun _ => rfl) fun s x => by simp [(SideState.endCue_keeps ..).fuses]
  | curtainSolve sd memoryFault => exact .of_live (fun _ => rfl) fun s x => by simp [(SideState.solveCurtain_keeps ..).fuses]
  | trace sd entry => exact .trace sd entry
  | arm sd entry => exact .arm sd entry
  | curtainArm sd => exact .of_live (fun _ => rfl) fun s x => by simp [(SideState.armCurtain_keeps ..).fuses]
  | blankStart sd out =>
    exact .of_live (fun _ => rfl) fun s x => by
      dsimp only
      split <;> simp [(SideState.startBlank_keeps ..).fuses]
  | blankEnd sd out => exact .of_live (fun _ => rfl) fun s x => by split <;> simp [(SideState.endBlank_keeps ..).fuses]
  | handoverStall sd cell => exact .of_live (fun _ => rfl) fun s x => by split <;> simp [(SideState.stall_keeps ..).fuses]
  | scAbort sd m v => exact .of_write (fun _ => rfl) fun s x => by simp [(SideState.abortEntry_keeps ..).fuses]
  | swCurtainReq sd m v => exact .of_write (fun _ => rfl) fun s x => by simp
  | tDegExpiry sd =>
    exact .of_live (fun _ => rfl) fun s x => by
      dsimp only
      split <;> simp
  | curtainRelease sd m w => exact .of_pair (fun _ => rfl) fun s v x => by simp
  | degradedRelease sd m w k1Ok k2Ok => exact .of_pair (fun _ => rfl) fun s v x => by simp
  | policyCommit sd m w => exact .of_pair (fun _ => rfl) fun s v x => by simp
  | k1Selftest sd ok => exact .of_live (fun _ => rfl) fun s x => by simp
  | pilotBlockEnd sd => exact .of_live (fun _ => rfl) fun s x => by simp [(SideState.pilotJudge_keeps ..).fuses]
  | slotEnd sd conv slot raw overload => exact .slotEnd sd conv slot raw overload
  | bankSwitch sd => exact .of_live (fun _ => rfl) fun s x => by simp
  | slotMapSelect sd m v => exact .of_write (fun _ => rfl) fun s x => by simp
  | slotMapCommit sd m v => exact .of_write (fun _ => rfl) fun s x => by simp
  | channelSet sd m v => exact .of_write (fun _ => rfl) fun s x => by simp
  | manualWrite sd m v => exact .of_write (fun _ => rfl) fun s x => by simp [(SideState.stage_keeps ..).fuses]
  | timerArm sd m group v => exact .of_write (fun _ => rfl) fun s x => by simp
  | timerFire sd dout =>
    exact .of_live (fun _ => rfl) fun s x => by
      dsimp only
      split <;> simp
  | fifoWrite sd m group v => exact .of_write (fun _ => rfl) fun s x => by simp [(SideState.pushFifo_keeps ..).fuses]
  | queueTick sd group => exact .queueTick sd group
  | schemeChange sd m group v => exact .of_write (fun _ => rfl) fun s x => by simp
  | parkCommit sd m w => exact .of_pair (fun _ => rfl) fun s v x => by simp
  | parkApply sd => exact .of_live (fun _ => rfl) fun s x => by simp [(SideState.padsDone_keeps ..).fuses]
  | rangeChange sd m v => exact .of_write (fun _ => rfl) fun s x => by simp
  | complianceLoss sd dout => exact .complianceLoss sd dout
  | rmeasStart sd m v => exact .of_write (fun _ => rfl) fun s x => by simp
  | rmeasDone sd readings =>
    exact .of_live (fun _ => rfl) fun s x => by
      dsimp only
      split <;> simp
  | toneCommit sd m v => exact .of_write (fun _ => rfl) fun s x => by simp [(SideState.commitTone_keeps ..).fuses]
  | overrideTake sd m v => exact .of_write (fun _ => rfl) fun s x => by simp
  | overrideRelease sd m v => exact .of_write (fun _ => rfl) fun s x => by simp
  | autotuneStart sd m v => exact .of_write (fun _ => rfl) fun s x => by simp
  | autotuneTimeout sd loop =>
    exact .of_live (fun _ => rfl) fun s x => by
      split <;> simp [(SideState.endTune_keeps ..).fuses, (SideState.toLoop_keeps ..).fuses]
  | handoverRetry sd m v => exact .of_write (fun _ => rfl) fun s x => by simp
  | missRelease sd m v => exact .of_write (fun _ => rfl) fun s x => by simp
  | calReqTrim sd m v => exact .of_write (fun _ => rfl) fun s x => by simp
  | calReqSurvey sd m v => exact .of_write (fun _ => rfl) fun s x => by simp
  | calReqProbe sd m v => exact .of_write (fun _ => rfl) fun s x => by simp
  | calReqRound sd m v => exact .of_write (fun _ => rfl) fun s x => by simp
  | calPeriod sd => exact .of_side (fun _ => rfl) fun s x => by simp [(SideState.queueRound_keeps ..).fuses]
  | calRunStart sd => exact .calRunStart sd
  | calRunEnd sd dout => exact .calRunEnd sd dout
  | calCommit sd => exact .of_side (fun _ => rfl) fun s x => by simp
  | calStageExpire sd => exact .calStageExpire sd
  | ageingRecord sd => exact .of_side (fun _ => rfl) fun s x => by simp
  | rigMapCommit sd m w => exact .of_pair (fun _ => rfl) fun s v x => by simp
  | backgroundVerify sd => exact .of_live (fun _ => rfl) fun s x => by simp
  | tileReadRetry sd => exact .of_live (fun _ => rfl) fun s x => by simp
  | elementTableWrite sd m addr v => exact .of_live (fun _ => rfl) fun s x => by simp [(SideState.writeTableWord_keeps ..).fuses]
  | entryRewrite sd addr => exact .of_side (fun _ => rfl) fun s x => by simp [(SideState.rewriteEntry_keeps ..).fuses]
  | copyRecord sd bytes => exact .of_live (fun _ => rfl) fun s x => by simp
  | peerPulse sd offset width => exact .of_live (fun _ => rfl) fun s x => by simp
  | resignationPulse sd => exact .of_live (fun _ => rfl) fun s x => by simp
  | fenceTimeout sd => exact .fenceTimeout sd
  | healthReport sd w0 w1 w2 w3 => exact .of_live (fun _ => rfl) fun s x => by simp
  | bulkCopyTimeout sd => exact .of_live (fun _ => rfl) fun s x => by simp
  | swapRequest sd m w => exact .of_pair (fun _ => rfl) fun s v x => by simp
  | firmwareUpdate sd m w => exact .of_pair (fun _ => rfl) fun s v x => by simp
  | updateTrialEnd sd => exact .of_live (fun _ => rfl) fun s x => by split <;> simp
  | frameReceived sd off port fcsOk frame => exact .of_live (fun _ => rfl) fun s x => by simp [(SideState.receiveFrame_keeps ..).fuses]
  | egressStart sd off port => exact .of_live (fun _ => rfl) fun s x => by simp [(SideState.selectEgress_keeps ..).fuses]
  | transmitDone sd port eccOk =>
    exact .of_live (fun _ => rfl) fun s x => by
      dsimp only
      split <;> simp [(SideState.answerPdelay_keeps ..).fuses, (SideState.describe_keeps ..).fuses,
        (SideState.dmaTransfers_keeps ..).fuses, (SideState.offerCue_keeps ..).fuses, (SideState.offerImage_keeps ..).fuses]
  | linkChange sd port up anDone pcsSync remoteFault => exact .of_live (fun _ => rfl) fun s x => by simp
  | gateEntry sd port entry => exact .of_live (fun _ => rfl) fun s x => by simp
  | callSheetData sd m write => exact .callSheetData sd m write
  | callSheetChange sd m v => exact .of_write (fun _ => rfl) fun s x => by simp [(SideState.changeSheet_keeps ..).fuses]
  | callSheetSwitch sd port =>
    exact .of_live (fun _ => rfl) fun s x => by
      dsimp only
      split <;> simp [(SideState.checkHeads_keeps ..).fuses]
  | shaperConfig sd m burst v => exact .of_write (fun _ => rfl) fun s x => by simp [(SideState.refreshShaper_keeps ..).fuses]
  | policerEnable sd m v => exact .of_write (fun _ => rfl) fun s x => by simp
  | addressAge sd index =>
    exact .of_live (fun _ => rfl) fun s x => by
      dsimp only
      split <;> simp
  | nodeForget sd index =>
    exact .of_live (fun _ => rfl) fun s x => by
      dsimp only
      split <;> simp
  | singlePathDetect sd index =>
    exact .of_live (fun _ => rfl) fun s x => by
      dsimp only
      split <;> simp
  | supervisionSend sd => exact .supervisionSend sd
  | syncReceived sd info => exact .of_side (fun _ => rfl) fun s x => by simp
  | announceReceived sd info => exact .of_side (fun _ => rfl) fun s x => by simp
  | announceTimeout sd => exact .announceTimeout sd
  | pdelayResponse sd info => exact .of_side (fun _ => rfl) fun s x => by simp
  | holdoverEntry sd => exact .of_side (fun _ => rfl) fun s x => by simp
  | ppsInEdge sd off => exact .of_live (fun _ => rfl) fun s x => by simp
  | ppsOutEdge sd => exact .of_live (fun _ => rfl) fun s x => by simp
  | ppsOutEnd sd => exact .of_live (fun _ => rfl) fun s x => by simp
  | clockStep sd m w => exact .of_pair (fun _ => rfl) fun s v x => by simp [(SideState.stepClock_keeps ..).fuses]
  | timeSnapshot sd m v => exact .of_write (fun _ => rfl) fun s x => by simp
  | refclkFail sd => exact .of_live (fun _ => rfl) fun s x => by simp
  | rateLimitHeld sd =>
    exact .of_live (fun _ => rfl) fun s x => by
      dsimp only
      split <;> simp
  | connConfig sd m isId v => exact .of_write (fun _ => rfl) fun s x => by simp [(SideState.writeConnCfg_keeps ..).fuses]
  | expectationExpiry sd conn =>
    exact .of_live (fun _ => rfl) fun s x => by
      dsimp only
      split <;> simp [(SideState.setDeadline_keeps ..).fuses]
  | keyLoad sd m w => exact .of_pair (fun _ => rfl) fun s v x => by simp
  | keyErase sd m w => exact .of_pair (fun _ => rfl) fun s v x => by simp
  | keyDataTimeout sd => exact .of_live (fun _ => rfl) fun s x => by split <;> simp
  | mailboxCue sd m off v => exact .mailboxCue sd m off v
  | faultEvent sd source point check => exact .of_live (fun _ => rfl) fun s x => by simp [(SideState.eventOf_keeps ..).fuses]
  | faultWindowExpiry sd source => exact .of_live (fun _ => rfl) fun s x => by simp [(SideState.closeWindow_keeps ..).fuses]
  | classMapWrite sd m w =>
    exact .of_live (fun _ => rfl) fun s x => by
      have hpair := x.pairWrite_fuses 0x03054 m w
      split <;> simp_all [(SideState.writeClassMap_keeps ..).fuses]
  | majorRelease sd m w => exact .of_pair (fun _ => rfl) fun s v x => by simp [(SideState.releaseMajor_keeps ..).fuses]
  | injectionArm sd m v => exact .of_write (fun _ => rfl) fun s x => by simp [(SideState.armInjection_keeps ..).fuses]
  | injectionTimeout sd =>
    exact .of_live (fun _ => rfl) fun s x => by
      dsimp only
      split <;> simp
  | watchdogExpiry sd => exact .of_side (fun _ => rfl) fun s x => by simp
  | pendingNvmWrite sd => exact .of_live (fun _ => rfl) fun s x => by simp
  | intermissionWake sd m v cause => exact .intermissionWake sd m v cause
  | wakeStep sd => exact .wakeStep sd
  | pairTimeout sd page => exact .of_live (fun _ => rfl) fun s x => by simp
  | clearingRead sd m addr => exact .clearingRead sd m addr
  | bar2Write sd offset v => exact .of_live (fun _ => rfl) fun s x => by simp [(SideState.raiseWith_keeps ..).fuses]
  | busAccessError sd m addr width write locked burst => exact .of_live (fun _ => rfl) fun s x => by simp
  | targetTimeout sd m addr write => exact .of_live (fun _ => rfl) fun s x => by simp
  | remap sd m w => exact .of_pair (fun _ => rfl) fun s v x => by simp
  | counterSnapshot sd m v => exact .of_write (fun _ => rfl) fun s x => by simp
  | counterClear sd m v => exact .of_write (fun _ => rfl) fun s x => by simp
  | liveCounterRead sd m bar2 => exact .of_live (fun _ => rfl) fun s x => by simp [(SideState.readLive_keeps ..).fuses]
  | dumpEnable sd m v => exact .of_write (fun _ => rfl) fun s x => by simp
  | counterDump sd => exact .of_live (fun _ => rfl) fun s x => by simp
  | nvmWriteEnable sd m w => exact .of_pair (fun _ => rfl) fun s v x => by simp
  | nvmProgram sd m v => exact .of_write (fun _ => rfl) fun s x => by simp
  | nvmProgramAbort sd m v =>
    exact .of_write (fun _ => rfl) fun s x => by
      dsimp only
      split <;> simp
  | nvmProgramDone sd ok pages =>
    exact .of_live (fun _ => rfl) fun s x => by
      dsimp only
      split <;> simp
  | logProgram sd => exact .of_side (fun _ => rfl) fun s x => by simp [(SideState.programEntry_keeps ..).fuses]
  | hostNote sd m v => exact .hostNote sd m v
  | moduleRescan sd m v reads => exact .of_write (fun _ => rfl) fun s x => by simp
  | modulePoll sd reads => exact .of_side (fun _ => rfl) fun s x => by simp
  | imageFrame sd payload =>
    exact .of_side (fun _ => rfl) fun s x => by
      dsimp only
      split <;> simp
  | powerUp sd compat rolePref => exact .of_side (fun _ => rfl) fun s x => by simp
  | powerFail sd => exact .powerFail sd
  | fenceInterlockTimeout sd =>
    exact .of_live (fun _ => rfl) fun s x => by
      dsimp only
      split <;> simp
  | firmwareStart sd slot0 slot1 => exact .of_live (fun _ => rfl) fun s x => by simp
  | startOfService sd selfTestOk => exact .of_live (fun _ => rfl) fun s x => by simp [(SideState.service_keeps ..).fuses]
  | pinReset sd => exact .pinReset sd
  | pcieReset sd => exact .of_live (fun _ => rfl) fun s x => by simp
  | refclkRestored sd => exact .of_live (fun _ => rfl) fun s x => by simp
  | selfTestCycle sd item pass =>
    exact .of_live (fun _ => rfl) fun s x => by
      simp [(SideState.scrub_keeps ..).fuses, (SideState.selfItem_keeps ..).fuses]
  | heaterBackgroundReading sd dout readings => exact .of_side (fun _ => rfl) fun s x => by simp
  | analogueTripRelease sd => exact .of_side (fun _ => rfl) fun s x => by simp
  | dumpRecordDone sd => exact .of_live (fun _ => rfl) fun s x => by simp
  | pdelayRequest sd =>
    exact .of_side (fun _ => rfl) fun s x => by
      simp [(SideState.nextRedun_keeps ..).fuses, (SideState.sendPtp_keeps ..).fuses]
  | tapInstruction sd op => exact .of_side (fun _ => rfl) fun s x => by simp
  | _ => cases hc

/-! ### Writes of registers -/

/-- A register's row, where it has one, leaves the fuses. -/
def State.RowLeavesFuses (s : State) (o : Option (Host.Outcome State Fault Refusal)) : Prop := ∀ r, o = some r → s.LeavesFuses r

theorem State.RowLeavesFuses.none {s : State} : s.RowLeavesFuses none := by
  rintro _ ⟨⟩

theorem State.LeavesFuses.row {s : State} {o : Host.Outcome State Fault Refusal} (h : s.LeavesFuses o) : s.RowLeavesFuses (some o) := by
  rintro _ ⟨⟩
  exact h

theorem State.RowLeavesFuses.ite {s : State} {o p : Option (Host.Outcome State Fault Refusal)} {c : Prop} [Decidable c]
    (h : s.RowLeavesFuses o) (k : s.RowLeavesFuses p) : s.RowLeavesFuses (if c then o else p) := by
  split
  · exact h
  · exact k

/-- The row of a command that is not shared. -/
theorem State.RowLeavesFuses.exec (s : State) (c : Instr) (hc : c.shared = false := by rfl) : s.RowLeavesFuses (some (exec c s)) :=
  (KeepsFuses.of_not_shared hc s).row

theorem complementWrite_leavesFuses (sd : Side) (m : Master) (key : Nat) (v : Word) (s : State) :
    s.RowLeavesFuses (complementWrite sd m key v s) := by
  unfold complementWrite
  dsimp only
  exact .ite (.exec s (.remap ..)) <| .ite (.exec s (.classMapWrite ..)) <| .ite (.exec s (.majorRelease ..)) <|
    .ite (.exec s (.nvmWriteEnable ..)) <| .ite (.exec s (.swapRequest ..)) <| .ite (KeepsFuses.fencePeer sd m _ s).row <|
    .ite (.exec s (.firmwareUpdate ..)) <| .ite (.exec s (.degradedRelease ..)) <| .ite (.exec s (.curtainRelease ..)) <|
    .ite (.exec s (.policyCommit ..)) <| .ite (.exec s (.rigMapCommit ..)) <| .ite (.exec s (.parkCommit ..)) <|
    .ite (.exec s (.clockStep ..)) <| .ite (.exec s (.keyLoad ..)) .none

theorem rowWriteLow_leavesFuses (sd : Side) (m : Master) (key : Nat) (v : Word) (s : State) :
    s.RowLeavesFuses (rowWriteLow sd m key v s) := by
  have hintermission : s.LeavesFuses (if bitAt v.toNat 1 && !bitAt v.toNat 0 then execIntermissionWake sd m v 1 s
      else execIntermissionEnter sd m v s) :=
    .ite (KeepsFuses.of_not_shared (c := .intermissionWake sd m v 1) rfl s) (KeepsFuses.intermissionEnter sd m v s)
  have hprogram : s.LeavesFuses (if bitAt v.toNat 1 && !bitAt v.toNat 0 then execNvmProgramAbort sd m v s else execNvmProgram sd m v s) :=
    .ite (KeepsFuses.of_not_shared (c := .nvmProgramAbort sd m v) rfl s) (KeepsFuses.of_not_shared (c := .nvmProgram sd m v) rfl s)
  unfold rowWriteLow
  dsimp only
  exact .ite (.exec s (.injectionArm ..)) <| .ite hintermission.row <| .ite hprogram.row <| .ite (.exec s (.counterClear ..)) <|
    .ite (.exec s (.counterSnapshot ..)) <| .ite (.exec s (.dumpEnable ..)) <| .ite (.exec s (.hostNote ..)) <|
    .ite (.exec s (.swCurtainReq ..)) <| .ite (.exec s (.connConfig ..)) <| .ite (.exec s (.connConfig ..)) <|
    .ite (.exec s (.mailboxCue ..)) <| .ite (.exec s (.scAbort ..)) <| .ite (.exec s (.handoverRetry ..)) <|
    .ite (.exec s (.missRelease ..)) .none

theorem calRequest_leavesFuses (sd : Side) (m : Master) (v : Word) (s : State) (kind : Nat) :
    s.LeavesFuses (match kind with
      | 0 => execCalReqTrim sd m v s
      | 1 => execCalReqSurvey sd m v s
      | 2 => execCalReqProbe sd m v s
      | _ => execCalReqRound sd m v s) := by
  split
  · exact KeepsFuses.of_not_shared (c := .calReqTrim sd m v) rfl s
  · exact KeepsFuses.of_not_shared (c := .calReqSurvey sd m v) rfl s
  · exact KeepsFuses.of_not_shared (c := .calReqProbe sd m v) rfl s
  · exact KeepsFuses.of_not_shared (c := .calReqRound sd m v) rfl s

theorem rowWriteHigh_leavesFuses (sd : Side) (m : Master) (key : Nat) (v : Word) (s : State) :
    s.RowLeavesFuses (rowWriteHigh sd m key v s) := by
  have hoverride : s.LeavesFuses (if bits v.toNat 16 2 = 2 then execOverrideRelease sd m v s else execOverrideTake sd m v s) :=
    .ite (KeepsFuses.of_not_shared (c := .overrideRelease sd m v) rfl s) (KeepsFuses.of_not_shared (c := .overrideTake sd m v) rfl s)
  unfold rowWriteHigh
  dsimp only
  exact .ite (calRequest_leavesFuses sd m v s _).row <| .ite (.exec s (.manualWrite ..)) <| .ite (.exec s (.rangeChange ..)) <|
    .ite (.exec s (.toneCommit ..)) <| .ite (.exec s (.rmeasStart ..)) <| .ite (.exec s (.channelSet ..)) <|
    .ite (.exec s (.slotMapSelect ..)) <| .ite (.exec s (.slotMapCommit ..)) <| .ite hoverride.row <|
    .ite (.exec s (.autotuneStart ..)) <| .ite (.exec s (.shaperConfig ..)) <| .ite (.exec s (.shaperConfig ..)) <|
    .ite (.exec s (.policerEnable ..)) <| .ite (.exec s (.callSheetData sd m (some v))) <| .ite (.exec s (.callSheetChange ..)) <|
    .ite (.exec s (.timeSnapshot ..)) .none

theorem groupWrite_leavesFuses (sd : Side) (m : Master) (key : Nat) (v : Word) (s : State) :
    s.RowLeavesFuses (groupWrite sd m key v s) := by
  unfold groupWrite
  dsimp only
  exact .ite (.exec s (.schemeChange ..)) <| .ite (.exec s (.fifoWrite ..)) <| .ite (.exec s (.timerArm ..)) .none

theorem rowWrite_leavesFuses (sd : Side) (m : Master) (key : Nat) (v : Word) (s : State) : s.RowLeavesFuses (rowWrite sd m key v s) := by
  have hcomplement : s.RowLeavesFuses (if m = .twinCopy then none else complementWrite sd m key v s) :=
    .ite .none (complementWrite_leavesFuses sd m key v s)
  have hlow := rowWriteLow_leavesFuses sd m key v s
  have hhigh := rowWriteHigh_leavesFuses sd m key v s
  unfold rowWrite
  split
  · exact ‹_ = some _› ▸ hcomplement
  · split
    · exact ‹_ = some _› ▸ hlow
    · split
      · exact ‹_ = some _› ▸ hhigh
      · exact groupWrite_leavesFuses sd m key v s

theorem State.LeavesFuses.nextOf {s : State} {o : Host.Outcome State Fault Refusal} (h : s.LeavesFuses o) : s.SameFuses (nextOf s o) := by
  cases o with
  | next t => exact h t rfl
  | fault _ => exact .refl s
  | refused _ => exact .refl s

theorem State.SameFuses.trans {s t u : State} (h : s.SameFuses t) (k : t.SameFuses u) : s.SameFuses u :=
  fun sd => (k sd).trans (h sd)

theorem writeKey_sameFuses (sd : Side) (m : Master) (key : Nat) (v : Word) (s : State) : s.SameFuses (writeKey sd m key v s) := by
  unfold writeKey
  split
  · exact (State.SameFuses.refl s).side fun x => SideState.live_fuses (by simp)
  · split
    · exact (rowWrite_leavesFuses _ _ _ _ _ _ ‹_›).nextOf
    · exact (State.SameFuses.refl s).side fun x => SideState.live_fuses (by simp)

theorem aliasKey_sameFuses (sd : Side) (m : Master) (kind : AliasKind) (key : Nat) (v : Word) (s : State) :
    s.SameFuses (aliasKey sd m kind key v s) :=
  .ite ((State.SameFuses.refl s).side fun _ => SideState.live_fuses (SideState.regWrite_fuses fun _ => rfl)) (writeKey_sameFuses sd m key _ s)

theorem writePages_sameFuses (sd : Side) (m : Master) (addr : Nat) (v : Word) (s : State) : s.SameFuses (writePages sd m addr v s) := by
  unfold writePages
  dsimp only
  refine .ite (.refl s) ?_
  split
  · exact writeKey_sameFuses sd m _ v s
  · exact aliasKey_sameFuses sd m _ _ v s

theorem KeepsFuses.registerWrite (sd : Side) (m : Master) (addr width : Nat) (v : BusData) :
    KeepsFuses (.registerWrite sd m addr width v) := by
  intro s
  have hlow := writePages_sameFuses sd m addr v.low s
  refine .ite (.next (.refl s)) (.ite (.next ?_) (.ite (.next (.ite (hlow.trans (writePages_sameFuses sd m _ v.high _)) hlow)) (.next ?_)))
  · exact (State.SameFuses.refl s).side fun x => SideState.live_fuses (by simp)
  · exact (State.SameFuses.refl s).side fun x => SideState.live_fuses (by simp [(SideState.writeMemory_keeps ..).fuses])

theorem KeepsFuses.aliasWrite (sd : Side) (m : Master) (kind : AliasKind) (addr : Nat) (v : Word) :
    KeepsFuses (.aliasWrite sd m kind addr v) := by
  intro s
  refine .ite (.next (.refl s)) (.ite (.next ?_) (.ite (.next (.refl s)) (.next (aliasKey_sameFuses sd m kind _ v s))))
  exact (State.SameFuses.refl s).side fun x => SideState.live_fuses (by simp)

/-! ### Every command but the completion of a step of an update -/

theorem keepsFuses {c : Instr} (hc : ∀ sd ok, c ≠ .updateStepDone sd ok) : KeepsFuses c := by
  cases c with
  | beatBoundary sd => exact .beatBoundary sd
  | curtainNAssert => exact .curtainNAssert
  | curtainNDeassert => exact .curtainNDeassert
  | policyInForce sd => exact .policyInForce sd
  | markerReceived sd bytes crcOk => exact .markerReceived sd bytes crcOk
  | takeover sd => exact .takeover sd
  | fenceSensed sd t10ns => exact .fenceSensed sd t10ns
  | bulkCopyStart sd => exact .bulkCopyStart sd
  | bulkCopyVerified sd => exact .bulkCopyVerified sd
  | fencePeer sd m w => exact .fencePeer sd m w
  | unfenceSelf sd m w => exact .unfenceSelf sd m w
  | swapExecute sd => exact .swapExecute sd
  | updateStepDone sd ok => exact absurd rfl (hc sd ok)
  | housekeepingRound sd readings => exact .housekeepingRound sd readings
  | analogueTrip sd => exact .analogueTrip sd
  | intermissionEnter sd m v => exact .intermissionEnter sd m v
  | registerWrite sd m addr width v => exact .registerWrite sd m addr width v
  | aliasWrite sd m kind addr v => exact .aliasWrite sd m kind addr v
  | arbitration sd eligible view => exact .arbitration sd eligible view
  | arbitrationRetry sd eligible view => exact .arbitrationRetry sd eligible view
  | tileWriteDone sd ok => exact .tileWriteDone sd ok
  | recordWriteDone sd => exact .recordWriteDone sd
  | _ => exact .of_not_shared rfl

end Sys2Proof.Machine
end

section
/-! PROOFS. The fuses only rise (R383): the end of an update burns them, and no command lowers the minimum or clears a bit. -/

set_option Elab.async false

namespace Sys2Proof.Machine

/-- `t` has the fuses of `s` with those of the image burned, and KY_SVN shows them. -/
structure Burned (img : List Byte) (s t : SideState) : Prop where
  min : t.nvm.fuseMin = max s.nvm.fuseMin (leNat (slice img 8 2) % 64)
  revoked : t.nvm.fuseRevoked = Nat.lor s.nvm.fuseRevoked (leNat (slice img 0x1C 1) % 16)
  showsMin : t.get KY_SVN.MIN = max s.nvm.fuseMin (leNat (slice img 8 2) % 64) % 64
  showsRevoked : t.get KY_SVN.REVOKED = Nat.lor s.nvm.fuseRevoked (leNat (slice img 0x1C 1) % 16) % 16

/-- The fuses of the image burned, and nothing shown of them yet. -/
def SideState.fused (s : SideState) (img : List Byte) : SideState :=
  { s with nvm := { s.nvm with
    fuseMin := max s.nvm.fuseMin (leNat (slice img 8 2) % 64)
    fuseRevoked := Nat.lor s.nvm.fuseRevoked (leNat (slice img 0x1C 1) % 16) } }

/-- Behind KY_SVN `burn` writes only the directory's counters and TRIAL. -/
theorem SideState.burn_get (s : SideState) (img : List Byte) {f : Fld} (hcounter : pageOf f.key ≠ 0x06) (hstat : f.key ≠ NV_STAT.TRIAL.key) :
    (s.burn img).get f
      = (((s.fused img).set KY_SVN.MIN (s.fused img).nvm.fuseMin).set KY_SVN.REVOKED (s.fused img).nvm.fuseRevoked).get f := by
  have hpage : onPages (some [0x06]) (pageOf f.key) = false := by simpa [onPages] using hcounter
  unfold SideState.burn
  dsimp only
  rw [SideState.get_set_key _ _ _ _ hstat, SideState.get, (SideState.writeDirectory_keeps _ _).word f.key hpage]
  rfl

theorem SideState.burn_fuses (s : SideState) (img : List Byte) : (s.burn img).fuses
    = (max s.nvm.fuseMin (leNat (slice img 8 2) % 64), Nat.lor s.nvm.fuseRevoked (leNat (slice img 0x1C 1) % 16)) := by
  unfold SideState.burn
  dsimp only
  rw [SideState.set_fuses, SideState.writeDirectory_fuses, SideState.set_fuses, SideState.set_fuses]
  rfl

theorem SideState.fuses_eq {s : SideState} {n m : Nat} (h : s.fuses = (n, m)) : s.nvm.fuseMin = n ∧ s.nvm.fuseRevoked = m := Prod.mk.inj h

theorem SideState.burn_burned (s : SideState) (img : List Byte) : Burned img s (s.burn img) := by
  obtain ⟨hmin, hrevoked⟩ := SideState.fuses_eq (s.burn_fuses img)
  refine ⟨hmin, hrevoked, ?_, ?_⟩
  · rw [s.burn_get img (by decide) (by decide), SideState.get_set_apart _ _ _ _ (by decide) (by decide),
      SideState.get_set_self _ KY_SVN.MIN _ (by decide)]
    rfl
  · rw [s.burn_get img (by decide) (by decide), SideState.get_set_self _ _ _ (by decide)]
    rfl

theorem Burned.of_fuses {img : List Byte} {s t u : SideState} (h : Burned img t u) (hfuses : t.fuses = s.fuses) : Burned img s u := by
  obtain ⟨hmin, hrevoked⟩ := SideState.fuses_eq hfuses
  exact ⟨hmin ▸ h.min, hrevoked ▸ h.revoked, hmin ▸ h.showsMin, hrevoked ▸ h.showsRevoked⟩

theorem Burned.interrupt {img : List Byte} {s t : SideState} (h : Burned img s t) : Burned img s t.interrupt := by
  refine ⟨?_, ?_, ?_, ?_⟩
  · rw [t.interrupt_nvm, h.min]
  · rw [t.interrupt_nvm, h.revoked]
  · rw [t.interrupt_get, h.showsMin]
  · rw [t.interrupt_get, h.showsRevoked]

/-! ### The end of step 7 -/

theorem exec_updateStepDone_of_step {sd : Side} {u : Update} {s : State} (halive : (s.on sd).alive = true) (hleads : (s.on sd).leads = true)
    (hupdate : (s.on sd).twin.update = some u) : exec (.updateStepDone sd true) s = .next (s.stepEnds sd u) := by
  change execUpdateStepDone sd true s = _
  simp [execUpdateStepDone, halive, hleads, hupdate]

theorem State.stepEnds_seven {sd : Side} {u : Update} {s : State} (hstep : u.step = 7) (hfit : (s.on sd).peerFit = true) :
    s.stepEnds sd u = (s.side sd (fun x => ({ x with twin := { x.twin with update := none } }.showStep 8 0).burn u.image)).side sd.peer
      (fun y => y.live (fun y => y.burn u.image)) := by
  simp [State.stepEnds, hstep, hfit]

theorem State.on_side_of_peer (s : State) (sd : Side) (f : SideState → SideState) : (s.side sd.peer f).on sd = s.on sd := by
  cases sd <;> exact s.on_side_peer _ f

theorem State.stepEnds_burned {sd : Side} {u : Update} {s : State} (hstep : u.step = 7) (hfit : (s.on sd).peerFit = true) :
    Burned u.image (s.on sd) ((s.stepEnds sd u).on sd) := by
  rw [State.stepEnds_seven hstep hfit, State.on_side_of_peer, State.on_side]
  exact ((SideState.burn_burned _ _).of_fuses (by simp [(SideState.showStep_keeps ..).fuses])).interrupt

theorem State.stepEnds_peer {sd : Side} {u : Update} {s : State} (hstep : u.step = 7) (hfit : (s.on sd).peerFit = true) :
    (s.stepEnds sd u).on sd.peer = ((s.on sd.peer).live (·.burn u.image)).interrupt := by
  rw [State.stepEnds_seven hstep hfit, State.on_side, State.on_side_peer]

theorem State.stepEnds_peer_burned {sd : Side} {u : Update} {s : State} (hstep : u.step = 7) (hfit : (s.on sd).peerFit = true)
    (halive : (s.on sd.peer).alive = true) : Burned u.image (s.on sd.peer) ((s.stepEnds sd u).on sd.peer) := by
  rw [State.stepEnds_peer hstep hfit, SideState.live_of_alive _ _ halive]
  exact (SideState.burn_burned _ _).interrupt

/-! ### No command lowers the fuses -/

/-- The minimum of `t` is no lower than that of `s`, and `t` has every revoked bit of `s`. -/
def SideState.fusesRise (s t : SideState) : Prop :=
  s.nvm.fuseMin ≤ t.nvm.fuseMin ∧ Nat.lor s.nvm.fuseRevoked t.nvm.fuseRevoked = t.nvm.fuseRevoked

theorem SideState.fusesRise_of_fuses {s t : SideState} (h : t.fuses = s.fuses) : s.fusesRise t := by
  obtain ⟨hmin, hrevoked⟩ := SideState.fuses_eq h
  exact ⟨Nat.le_of_eq hmin.symm, by rw [hrevoked]; exact Nat.or_self _⟩

theorem Burned.fusesRise {img : List Byte} {s t : SideState} (h : Burned img s t) : s.fusesRise t :=
  ⟨h.min ▸ Nat.le_max_left .., by rw [h.revoked]; exact (Nat.or_assoc ..).symm.trans (congrArg (Nat.lor · _) (Nat.or_self _))⟩

theorem State.stepEnds_fusesRise {sd : Side} {u : Update} {s : State} (hstep : u.step = 7) (sd' : Side) :
    (s.on sd').fusesRise ((s.stepEnds sd u).on sd') := by
  cases hfit : (s.on sd).peerFit with
  | false =>
    have hstays : s.stepEnds sd u = s := by simp [State.stepEnds, hstep, hfit]
    exact SideState.fusesRise_of_fuses (by rw [hstays])
  | true =>
    obtain rfl | rfl : sd' = sd ∨ sd' = sd.peer := by cases sd <;> cases sd' <;> simp [Side.peer]
    · exact (State.stepEnds_burned hstep hfit).fusesRise
    · by_cases halive : (s.on sd.peer).alive = true
      · exact (State.stepEnds_peer_burned hstep hfit halive).fusesRise
      · refine SideState.fusesRise_of_fuses ?_
        rw [State.stepEnds_peer hstep hfit, SideState.interrupt_fuses, SideState.live, if_neg halive]

theorem exec_updateStepDone_fusesRise {sd : Side} {ok : Bool} {s t : State} (h : exec (.updateStepDone sd ok) s = .next t) (sd' : Side) :
    (s.on sd').fusesRise (t.on sd') := by
  change execUpdateStepDone sd ok s = .next t at h
  unfold execUpdateStepDone at h
  dsimp only at h
  split at h
  · cases h
    exact SideState.fusesRise_of_fuses rfl
  · split at h
    · cases h
      exact SideState.fusesRise_of_fuses rfl
    · rename_i u _
      cases h
      cases ok with
      | false => exact SideState.fusesRise_of_fuses ((State.SameFuses.refl s).stepFails sd u sd')
      | true =>
        by_cases hstep : u.step = 7
        · exact State.stepEnds_fusesRise hstep sd'
        · exact SideState.fusesRise_of_fuses ((State.SameFuses.refl s).stepEnds sd hstep sd')

/-- No command lowers the minimum of a side or clears a bit of its revoked keys (R383). -/
theorem exec_fusesRise {c : Instr} {s t : State} (h : exec c s = .next t) (sd : Side) : (s.on sd).fusesRise (t.on sd) := by
  by_cases hc : ∃ sd' ok, c = .updateStepDone sd' ok
  · obtain ⟨sd', ok, rfl⟩ := hc
    exact exec_updateStepDone_fusesRise h sd
  · exact SideState.fusesRise_of_fuses (keepsFuses (fun sd' ok he => hc ⟨sd', ok, he⟩) s t h sd)

end Sys2Proof.Machine
end

section
/-! PROOFS. What the events of a side leave of NV_STAT, TW_UPD_STAT and a running update, whatever the collector makes of them, the safe
state included (R299 to R306). -/

set_option Elab.async false

namespace Sys2Proof.Machine

/-- The registers that show the slot in use and the step of an update. -/
def statusKeys : List Nat := [NV_STAT.ACTIVE.key, TW_UPD_STAT.STEP.key]

/-- NV_STAT, TW_UPD_STAT and the update are in `t` as in `s`. -/
structure Unmoved (s t : SideState) : Prop where
  word : ∀ k ∈ statusKeys, t.word k = s.word k
  update : t.twin.update = s.twin.update

theorem Unmoved.get {s t : SideState} (h : Unmoved s t) (f : Fld) (hf : f.key ∈ statusKeys := by decide) : t.get f = s.get f := by
  rw [SideState.get, SideState.get, h.word _ hf]

theorem Unmoved.refl (s : SideState) : Unmoved s s := ⟨fun _ _ => rfl, rfl⟩

theorem Unmoved.trans {s t u : SideState} (h : Unmoved s t) (k : Unmoved t u) : Unmoved s u :=
  ⟨fun key hkey => (k.word key hkey).trans (h.word key hkey), k.update.trans h.update⟩

theorem Unmoved.ite {s t u : SideState} {c : Prop} [Decidable c] (h : Unmoved s t) (k : Unmoved s u) : Unmoved s (if c then t else u) := by
  split
  · exact h
  · exact k

theorem Unmoved.set {s t : SideState} (h : Unmoved s t) {f : Fld} (v : Nat) (hf : statusKeys.contains f.key = false := by decide) :
    Unmoved s (t.set f v) := by
  refine h.trans ⟨fun key hkey => t.word_set_ne f v key ?_, rfl⟩
  rintro rfl
  simp_all

/-- A field of a register's banks. -/
theorem Unmoved.set_bank {s t : SideState} (h : Unmoved s t) {f : Fld} (bank v : Nat)
    (hf : statusKeys.all (fun k => k % bankUnit != f.key % bankUnit) = true := by decide) : Unmoved s (t.set (f.bank bank) v) := by
  refine h.set v ?_
  simp only [List.all_eq_true, bne_iff_ne] at hf
  simpa using fun hmem => hf _ hmem (bank_key_mod f bank)

theorem Unmoved.setB {s t : SideState} (h : Unmoved s t) {f : Fld} (b : Bool) (hf : statusKeys.contains f.key = false := by decide) :
    Unmoved s (t.setB f b) := h.set _ hf

theorem Unmoved.bump {s t : SideState} (h : Unmoved s t) {f : Fld} (n : Nat) (hf : statusKeys.contains f.key = false := by decide) :
    Unmoved s (t.bump f n) := h.set _ hf

theorem Unmoved.evt {s t : SideState} (h : Unmoved s t) {page bit : Nat}
    (hf : statusKeys.contains (evtBit page bit).key = false := by decide) : Unmoved s (t.evt page bit) := h.set _ hf

theorem Unmoved.twin {s t : SideState} (h : Unmoved s t) {w : TwinState} (hupdate : w.update = t.twin.update) :
    Unmoved s { t with twin := w } := h.trans ⟨fun _ _ => rfl, hupdate⟩

theorem Unmoved.fault {s t : SideState} (h : Unmoved s t) {f : FaultState} :
    Unmoved s { t with fault := f } := h.trans ⟨fun _ _ => rfl, rfl⟩

/-- An operation that keeps the twin link, its page and that of the NVM. -/
theorem Unmoved.keeps {s t u : SideState} (h : Unmoved s t) {P : List Nat} {E : List Part} (hk : Keeps (some P) E t u)
    (hnvm : P.contains 0x05 = false := by decide) (htwin : P.contains 0x08 = false := by decide)
    (hpart : E.contains .twin = false := by decide) : Unmoved s u := by
  refine h.trans ⟨fun key hkey => hk.word key ?_, congrArg TwinState.update (hk.part .twin hpart)⟩
  obtain rfl | rfl : key = NV_STAT.ACTIVE.key ∨ key = TW_UPD_STAT.STEP.key := by simpa [statusKeys] using hkey
  · exact hnvm
  · exact htwin

/-! ### The log -/

theorem SideState.placeEntry_unmoved (s : SideState) (kind code flags count : Nat) (detail : List Byte) :
    Unmoved s (s.placeEntry kind code flags count detail) :=
  .ite ((Unmoved.fault (.refl s)).set _) ((((Unmoved.refl s).bump 1).evt).fault)

theorem SideState.log_unmoved (s : SideState) (kind code flags count : Nat) (detail : List Byte) :
    Unmoved s (s.log kind code flags count detail) := .ite (.refl s) (s.placeEntry_unmoved ..)

theorem SideState.logFault_unmoved (s : SideState) (src cls : Nat) (inj : Bool) (count : Nat) (detail : List Byte) :
    Unmoved s (s.logFault src cls inj count detail) := by
  unfold SideState.logFault
  extract_lets safe flags logged
  have hlogged : Unmoved s logged := .ite (s.placeEntry_unmoved ..) (s.log_unmoved ..)
  exact .ite hlogged (((((hlogged.set _).set _).setB _).setB _).set _)

/-! ### Roles, fences and resignation -/

theorem SideState.enterRole_unmoved (s : SideState) (role : Nat) : Unmoved s (s.enterRole role) := by
  unfold SideState.enterRole
  extract_lets entered cold alone _ quiet
  have hentered : Unmoved s entered := (Unmoved.refl s).set _
  have hcold : Unmoved s cold := .ite hentered ((hentered.set _).set _)
  have halone : Unmoved s alone := (Unmoved.ite hcold (hcold.set _)).set _
  have hquiet : Unmoved s quiet := halone.twin rfl
  exact .ite (.refl s) (hquiet.trans (log_unmoved ..))

theorem SideState.halt_unmoved (s : SideState) : Unmoved s s.halt :=
  ((s.enterRole_unmoved 0).set (f := SW_STAT.ALIVE_RUN) 0).trans ⟨fun _ _ => rfl, rfl⟩

theorem SideState.fenceSelf_unmoved (s : SideState) : Unmoved s s.fenceSelf := by
  unfold SideState.fenceSelf
  extract_lets idle _ _ fenced
  have hidle : Unmoved s idle := ((Unmoved.refl s).set _).set _
  have hfenced : Unmoved s fenced := (hidle.set _).twin rfl
  exact .ite (hfenced.trans fenced.halt_unmoved) hfenced

theorem SideState.resignPulse_unmoved (s : SideState) :
    Unmoved s s.resignPulse := ((Unmoved.refl s).set (f := FC_STAT.RESIGN_PEND) 0).twin rfl

theorem SideState.resignOnce_unmoved (s : SideState) : Unmoved s s.resignOnce.1 := by
  unfold SideState.resignOnce
  split
  · exact .ite (.refl s) s.fenceSelf_unmoved
  · exact .ite s.resignPulse_unmoved (s.resignPulse_unmoved.trans (fenceSelf_unmoved _))

theorem SideState.enterMajor_unmoved (s : SideState) (src : Nat) : Unmoved s (s.enterMajor src) := by
  unfold SideState.enterMajor
  extract_lets _ noted slow named shown
  have hnoted : Unmoved s noted := (Unmoved.refl s).fault
  have hshown : Unmoved s shown := ((((hnoted.set _).set _).set _).bump 1).set _
  exact .ite (hnoted.bump 1) (.ite (.ite (hshown.twin rfl) ((hshown.set (f := FC_STAT.RESIGN_PEND) 1).twin rfl)) (hshown.set 0))

/-! ### The collector -/

theorem SideState.react_unmoved (s : SideState) (src cls : Nat) : Unmoved s (s.react src cls).1 := by
  have htop : Unmoved s (s.topClass cls) := (Unmoved.refl s).keeps (s.topClass_keeps cls)
  unfold SideState.react
  dsimp only
  split
  · exact .refl s
  · split
    · exact htop
    · split
      · exact htop.evt.twin rfl
      · split
        · exact htop.evt.trans (enterMajor_unmoved ..)
        · refine .trans ?_ (resignOnce_unmoved _)
          exact (htop.set (f := SW_STAT.ALIVE_RUN) 0).twin rfl

theorem SideState.countEvent_unmoved (s : SideState) (src : Nat) (inj : Bool) (detail : List Byte) :
    Unmoved s (s.countEvent src inj detail).1 := by
  unfold SideState.countEvent
  extract_lets n c opened noted
  have hopened : Unmoved s opened := .ite ((Unmoved.refl s).keeps (s.openWindow_keeps src)) (.refl s)
  have hnoted : Unmoved s noted := .ite (hopened.trans (logFault_unmoved ..)) hopened
  split
  · exact hnoted.set_bank _ _
  · exact ((hnoted.trans (logFault_unmoved ..)).keeps (SideState.closeWindow_keeps ..)).trans (react_unmoved ..)

theorem SideState.safeState_unmoved (s : SideState) (src : Nat) (inj : Bool) (detail : List Byte) :
    Unmoved s (s.safeState src inj detail).1 :=
  (((s.logFault_unmoved src 3 inj 1 detail).set _).set _).trans (resignOnce_unmoved _)

theorem SideState.logInjected_unmoved (s : SideState) (src : Nat) : Unmoved s (s.logInjected src) :=
  (((Unmoved.refl s).keeps (s.count_keeps 120 1)).set_bank _ _).trans (logFault_unmoved ..)

theorem SideState.mapRead_unmoved (s : SideState) : Unmoved s s.mapRead := by
  unfold SideState.mapRead
  split
  · exact .refl s
  · exact ((((Unmoved.refl s).set 1).keeps (SideState.consumeInjection_keeps ..)).keeps (SideState.showInjected_keeps _)).trans
      (logInjected_unmoved ..)

/-- An answer of a check and, where it says so, one more operation. -/
theorem Unmoved.orElse {s : SideState} {q : SideState × Bool} {g : SideState → SideState} :
    Unmoved s q.1 → (∀ x, Unmoved x (g x)) → Unmoved s (match q with
      | (t, false) => t
      | (t, true) => g t) := by
  intro h hg
  obtain ⟨t, b⟩ := q
  cases b with
  | false => exact h
  | true => exact h.trans (hg t)

theorem SideState.collect_unmoved (fuel : Nat) (s : SideState) (src : Nat) (inj : Bool) (detail : List Byte) :
    Unmoved s (s.collect fuel src inj detail) := by
  induction fuel generalizing s src inj detail with
  | zero => exact .refl s
  | succ fuel ih =>
    unfold SideState.collect
    extract_lets shown compared counted
    have hshown : Unmoved s shown := .ite (.refl s) ((Unmoved.refl s).keeps (s.showReal_keeps src))
    have hcompared : Unmoved s compared := by
      refine Unmoved.orElse (g := fun x => x.collect fuel 0xF0 false (leBytes 4 x.off)) ?_ fun x => ih ..
      split
      · exact hshown
      · exact hshown.keeps (shown.compareEntry_keeps src)
    have hcounted : Unmoved s counted := (hcompared.keeps (SideState.count_keeps ..)).set_bank _ _
    refine Unmoved.orElse (g := fun x => x.collect fuel 0x8A false (leBytes 4 x.off)) ?_ fun x => ih ..
    split
    · exact hcounted.trans (safeState_unmoved ..)
    · exact (hcounted.trans (mapRead_unmoved _)).trans (countEvent_unmoved ..)

theorem SideState.reportDrops_unmoved (s : SideState) : Unmoved s s.reportDrops :=
  .ite (Unmoved.trans ((Unmoved.refl s).fault) (collect_unmoved ..)) (.refl s)

theorem SideState.raise_unmoved (s : SideState) (src : Nat) : Unmoved s (s.raise src) :=
  .ite (.refl s) ((s.collect_unmoved ..).trans (reportDrops_unmoved _))

theorem SideState.raiseIf_unmoved (s : SideState) (b : Bool) (src : Nat) : Unmoved s (s.raiseIf b src) :=
  .ite (s.raise_unmoved src) (.refl s)

end Sys2Proof.Machine
end

section
/-! PROOFS. The fuses only rise (R383): an image below the minimum is refused at an update, and the boot ROM starts none. -/

set_option Elab.async false

namespace Sys2Proof.Machine

/-! ### A refused update -/

/-- The refusal of an image that lies below the minimum. -/
theorem imageReject_ne_zero {keys : List (Nat × Nat)} {img : List Byte} {min revoked : Nat} (h : leNat (slice img 8 2) < min) :
    imageReject keys img min revoked ≠ 0 := fun hzero => Nat.not_le_of_lt h (le_of_imageReject_eq_zero hzero)

theorem SideState.showStep_get (s : SideState) (step reason : Nat) :
    (s.showStep step reason).get TW_UPD_STAT.STEP = step % 16 ∧ (s.showStep step reason).get TW_UPD_STAT.REASON = reason % 16 := by
  have hlogged : Unmoved (((s.set TW_UPD_STAT.STEP step).set TW_UPD_STAT.REASON reason)) (s.showStep step reason) :=
    ((Unmoved.refl _).evt).trans (SideState.log_unmoved ..)
  constructor
  · rw [hlogged.get TW_UPD_STAT.STEP, SideState.get_set_apart _ _ _ _ (by decide) (by decide), SideState.get_set_self _ _ _ (by decide)]
    rfl
  · rw [hlogged.get TW_UPD_STAT.REASON, SideState.get_set_self _ _ _ (by decide)]
    rfl

/-- A failed update is over, and TW_UPD_STAT shows FAILED and why (R245). -/
theorem SideState.failUpdate_shows (s : SideState) (reason : Nat) : (s.failUpdate reason).twin.update = none
    ∧ (s.failUpdate reason).get TW_UPD_STAT.STEP = 15 ∧ (s.failUpdate reason).get TW_UPD_STAT.REASON = reason % 16 := by
  have hraised := SideState.raise_unmoved (({ s with twin := { s.twin with update := none } }).showStep 15 reason) 0x8B
  obtain ⟨hstep, hreason⟩ := SideState.showStep_get { s with twin := { s.twin with update := none } } 15 reason
  refine ⟨hraised.update.trans ?_, (hraised.get _).trans hstep, (hraised.get _).trans hreason⟩
  exact congrArg TwinState.update ((SideState.showStep_keeps _ 15 reason).part .twin rfl)

/-- An image below the minimum is refused at an update (R383). -/
theorem SideState.startUpdate_of_below {y p : SideState} (hrom : y.nvm.bootRom = false) (hidle : y.twin.update = none)
    (hleads : y.leads = true) (halive : p.alive = true) (hunder : p.isUnderstudy = true) (hfirmware : p.power.firmware = true)
    (hbelow : leNat (slice y.updateImage 8 2) < y.nvm.fuseMin) :
    y.startUpdate p = ((y.checkImage y.updateImage).1.raise 0xA6).failUpdate 1 := by
  have hreject : (y.checkImage y.updateImage).2 ≠ 0 := imageReject_ne_zero hbelow
  unfold SideState.startUpdate
  simp [hrom, hidle, hleads, halive, hunder, hfirmware, hreject]

theorem exec_firmwareUpdate_of_holds {sd : Side} {m : Master} {v : Word} {s : State} (hholds : (s.on sd).holds m 0x08088 v = true)
    (hgo : v.toNat % 2 = 1) : exec (.firmwareUpdate sd m (.complement (~~~v))) s
      = .next (s.put sd (((s.on sd).paired m 0x08088 v).startUpdate (s.on sd.peer)).interrupt) := by
  change execFirmwareUpdate sd m (.complement (~~~v)) s = _
  rw [execFirmwareUpdate, State.side, SideState.live_onPair _ _ _ _ _ hholds (by decide), if_pos hgo]

/-! ### The start of the firmware -/

/-- Parts of the side other than its registers and its twin link replaced. -/
theorem Unmoved.parts {s t u : SideState} (h : Unmoved s t) (hside : u.side = t.side := by rfl) (hregs : u.regs = t.regs := by rfl)
    (htwin : u.twin = t.twin := by rfl) : Unmoved s u :=
  h.trans ⟨fun k _ => by rw [SideState.word, SideState.word, hside, hregs], congrArg TwinState.update htwin⟩

theorem SideState.loadCurtain_unmoved (s : SideState) : Unmoved s s.loadCurtain := by
  unfold SideState.loadCurtain
  extract_lets r loaded flagged
  clear_value r
  have hloaded : Unmoved s loaded := by
    cases r with
    | some b => exact (Unmoved.refl s).keeps (s.wrBytes_keeps (slotBase 255) (b.take 0x2000))
    | none => exact s.raise_unmoved 0xA3
  have hflagged : Unmoved s flagged := (hloaded.keeps (SideState.setFlag_keeps ..)).keeps (SideState.setFlag_keeps ..)
  clear_value flagged
  exact hflagged.parts

theorem SideState.parkAtStart_unmoved (s : SideState) : Unmoved s s.parkAtStart := by
  unfold SideState.parkAtStart
  extract_lets b written
  have hwritten : Unmoved s written := (Unmoved.refl s).keeps (s.wrBytes_keeps parkBase b)
  clear_value written
  exact .ite hwritten.parts ((s.raiseIf_unmoved ..).trans (raise_unmoved ..))

theorem SideState.calAtStart_unmoved (s : SideState) : Unmoved s s.calAtStart := by
  unfold SideState.calAtStart
  extract_lets _ noted
  have hnoted : Unmoved s noted := (Unmoved.refl s).parts
  clear_value noted
  split
  · rename_i b _
    have hloaded : Unmoved s (noted.loadCal b).restoreAges := (hnoted.keeps (noted.loadCal_keeps b)).keeps (restoreAges_keeps _)
    exact .ite (.ite (hloaded.set _) (hloaded.set _)) (hnoted.set _)
  · exact (hnoted.trans (noted.raise_unmoved 0xA3)).set _

theorem Unmoved.foldl {α : Type} {g : SideState → α → SideState} (hg : ∀ x a, Unmoved x (g x a)) (l : List α) (s : SideState) :
    Unmoved s (l.foldl g s) := by
  induction l generalizing s with
  | nil => exact .refl s
  | cons a l ih => exact (hg s a).trans (ih (g s a))

theorem SideState.setSerial_unmoved (s : SideState) (b : List Byte) : Unmoved s (s.setSerial RG_NVSER.SERIAL b) := by
  refine Unmoved.foldl (fun x i => (Unmoved.refl x).set _ ?_) _ s
  have hpage : 0x0F000 ≤ (RG_NVSER.SERIAL.nth i).key := Nat.le_add_right 0x0F000 _
  have hbefore : ∀ k ∈ statusKeys, k < 0x0F000 := by decide
  simpa using fun hmem => Nat.not_lt_of_le hpage (hbefore _ hmem)

theorem SideState.understudyRecords_unmoved (s : SideState) : Unmoved s s.understudyRecords := by
  unfold SideState.understudyRecords
  split
  · exact .refl s
  · split
    · rename_i img _
      have hrig : Unmoved s (s.rigInForce img) := (Unmoved.refl s).keeps (s.rigInForce_keeps img)
      have hserial := hrig.trans (setSerial_unmoved _ (rigSerial img))
      exact (hserial.trans (parkAtStart_unmoved _)).trans (calAtStart_unmoved _)
    · exact s.raise_unmoved 0xA3

theorem SideState.recordsAtStart_unmoved (s : SideState) : Unmoved s s.recordsAtStart :=
  (s.raiseIf_unmoved ..).trans (SideState.raiseIf_unmoved ..)

/-- The slot that `runFirmware` starts is the one that NV_STAT shows (R380). -/
theorem SideState.runFirmware_active (s : SideState) {slot : Nat} (hslot : slot < 2) (fallback trial : Bool) :
    (s.runFirmware slot fallback trial).get NV_STAT.ACTIVE = slot := by
  unfold SideState.runFirmware
  extract_lets remapped chosen versions copied running clocked _ _ started logged
  have hchosen : chosen.get NV_STAT.ACTIVE = slot := by
    change (((remapped.set NV_STAT.ACTIVE slot).set NV_STAT.TRIAL _).set NV_STAT.FALLBACK _).get NV_STAT.ACTIVE = slot
    rw [SideState.get_set_apart _ _ _ _ (by decide) (by decide), SideState.get_set_apart _ _ _ _ (by decide) (by decide),
      SideState.get_set_self _ _ _ (by decide)]
    exact Nat.mod_eq_of_lt hslot
  have hversions : versions.get NV_STAT.ACTIVE = slot := by
    unfold versions
    rw [SideState.get_set_key _ _ _ _ (by decide), SideState.get_set_apart _ _ _ _ (by decide) (by decide), hchosen]
  clear_value versions
  have hrunning : Unmoved versions running :=
    (((((Unmoved.refl versions).set _).set _).set _).set _).keeps (SideState.runConverters_keeps ..)
  have hclocked : Unmoved versions clocked := (hrunning.set _).keeps (SideState.loadMac_keeps _)
  clear_value clocked
  have hlogged : Unmoved versions logged := Unmoved.trans (t := started) hclocked.parts (log_unmoved ..)
  have hend := ((hlogged.trans logged.loadCurtain_unmoved).trans (understudyRecords_unmoved _)).trans (recordsAtStart_unmoved _)
  rw [hend.get NV_STAT.ACTIVE, hversions]

/-- Where the firmware starts, the slot it runs lies at the minimum or above (R383). -/
theorem Booted.le_imageSvn {s t : SideState} (h : Booted s t) (hbefore : s.power.firmware = false) (hafter : t.power.firmware = true) :
    s.nvm.fuseMin ≤ s.imageSvn (t.get NV_STAT.ACTIVE) := by
  obtain ⟨y, -, hpower, rfl⟩ | ⟨y, n, fallback, trial, -, hn, hsvn, rfl⟩ := h
  · have hrom : y.stayInRom.power = y.power := y.stayInRom_keeps.part .power rfl
    rw [hrom, hpower, hbefore] at hafter
    cases hafter
  · rwa [y.runFirmware_active hn]

theorem exec_firmwareStart_le_imageSvn {sd : Side} {slot0 slot1 : SlotCheck} {s t : State}
    (h : exec (.firmwareStart sd slot0 slot1) s = .next t) (hbefore : (s.on sd).power.firmware = false)
    (hafter : (t.on sd).power.firmware = true) :
    (s.on sd).nvm.fuseMin ≤ (s.on sd).imageSvn ((t.on sd).get NV_STAT.ACTIVE) := by
  change execFirmwareStart sd slot0 slot1 s = .next t at h
  cases h
  rw [State.on_side, SideState.interrupt_power] at hafter
  rw [State.on_side, SideState.interrupt_get]
  unfold SideState.live at hafter ⊢
  dsimp only at hafter ⊢
  split at hafter
  · split at hafter
    · rw [hbefore] at hafter
      cases hafter
    · rw [if_pos ‹_›, if_neg ‹_›]
      exact ((s.on sd).bootSlots_booted slot0 slot1).le_imageSvn hbefore hafter
  · rw [hbefore] at hafter
    cases hafter

/-- Settles O56: `burn` raises the fuses and shows them (`Burned`); every other command leaves them (`keepsFuses`), and so none lowers
them; the refusals at an update and at boot both rest on `imageReject`. -/
theorem fusesOnlyRise : Obligations.FusesOnlyRise := by
  refine ⟨?_, fun c sd s t h => exec_fusesRise h sd, ?_, fun sd slot0 slot1 s t => exec_firmwareStart_le_imageSvn⟩
  · intro sd u s x y svn rev halive hleads hupdate hstep hfit hpeer
    obtain ⟨hmin, hrevoked, hshowsMin, hshowsRevoked⟩ := State.stepEnds_burned hstep hfit
    obtain ⟨hmin', hrevoked', hshowsMin', hshowsRevoked'⟩ := State.stepEnds_peer_burned hstep hfit hpeer
    exact ⟨_, exec_updateStepDone_of_step halive hleads hupdate, hmin, hrevoked, hshowsMin, hshowsRevoked, hmin', hrevoked', hshowsMin',
      hshowsRevoked'⟩
  · intro sd m v s y p hholds hgo hrom hidle hleads halive hunder hfirmware hbelow
    refine ⟨_, exec_firmwareUpdate_of_holds hholds hgo, ?_⟩
    rw [State.on_put, SideState.interrupt_twin, SideState.interrupt_get, SideState.interrupt_get,
      SideState.startUpdate_of_below hrom hidle hleads halive hunder hfirmware hbelow]
    exact SideState.failUpdate_shows _ 1

end Sys2Proof.Machine
end
